-- ==== Sys2Proof/Word.lean ====
section
/-!
DEFINITION. The words of the KSG-40A and the plainest arithmetic on them: general registers of 64 bits
(R9), vector registers of 128 bits (R9), bytes in little-endian order (R4), the bit-field and extension
helpers of R9.
-/

namespace Sys2Proof

/-- A general register, a CSR or a 64-bit word of memory (R9). -/
abbrev Word := BitVec 64

/-- One byte of memory (R4). -/
abbrev Byte := BitVec 8

/-- A vector register (R9, R232). -/
abbrev VWord := BitVec 128

/-- The number of a general register (R9). -/
abbrev Reg := BitVec 5

/-- The number of a vector register (R232). -/
abbrev VReg := BitVec 6

/-- `Bits(e, h, l)` of R9, on a natural number: bits `[h:l]` as an unsigned integer. -/
def bitsOf (e h l : Nat) : Nat := (e >>> l) % 2 ^ (h + 1 - l)

/-- Bits `[h:l]` of a word, as an unsigned integer (R9). -/
def wbits (w : Word) (h l : Nat) : Nat := bitsOf w.toNat h l

/-- Bit `i` of a word. -/
def wbit (w : Word) (i : Nat) : Bool := w.toNat.testBit i

/-- `SExt(e, n)` of R9 as an exact integer: `e` taken as `n` bits, two's complement. -/
def sextInt (n e : Nat) : Int :=
  let m := e % 2 ^ n
  if 2 * m < 2 ^ n then (m : Int) else (m : Int) - (2 ^ n : Nat)

/-- The 64-bit word of an exact integer, narrowed modulo 2^64. -/
def wordOfInt (i : Int) : Word := BitVec.ofInt 64 i

/-- The 64-bit word of a natural number, narrowed modulo 2^64. -/
def wordOfNat (n : Nat) : Word := BitVec.ofNat 64 n

/-- `SExt(e, n)` of R9 to 64 bits. -/
def sext64 (n e : Nat) : Word := wordOfInt (sextInt n e)

/-- The natural number that `n` little-endian bytes hold (R4). -/
def natOfBytes : List Byte → Nat
  | [] => 0
  | b :: bs => b.toNat + 256 * natOfBytes bs

/-- The `n` little-endian bytes of a natural number, its value taken modulo 2^(8n) (R4). -/
def bytesOfNat : Nat → Nat → List Byte
  | 0, _ => []
  | n + 1, e => BitVec.ofNat 8 e :: bytesOfNat n (e / 256)

/-- `a` rounded up to a multiple of `m`, counted in units of `m`. -/
def ceilDiv (a m : Nat) : Nat := (a + m - 1) / m

end Sys2Proof
end

