-- ==== Sys2Proof/Syntax.lean ====
section
/-!
DEFINITION. The instructions, tile command words and events of the KSG-40A: one constructor of `Instr`
for each row of spec/opcode_table.json. Register numbers stay bit vectors of the encoding's width;
coded fields of R69, R74, R75 are inductive types, so the machine never sees a raw code.
-/

namespace Sys2Proof

/-- Element types, `et` 000 to 111 (R69, R233). -/
inductive ElemTy where
  | i8 | i16 | i32 | i64 | bf16 | fp16 | fp32 | fp64
  deriving DecidableEq, Repr

/-- Rounding modes, `rm` 00 to 11 (R69, R96). -/
inductive Rm where
  | rne | rtz | rdn | rup
  deriving DecidableEq, Repr

/-- Scopes, codes 0 to 4 (R69, R183). -/
inductive Scope where
  | core | caravan | die | package | system
  deriving DecidableEq, Repr

/-- Engines, codes 0 to 4 (R69). -/
inductive Engine where
  | matrix | copy | rule | commons | bulk
  deriving DecidableEq, Repr

/-- Kinds of VRED (R74, R247). -/
inductive RedKind where
  | sum | max | min
  deriving DecidableEq, Repr

/-- Kinds of VSF (R74, R110). -/
inductive SfKind where
  | sqrt | rcp | rsqrt | exp | exp2 | log2 | tanh
  deriving DecidableEq, Repr

/-- FP8 kinds (R75). -/
inductive Fp8Kind where
  | e4m3 | e5m2
  deriving DecidableEq, Repr

/-- The wide type of VCVT8 (R75). -/
inductive WideKind where
  | bf16 | fp32
  deriving DecidableEq, Repr

/-- Modes of VROWST (R296): statistics, exponential sum, dot products. -/
inductive RowMode where
  | stats | expSum | dots
  deriving DecidableEq, Repr

/-- The common header of a tile command word, without eop and engine (R82). -/
structure TcwHdr where
  prio : BitVec 3
  cmsg : Bool
  cq   : BitVec 3
  rm   : Rm
  ov   : Bool
  deriving DecidableEq, Repr

/-- The fields of the four product commands (R270). A field the command does not use is zero. -/
structure ProductF where
  p1      : Word       -- q1: a, g
  p3      : Word       -- q3: wpk, g, b
  m       : BitVec 8
  acc     : BitVec 2
  pair    : Bool
  zf      : Bool
  chk     : Bool
  steps   : BitVec 5
  ncols   : BitVec 13
  stride1 : BitVec 16
  stride2 : BitVec 16
  rlimit  : BitVec 8
  climit  : BitVec 13
  sofs    : BitVec 11
  deriving DecidableEq, Repr

/-- The fields of MWLOAD (R276). -/
structure MwloadF where
  w       : Word
  rows    : BitVec 9
  cols    : BitVec 7
  prev    : Bool
  stepchk : Bool
  cvt     : BitVec 2
  sofs    : BitVec 11
  wstride : BitVec 16
  steptag : BitVec 32
  deriving DecidableEq, Repr

/-- The fields of MSTORE and MACCLD (R278). -/
structure AccMoveF where
  ptr    : Word
  acc    : BitVec 2
  pair   : Bool
  rows   : BitVec 8
  cols   : BitVec 7
  stride : BitVec 16
  deriving DecidableEq, Repr

/-- A barrier reference of a copy command (R316): bv and handle bits [23:4]. -/
structure BarRef where
  bv  : Bool
  bar : BitVec 20
  deriving DecidableEq, Repr

/-- The fields of CPY2D and CPYT (R317). -/
structure Copy2F where
  src     : Word
  dst     : Word
  rows    : BitVec 16
  cols    : BitVec 16     -- rowbytes of CPY2D, cols of CPYT
  rowlim  : BitVec 8
  collim  : BitVec 8
  sstride : BitVec 16
  dstride : BitVec 16
  deriving DecidableEq, Repr

/-- The fields of UPD and UPD.T (R345). -/
structure UpdF where
  region  : Word
  grad    : Word
  first   : BitVec 24
  count   : BitVec 25
  steptag : BitVec 32
  slot    : BitVec 3
  deriving DecidableEq, Repr

/-- A commons exchange packet (R369): region, tag, sequence number, cell, halves. -/
structure Packet where
  region : Nat
  tag    : BitVec 32
  seq    : BitVec 32
  cell   : Nat
  hw     : Word
  hs     : List Word
  deriving DecidableEq, Repr

/-- A receiver's answer to a packet (R370). -/
inductive Reply where
  | applied | stale | early | overflow
  deriving DecidableEq, Repr

/-- A host request (R424), without its kind, which the constructor of `Instr` gives. -/
structure HostReq where
  lane : Nat
  seq  : BitVec 32
  ctx  : Nat
  acq  : Bool
  addr : Word
  len  : Nat            -- bytes, the coded field plus one
  w2   : Word
  w3   : Word
  data : List Byte
  /-- Whether every reserved field, and every word the kind does not use, is zero. -/
  clean : Bool
  deriving DecidableEq, Repr

/-- A firmware image as it stands in the serial flash (R453), with the public keys that come with it: RSA modulus of 384 bytes
and exponent, SLH-DSA key of 32 bytes (R455, log 18). -/
structure FwImage where
  header : List Word
  code   : List Byte
  rsa    : List Byte
  slh    : List Byte
  rsaKey : List Byte
  slhKey : List Byte
  deriving DecidableEq, Repr

/-- Where stage 1 puts what it sets up: the root of the page table, the frame of the mailbox page, and the region of the stage 2
image in die 0's HBM (R452, R454, R459, log 18). -/
structure BootPlan where
  root   : Nat
  mail   : Nat
  region : Nat
  deriving DecidableEq, Repr

/-- A temperature sensor: its die and its quadrant (R460). -/
structure Sensor where
  die      : Nat
  quadrant : Nat
  deriving DecidableEq, Repr

/-- A context as the steward core creates it (R223, R254, R394, R395), with the PLB entries and the queue bindings that its
cores begin with (log 64). -/
structure CtxSpec where
  ctx      : Nat
  caravans : List Nat
  mgr      : Bool
  test     : Bool
  sevd     : Word
  sevh     : Word
  /-- The PLB entries of each core, from entry 0 on (R170). -/
  plb      : List Word
  /-- The binding records of each core's queues, from queue 0 on (R209). -/
  binds    : List (List Byte)
  deriving DecidableEq, Repr

/-- An SPDM request's version-independent parts: param1, param2 and the rest of its bytes (R458, R459). -/
structure SpdmReq where
  param1 : Byte
  param2 : Byte
  body   : List Byte
  deriving DecidableEq, Repr

/-- Every instruction, tile command and event of the opcode table. Those that the model builds stand first: compiled Lean
builds no value of a constructor with fields beyond the 245th. -/
inductive Instr where
  -- RISC-V base (R64)
  | lui (rd : Reg) (imm : BitVec 20)
  | auipc (rd : Reg) (imm : BitVec 20)
  | jal (rd : Reg) (imm : BitVec 20)
  | jalr (rd rs1 : Reg) (imm : BitVec 12)
  | beq (rs1 rs2 : Reg) (imm : BitVec 12)
  | bne (rs1 rs2 : Reg) (imm : BitVec 12)
  | blt (rs1 rs2 : Reg) (imm : BitVec 12)
  | bge (rs1 rs2 : Reg) (imm : BitVec 12)
  | bltu (rs1 rs2 : Reg) (imm : BitVec 12)
  | bgeu (rs1 rs2 : Reg) (imm : BitVec 12)
  | lb (rd rs1 : Reg) (imm : BitVec 12)
  | lh (rd rs1 : Reg) (imm : BitVec 12)
  | lw (rd rs1 : Reg) (imm : BitVec 12)
  | ld (rd rs1 : Reg) (imm : BitVec 12)
  | lbu (rd rs1 : Reg) (imm : BitVec 12)
  | lhu (rd rs1 : Reg) (imm : BitVec 12)
  | lwu (rd rs1 : Reg) (imm : BitVec 12)
  | sb (rs1 rs2 : Reg) (imm : BitVec 12)
  | sh (rs1 rs2 : Reg) (imm : BitVec 12)
  | sw (rs1 rs2 : Reg) (imm : BitVec 12)
  | sd (rs1 rs2 : Reg) (imm : BitVec 12)
  | addi (rd rs1 : Reg) (imm : BitVec 12)
  | slti (rd rs1 : Reg) (imm : BitVec 12)
  | sltiu (rd rs1 : Reg) (imm : BitVec 12)
  | xori (rd rs1 : Reg) (imm : BitVec 12)
  | ori (rd rs1 : Reg) (imm : BitVec 12)
  | andi (rd rs1 : Reg) (imm : BitVec 12)
  | slli (rd rs1 : Reg) (sh : BitVec 6)
  | srli (rd rs1 : Reg) (sh : BitVec 6)
  | srai (rd rs1 : Reg) (sh : BitVec 6)
  | addiw (rd rs1 : Reg) (imm : BitVec 12)
  | slliw (rd rs1 : Reg) (sh : BitVec 5)
  | srliw (rd rs1 : Reg) (sh : BitVec 5)
  | sraiw (rd rs1 : Reg) (sh : BitVec 5)
  | add (rd rs1 rs2 : Reg)
  | sll (rd rs1 rs2 : Reg)
  | slt (rd rs1 rs2 : Reg)
  | sltu (rd rs1 rs2 : Reg)
  | xor (rd rs1 rs2 : Reg)
  | srl (rd rs1 rs2 : Reg)
  | or (rd rs1 rs2 : Reg)
  | and (rd rs1 rs2 : Reg)
  | sub (rd rs1 rs2 : Reg)
  | sra (rd rs1 rs2 : Reg)
  | mul (rd rs1 rs2 : Reg)
  | mulh (rd rs1 rs2 : Reg)
  | mulhsu (rd rs1 rs2 : Reg)
  | mulhu (rd rs1 rs2 : Reg)
  | div (rd rs1 rs2 : Reg)
  | divu (rd rs1 rs2 : Reg)
  | rem (rd rs1 rs2 : Reg)
  | remu (rd rs1 rs2 : Reg)
  | addw (rd rs1 rs2 : Reg)
  | sllw (rd rs1 rs2 : Reg)
  | srlw (rd rs1 rs2 : Reg)
  | subw (rd rs1 rs2 : Reg)
  | sraw (rd rs1 rs2 : Reg)
  | mulw (rd rs1 rs2 : Reg)
  | divw (rd rs1 rs2 : Reg)
  | divuw (rd rs1 rs2 : Reg)
  | remw (rd rs1 rs2 : Reg)
  | remuw (rd rs1 rs2 : Reg)
  | fence (rd rs1 : Reg) (imm : BitVec 12)
  | fenceI (rd rs1 : Reg) (imm : BitVec 12)
  | lrW (rd rs1 : Reg) (aq rl : Bool)
  | scW (rd rs1 rs2 : Reg) (aq rl : Bool)
  | amoswapW (rd rs1 rs2 : Reg) (aq rl : Bool)
  | amoaddW (rd rs1 rs2 : Reg) (aq rl : Bool)
  | amoxorW (rd rs1 rs2 : Reg) (aq rl : Bool)
  | amoandW (rd rs1 rs2 : Reg) (aq rl : Bool)
  | amoorW (rd rs1 rs2 : Reg) (aq rl : Bool)
  | amominW (rd rs1 rs2 : Reg) (aq rl : Bool)
  | amomaxW (rd rs1 rs2 : Reg) (aq rl : Bool)
  | amominuW (rd rs1 rs2 : Reg) (aq rl : Bool)
  | amomaxuW (rd rs1 rs2 : Reg) (aq rl : Bool)
  | lrD (rd rs1 : Reg) (aq rl : Bool)
  | scD (rd rs1 rs2 : Reg) (aq rl : Bool)
  | amoswapD (rd rs1 rs2 : Reg) (aq rl : Bool)
  | amoaddD (rd rs1 rs2 : Reg) (aq rl : Bool)
  | amoxorD (rd rs1 rs2 : Reg) (aq rl : Bool)
  | amoandD (rd rs1 rs2 : Reg) (aq rl : Bool)
  | amoorD (rd rs1 rs2 : Reg) (aq rl : Bool)
  | amominD (rd rs1 rs2 : Reg) (aq rl : Bool)
  | amomaxD (rd rs1 rs2 : Reg) (aq rl : Bool)
  | amominuD (rd rs1 rs2 : Reg) (aq rl : Bool)
  | amomaxuD (rd rs1 rs2 : Reg) (aq rl : Bool)
  | csrrw (rd rs1 : Reg) (csr : BitVec 12)
  | csrrs (rd rs1 : Reg) (csr : BitVec 12)
  | csrrc (rd rs1 : Reg) (csr : BitVec 12)
  | csrrwi (rd uimm : BitVec 5) (csr : BitVec 12)
  | csrrsi (rd uimm : BitVec 5) (csr : BitVec 12)
  | csrrci (rd uimm : BitVec 5) (csr : BitVec 12)
  -- custom-0 (R71, R72)
  | padd (rd rs1 rs2 : Reg)
  | ptag (rd rs1 rs2 : Reg)
  | pget (rd rs1 : Reg)
  | pbase (rd rs1 : Reg)
  | paddi (rd rs1 : Reg) (imm : BitVec 12)
  | ptagi (rd rs1 : Reg) (tag : BitVec 8)
  | repi (n : BitVec 12) (stride : BitVec 2) (fields : BitVec 3)
  | rep (rs1 : Reg) (stride : BitVec 2) (fields : BitVec 3)
  | nestSet (rs1 : Reg)
  | nestStat (rd : Reg)
  | nestNext (rd : Reg) (off : BitVec 17)
  | join (off : BitVec 17)
  | joinT (off : BitVec 17)
  | cvstat (rd : Reg)
  | send (rs1 : Reg) (g : BitVec 4)
  | sendC (rs1 : Reg) (g : BitVec 4) (cap : Reg)
  | hbind (rs1 rs2 : Reg)
  | qctl (rs1 rs2 : Reg)
  | qstat (rd rs1 : Reg)
  | launch (rd rs1 rs2 : Reg)
  | sigset (rs1 rs2 : Reg)
  | sigclr (rs1 rs2 : Reg)
  | sigtest (rd rs1 rs2 : Reg)
  | stashAlloc (rd rs1 : Reg)
  | stashFree (rs1 : Reg)
  -- custom-1 (R73)
  | vadd (et : ElemTy) (vd vs1 vs2 : VReg)
  | vsub (et : ElemTy) (vd vs1 vs2 : VReg)
  | vmul (et : ElemTy) (vd vs1 vs2 : VReg)
  | vfma (et : ElemTy) (vd vs1 vs2 : VReg)
  | vfnma (et : ElemTy) (vd vs1 vs2 : VReg)
  | vmin (et : ElemTy) (vd vs1 vs2 : VReg)
  | vmax (et : ElemTy) (vd vs1 vs2 : VReg)
  | vcmple (et : ElemTy) (vd vs1 vs2 : VReg)
  | vand (vd vs1 vs2 : VReg)
  | vor (vd vs1 vs2 : VReg)
  | vxor (vd vs1 vs2 : VReg)
  | vshl (et : ElemTy) (vd vs1 vs2 : VReg)
  | vshr (et : ElemTy) (vd vs1 vs2 : VReg)
  | vshra (et : ElemTy) (vd vs1 vs2 : VReg)
  | vcmplt (et : ElemTy) (vd vs1 vs2 : VReg)
  | vcmpeq (et : ElemTy) (vd vs1 vs2 : VReg)
  -- custom-2 (R74, R75)
  | vsel (et : ElemTy) (vd vs1 vs2 : VReg)
  | vshuf (et : ElemTy) (vd vs1 vs2 : VReg)
  | vzip (et : ElemTy) (vd vs1 vs2 : VReg)
  | vunzip (et : ElemTy) (vd vs1 vs2 : VReg)
  | vred (et : ElemTy) (vd vs1 : VReg) (kind : RedKind)
  | vdiv (et : ElemTy) (vd vs1 vs2 : VReg)
  | vsf (et : ElemTy) (vd vs1 : VReg) (kind : SfKind)
  | vcvt (dst src : ElemTy) (vd vs1 : VReg) (rm : Rm) (ov : Bool)
  | vcvt8ToFp8 (k : Fp8Kind) (w : WideKind) (vd vs1 : VReg) (group : BitVec 3) (rm : Rm) (ov : Bool)
  | vcvt8FromFp8 (k : Fp8Kind) (w : WideKind) (vd vs1 : VReg) (group : BitVec 3)
  | vins (et : ElemTy) (vd : VReg) (xs : Reg) (lane : BitVec 6)
  | vext (et : ElemTy) (xd : Reg) (vs1 : VReg) (lane : BitVec 6)
  | vbcast (et : ElemTy) (vd : VReg) (xs : Reg)
  | vrowst (vd : VReg) (acc : BitVec 2) (group : BitVec 4) (mode : RowMode)
  | vdmask (vd vs1 : VReg)
  -- custom-3 (R76, R77, R78)
  | enq (rd : Reg) (e : Engine) (p : BitVec 5)
  | enqm (rd : Reg) (e : Engine) (rs2 : Reg)
  | eqwait (e : Engine)
  | eqstat (rd : Reg) (e : Engine)
  | barInit (rs1 rs2 : Reg)
  | barExpect (rs1 rs2 : Reg)
  | barArrive (rd rs1 : Reg)
  | barWait (rs1 rs2 : Reg) (scope : Scope)
  | barTest (rd rs1 rs2 : Reg)
  | ldaq (rd rs1 : Reg) (scope : Scope)
  | strl (rs1 rs2 : Reg) (scope : Scope)
  | fenceAq (scope : Scope)
  | fenceRl (scope : Scope)
  | fenceAr (scope : Scope)
  | invl (rs1 : Reg)
  | wbk (rs1 : Reg)
  | stNt (rs1 rs2 : Reg)
  | pref (rs1 : Reg)
  | amofaddS (rd rs1 rs2 : Reg)
  | amofaddD (rd rs1 rs2 : Reg)
  | amofmaxS (rd rs1 rs2 : Reg)
  | gdepx (rs1 rs2 : Reg)
  | gdepw (rs1 rs2 : Reg)
  | gest (rd rs1 : Reg)
  | gspread (rd rs1 : Reg)
  | gxch (rs1 rs2 : Reg)
  | gmass (rd rs1 : Reg)
  | vld (vd : VReg) (rs1 : Reg) (imm : BitVec 6)
  | vst (vs : VReg) (rs1 : Reg) (imm : BitVec 6)
  | vstNt (vs : VReg) (rs1 : Reg) (imm : BitVec 6)
  | vldRo (vd : VReg) (rs1 : Reg) (imm : BitVec 6)
  | vldb (vd : VReg) (rs1 : Reg) (imm : BitVec 6)
  | ctxSave (rs1 rs2 : Reg)
  | ctxRest (rd rs1 rs2 : Reg)
  | plbFill (rs1 rs2 : Reg)
  | plbInv (rs1 : Reg)
  | tslice (rs1 rs2 : Reg)
  | ruleInst (rs1 rs2 : Reg)
  | ruleAct (rd rs1 : Reg)
  | minj (rs1 rs2 : Reg)
  | slotResume (rs1 : Reg)
  | slotResumeSsip (rs1 : Reg)
  | slotKill (rs1 : Reg)
  | commonsCfgDefine (rs1 : Reg)
  | commonsCfgRemove (rs1 : Reg)
  | commonsCfgReport (rs1 : Reg)
  | pgFlush (rs1 : Reg)
  | waysCfg (rs1 rs2 : Reg)
  -- matrix tile commands (R83)
  | mwload (h : TcwHdr) (f : MwloadF)
  | mmulF (h : TcwHdr) (f : ProductF)
  | mmulT (h : TcwHdr) (f : ProductF)
  | mouter (h : TcwHdr) (f : ProductF)
  | mmulG (h : TcwHdr) (f : ProductF)
  | mzero (h : TcwHdr) (accmask : BitVec 4)
  | mstore (h : TcwHdr) (f : AccMoveF)
  | maccld (h : TcwHdr) (f : AccMoveF)
  | mchk (h : TcwHdr) (report : Word) (acc : BitVec 2) (pair : Bool) (tol : BitVec 8)
  | mpatch (h : TcwHdr) (acc : BitVec 2) (row col : BitVec 6) (value : BitVec 32)
  | mgang (h : TcwHdr) (gangdesc : Word)
  | mres (h : TcwHdr) (dst : Word) (acc : BitVec 2) (rows : BitVec 8)
  | mscale (h : TcwHdr) (scales : Word) (acc : BitVec 2) (rows : BitVec 8)
  -- copy and bulk tile commands
  | cpy (h : TcwHdr) (b : BarRef) (src dst : Word) (bytes : BitVec 40)
  | cpy2d (h : TcwHdr) (b : BarRef) (f : Copy2F)
  | cpyt (h : TcwHdr) (b : BarRef) (f : Copy2F)
  | cpys (h : TcwHdr) (b : BarRef) (src : Word) (bytes : BitVec 40) (stream : BitVec 2)
  | cpyg (h : TcwHdr) (b : BarRef) (index src dst : Word) (count : BitVec 8) (elembytes : BitVec 3)
  | fill (h : TcwHdr) (b : BarRef) (dst pattern : Word) (bytes : BitVec 40)
  | bcpy (h : TcwHdr) (b : BarRef) (src dst : Word) (bytes : BitVec 40) (dpkg : BitVec 12) (remote : Bool)
  | bfill (h : TcwHdr) (b : BarRef) (dst pattern : Word) (bytes : BitVec 40)
  -- rule tile commands
  | upd (h : TcwHdr) (f : UpdF)
  | updT (h : TcwHdr) (f : UpdF)
  | metaBwd (h : TcwHdr) (region adjoint rgrad : Word) (first : BitVec 17) (count : BitVec 12) (kk : BitVec 3)
  | quarClr (h : TcwHdr) (region : Word) (first : BitVec 24) (count : BitVec 25)
  | ruleQ (h : TcwHdr) (dst : Word) (rulectx : BitVec 3)
  -- commons tile commands
  | gseed (h : TcwHdr) (cells src : Word) (ncells : BitVec 24) (steptag w0 : BitVec 32)
  | gdepR (h : TcwHdr) (cells src : Word) (ncells : BitVec 24) (dw : Word)
  | gread (h : TcwHdr) (cells dst : Word) (ncells : BitVec 24)
  | gpace (h : TcwHdr) (region : Word) (mode : BitVec 2) (share : BitVec 8)
  -- events that the outside puts most often
  | illegalInstruction (word : BitVec 32)
  | read (r : HostReq)
  | write (r : HostReq)
  | writeWc (r : HostReq)
  | hostLaunch (r : HostReq)
  | hfence (r : HostReq)
  | setid (r : HostReq)
  | mint (r : HostReq)
  | rulectx (r : HostReq)
  | give (r : HostReq)
  | take (r : HostReq)
  | pxmode (r : HostReq)
  | stateBootStatus (r : HostReq)
  | bootStage0 (img : FwImage)
  | bootStage1 (img : FwImage) (hbmOk cxlOk : Bool) (serials : List Word) (plan : BootPlan)
  | contextCreate (c : CtxSpec)
  | droverPacketReceive (port : Nat) (p : Packet)
  | escrowResolve (port : Nat) (seq : BitVec 32) (r : Reply)
  | messageArrive (k : Nat)
  -- the other events
  | ntIdleDrain (core : Nat) (line : Nat)
  | minjFlip (k : Nat)
  | gangFormationTimeout (desc : Nat)
  | bulkForward (core : Nat)
  | landing (k : Nat)
  | retryAfterResend (k : Nat)
  | ruleBlockUpdate (slice : Nat)
  | ruleReport (k : Nat)
  | ruleActExchange (rulectx slice : Nat)
  | droverExchange (port region : Nat)
  | escrowReturn (port : Nat) (seq : BitVec 32)
  | escrowEarlyResend (port : Nat) (seq : BitVec 32)
  | messageDepart (slot : Nat)
  | stageResolve (k : Nat)
  | remoteCommandArrive (k : Nat)
  | spillReturn (core queue : Nat)
  | firingStart (core : Nat)
  | convoyGatherEnd (caravan lane : Nat)
  | laneResolve (caravan lane : Nat)
  | joinWaitAttach (caravan : Nat)
  | launchEnd (ctx : Nat) (id : Nat)
  | faultRecord (k : Nat)
  | softwareInterrupt (slot : Nat)
  | stallLimitExpiry (ctx : Nat)
  | tsliceExpiry (ctx : Nat)
  | saveDeadlineExpiry (ctx : Nat)
  | hbmRetrainRequest (stack : Nat)
  | hbmRetrainRun (stack : Nat)
  | writeWcPerform (lane k : Nat)
  | serviceFence (r : HostReq)
  | admitPeer (r : HostReq)
  | limits (r : HostReq)
  | clearfail (r : HostReq)
  | unfencecore (r : HostReq)
  | stateLastSeq (r : HostReq)
  | stateNextEventSeq (r : HostReq)
  | stateReplay (r : HostReq)
  | ucieModuleFailover (die module : Nat)
  | linkResendTimeout (port : Nat) (flit : BitVec 32)
  | laneLockTimeout (port : Nat)
  | linkRestored (port : Nat)
  | resyncComplete (port : Nat) (last : BitVec 32) (map : BitVec 64)
  | fenceIntervalExpiry (pkg : Nat)
  | cxlLinkFailure (die : Nat)
  | thermalThrottle (sensor : Sensor) (celsius : Nat)
  | thermalStop (celsius : Nat)
  | getVersion (q : SpdmReq)
  | getCapabilities (q : SpdmReq)
  | negotiateAlgorithms (q : SpdmReq)
  | getDigests (q : SpdmReq)
  | getCertificate (q : SpdmReq)
  | challenge (q : SpdmReq)
  | getMeasurements (q : SpdmReq)
  -- instructions and events without fields
  | ecall
  | ebreak
  | sret
  | wfi
  | mret
  | leave
  | cvsync
  | done
  | sealF
  | launchDispatch
  | bootStage2
  | instructionFetchFault
  deriving DecidableEq, Repr

end Sys2Proof
end

