-- ==== Sys2Proof/WellFormed.lean ====
section
/-!
DEFINITION. The checks that the spec makes on the fields of an instruction, tile command word or event:
legal element types and lanes (R73 to R75), index registers (R139), fields a command does not use (R270,
R316, R317), the ranges of coordinates, lanes, ports and contexts (R12, R17, R18, R19, R363, R424).
-/

namespace Sys2Proof

/-- Whether an element type is floating, `et` 100 to 111 (R69). -/
def ElemTy.isFloat : ElemTy → Bool
  | .bf16 | .fp16 | .fp32 | .fp64 => true
  | .i8 | .i16 | .i32 | .i64 => false

/-- Bytes of an element (R233). -/
def ElemTy.bytes : ElemTy → Nat
  | .i8 => 1
  | .i16 | .bf16 | .fp16 => 2
  | .i32 | .fp32 => 4
  | .i64 | .fp64 => 8

/-- Lanes of a 128-bit register (R233). -/
def ElemTy.lanes (et : ElemTy) : Nat := 16 / et.bytes

/-- The kinds of VSF that an element type accepts (R74). -/
def SfKind.accepts (et : ElemTy) : SfKind → Bool
  | .sqrt | .rcp | .rsqrt => et.isFloat
  | .exp | .exp2 | .log2 | .tanh => et = .fp32

/-- Elements per register of the wide type of VCVT8 (R252). -/
def WideKind.elems : WideKind → Nat
  | .bf16 => 8
  | .fp32 => 4

/-- The lane groups of VCVT8 (R75): 0 to 3 for FP32, 0 to 1 for BF16. -/
def WideKind.groups : WideKind → Nat
  | .bf16 => 2
  | .fp32 => 4

/-- Fields of a product command that only MMUL.F or MMUL.G use are zero elsewhere (R270). -/
def ProductF.unusedT (f : ProductF) : Bool :=
  f.p3 = 0 && !f.chk && f.steps = 0 && f.ncols = 0 && f.stride2 = 0 && f.sofs = 0

/-- A barrier reference with bv = 0 has zero bar bits (R316). -/
def BarRef.wf (b : BarRef) : Bool := b.bv || b.bar = 0

/-- The ranges of a host request's fields (R424). -/
def HostReq.wf (r : HostReq) : Bool :=
  r.lane < 16 && r.ctx < 64 && 1 ≤ r.len && r.len ≤ 4096

/-- The ranges of a packet's fields (R363, R365). -/
def Packet.wf (p : Packet) : Bool := p.region < 16 && p.cell < 2 ^ 24 && p.hs.length ≤ 30

/-- The number of cores on the compute dies (R12, R14, R17). -/
def numCores : Nat := 8192

/-- The number of slots (R18). -/
def numSlots : Nat := 32768

/-- The well-formed instructions, commands and events. -/
def Instr.wf : Instr → Bool
  | .nestNext rd _ => 1 ≤ rd.toNat && rd.toNat ≤ 28
  | .vfma et _ _ _ | .vfnma et _ _ _ | .vdiv et _ _ _ => et.isFloat
  | .vshl et _ _ _ | .vshr et _ _ _ | .vshra et _ _ _ => !et.isFloat
  | .vsf et _ _ k => k.accepts et
  | .vcvt dst src _ _ _ _ => dst ≠ src
  | .vcvt8ToFp8 _ w _ _ g _ _ => g.toNat < w.groups
  | .vcvt8FromFp8 _ w _ _ g => g.toNat < w.groups
  | .vins et _ _ lane => lane.toNat < et.lanes
  | .vext et _ _ lane => lane.toNat < et.lanes
  | .vrowst vd _ _ _ => vd.toNat ≤ 61
  | .mmulF _ f => f.ncols = 0 && f.stride2 = 0
  | .mmulT _ f => f.unusedT
  | .mouter _ f => !f.chk && f.steps = 0 && f.sofs = 0
  | .mmulG _ f => !f.chk
  | .cpy _ b _ _ _ | .fill _ b _ _ _ => b.wf
  | .cpy2d _ b f => b.wf && f.rowlim = 0 && f.collim = 0
  | .cpyt _ b f => b.wf && f.rows.toNat < 256 && f.cols.toNat < 256
  | .cpys _ b _ _ _ => b.wf
  | .cpyg _ b _ _ _ _ _ => b.wf
  | .bcpy _ b _ _ _ _ _ => b.wf
  | .bfill _ b _ _ _ => b.wf
  | .upd _ f => f.slot = 0
  | .ntIdleDrain core line => core < numCores && line < 2 ^ 50
  | .gangFormationTimeout desc => desc < 2 ^ 56
  | .bulkForward core => core < numCores
  | .ruleBlockUpdate slice => slice < 1024
  | .ruleActExchange rc slice => rc < 8 && slice < 1024
  | .droverExchange port region => port < 16 && region < 16
  | .droverPacketReceive port p => port < 16 && p.wf
  | .escrowResolve port _ _ => port < 16
  | .escrowReturn port _ | .escrowEarlyResend port _ => port < 16
  | .messageDepart slot | .softwareInterrupt slot => slot < numSlots
  | .spillReturn core q => core < numCores && q < 8
  | .firingStart core => core < numCores
  | .convoyGatherEnd car lane | .laneResolve car lane => car < 1024 && lane < 4
  | .joinWaitAttach car => car < 1024
  | .launchEnd ctx _ => ctx < 64
  | .stallLimitExpiry ctx | .tsliceExpiry ctx | .saveDeadlineExpiry ctx => ctx < 64
  | .hbmRetrainRequest stack | .hbmRetrainRun stack => stack < 8
  | .read r | .write r | .writeWc r | .hostLaunch r | .hfence r => r.wf
  | .setid r | .serviceFence r | .admitPeer r | .limits r | .give r | .take r => r.wf
  | .pxmode r | .mint r | .rulectx r | .clearfail r | .unfencecore r => r.wf
  | .stateLastSeq r | .stateNextEventSeq r | .stateReplay r | .stateBootStatus r => r.wf
  | .writeWcPerform lane _ => lane < 16
  | .ucieModuleFailover die module => die < 4 && module < 2
  | .linkResendTimeout port _ => port < 16
  | .laneLockTimeout port | .linkRestored port => port < 16
  | .resyncComplete port _ _ => port < 16
  | .fenceIntervalExpiry pkg => pkg < 4095
  | .cxlLinkFailure die => die < 4
  | .thermalThrottle q _ => q.die < 4 && q.quadrant < 4
  | .bootStage1 _ _ _ _ p => p.root % 8192 = 0 && p.root < 2 ^ 53 && p.mail % 65536 = 0 && p.mail < 192 * 2 ^ 30 && p.region % 65536 = 0
    && p.region < 190 * 2 ^ 30
  | .contextCreate c => c.ctx < 64 && c.caravans.all (· < 1024) && c.plb.length ≤ 64 && c.binds.length ≤ 8
  | _ => true

end Sys2Proof
end

