-- ==== Sys2Proof/Machine/Flags.lean ====
section
/-!
DEFINITION. Numbers: the floating formats (R88, R89), exact values, the one rounding helper with its
flags (R96 to R101), arithmetic on exact values, comparisons (R104), conversions (R105 to R107), and the
special functions (R109, R110, log 10).
-/

namespace Sys2Proof.Machine

/-- The five flags, as vflags orders them (R102): nv dz of uf nx. -/
abbrev Flags := BitVec 5

/-- Invalid. -/
def Flags.nv : Flags := 16
/-- Divide by zero. -/
def Flags.dz : Flags := 8
/-- Overflow. -/
def Flags.of : Flags := 4
/-- Underflow. -/
def Flags.uf : Flags := 2
/-- Inexact. -/
def Flags.nx : Flags := 1

/-- A flag, if a condition holds. -/
def Flags.when (b : Bool) (f : Flags) : Flags := if b then f else 0

/-- Floating formats (R88). -/
inductive Fmt where
  | fp64 | fp32 | fp16 | bf16 | e4m3 | e5m2
  deriving DecidableEq, Repr

/-- Bits of a format. -/
def Fmt.bits : Fmt → Nat
  | .fp64 => 64 | .fp32 => 32 | .fp16 | .bf16 => 16 | .e4m3 | .e5m2 => 8

/-- Precision P, with the implicit bit. -/
def Fmt.prec : Fmt → Nat
  | .fp64 => 53 | .fp32 => 24 | .fp16 => 11 | .bf16 => 8 | .e4m3 => 4 | .e5m2 => 3

/-- Exponent bias. -/
def Fmt.bias : Fmt → Nat
  | .fp64 => 1023 | .fp32 => 127 | .fp16 => 15 | .bf16 => 127 | .e4m3 => 7 | .e5m2 => 15

/-- Exponent of the smallest normal. -/
def Fmt.emin (f : Fmt) : Int := 1 - f.bias

/-- Whether the format has infinities. -/
def Fmt.hasInf : Fmt → Bool
  | .e4m3 => false
  | .fp64 | .fp32 | .fp16 | .bf16 | .e5m2 => true

/-- The bits of the canonical NaN (R100). -/
def Fmt.nan : Fmt → Nat
  | .fp64 => 0x7FF8000000000000 | .fp32 => 0x7FC00000 | .fp16 => 0x7E00
  | .bf16 => 0x7FC0 | .e4m3 => 0x7F | .e5m2 => 0x7E

/-- The bits of the largest finite value (R88). -/
def Fmt.maxBits : Fmt → Nat
  | .fp64 => 0x7FEFFFFFFFFFFFFF | .fp32 => 0x7F7FFFFF | .fp16 => 0x7BFF
  | .bf16 => 0x7F7F | .e4m3 => 0x7E | .e5m2 => 0x7B

/-- The bits of +∞; for E4M3, its NaN. -/
def Fmt.infBits : Fmt → Nat
  | .fp64 => 0x7FF0000000000000 | .fp32 => 0x7F800000 | .fp16 => 0x7C00
  | .bf16 => 0x7F80 | .e4m3 => 0x7F | .e5m2 => 0x7C

/-- The sign bit of a format. -/
def Fmt.signBit (f : Fmt) (neg : Bool) : Nat := if neg then 2 ^ (f.bits - 1) else 0

/-- The floating format of an element type. -/
def fmtOf : ElemTy → Option Fmt
  | .bf16 => some .bf16 | .fp16 => some .fp16 | .fp32 => some .fp32 | .fp64 => some .fp64
  | .i8 | .i16 | .i32 | .i64 => none

/-- An exact value: a NaN, signalling or not; an infinity; or (-1)^neg x m x 2^e, where m = 0 is a signed zero. -/
inductive FVal where
  | nan (sig : Bool)
  | inf (neg : Bool)
  | fin (neg : Bool) (m : Nat) (e : Int)
  deriving DecidableEq, Repr

/-- The value that bits of a format encode (R89). -/
def Fmt.value (f : Fmt) (b : Nat) : FVal :=
  let fb := f.prec - 1
  let frac := b % 2 ^ fb
  let ex := b / 2 ^ fb % 2 ^ (f.bits - f.prec)
  let neg := b.testBit (f.bits - 1)
  let top := 2 ^ (f.bits - f.prec) - 1
  if f = .e4m3 then
    if ex = top ∧ frac = 7 then .nan false
    else if ex = 0 then .fin neg frac (f.emin - fb)
    else .fin neg (2 ^ fb + frac) ((ex : Int) - f.bias - fb)
  else if ex = top then
    if frac = 0 then .inf neg else .nan (!frac.testBit (fb - 1))
  else if ex = 0 then .fin neg frac (f.emin - fb)
  else .fin neg (2 ^ fb + frac) ((ex : Int) - f.bias - fb)

/-- The bits of n x 2^q, where q is the spacing at the value's exponent and n at most 2^P. -/
def Fmt.encode (f : Fmt) (neg : Bool) (n : Nat) (q : Int) : Nat :=
  let p := f.prec
  let (n, q) := if n = 2 ^ p then (2 ^ (p - 1), q + 1) else (n, q)
  f.signBit neg +
    if n < 2 ^ (p - 1) then n
    else (q + (p - 1 : Nat) + f.bias).toNat * 2 ^ (p - 1) + (n - 2 ^ (p - 1))

/-- Whether a quotient with remainder r of a divisor d rounds away from zero (R96). -/
def roundsUp (rm : Rm) (neg : Bool) (n r d : Nat) : Bool :=
  match rm with
  | .rne => decide (d < 2 * r) || (decide (2 * r = d) && decide (n % 2 = 1))
  | .rtz => false
  | .rdn => neg && decide (r ≠ 0)
  | .rup => !neg && decide (r ≠ 0)

/-- m x 2^e rounded to a multiple of 2^q (R96): the multiple and whether it is inexact. -/
def roundTo (rm : Rm) (neg : Bool) (m : Nat) (e q : Int) : Nat × Bool :=
  if q ≤ e then (m * 2 ^ (e - q).toNat, false)
  else
    let d := 2 ^ (q - e).toNat
    let n := m / d
    let r := m % d
    (if roundsUp rm neg n r d then n + 1 else n, decide (r ≠ 0))

/-- The overflow result of R98. -/
def Fmt.overflow (f : Fmt) (neg : Bool) (rm : Rm) (ov : Bool) : Nat :=
  let toInf := !ov && match rm with
    | .rne => true
    | .rtz => false
    | .rdn => neg
    | .rup => !neg
  if toInf then (if f = .e4m3 then f.nan else f.infBits + f.signBit neg) else f.maxBits + f.signBit neg

/-- The shift that brings a huge mantissa's exponent e down, so that evaluation stays small: the exponent is cut off
above 2,000 and below -4,000, beyond every format. -/
def clampExp (m : Nat) (e : Int) : Nat × Int :=
  let top := e + Nat.log2 m
  if 2000 < top then (1, 2000) else if top < -4000 then (1, -4000) else (m, e)

/-- Round(F, x, rm, ov) of R97, with the flags it raises. -/
def Fmt.round (f : Fmt) (x : FVal) (rm : Rm) (ov : Bool) : Nat × Flags :=
  match x with
  | .nan _ => (f.nan, 0)
  | .inf neg =>
    if f.hasInf then (f.infBits + f.signBit neg, 0)
    else if ov then (f.maxBits + f.signBit neg, .of ||| .nx)
    else (f.nan, .nv)
  | .fin neg 0 _ => (f.signBit neg, 0)
  | .fin neg m e =>
    let (m, e) := clampExp m e
    let top : Int := e + Nat.log2 m
    let q : Int := (if top < f.emin then f.emin else top) - (f.prec - 1 : Nat)
    let (n, inexact) := roundTo rm neg m e q
    let b := f.encode neg n q
    if f.maxBits < b - f.signBit neg then (f.overflow neg rm ov, .of ||| .nx)
    else (b, Flags.when inexact (.nx ||| Flags.when (decide (top < f.emin)) .uf))

/-! ### Arithmetic on exact values -/

/-- Whether a value is a NaN. -/
def FVal.isNan : FVal → Bool
  | .nan _ => true
  | .inf _ | .fin _ _ _ => false

/-- Whether a value is a signalling NaN. -/
def FVal.isSig : FVal → Bool
  | .nan s => s
  | .inf _ | .fin _ _ _ => false

/-- Whether a value is a zero. -/
def FVal.isZero : FVal → Bool
  | .fin _ m _ => m = 0
  | .nan _ | .inf _ => false

/-- Whether a value is an infinity. -/
def FVal.isInf : FVal → Bool
  | .inf _ => true
  | .nan _ | .fin _ _ _ => false

/-- The sign of a value. -/
def FVal.neg : FVal → Bool
  | .inf n => n
  | .fin n _ _ => n
  | .nan _ => false

/-- The negated value. -/
def FVal.negate : FVal → FVal
  | .inf n => .inf !n
  | .fin n m e => .fin (!n) m e
  | .nan s => .nan s

/-- The integer that a finite value is of 2^e. -/
def FVal.scaled (x : FVal) (e : Int) : Int :=
  match x with
  | .fin n m f => let k := m * 2 ^ (f - e).toNat; if n then -(k : Int) else k
  | .nan _ | .inf _ => 0

/-- The exponent of a value's least bit. -/
def FVal.exp : FVal → Int
  | .fin _ _ e => e
  | .nan _ | .inf _ => 0

/-- The finite value i x 2^e. -/
def FVal.ofInt (i : Int) (e : Int) : FVal := .fin (decide (i < 0)) i.natAbs e

/-- The exact sum (R108, R115) and its flags: an exact zero is -0 when both addends are -0 or under RDN, else +0. R115 is taken as
it stands where R294 speaks of a -0 target (log 11). -/
def FVal.add (rm : Rm) (a b : FVal) : FVal × Flags :=
  match a, b with
  | .nan s, y => (.nan false, Flags.when (s || y.isSig) .nv)
  | x, .nan s => (.nan false, Flags.when (s || x.isSig) .nv)
  | .inf n, .inf k => if n = k then (.inf n, 0) else (.nan false, .nv)
  | .inf n, _ => (.inf n, 0)
  | _, .inf n => (.inf n, 0)
  | .fin n m e, .fin k p f =>
    let g := if m = 0 then f else if p = 0 then e else min e f
    let i := (FVal.fin n m e).scaled g + (FVal.fin k p f).scaled g
    if i = 0 then
      (.fin ((n && k && m = 0 && p = 0) || rm = .rdn) 0 0, 0)
    else (.ofInt i g, 0)

/-- The exact product and its flags (R101). -/
def FVal.mul (a b : FVal) : FVal × Flags :=
  match a, b with
  | .nan s, y => (.nan false, Flags.when (s || y.isSig) .nv)
  | x, .nan s => (.nan false, Flags.when (s || x.isSig) .nv)
  | .inf n, y => if y.isZero then (.nan false, .nv) else (.inf (n != y.neg), 0)
  | x, .inf n => if x.isZero then (.nan false, .nv) else (.inf (n != x.neg), 0)
  | .fin n m e, .fin k p f => (.fin (n != k) (m * p) (e + f), 0)

/-- The exact c + a x b and its flags (R108). Where the product is 0 x infinity and the addend a quiet NaN, one sentence of
R101 raises invalid and another does not: here it is raised (log 67). -/
def FVal.fma (rm : Rm) (c a b : FVal) : FVal × Flags :=
  let (p, f) := a.mul b
  let (r, g) := FVal.add rm c p
  (r, f ||| g)

/-- The quotient of two naturals to 128 bits past the point, with a last bit that is set where it is inexact. -/
def quotSticky (m p : Nat) : Nat × Int :=
  let k := 128 + Nat.log2 p
  let q := m * 2 ^ k / p
  (2 * q + if m * 2 ^ k % p = 0 then 0 else 1, -(k : Int) - 1)

/-- The quotient (R248) and its flags: exact, or cut with a sticky last bit far below any rounding. -/
def FVal.div (a b : FVal) : FVal × Flags :=
  match a, b with
  | .nan s, y => (.nan false, Flags.when (s || y.isSig) .nv)
  | x, .nan s => (.nan false, Flags.when (s || x.isSig) .nv)
  | .inf _, .inf _ => (.nan false, .nv)
  | .inf n, y => (.inf (n != y.neg), 0)
  | x, .inf n => (.fin (n != x.neg) 0 0, 0)
  | .fin n m e, .fin k p f =>
    if p = 0 then (if m = 0 then (.nan false, .nv) else (.inf (n != k), .dz))
    else
      let (q, g) := quotSticky m p
      (.fin (n != k) q (e - f + g), 0)

/-- The integer square root by digits: `n` pairs of bits of `v`, with root r and remainder so far. -/
def isqrtGo : Nat → Nat → Nat → Nat → Nat × Nat
  | 0, _, r, rem => (r, rem)
  | n + 1, v, r, rem =>
    let rem := rem * 4 + v / 4 ^ n % 4
    let t := 4 * r + 1
    if t ≤ rem then isqrtGo n v (2 * r + 1) (rem - t) else isqrtGo n v (2 * r) rem

/-- The integer square root of `v` and its remainder. -/
def isqrt (v : Nat) : Nat × Nat := isqrtGo (Nat.log2 v / 2 + 1) v 0 0

/-- The square root of m x 2^e, with a sticky last bit. -/
def sqrtSticky (m : Nat) (e : Int) : Nat × Int :=
  let s : Nat := if e % 2 = 0 then 256 else 257
  let (r, rem) := isqrt (m * 2 ^ s)
  (2 * r + if rem = 0 then 0 else 1, (e - s) / 2 - 1)

/-- The reciprocal square root of m x 2^e, m > 0, with a sticky last bit. -/
def rsqrtSticky (m : Nat) (e : Int) : Nat × Int :=
  let (m, e) := if e % 2 = 0 then (m, e) else (2 * m, e - 1)
  let k := 256 + 2 * (Nat.log2 m)
  let v := 2 ^ k / m
  let (r, rem) := isqrt v
  (2 * r + if rem = 0 ∧ v * m = 2 ^ k then 0 else 1, -((k / 2 : Nat) : Int) - e / 2 - 1)

/-! ### Transcendental functions in fixed point (log 10) -/

/-- Fractional bits of the fixed-point arithmetic. -/
def fixBits : Nat := 384

/-- ln 2 in fixed point. -/
def ln2Fix : Nat := 0xb17217f7d1cf79abc9e3b39803f2f6af40f343267298b62d8a0d175b8baafa2be7b876206debac98559552fb4afa1b10

/-- The Taylor sum of exp: n terms left, term number k, the term t and the sum a, all in fixed point. -/
def expSeries : Nat → Nat → Nat → Nat → Nat → Nat
  | 0, _, _, _, a => a
  | n + 1, k, r, t, a =>
    let t := t * r / 2 ^ fixBits / k
    expSeries n (k + 1) r t (a + t)

/-- Squares a fixed-point number n times. -/
def squares : Nat → Nat → Nat
  | 0, a => a
  | n + 1, a => squares n (a * a / 2 ^ fixBits)

/-- exp(r) in fixed point, for 0 <= r < 1 in fixed point. -/
def expFix (r : Nat) : Nat := squares 16 (expSeries 24 1 (r / 2 ^ 16) (2 ^ fixBits) (2 ^ fixBits))

/-- The sum of the odd powers z^(2k+1)/(2k+1): n terms left, k, z squared, the power p and the sum a. -/
def atanhSeries : Nat → Nat → Nat → Nat → Nat → Nat
  | 0, _, _, _, a => a
  | n + 1, k, zz, p, a => atanhSeries n (k + 1) zz (p * zz / 2 ^ fixBits) (a + p / (2 * k + 1))

/-- ln(y) in fixed point, for 1 <= y < 2 in fixed point. -/
def lnFix (y : Nat) : Nat :=
  let one := 2 ^ fixBits
  let z := (y - one) * one / (y + one)
  2 * atanhSeries 130 0 (z * z / one) z 0

/-- A positive inexact value: a / 2^fixBits x 2^k with a set last bit. -/
def inexactFix (neg : Bool) (a : Nat) (k : Int) : FVal := .fin neg (2 * a + 1) (k - fixBits - 1)

/-- m x 2^e in fixed point, with its sign. -/
def toFix (neg : Bool) (m : Nat) (e : Int) : Int :=
  let k := e + fixBits
  let v : Nat := if 0 ≤ k then m * 2 ^ k.toNat else m / 2 ^ (-k).toNat
  if neg then -(v : Int) else v

/-- exp of a finite non-zero value. -/
def expFin (neg : Bool) (m : Nat) (e : Int) : FVal :=
  if 9 < e + Nat.log2 m then (if neg then .fin false 1 (-3000) else .fin false 3 1500)
  else
    let x := toFix neg m e
    let k := x / (ln2Fix : Int)
    inexactFix false (expFix (x - k * ln2Fix).toNat) k

/-- exp2 of a finite non-zero value; exact at an integer. -/
def exp2Fin (neg : Bool) (m : Nat) (e : Int) : FVal :=
  if 9 < e + Nat.log2 m then (if neg then .fin false 1 (-3000) else .fin false 3 1500)
  else
    let x := toFix neg m e
    let one : Int := 2 ^ fixBits
    let k := x / one
    let f := (x - k * one).toNat
    if f = 0 then .fin false 1 k else inexactFix false (expFix (f * ln2Fix / 2 ^ fixBits)) k

/-- log2 of a positive finite value; exact at a power of two. -/
def log2Fin (m : Nat) (e : Int) : FVal :=
  let top := Nat.log2 m
  let k : Int := e + top
  let y := m * 2 ^ (fixBits - top)
  if y = 2 ^ fixBits then .ofInt k 0
  else
    let l := k * 2 ^ fixBits + (lnFix y * 2 ^ fixBits / ln2Fix : Nat)
    inexactFix (decide (l < 0)) (if l < 0 then (-l).toNat - 1 else l.toNat) 0

/-- tanh of a finite non-zero value. -/
def tanhFin (neg : Bool) (m : Nat) (e : Int) : FVal :=
  let top : Int := e + Nat.log2 m
  if top < -60 then .fin neg (m * 2 ^ 64 - 1) (e - 64)
  else if 5 ≤ top then .fin neg (2 ^ 64 - 1) (-64)
  else
    let x := (toFix false m (e + 1)).toNat
    let k := x / ln2Fix
    let a := expFix (x - k * ln2Fix) * 2 ^ k
    let one := 2 ^ fixBits
    inexactFix neg ((a - one) * one / (a + one)) 0

/-- VSF's exact value and the flags of R110. -/
def sfApply (k : SfKind) (x : FVal) : FVal × Flags :=
  match x with
  | .nan s => (.nan false, Flags.when s .nv)
  | .inf neg =>
    match k with
    | .sqrt => if neg then (.nan false, .nv) else (.inf false, 0)
    | .rcp => (.fin neg 0 0, 0)
    | .rsqrt => if neg then (.nan false, .nv) else (.fin false 0 0, 0)
    | .exp | .exp2 => if neg then (.fin false 0 0, 0) else (.inf false, 0)
    | .log2 => if neg then (.nan false, .nv) else (.inf false, 0)
    | .tanh => (.fin neg 1 0, 0)
  | .fin neg 0 _ =>
    match k with
    | .sqrt => (.fin neg 0 0, 0)
    | .rcp => (.inf neg, .dz)
    | .rsqrt => (.inf neg, .dz)
    | .exp | .exp2 => (.fin false 1 0, 0)
    | .log2 => (.inf true, .dz)
    | .tanh => (.fin neg 0 0, 0)
  | .fin neg m e =>
    match k with
    | .sqrt => if neg then (.nan false, .nv) else let (n, q) := sqrtSticky m e; (.fin false n q, 0)
    | .rcp => let (n, q) := quotSticky 1 m; (.fin neg n (q - e), 0)
    | .rsqrt => if neg then (.nan false, .nv) else let (n, q) := rsqrtSticky m e; (.fin false n q, 0)
    | .exp => (expFin neg m e, 0)
    | .exp2 => (exp2Fin neg m e, 0)
    | .log2 => if neg then (.nan false, .nv) else (log2Fin m e, 0)
    | .tanh => (tanhFin neg m e, 0)

/-! ### Comparisons, minimum and maximum -/

/-- Whether a is less than b; false on a NaN (R104). -/
def FVal.lt (a b : FVal) : Bool :=
  match a, b with
  | .nan _, _ | _, .nan _ => false
  | .inf n, .inf k => n && !k
  | .inf n, .fin _ _ _ => n
  | .fin _ _ _, .inf k => !k
  | .fin n m e, .fin k p f =>
    let g := if m = 0 then f else if p = 0 then e else min e f
    decide ((FVal.fin n m e).scaled g < (FVal.fin k p f).scaled g)

/-- Whether a equals b; -0 equals +0, and false on a NaN (R104). -/
def FVal.eq (a b : FVal) : Bool := !a.isNan && !b.isNan && !a.lt b && !b.lt a

/-- maximumNumber (R104), with -0 below +0; the value and its flags. -/
def FVal.maxNum (a b : FVal) : FVal × Flags :=
  let f := Flags.when (a.isSig || b.isSig) .nv
  if a.isNan && b.isNan then (.nan false, f)
  else if a.isNan then (b, f)
  else if b.isNan then (a, f)
  else if a.lt b then (b, f)
  else if b.lt a then (a, f)
  else (if a.neg then b else a, f)

/-- minimumNumber (R104), with -0 below +0; the value and its flags. -/
def FVal.minNum (a b : FVal) : FVal × Flags :=
  let f := Flags.when (a.isSig || b.isSig) .nv
  if a.isNan && b.isNan then (.nan false, f)
  else if a.isNan then (b, f)
  else if b.isNan then (a, f)
  else if a.lt b then (a, f)
  else if b.lt a then (b, f)
  else (if a.neg then a else b, f)

/-! ### Conversions -/

/-- A conversion to another floating format (R105): a signalling NaN raises nv. -/
def Fmt.convert (f : Fmt) (x : FVal) (rm : Rm) (ov : Bool) : Nat × Flags :=
  let (b, g) := f.round x rm ov
  (b, g ||| Flags.when x.isSig .nv)

/-- A conversion to a two's-complement integer of n bits (R106), as its bits. -/
def toInteger (n : Nat) (x : FVal) (rm : Rm) : Nat × Flags :=
  let lo : Nat := 2 ^ (n - 1)
  match x with
  | .nan _ => (0, .nv)
  | .inf neg => (if neg then lo else lo - 1, .nv)
  | .fin neg m e =>
    if m = 0 then (0, 0)
    else
      let (m, e) := clampExp m e
      let (k, inexact) := roundTo rm neg m e 0
      if neg then
        if lo < k then (lo, .nv) else ((2 ^ n - k) % 2 ^ n, Flags.when inexact .nx)
      else if lo ≤ k then (lo - 1, .nv)
      else (k, Flags.when inexact .nx)

/-- A conversion between integer types (R107): sign-extends, or saturates with nv. -/
def intToInt (n : Nat) (i : Int) : Nat × Flags :=
  let lo : Int := 2 ^ (n - 1)
  if i < -lo then (2 ^ (n - 1), .nv)
  else if lo ≤ i then (2 ^ (n - 1) - 1, .nv)
  else ((i % 2 ^ n).toNat, 0)

/-- A value rounded with its own flags beside it. -/
def Fmt.finish (f : Fmt) (v : FVal × Flags) (rm : Rm) (ov : Bool) : Nat × Flags :=
  let (b, g) := f.round v.1 rm ov
  (b, g ||| v.2)

/-- The rounding mode of bits [1:0] of a control word. -/
def rmOf (w : Word) : Rm :=
  match wbits w 1 0 with
  | 0 => .rne | 1 => .rtz | 2 => .rdn | _ => .rup

end Sys2Proof.Machine
end

