-- ==== Sys2Proof/Config.lean ====
section
/-!
DEFINITION. What one part fixes and the spec leaves open: free values and functions, constants with no
body, so that nothing in Lean can evaluate them and a statement that mentions one holds for every value
of it. The logs named below say what each stands for. Beside them stand the fixed figures of the spec.
-/

namespace Sys2Proof.Config

/-- A fresh word for each draw: a value the spec leaves open after which the machine goes on (log 12). -/
opaque freeWord : Nat → Word

/-- A fresh byte for each draw, for the contents of a scratch way after WAYS.CFG (R179, log 12). -/
opaque freeByte : Nat → Byte

/-- The fixed hash of a line address that hash-spread placement uses (R176, log 8). -/
opaque spreadHash : Nat → Nat

/-- The choice of a line, superblock or translation that a full cache gives up: unit, then cycle (R171, R179, log 6). -/
opaque victim : Nat → Nat → Nat

/-- The counter block of counter mode for a sealed line: key / 64, write counter, block within the line (R181, log 9). -/
opaque lineBlock : Nat → Nat → Nat → List Byte

/-- The MAC of a sealed line under a key: key / 64, write counter, ciphertext (R181, log 9). -/
opaque lineMac : BitVec 256 → Nat → Nat → List Byte → BitVec 64

/-- The check code of a capability's bits [63:16] under the secret of a context (R220, log 9). -/
opaque checkCode : Nat → Nat → BitVec 16

/-- The bytes of CXL memory behind the port of a die, at most 4 TiB (R437, log 8). -/
opaque cxlSize : Nat → Nat

/-- The bytes of host memory given as tier 2 (R437, log 8). -/
opaque hostTierSize : Nat

/-- The hint of a slice that refuses a remote initiator, 1 to 15 after `hintOf` (R315, log 8). -/
opaque walkEstimate : Nat → Nat

/-- The SHA-384 hashes of the public keys that the fuses hold, RSA and SLH-DSA (R455, log 9). -/
opaque rsaFuse : BitVec 384
opaque slhFuse : BitVec 384

/-- The keys that stage 1 installs, a fresh one for each draw (R181, R408, R452, log 9). -/
opaque freshKey : Nat → BitVec 256

/-- The fuse and strap configuration that stage 1 measures into MR2 (R452, log 9). -/
opaque fuseConfig : List Byte

/-- Which of a die's two HBM stacks holds a line, by its physical address / 64 (R413, log 8). -/
opaque hbmStack : Nat → Nat

/-- The rest of a CAPABILITIES response, and the certificate chain of the part (R458, log 9). -/
opaque spdmCaps : List Byte
opaque certChain : List Byte

/-- The part's private key for ECDSA P-384, and the secret number of a signature, a fresh one for each draw (R458, log 9). -/
opaque ecdsaKey : Nat
opaque ecdsaNonce : Nat → Nat

/-- Whether a frame is free when the package fault service asks for one, a fresh answer for each request (R207, R403,
log 77). -/
opaque frameFree : Nat → Bool

/-- The package at the other end of a link port, where one is wired (R363, R435, log 8). -/
opaque portPeer : Nat → Option Nat

/-- The hint h of R315: the walk estimate, kept within 1 to 15. -/
def hintOf (k : Nat) : Nat := walkEstimate k % 15 + 1

/-- The number of bytes of one die's two HBM stacks, 192 GiB (R174). -/
def hbmDieBytes : Nat := 192 * 2 ^ 30

/-- The base of the local window, the top 64 KiB of the 56-bit space (R168). -/
def windowBase : Nat := 0x00FFFFFFFFFF0000

/-- The mailbox page of SPDM (R459). -/
def mailbox : Nat := 0x00FFFFF000000000

/-- The frames of a context's progress reserve (R403). -/
def reserveFrames : Nat := 18

/-- The default stall limit of a context, 10 ms in microseconds (R403). -/
def defaultStallLimit : Nat := 10000

/-- The default fence interval, 20 ms in microseconds (R436). -/
def defaultFenceInterval : Nat := 20000

/-- Cycles of the arithmetic clock in one microsecond (R5). -/
def cyclesPerMicro : Nat := 1050

end Sys2Proof.Config
end

