-- ==== Sys2Proof/Decode.lean ====
section
/-!
DEFINITION. Decoding: a 32-bit word to an instruction or none (R59, R60, R63 to R80), a tile command word
to a command or none (R81 to R84); and after it the encoder, written from the same tables. A word for
which `decodeWord` answers none falls under R60; a tile command word for which `decodeTcw` answers none
is refused with status ILLEGAL by R84.
-/

namespace Sys2Proof

/-- `n` bits of a 32-bit word from bit `lo` up. -/
def fld (w : BitVec 32) (lo n : Nat) : BitVec n := w.extractLsb' lo n

/-- The element type of a code (R69). -/
def ElemTy.ofBits (b : BitVec 3) : ElemTy :=
  if b = 0#3 then .i8 else if b = 1#3 then .i16 else if b = 2#3 then .i32 else if b = 3#3 then .i64
  else if b = 4#3 then .bf16 else if b = 5#3 then .fp16 else if b = 6#3 then .fp32 else .fp64

/-- The code of an element type (R69). -/
def ElemTy.toBits : ElemTy → BitVec 3
  | .i8 => 0 | .i16 => 1 | .i32 => 2 | .i64 => 3 | .bf16 => 4 | .fp16 => 5 | .fp32 => 6 | .fp64 => 7

/-- The rounding mode of a code (R69). -/
def Rm.ofBits (b : BitVec 2) : Rm :=
  if b = 0#2 then .rne else if b = 1#2 then .rtz else if b = 2#2 then .rdn else .rup

/-- The code of a rounding mode (R69). -/
def Rm.toBits : Rm → BitVec 2
  | .rne => 0 | .rtz => 1 | .rdn => 2 | .rup => 3

/-- The scope of a code; 5 and above are no scope (R69, R186). -/
def Scope.ofBits? (b : BitVec 5) : Option Scope :=
  if b = 0#5 then some .core else if b = 1#5 then some .caravan else if b = 2#5 then some .die
  else if b = 3#5 then some .package else if b = 4#5 then some .system else none

/-- The code of a scope (R69). -/
def Scope.toBits : Scope → BitVec 5
  | .core => 0 | .caravan => 1 | .die => 2 | .package => 3 | .system => 4

/-- The engine of a code; 5 and above are no engine (R69). -/
def Engine.ofBits? (b : BitVec 5) : Option Engine :=
  if b = 0#5 then some .matrix else if b = 1#5 then some .copy else if b = 2#5 then some .rule
  else if b = 3#5 then some .commons else if b = 4#5 then some .bulk else none

/-- The code of an engine (R69). -/
def Engine.toBits : Engine → BitVec 5
  | .matrix => 0 | .copy => 1 | .rule => 2 | .commons => 3 | .bulk => 4

/-- The VRED kind of a code (R74). -/
def RedKind.ofBits? (b : BitVec 6) : Option RedKind :=
  if b = 0#6 then some .sum else if b = 1#6 then some .max else if b = 2#6 then some .min else none

/-- The code of a VRED kind (R74). -/
def RedKind.toBits : RedKind → BitVec 6
  | .sum => 0 | .max => 1 | .min => 2

/-- The VSF kind of a code (R74). -/
def SfKind.ofBits? (b : BitVec 6) : Option SfKind :=
  if b = 0#6 then some .sqrt else if b = 1#6 then some .rcp else if b = 2#6 then some .rsqrt
  else if b = 3#6 then some .exp else if b = 4#6 then some .exp2 else if b = 5#6 then some .log2
  else if b = 6#6 then some .tanh else none

/-- The code of a VSF kind (R74). -/
def SfKind.toBits : SfKind → BitVec 6
  | .sqrt => 0 | .rcp => 1 | .rsqrt => 2 | .exp => 3 | .exp2 => 4 | .log2 => 5 | .tanh => 6

/-- The VROWST mode of a code (R295). -/
def RowMode.ofBits? (b : BitVec 6) : Option RowMode :=
  if b = 0#6 then some .stats else if b = 1#6 then some .expSum else if b = 2#6 then some .dots else none

/-- The code of a VROWST mode (R295). -/
def RowMode.toBits : RowMode → BitVec 6
  | .stats => 0 | .expSum => 1 | .dots => 2

/-- The bit of an FP8 kind (R75). -/
def Fp8Kind.toBit : Fp8Kind → BitVec 1
  | .e4m3 => 0 | .e5m2 => 1

/-- The FP8 kind of a bit (R75). -/
def Fp8Kind.ofBit (b : BitVec 1) : Fp8Kind := if b = 0#1 then .e4m3 else .e5m2

/-- The bit of a wide kind (R75). -/
def WideKind.toBit : WideKind → BitVec 1
  | .bf16 => 0 | .fp32 => 1

/-- The wide kind of a bit (R75). -/
def WideKind.ofBit (b : BitVec 1) : WideKind := if b = 0#1 then .bf16 else .fp32

/-- A flag of one bit. -/
def bitOf (b : Bool) : BitVec 1 := if b then 1 else 0

/-- Bits [31:25], the f7 of formats R and A. -/
def f7Of (w : BitVec 32) : Nat := (fld w 25 7).toNat
/-- Bits [14:12], the f3. -/
def f3Of (w : BitVec 32) : Nat := (fld w 12 3).toNat
/-- Bits [11:7], rd. -/
def rdOf (w : BitVec 32) : Reg := fld w 7 5
/-- Bits [19:15], rs1. -/
def rs1Of (w : BitVec 32) : Reg := fld w 15 5
/-- Bits [24:20], rs2. -/
def rs2Of (w : BitVec 32) : Reg := fld w 20 5
/-- Bits [31:20], imm12. -/
def immIOf (w : BitVec 32) : BitVec 12 := fld w 20 12
/-- The immediate of format S. -/
def immSOf (w : BitVec 32) : BitVec 12 := fld w 25 7 ++ fld w 7 5
/-- Bits [12:1] of the immediate of format B. -/
def immBOf (w : BitVec 32) : BitVec 12 := fld w 31 1 ++ fld w 7 1 ++ fld w 25 6 ++ fld w 8 4
/-- Bits [20:1] of the immediate of format J of the base. -/
def immJOf (w : BitVec 32) : BitVec 20 := fld w 31 1 ++ fld w 12 8 ++ fld w 20 1 ++ fld w 21 10
/-- Bits [12:7], vd. -/
def vdOf (w : BitVec 32) : VReg := fld w 7 6
/-- Bits [18:13], vs1. -/
def vs1Of (w : BitVec 32) : VReg := fld w 13 6
/-- Bits [24:19], vs2. -/
def vs2Of (w : BitVec 32) : VReg := fld w 19 6
/-- Bits [27:25], et. -/
def etOf (w : BitVec 32) : ElemTy := ElemTy.ofBits (fld w 25 3)
/-- Bits [31:15], offset17. -/
def off17Of (w : BitVec 32) : BitVec 17 := fld w 15 17

/-- `i` where every listed field is zero, else none: a non-zero reserved field falls under R60 (R7, R70). -/
def ifZero (b : Bool) (i : Instr) : Option Instr := if b then some i else none

/-- LOAD (R64). -/
def decodeLoad (w : BitVec 32) : Option Instr :=
  match f3Of w with
  | 0 => some (.lb (rdOf w) (rs1Of w) (immIOf w))
  | 1 => some (.lh (rdOf w) (rs1Of w) (immIOf w))
  | 2 => some (.lw (rdOf w) (rs1Of w) (immIOf w))
  | 3 => some (.ld (rdOf w) (rs1Of w) (immIOf w))
  | 4 => some (.lbu (rdOf w) (rs1Of w) (immIOf w))
  | 5 => some (.lhu (rdOf w) (rs1Of w) (immIOf w))
  | 6 => some (.lwu (rdOf w) (rs1Of w) (immIOf w))
  | _ => none

/-- STORE (R64). -/
def decodeStore (w : BitVec 32) : Option Instr :=
  match f3Of w with
  | 0 => some (.sb (rs1Of w) (rs2Of w) (immSOf w))
  | 1 => some (.sh (rs1Of w) (rs2Of w) (immSOf w))
  | 2 => some (.sw (rs1Of w) (rs2Of w) (immSOf w))
  | 3 => some (.sd (rs1Of w) (rs2Of w) (immSOf w))
  | _ => none

/-- BRANCH (R64). -/
def decodeBranch (w : BitVec 32) : Option Instr :=
  match f3Of w with
  | 0 => some (.beq (rs1Of w) (rs2Of w) (immBOf w))
  | 1 => some (.bne (rs1Of w) (rs2Of w) (immBOf w))
  | 4 => some (.blt (rs1Of w) (rs2Of w) (immBOf w))
  | 5 => some (.bge (rs1Of w) (rs2Of w) (immBOf w))
  | 6 => some (.bltu (rs1Of w) (rs2Of w) (immBOf w))
  | 7 => some (.bgeu (rs1Of w) (rs2Of w) (immBOf w))
  | _ => none

/-- OP-IMM (R64); the shifts check imm[11:6]. -/
def decodeOpImm (w : BitVec 32) : Option Instr :=
  match f3Of w with
  | 0 => some (.addi (rdOf w) (rs1Of w) (immIOf w))
  | 2 => some (.slti (rdOf w) (rs1Of w) (immIOf w))
  | 3 => some (.sltiu (rdOf w) (rs1Of w) (immIOf w))
  | 4 => some (.xori (rdOf w) (rs1Of w) (immIOf w))
  | 6 => some (.ori (rdOf w) (rs1Of w) (immIOf w))
  | 7 => some (.andi (rdOf w) (rs1Of w) (immIOf w))
  | 1 => ifZero (fld w 26 6 = 0) (.slli (rdOf w) (rs1Of w) (fld w 20 6))
  | 5 => if fld w 26 6 = 0 then some (.srli (rdOf w) (rs1Of w) (fld w 20 6)) else ifZero (fld w 26 6 = 0b010000) (.srai (rdOf w) (rs1Of w) (fld w 20 6))
  | _ => none

/-- OP-IMM-32 (R64); the shifts check imm[11:5]. -/
def decodeOpImm32 (w : BitVec 32) : Option Instr :=
  match f3Of w with
  | 0 => some (.addiw (rdOf w) (rs1Of w) (immIOf w))
  | 1 => ifZero (f7Of w = 0) (.slliw (rdOf w) (rs1Of w) (fld w 20 5))
  | 5 => if f7Of w = 0 then some (.srliw (rdOf w) (rs1Of w) (fld w 20 5)) else ifZero (f7Of w = 0x20) (.sraiw (rdOf w) (rs1Of w) (fld w 20 5))
  | _ => none

/-- OP (R64). -/
def decodeOp (w : BitVec 32) : Option Instr :=
  match f7Of w, f3Of w with
  | 0, 0 => some (.add (rdOf w) (rs1Of w) (rs2Of w))
  | 0, 1 => some (.sll (rdOf w) (rs1Of w) (rs2Of w))
  | 0, 2 => some (.slt (rdOf w) (rs1Of w) (rs2Of w))
  | 0, 3 => some (.sltu (rdOf w) (rs1Of w) (rs2Of w))
  | 0, 4 => some (.xor (rdOf w) (rs1Of w) (rs2Of w))
  | 0, 5 => some (.srl (rdOf w) (rs1Of w) (rs2Of w))
  | 0, 6 => some (.or (rdOf w) (rs1Of w) (rs2Of w))
  | 0, 7 => some (.and (rdOf w) (rs1Of w) (rs2Of w))
  | 32, 0 => some (.sub (rdOf w) (rs1Of w) (rs2Of w))
  | 32, 5 => some (.sra (rdOf w) (rs1Of w) (rs2Of w))
  | 1, 0 => some (.mul (rdOf w) (rs1Of w) (rs2Of w))
  | 1, 1 => some (.mulh (rdOf w) (rs1Of w) (rs2Of w))
  | 1, 2 => some (.mulhsu (rdOf w) (rs1Of w) (rs2Of w))
  | 1, 3 => some (.mulhu (rdOf w) (rs1Of w) (rs2Of w))
  | 1, 4 => some (.div (rdOf w) (rs1Of w) (rs2Of w))
  | 1, 5 => some (.divu (rdOf w) (rs1Of w) (rs2Of w))
  | 1, 6 => some (.rem (rdOf w) (rs1Of w) (rs2Of w))
  | 1, 7 => some (.remu (rdOf w) (rs1Of w) (rs2Of w))
  | _, _ => none

/-- OP-32 (R64). -/
def decodeOp32 (w : BitVec 32) : Option Instr :=
  match f7Of w, f3Of w with
  | 0, 0 => some (.addw (rdOf w) (rs1Of w) (rs2Of w))
  | 0, 1 => some (.sllw (rdOf w) (rs1Of w) (rs2Of w))
  | 0, 5 => some (.srlw (rdOf w) (rs1Of w) (rs2Of w))
  | 32, 0 => some (.subw (rdOf w) (rs1Of w) (rs2Of w))
  | 32, 5 => some (.sraw (rdOf w) (rs1Of w) (rs2Of w))
  | 1, 0 => some (.mulw (rdOf w) (rs1Of w) (rs2Of w))
  | 1, 4 => some (.divw (rdOf w) (rs1Of w) (rs2Of w))
  | 1, 5 => some (.divuw (rdOf w) (rs1Of w) (rs2Of w))
  | 1, 6 => some (.remw (rdOf w) (rs1Of w) (rs2Of w))
  | 1, 7 => some (.remuw (rdOf w) (rs1Of w) (rs2Of w))
  | _, _ => none

/-- AMO (R64): funct5 in [31:27], aq in bit 26, rl in bit 25; LR requires rs2 = 0. -/
def decodeAmo (w : BitVec 32) : Option Instr :=
  match (fld w 27 5).toNat, f3Of w with
  | 2, 2 => ifZero (rs2Of w = 0) (.lrW (rdOf w) (rs1Of w) (fld w 26 1 = 1) (fld w 25 1 = 1))
  | 3, 2 => some (.scW (rdOf w) (rs1Of w) (rs2Of w) (fld w 26 1 = 1) (fld w 25 1 = 1))
  | 1, 2 => some (.amoswapW (rdOf w) (rs1Of w) (rs2Of w) (fld w 26 1 = 1) (fld w 25 1 = 1))
  | 0, 2 => some (.amoaddW (rdOf w) (rs1Of w) (rs2Of w) (fld w 26 1 = 1) (fld w 25 1 = 1))
  | 4, 2 => some (.amoxorW (rdOf w) (rs1Of w) (rs2Of w) (fld w 26 1 = 1) (fld w 25 1 = 1))
  | 12, 2 => some (.amoandW (rdOf w) (rs1Of w) (rs2Of w) (fld w 26 1 = 1) (fld w 25 1 = 1))
  | 8, 2 => some (.amoorW (rdOf w) (rs1Of w) (rs2Of w) (fld w 26 1 = 1) (fld w 25 1 = 1))
  | 16, 2 => some (.amominW (rdOf w) (rs1Of w) (rs2Of w) (fld w 26 1 = 1) (fld w 25 1 = 1))
  | 20, 2 => some (.amomaxW (rdOf w) (rs1Of w) (rs2Of w) (fld w 26 1 = 1) (fld w 25 1 = 1))
  | 24, 2 => some (.amominuW (rdOf w) (rs1Of w) (rs2Of w) (fld w 26 1 = 1) (fld w 25 1 = 1))
  | 28, 2 => some (.amomaxuW (rdOf w) (rs1Of w) (rs2Of w) (fld w 26 1 = 1) (fld w 25 1 = 1))
  | 2, 3 => ifZero (rs2Of w = 0) (.lrD (rdOf w) (rs1Of w) (fld w 26 1 = 1) (fld w 25 1 = 1))
  | 3, 3 => some (.scD (rdOf w) (rs1Of w) (rs2Of w) (fld w 26 1 = 1) (fld w 25 1 = 1))
  | 1, 3 => some (.amoswapD (rdOf w) (rs1Of w) (rs2Of w) (fld w 26 1 = 1) (fld w 25 1 = 1))
  | 0, 3 => some (.amoaddD (rdOf w) (rs1Of w) (rs2Of w) (fld w 26 1 = 1) (fld w 25 1 = 1))
  | 4, 3 => some (.amoxorD (rdOf w) (rs1Of w) (rs2Of w) (fld w 26 1 = 1) (fld w 25 1 = 1))
  | 12, 3 => some (.amoandD (rdOf w) (rs1Of w) (rs2Of w) (fld w 26 1 = 1) (fld w 25 1 = 1))
  | 8, 3 => some (.amoorD (rdOf w) (rs1Of w) (rs2Of w) (fld w 26 1 = 1) (fld w 25 1 = 1))
  | 16, 3 => some (.amominD (rdOf w) (rs1Of w) (rs2Of w) (fld w 26 1 = 1) (fld w 25 1 = 1))
  | 20, 3 => some (.amomaxD (rdOf w) (rs1Of w) (rs2Of w) (fld w 26 1 = 1) (fld w 25 1 = 1))
  | 24, 3 => some (.amominuD (rdOf w) (rs1Of w) (rs2Of w) (fld w 26 1 = 1) (fld w 25 1 = 1))
  | 28, 3 => some (.amomaxuD (rdOf w) (rs1Of w) (rs2Of w) (fld w 26 1 = 1) (fld w 25 1 = 1))
  | _, _ => none

/-- MISC-MEM (R64): any fm, pred, succ, rd and rs1. -/
def decodeMiscMem (w : BitVec 32) : Option Instr :=
  match f3Of w with
  | 0 => some (.fence (rdOf w) (rs1Of w) (immIOf w))
  | 1 => some (.fenceI (rdOf w) (rs1Of w) (immIOf w))
  | _ => none

/-- SYSTEM (R64): five whole words, and the CSR instructions. -/
def decodeSystem (w : BitVec 32) : Option Instr :=
  match f3Of w with
  | 0 => if w = 0x00000073#32 then some .ecall else if w = 0x00100073#32 then some .ebreak
         else if w = 0x10200073#32 then some .sret else if w = 0x10500073#32 then some .wfi
         else if w = 0x30200073#32 then some .mret else none
  | 1 => some (.csrrw (rdOf w) (rs1Of w) (immIOf w))
  | 2 => some (.csrrs (rdOf w) (rs1Of w) (immIOf w))
  | 3 => some (.csrrc (rdOf w) (rs1Of w) (immIOf w))
  | 5 => some (.csrrwi (rdOf w) (rs1Of w) (immIOf w))
  | 6 => some (.csrrsi (rdOf w) (rs1Of w) (immIOf w))
  | 7 => some (.csrrci (rdOf w) (rs1Of w) (immIOf w))
  | _ => none

/-- custom-0, f3 = 000, by f7 (R71). -/
def decodeCustom0A (w : BitVec 32) : Option Instr :=
  match f7Of w with
  | 0 => some (.padd (rdOf w) (rs1Of w) (rs2Of w))
  | 1 => some (.ptag (rdOf w) (rs1Of w) (rs2Of w))
  | 2 => ifZero (rs2Of w = 0) (.pget (rdOf w) (rs1Of w))
  | 3 => ifZero (rs2Of w = 0) (.pbase (rdOf w) (rs1Of w))
  | 8 => ifZero (rs2Of w = 0 ∧ rs1Of w = 0 ∧ rdOf w = 0) .leave
  | 9 => ifZero (rs2Of w = 0 ∧ rs1Of w = 0 ∧ rdOf w = 0) .cvsync
  | 10 => ifZero (rs2Of w = 0 ∧ rs1Of w = 0) (.cvstat (rdOf w))
  | 16 => ifZero (rs2Of w = 0 ∧ rdOf w = 0) (.nestSet (rs1Of w))
  | 17 => ifZero (rs2Of w = 0 ∧ rs1Of w = 0) (.nestStat (rdOf w))
  | 24 => ifZero (fld w 24 1 = 0 ∧ rdOf w = 0) (.send (rs1Of w) (fld w 20 4))
  | 25 => ifZero (fld w 24 1 = 0) (.sendC (rs1Of w) (fld w 20 4) (rdOf w))
  | 26 => ifZero (rs2Of w = 0 ∧ rs1Of w = 0 ∧ rdOf w = 0) .done
  | 27 => ifZero (rs2Of w = 0 ∧ rs1Of w = 0 ∧ rdOf w = 0) .sealF
  | 28 => ifZero (rdOf w = 0) (.hbind (rs1Of w) (rs2Of w))
  | 29 => ifZero (rdOf w = 0) (.qctl (rs1Of w) (rs2Of w))
  | 30 => ifZero (rs2Of w = 0) (.qstat (rdOf w) (rs1Of w))
  | 31 => some (.launch (rdOf w) (rs1Of w) (rs2Of w))
  | 32 => ifZero (rdOf w = 0) (.sigset (rs1Of w) (rs2Of w))
  | 33 => ifZero (rdOf w = 0) (.sigclr (rs1Of w) (rs2Of w))
  | 34 => some (.sigtest (rdOf w) (rs1Of w) (rs2Of w))
  | 36 => ifZero (rs2Of w = 0) (.stashAlloc (rdOf w) (rs1Of w))
  | 37 => ifZero (rs2Of w = 0 ∧ rdOf w = 0) (.stashFree (rs1Of w))
  | _ => none

/-- custom-0 (R71, R72). -/
def decodeCustom0 (w : BitVec 32) : Option Instr :=
  match f3Of w with
  | 0 => decodeCustom0A w
  | 1 => some (.paddi (rdOf w) (rs1Of w) (immIOf w))
  | 2 => ifZero (fld w 28 4 = 0) (.ptagi (rdOf w) (rs1Of w) (fld w 20 8))
  | 3 => ifZero (rs1Of w = 0) (.repi (immIOf w) (fld w 10 2) (fld w 7 3))
  | 4 => ifZero (immIOf w = 0) (.rep (rs1Of w) (fld w 10 2) (fld w 7 3))
  | 5 => if rdOf w = 0 then some (.join (off17Of w)) else ifZero (rdOf w = 1) (.joinT (off17Of w))
  | 6 => ifZero (1 ≤ (rdOf w).toNat ∧ (rdOf w).toNat ≤ 28) (.nestNext (rdOf w) (off17Of w))
  | _ => none

/-- custom-1, by vop (R73). -/
def decodeCustom1 (w : BitVec 32) : Option Instr :=
  match (fld w 28 4).toNat with
  | 0 => some (.vadd (etOf w) (vdOf w) (vs1Of w) (vs2Of w))
  | 1 => some (.vsub (etOf w) (vdOf w) (vs1Of w) (vs2Of w))
  | 2 => some (.vmul (etOf w) (vdOf w) (vs1Of w) (vs2Of w))
  | 3 => ifZero (etOf w).isFloat (.vfma (etOf w) (vdOf w) (vs1Of w) (vs2Of w))
  | 4 => ifZero (etOf w).isFloat (.vfnma (etOf w) (vdOf w) (vs1Of w) (vs2Of w))
  | 5 => some (.vmin (etOf w) (vdOf w) (vs1Of w) (vs2Of w))
  | 6 => some (.vmax (etOf w) (vdOf w) (vs1Of w) (vs2Of w))
  | 7 => some (.vcmple (etOf w) (vdOf w) (vs1Of w) (vs2Of w))
  | 8 => ifZero (etOf w = .i64) (.vand (vdOf w) (vs1Of w) (vs2Of w))
  | 9 => ifZero (etOf w = .i64) (.vor (vdOf w) (vs1Of w) (vs2Of w))
  | 10 => ifZero (etOf w = .i64) (.vxor (vdOf w) (vs1Of w) (vs2Of w))
  | 11 => ifZero (!(etOf w).isFloat) (.vshl (etOf w) (vdOf w) (vs1Of w) (vs2Of w))
  | 12 => ifZero (!(etOf w).isFloat) (.vshr (etOf w) (vdOf w) (vs1Of w) (vs2Of w))
  | 13 => ifZero (!(etOf w).isFloat) (.vshra (etOf w) (vdOf w) (vs1Of w) (vs2Of w))
  | 14 => some (.vcmplt (etOf w) (vdOf w) (vs1Of w) (vs2Of w))
  | 15 => some (.vcmpeq (etOf w) (vdOf w) (vs1Of w) (vs2Of w))
  | _ => none

/-- VCVT8 (R75): direction in bit 27, kind in bit 26, wide kind in bit 25, lane group in [24:22]. -/
def decodeVcvt8 (w : BitVec 32) : Option Instr :=
  let k := Fp8Kind.ofBit (fld w 26 1)
  let wide := WideKind.ofBit (fld w 25 1)
  let g : BitVec 3 := fld w 22 3
  if wide.groups ≤ g.toNat then none
  else if fld w 27 1 = 0 then
    some (.vcvt8ToFp8 k wide (vdOf w) (vs1Of w) g (Rm.ofBits (fld w 20 2)) (fld w 19 1 = 1))
  else ifZero (fld w 19 3 = 0) (.vcvt8FromFp8 k wide (vdOf w) (vs1Of w) g)

/-- custom-2, by vop (R74). -/
def decodeCustom2 (w : BitVec 32) : Option Instr :=
  match (fld w 28 4).toNat with
  | 0 => some (.vsel (etOf w) (vdOf w) (vs1Of w) (vs2Of w))
  | 1 => some (.vshuf (etOf w) (vdOf w) (vs1Of w) (vs2Of w))
  | 2 => some (.vzip (etOf w) (vdOf w) (vs1Of w) (vs2Of w))
  | 3 => some (.vunzip (etOf w) (vdOf w) (vs1Of w) (vs2Of w))
  | 4 => (RedKind.ofBits? (vs2Of w)).map fun k => .vred (etOf w) (vdOf w) (vs1Of w) k
  | 5 => ifZero (etOf w).isFloat (.vdiv (etOf w) (vdOf w) (vs1Of w) (vs2Of w))
  | 6 => (SfKind.ofBits? (vs2Of w)).bind fun k => ifZero (k.accepts (etOf w)) (.vsf (etOf w) (vdOf w) (vs1Of w) k)
  | 7 => ifZero (fld w 25 3 ≠ fld w 22 3) (.vcvt (etOf w) (ElemTy.ofBits (fld w 22 3)) (vdOf w) (vs1Of w) (Rm.ofBits (fld w 20 2)) (fld w 19 1 = 1))
  | 8 => decodeVcvt8 w
  | 9 => ifZero (fld w 18 1 = 0 ∧ (vs2Of w).toNat < (etOf w).lanes) (.vins (etOf w) (vdOf w) (fld w 13 5) (vs2Of w))
  | 10 => ifZero (fld w 12 1 = 0 ∧ (vs2Of w).toNat < (etOf w).lanes) (.vext (etOf w) (fld w 7 5) (vs1Of w) (vs2Of w))
  | 11 => ifZero (fld w 18 1 = 0 ∧ vs2Of w = 0) (.vbcast (etOf w) (vdOf w) (fld w 13 5))
  | 12 => if etOf w = .fp32 ∧ (vdOf w).toNat ≤ 61 then (RowMode.ofBits? (vs2Of w)).map fun m => .vrowst (vdOf w) (fld w 17 2) (fld w 13 4) m else none
  | 13 => ifZero (etOf w = .i32 ∧ vs2Of w = 0) (.vdmask (vdOf w) (vs1Of w))
  | _ => none

/-- A word whose scope stands in the five bits `b` (R69, R76). -/
def withScope (b : BitVec 5) (k : Scope → Instr) : Option Instr := (Scope.ofBits? b).map k

/-- A word whose engine stands in the rs1 field (R69, R76). -/
def withEngine (w : BitVec 32) (k : Engine → Instr) : Option Instr := (Engine.ofBits? (rs1Of w)).map k

/-- Format VM, f3 = 101 (R77): kind in [11:9], [8:7] zero. -/
def decodeVm (w : BitVec 32) : Option Instr :=
  if fld w 7 2 ≠ 0 then none else
  match (fld w 9 3).toNat with
  | 0 => some (.vld (fld w 26 6) (rs1Of w) (fld w 20 6))
  | 1 => some (.vst (fld w 26 6) (rs1Of w) (fld w 20 6))
  | 2 => some (.vstNt (fld w 26 6) (rs1Of w) (fld w 20 6))
  | 3 => some (.vldRo (fld w 26 6) (rs1Of w) (fld w 20 6))
  | 4 => some (.vldb (fld w 26 6) (rs1Of w) (fld w 20 6))
  | _ => none

/-- custom-3 outside format VM, by f3 and f7 (R76, R78). COMMONS.CFG and SLOT.RESUME decode to
their first row; the data decides the others. -/
def decodeCustom3A (w : BitVec 32) : Option Instr :=
  match f3Of w, f7Of w with
  | 0, 0 => withEngine w fun e => .enq (rdOf w) e (rs2Of w)
  | 0, 1 => withEngine w fun e => .enqm (rdOf w) e (rs2Of w)
  | 1, 0 => if rs2Of w = 0 ∧ rdOf w = 0 then withEngine w .eqwait else none
  | 1, 1 => if rs2Of w = 0 then withEngine w (.eqstat (rdOf w)) else none
  | 2, 0 => ifZero (rdOf w = 0) (.barInit (rs1Of w) (rs2Of w))
  | 2, 1 => ifZero (rdOf w = 0) (.barExpect (rs1Of w) (rs2Of w))
  | 2, 2 => ifZero (rs2Of w = 0) (.barArrive (rdOf w) (rs1Of w))
  | 2, 3 => withScope (rdOf w) (.barWait (rs1Of w) (rs2Of w))
  | 2, 4 => some (.barTest (rdOf w) (rs1Of w) (rs2Of w))
  | 3, 0 => withScope (rs2Of w) (.ldaq (rdOf w) (rs1Of w))
  | 3, 1 => withScope (rdOf w) (.strl (rs1Of w) (rs2Of w))
  | 3, 2 => if rs2Of w = 0 ∧ rs1Of w = 0 then withScope (rdOf w) .fenceAq else none
  | 3, 3 => if rs2Of w = 0 ∧ rs1Of w = 0 then withScope (rdOf w) .fenceRl else none
  | 3, 4 => if rs2Of w = 0 ∧ rs1Of w = 0 then withScope (rdOf w) .fenceAr else none
  | 3, 5 => ifZero (rs2Of w = 0 ∧ rdOf w = 0) (.invl (rs1Of w))
  | 3, 6 => ifZero (rs2Of w = 0 ∧ rdOf w = 0) (.wbk (rs1Of w))
  | 3, 7 => ifZero (rdOf w = 0) (.stNt (rs1Of w) (rs2Of w))
  | 3, 8 => ifZero (rs2Of w = 0 ∧ rdOf w = 0) (.pref (rs1Of w))
  | 3, 9 => some (.amofaddS (rdOf w) (rs1Of w) (rs2Of w))
  | 3, 10 => some (.amofaddD (rdOf w) (rs1Of w) (rs2Of w))
  | 3, 11 => some (.amofmaxS (rdOf w) (rs1Of w) (rs2Of w))
  | 4, 0 => ifZero (rdOf w = 0) (.gdepx (rs1Of w) (rs2Of w))
  | 4, 1 => ifZero (rdOf w = 0) (.gdepw (rs1Of w) (rs2Of w))
  | 4, 2 => ifZero (rs2Of w = 0) (.gest (rdOf w) (rs1Of w))
  | 4, 3 => ifZero (rs2Of w = 0) (.gspread (rdOf w) (rs1Of w))
  | 4, 4 => ifZero (rdOf w = 0) (.gxch (rs1Of w) (rs2Of w))
  | 4, 5 => ifZero (rs2Of w = 0) (.gmass (rdOf w) (rs1Of w))
  | 6, 0 => ifZero (rdOf w = 0) (.ctxSave (rs1Of w) (rs2Of w))
  | 6, 1 => some (.ctxRest (rdOf w) (rs1Of w) (rs2Of w))
  | 6, 2 => ifZero (rdOf w = 0) (.plbFill (rs1Of w) (rs2Of w))
  | 6, 3 => ifZero (rs2Of w = 0 ∧ rdOf w = 0) (.plbInv (rs1Of w))
  | 6, 4 => ifZero (rdOf w = 0) (.tslice (rs1Of w) (rs2Of w))
  | 6, 5 => ifZero (rdOf w = 0) (.ruleInst (rs1Of w) (rs2Of w))
  | 6, 6 => ifZero (rs2Of w = 0) (.ruleAct (rdOf w) (rs1Of w))
  | 6, 7 => ifZero (rdOf w = 0) (.minj (rs1Of w) (rs2Of w))
  | 6, 8 => ifZero (rs2Of w = 0 ∧ rdOf w = 0) (.slotResume (rs1Of w))
  | 6, 9 => ifZero (rs2Of w = 0 ∧ rdOf w = 0) (.slotKill (rs1Of w))
  | 6, 10 => ifZero (rs2Of w = 0 ∧ rdOf w = 0) (.commonsCfgDefine (rs1Of w))
  | 6, 11 => ifZero (rs2Of w = 0 ∧ rdOf w = 0) (.pgFlush (rs1Of w))
  | 6, 12 => ifZero (rdOf w = 0) (.waysCfg (rs1Of w) (rs2Of w))
  | _, _ => none

/-- custom-3 (R76 to R78). -/
def decodeCustom3 (w : BitVec 32) : Option Instr :=
  if f3Of w = 5 then decodeVm w else decodeCustom3A w

/-- The instruction of a 32-bit word, or none where the word falls under R60 (R59, R63). -/
def decodeWord (w : BitVec 32) : Option Instr :=
  match (fld w 0 7).toNat with
  | 0x37 => some (.lui (rdOf w) (fld w 12 20))
  | 0x17 => some (.auipc (rdOf w) (fld w 12 20))
  | 0x6F => some (.jal (rdOf w) (immJOf w))
  | 0x67 => ifZero (f3Of w = 0) (.jalr (rdOf w) (rs1Of w) (immIOf w))
  | 0x63 => decodeBranch w
  | 0x03 => decodeLoad w
  | 0x23 => decodeStore w
  | 0x13 => decodeOpImm w
  | 0x1B => decodeOpImm32 w
  | 0x33 => decodeOp w
  | 0x3B => decodeOp32 w
  | 0x0F => decodeMiscMem w
  | 0x2F => decodeAmo w
  | 0x73 => decodeSystem w
  | 0x0B => decodeCustom0 w
  | 0x2B => decodeCustom1 w
  | 0x5B => decodeCustom2 w
  | 0x7B => decodeCustom3 w
  | _ => none

/-! ### The encoder of 32-bit words (R64, R68, R71 to R78) -/

/-- Formats R and A: f7, rs2, rs1, f3, rd, op. -/
def fmtR (f7 : BitVec 7) (rs2 rs1 : BitVec 5) (f3 : BitVec 3) (rd : BitVec 5) (op : BitVec 7) : BitVec 32 :=
  f7 ++ rs2 ++ rs1 ++ f3 ++ rd ++ op

/-- Format I: imm12, rs1, f3, rd, op. -/
def fmtI (imm : BitVec 12) (rs1 : BitVec 5) (f3 : BitVec 3) (rd : BitVec 5) (op : BitVec 7) : BitVec 32 :=
  imm ++ rs1 ++ f3 ++ rd ++ op

/-- Format S: imm[11:5], rs2, rs1, f3, imm[4:0], op. -/
def fmtS (imm : BitVec 12) (rs2 rs1 : BitVec 5) (f3 : BitVec 3) (op : BitVec 7) : BitVec 32 :=
  imm.extractLsb' 5 7 ++ rs2 ++ rs1 ++ f3 ++ imm.extractLsb' 0 5 ++ op

/-- Format B, with bits [12:1] of the offset: [12], [10:5], rs2, rs1, f3, [4:1], [11], op. -/
def fmtB (imm : BitVec 12) (rs2 rs1 : BitVec 5) (f3 : BitVec 3) : BitVec 32 :=
  imm.extractLsb' 11 1 ++ imm.extractLsb' 4 6 ++ rs2 ++ rs1 ++ f3 ++ imm.extractLsb' 0 4
    ++ imm.extractLsb' 10 1 ++ (0x63 : BitVec 7)

/-- Format J of the base, with bits [20:1] of the offset: [20], [10:1], [11], [19:12], rd, op. -/
def fmtJ (imm : BitVec 20) (rd : BitVec 5) : BitVec 32 :=
  imm.extractLsb' 19 1 ++ imm.extractLsb' 0 10 ++ imm.extractLsb' 10 1 ++ imm.extractLsb' 11 8
    ++ rd ++ (0x6F : BitVec 7)

/-- Format U: imm20, rd, op. -/
def fmtU (imm : BitVec 20) (rd : BitVec 5) (op : BitVec 7) : BitVec 32 := imm ++ rd ++ op

/-- A shift by an immediate of six bits: imm[11:6], shamt, rs1, f3, rd, OP-IMM. -/
def fmtSh6 (hi : BitVec 6) (sh : BitVec 6) (rs1 : BitVec 5) (f3 : BitVec 3) (rd : BitVec 5) : BitVec 32 :=
  hi ++ sh ++ rs1 ++ f3 ++ rd ++ (0x13 : BitVec 7)

/-- An atomic of the base: funct5, aq, rl, rs2, rs1, f3, rd, AMO. -/
def fmtAmo (f5 : BitVec 5) (aq rl : Bool) (rs2 rs1 : BitVec 5) (f3 : BitVec 3) (rd : BitVec 5) : BitVec 32 :=
  f5 ++ bitOf aq ++ bitOf rl ++ rs2 ++ rs1 ++ f3 ++ rd ++ (0x2F : BitVec 7)

/-- The device's format J (R68): offset17, f3, rd, custom-0. -/
def fmtO (off : BitVec 17) (f3 : BitVec 3) (rd : BitVec 5) : BitVec 32 := off ++ f3 ++ rd ++ (0x0B : BitVec 7)

/-- Format V (R68): vop, et, vs2, vs1, vd, op. -/
def fmtV (vop : BitVec 4) (et : BitVec 3) (vs2 vs1 vd : BitVec 6) (op : BitVec 7) : BitVec 32 :=
  vop ++ et ++ vs2 ++ vs1 ++ vd ++ op

/-- Formats VC and VC8 (R68): vop, three bits, three bits, rm, ov, vs1, vd, custom-2. -/
def fmtVC (vop : BitVec 4) (a b : BitVec 3) (rm : BitVec 2) (ov : Bool) (vs1 vd : BitVec 6) : BitVec 32 :=
  vop ++ a ++ b ++ rm ++ bitOf ov ++ vs1 ++ vd ++ (0x5B : BitVec 7)

/-- Format VM (R68): vd, imm6, rs1, f3 101, kind, 00, custom-3. -/
def fmtVM (vd imm : BitVec 6) (rs1 : BitVec 5) (kind : BitVec 3) : BitVec 32 :=
  vd ++ imm ++ rs1 ++ (5 : BitVec 3) ++ kind ++ (0 : BitVec 2) ++ (0x7B : BitVec 7)

/-- The word of an instruction, or none for a row that is no 32-bit word. -/
def encodeWord : Instr → Option (BitVec 32)
  | .lui rd imm => some (fmtU imm rd 0x37)
  | .auipc rd imm => some (fmtU imm rd 0x17)
  | .jal rd imm => some (fmtJ imm rd)
  | .jalr rd rs1 imm => some (fmtI imm rs1 0 rd 0x67)
  | .beq rs1 rs2 imm => some (fmtB imm rs2 rs1 0)
  | .bne rs1 rs2 imm => some (fmtB imm rs2 rs1 1)
  | .blt rs1 rs2 imm => some (fmtB imm rs2 rs1 4)
  | .bge rs1 rs2 imm => some (fmtB imm rs2 rs1 5)
  | .bltu rs1 rs2 imm => some (fmtB imm rs2 rs1 6)
  | .bgeu rs1 rs2 imm => some (fmtB imm rs2 rs1 7)
  | .lb rd rs1 imm => some (fmtI imm rs1 0 rd 0x03)
  | .lh rd rs1 imm => some (fmtI imm rs1 1 rd 0x03)
  | .lw rd rs1 imm => some (fmtI imm rs1 2 rd 0x03)
  | .ld rd rs1 imm => some (fmtI imm rs1 3 rd 0x03)
  | .lbu rd rs1 imm => some (fmtI imm rs1 4 rd 0x03)
  | .lhu rd rs1 imm => some (fmtI imm rs1 5 rd 0x03)
  | .lwu rd rs1 imm => some (fmtI imm rs1 6 rd 0x03)
  | .sb rs1 rs2 imm => some (fmtS imm rs2 rs1 0 0x23)
  | .sh rs1 rs2 imm => some (fmtS imm rs2 rs1 1 0x23)
  | .sw rs1 rs2 imm => some (fmtS imm rs2 rs1 2 0x23)
  | .sd rs1 rs2 imm => some (fmtS imm rs2 rs1 3 0x23)
  | .addi rd rs1 imm => some (fmtI imm rs1 0 rd 0x13)
  | .slti rd rs1 imm => some (fmtI imm rs1 2 rd 0x13)
  | .sltiu rd rs1 imm => some (fmtI imm rs1 3 rd 0x13)
  | .xori rd rs1 imm => some (fmtI imm rs1 4 rd 0x13)
  | .ori rd rs1 imm => some (fmtI imm rs1 6 rd 0x13)
  | .andi rd rs1 imm => some (fmtI imm rs1 7 rd 0x13)
  | .slli rd rs1 sh => some (fmtSh6 0 sh rs1 1 rd)
  | .srli rd rs1 sh => some (fmtSh6 0 sh rs1 5 rd)
  | .srai rd rs1 sh => some (fmtSh6 0b010000 sh rs1 5 rd)
  | .addiw rd rs1 imm => some (fmtI imm rs1 0 rd 0x1B)
  | .slliw rd rs1 sh => some (fmtR 0 sh rs1 1 rd 0x1B)
  | .srliw rd rs1 sh => some (fmtR 0 sh rs1 5 rd 0x1B)
  | .sraiw rd rs1 sh => some (fmtR 0x20 sh rs1 5 rd 0x1B)
  | .add rd rs1 rs2 => some (fmtR 0 rs2 rs1 0 rd 0x33)
  | .sll rd rs1 rs2 => some (fmtR 0 rs2 rs1 1 rd 0x33)
  | .slt rd rs1 rs2 => some (fmtR 0 rs2 rs1 2 rd 0x33)
  | .sltu rd rs1 rs2 => some (fmtR 0 rs2 rs1 3 rd 0x33)
  | .xor rd rs1 rs2 => some (fmtR 0 rs2 rs1 4 rd 0x33)
  | .srl rd rs1 rs2 => some (fmtR 0 rs2 rs1 5 rd 0x33)
  | .or rd rs1 rs2 => some (fmtR 0 rs2 rs1 6 rd 0x33)
  | .and rd rs1 rs2 => some (fmtR 0 rs2 rs1 7 rd 0x33)
  | .sub rd rs1 rs2 => some (fmtR 32 rs2 rs1 0 rd 0x33)
  | .sra rd rs1 rs2 => some (fmtR 32 rs2 rs1 5 rd 0x33)
  | .mul rd rs1 rs2 => some (fmtR 1 rs2 rs1 0 rd 0x33)
  | .mulh rd rs1 rs2 => some (fmtR 1 rs2 rs1 1 rd 0x33)
  | .mulhsu rd rs1 rs2 => some (fmtR 1 rs2 rs1 2 rd 0x33)
  | .mulhu rd rs1 rs2 => some (fmtR 1 rs2 rs1 3 rd 0x33)
  | .div rd rs1 rs2 => some (fmtR 1 rs2 rs1 4 rd 0x33)
  | .divu rd rs1 rs2 => some (fmtR 1 rs2 rs1 5 rd 0x33)
  | .rem rd rs1 rs2 => some (fmtR 1 rs2 rs1 6 rd 0x33)
  | .remu rd rs1 rs2 => some (fmtR 1 rs2 rs1 7 rd 0x33)
  | .addw rd rs1 rs2 => some (fmtR 0 rs2 rs1 0 rd 0x3B)
  | .sllw rd rs1 rs2 => some (fmtR 0 rs2 rs1 1 rd 0x3B)
  | .srlw rd rs1 rs2 => some (fmtR 0 rs2 rs1 5 rd 0x3B)
  | .subw rd rs1 rs2 => some (fmtR 32 rs2 rs1 0 rd 0x3B)
  | .sraw rd rs1 rs2 => some (fmtR 32 rs2 rs1 5 rd 0x3B)
  | .mulw rd rs1 rs2 => some (fmtR 1 rs2 rs1 0 rd 0x3B)
  | .divw rd rs1 rs2 => some (fmtR 1 rs2 rs1 4 rd 0x3B)
  | .divuw rd rs1 rs2 => some (fmtR 1 rs2 rs1 5 rd 0x3B)
  | .remw rd rs1 rs2 => some (fmtR 1 rs2 rs1 6 rd 0x3B)
  | .remuw rd rs1 rs2 => some (fmtR 1 rs2 rs1 7 rd 0x3B)
  | .fence rd rs1 imm => some (fmtI imm rs1 0 rd 0x0F)
  | .fenceI rd rs1 imm => some (fmtI imm rs1 1 rd 0x0F)
  | .lrW rd rs1 aq rl => some (fmtAmo 2 aq rl 0 rs1 2 rd)
  | .scW rd rs1 rs2 aq rl => some (fmtAmo 3 aq rl rs2 rs1 2 rd)
  | .amoswapW rd rs1 rs2 aq rl => some (fmtAmo 1 aq rl rs2 rs1 2 rd)
  | .amoaddW rd rs1 rs2 aq rl => some (fmtAmo 0 aq rl rs2 rs1 2 rd)
  | .amoxorW rd rs1 rs2 aq rl => some (fmtAmo 4 aq rl rs2 rs1 2 rd)
  | .amoandW rd rs1 rs2 aq rl => some (fmtAmo 12 aq rl rs2 rs1 2 rd)
  | .amoorW rd rs1 rs2 aq rl => some (fmtAmo 8 aq rl rs2 rs1 2 rd)
  | .amominW rd rs1 rs2 aq rl => some (fmtAmo 16 aq rl rs2 rs1 2 rd)
  | .amomaxW rd rs1 rs2 aq rl => some (fmtAmo 20 aq rl rs2 rs1 2 rd)
  | .amominuW rd rs1 rs2 aq rl => some (fmtAmo 24 aq rl rs2 rs1 2 rd)
  | .amomaxuW rd rs1 rs2 aq rl => some (fmtAmo 28 aq rl rs2 rs1 2 rd)
  | .lrD rd rs1 aq rl => some (fmtAmo 2 aq rl 0 rs1 3 rd)
  | .scD rd rs1 rs2 aq rl => some (fmtAmo 3 aq rl rs2 rs1 3 rd)
  | .amoswapD rd rs1 rs2 aq rl => some (fmtAmo 1 aq rl rs2 rs1 3 rd)
  | .amoaddD rd rs1 rs2 aq rl => some (fmtAmo 0 aq rl rs2 rs1 3 rd)
  | .amoxorD rd rs1 rs2 aq rl => some (fmtAmo 4 aq rl rs2 rs1 3 rd)
  | .amoandD rd rs1 rs2 aq rl => some (fmtAmo 12 aq rl rs2 rs1 3 rd)
  | .amoorD rd rs1 rs2 aq rl => some (fmtAmo 8 aq rl rs2 rs1 3 rd)
  | .amominD rd rs1 rs2 aq rl => some (fmtAmo 16 aq rl rs2 rs1 3 rd)
  | .amomaxD rd rs1 rs2 aq rl => some (fmtAmo 20 aq rl rs2 rs1 3 rd)
  | .amominuD rd rs1 rs2 aq rl => some (fmtAmo 24 aq rl rs2 rs1 3 rd)
  | .amomaxuD rd rs1 rs2 aq rl => some (fmtAmo 28 aq rl rs2 rs1 3 rd)
  | .ecall => some (0x00000073#32)
  | .ebreak => some (0x00100073#32)
  | .sret => some (0x10200073#32)
  | .wfi => some (0x10500073#32)
  | .mret => some (0x30200073#32)
  | .csrrw rd rs1 csr => some (fmtI csr rs1 1 rd 0x73)
  | .csrrs rd rs1 csr => some (fmtI csr rs1 2 rd 0x73)
  | .csrrc rd rs1 csr => some (fmtI csr rs1 3 rd 0x73)
  | .csrrwi rd rs1 csr => some (fmtI csr rs1 5 rd 0x73)
  | .csrrsi rd rs1 csr => some (fmtI csr rs1 6 rd 0x73)
  | .csrrci rd rs1 csr => some (fmtI csr rs1 7 rd 0x73)
  | .padd rd rs1 rs2 => some (fmtR 0 rs2 rs1 0 rd 0x0B)
  | .ptag rd rs1 rs2 => some (fmtR 1 rs2 rs1 0 rd 0x0B)
  | .pget rd rs1 => some (fmtR 2 0 rs1 0 rd 0x0B)
  | .pbase rd rs1 => some (fmtR 3 0 rs1 0 rd 0x0B)
  | .paddi rd rs1 imm => some (fmtI imm rs1 1 rd 0x0B)
  | .ptagi rd rs1 tag => some (fmtI ((0 : BitVec 4) ++ tag) rs1 2 rd 0x0B)
  | .repi n stride fields => some (fmtI n 0 3 (stride ++ fields) 0x0B)
  | .rep rs1 stride fields => some (fmtI 0 rs1 4 (stride ++ fields) 0x0B)
  | .nestSet rs1 => some (fmtR 16 0 rs1 0 0 0x0B)
  | .nestStat rd => some (fmtR 17 0 0 0 rd 0x0B)
  | .nestNext rd off => some (fmtO off 6 rd)
  | .join off => some (fmtO off 5 0)
  | .joinT off => some (fmtO off 5 1)
  | .leave => some (fmtR 8 0 0 0 0 0x0B)
  | .cvsync => some (fmtR 9 0 0 0 0 0x0B)
  | .cvstat rd => some (fmtR 10 0 0 0 rd 0x0B)
  | .send rs1 g => some (fmtR 24 ((0 : BitVec 1) ++ g) rs1 0 0 0x0B)
  | .sendC rs1 g cap => some (fmtR 25 ((0 : BitVec 1) ++ g) rs1 0 cap 0x0B)
  | .done => some (fmtR 26 0 0 0 0 0x0B)
  | .sealF => some (fmtR 27 0 0 0 0 0x0B)
  | .hbind rs1 rs2 => some (fmtR 28 rs2 rs1 0 0 0x0B)
  | .qctl rs1 rs2 => some (fmtR 29 rs2 rs1 0 0 0x0B)
  | .qstat rd rs1 => some (fmtR 30 0 rs1 0 rd 0x0B)
  | .launch rd rs1 rs2 => some (fmtR 31 rs2 rs1 0 rd 0x0B)
  | .sigset rs1 rs2 => some (fmtR 32 rs2 rs1 0 0 0x0B)
  | .sigclr rs1 rs2 => some (fmtR 33 rs2 rs1 0 0 0x0B)
  | .sigtest rd rs1 rs2 => some (fmtR 34 rs2 rs1 0 rd 0x0B)
  | .stashAlloc rd rs1 => some (fmtR 36 0 rs1 0 rd 0x0B)
  | .stashFree rs1 => some (fmtR 37 0 rs1 0 0 0x0B)
  | .vadd et vd vs1 vs2 => some (fmtV 0 et.toBits vs2 vs1 vd 0x2B)
  | .vsub et vd vs1 vs2 => some (fmtV 1 et.toBits vs2 vs1 vd 0x2B)
  | .vmul et vd vs1 vs2 => some (fmtV 2 et.toBits vs2 vs1 vd 0x2B)
  | .vfma et vd vs1 vs2 => some (fmtV 3 et.toBits vs2 vs1 vd 0x2B)
  | .vfnma et vd vs1 vs2 => some (fmtV 4 et.toBits vs2 vs1 vd 0x2B)
  | .vmin et vd vs1 vs2 => some (fmtV 5 et.toBits vs2 vs1 vd 0x2B)
  | .vmax et vd vs1 vs2 => some (fmtV 6 et.toBits vs2 vs1 vd 0x2B)
  | .vcmple et vd vs1 vs2 => some (fmtV 7 et.toBits vs2 vs1 vd 0x2B)
  | .vand vd vs1 vs2 => some (fmtV 8 3 vs2 vs1 vd 0x2B)
  | .vor vd vs1 vs2 => some (fmtV 9 3 vs2 vs1 vd 0x2B)
  | .vxor vd vs1 vs2 => some (fmtV 10 3 vs2 vs1 vd 0x2B)
  | .vshl et vd vs1 vs2 => some (fmtV 11 et.toBits vs2 vs1 vd 0x2B)
  | .vshr et vd vs1 vs2 => some (fmtV 12 et.toBits vs2 vs1 vd 0x2B)
  | .vshra et vd vs1 vs2 => some (fmtV 13 et.toBits vs2 vs1 vd 0x2B)
  | .vcmplt et vd vs1 vs2 => some (fmtV 14 et.toBits vs2 vs1 vd 0x2B)
  | .vcmpeq et vd vs1 vs2 => some (fmtV 15 et.toBits vs2 vs1 vd 0x2B)
  | .vsel et vd vs1 vs2 => some (fmtV 0 et.toBits vs2 vs1 vd 0x5B)
  | .vshuf et vd vs1 vs2 => some (fmtV 1 et.toBits vs2 vs1 vd 0x5B)
  | .vzip et vd vs1 vs2 => some (fmtV 2 et.toBits vs2 vs1 vd 0x5B)
  | .vunzip et vd vs1 vs2 => some (fmtV 3 et.toBits vs2 vs1 vd 0x5B)
  | .vred et vd vs1 k => some (fmtV 4 et.toBits k.toBits vs1 vd 0x5B)
  | .vdiv et vd vs1 vs2 => some (fmtV 5 et.toBits vs2 vs1 vd 0x5B)
  | .vsf et vd vs1 k => some (fmtV 6 et.toBits k.toBits vs1 vd 0x5B)
  | .vcvt dst src vd vs1 rm ov => some (fmtVC 7 dst.toBits src.toBits rm.toBits ov vs1 vd)
  | .vcvt8ToFp8 k w vd vs1 g rm ov => some (fmtVC 8 ((0 : BitVec 1) ++ k.toBit ++ w.toBit) g rm.toBits ov vs1 vd)
  | .vcvt8FromFp8 k w vd vs1 g => some (fmtVC 8 ((1 : BitVec 1) ++ k.toBit ++ w.toBit) g 0 false vs1 vd)
  | .vins et vd xs lane => some (fmtV 9 et.toBits lane ((0 : BitVec 1) ++ xs) vd 0x5B)
  | .vext et xd vs1 lane => some (fmtV 10 et.toBits lane vs1 ((0 : BitVec 1) ++ xd) 0x5B)
  | .vbcast et vd xs => some (fmtV 11 et.toBits 0 ((0 : BitVec 1) ++ xs) vd 0x5B)
  | .vrowst vd acc group mode => some (fmtV 12 6 mode.toBits (acc ++ group) vd 0x5B)
  | .vdmask vd vs1 => some (fmtV 13 2 0 vs1 vd 0x5B)
  | .enq rd e p => some (fmtR 0 p e.toBits 0 rd 0x7B)
  | .enqm rd e rs2 => some (fmtR 1 rs2 e.toBits 0 rd 0x7B)
  | .eqwait e => some (fmtR 0 0 e.toBits 1 0 0x7B)
  | .eqstat rd e => some (fmtR 1 0 e.toBits 1 rd 0x7B)
  | .barInit rs1 rs2 => some (fmtR 0 rs2 rs1 2 0 0x7B)
  | .barExpect rs1 rs2 => some (fmtR 1 rs2 rs1 2 0 0x7B)
  | .barArrive rd rs1 => some (fmtR 2 0 rs1 2 rd 0x7B)
  | .barWait rs1 rs2 sc => some (fmtR 3 rs2 rs1 2 sc.toBits 0x7B)
  | .barTest rd rs1 rs2 => some (fmtR 4 rs2 rs1 2 rd 0x7B)
  | .ldaq rd rs1 sc => some (fmtR 0 sc.toBits rs1 3 rd 0x7B)
  | .strl rs1 rs2 sc => some (fmtR 1 rs2 rs1 3 sc.toBits 0x7B)
  | .fenceAq sc => some (fmtR 2 0 0 3 sc.toBits 0x7B)
  | .fenceRl sc => some (fmtR 3 0 0 3 sc.toBits 0x7B)
  | .fenceAr sc => some (fmtR 4 0 0 3 sc.toBits 0x7B)
  | .invl rs1 => some (fmtR 5 0 rs1 3 0 0x7B)
  | .wbk rs1 => some (fmtR 6 0 rs1 3 0 0x7B)
  | .stNt rs1 rs2 => some (fmtR 7 rs2 rs1 3 0 0x7B)
  | .pref rs1 => some (fmtR 8 0 rs1 3 0 0x7B)
  | .amofaddS rd rs1 rs2 => some (fmtR 9 rs2 rs1 3 rd 0x7B)
  | .amofaddD rd rs1 rs2 => some (fmtR 10 rs2 rs1 3 rd 0x7B)
  | .amofmaxS rd rs1 rs2 => some (fmtR 11 rs2 rs1 3 rd 0x7B)
  | .gdepx rs1 rs2 => some (fmtR 0 rs2 rs1 4 0 0x7B)
  | .gdepw rs1 rs2 => some (fmtR 1 rs2 rs1 4 0 0x7B)
  | .gest rd rs1 => some (fmtR 2 0 rs1 4 rd 0x7B)
  | .gspread rd rs1 => some (fmtR 3 0 rs1 4 rd 0x7B)
  | .gxch rs1 rs2 => some (fmtR 4 rs2 rs1 4 0 0x7B)
  | .gmass rd rs1 => some (fmtR 5 0 rs1 4 rd 0x7B)
  | .vld vd rs1 imm => some (fmtVM vd imm rs1 0)
  | .vst vd rs1 imm => some (fmtVM vd imm rs1 1)
  | .vstNt vd rs1 imm => some (fmtVM vd imm rs1 2)
  | .vldRo vd rs1 imm => some (fmtVM vd imm rs1 3)
  | .vldb vd rs1 imm => some (fmtVM vd imm rs1 4)
  | .ctxSave rs1 rs2 => some (fmtR 0 rs2 rs1 6 0 0x7B)
  | .ctxRest rd rs1 rs2 => some (fmtR 1 rs2 rs1 6 rd 0x7B)
  | .plbFill rs1 rs2 => some (fmtR 2 rs2 rs1 6 0 0x7B)
  | .plbInv rs1 => some (fmtR 3 0 rs1 6 0 0x7B)
  | .tslice rs1 rs2 => some (fmtR 4 rs2 rs1 6 0 0x7B)
  | .ruleInst rs1 rs2 => some (fmtR 5 rs2 rs1 6 0 0x7B)
  | .ruleAct rd rs1 => some (fmtR 6 0 rs1 6 rd 0x7B)
  | .minj rs1 rs2 => some (fmtR 7 rs2 rs1 6 0 0x7B)
  | .slotResume rs1 => some (fmtR 8 0 rs1 6 0 0x7B)
  | .slotResumeSsip rs1 => some (fmtR 8 0 rs1 6 0 0x7B)
  | .slotKill rs1 => some (fmtR 9 0 rs1 6 0 0x7B)
  | .commonsCfgDefine rs1 => some (fmtR 10 0 rs1 6 0 0x7B)
  | .commonsCfgRemove rs1 => some (fmtR 10 0 rs1 6 0 0x7B)
  | .commonsCfgReport rs1 => some (fmtR 10 0 rs1 6 0 0x7B)
  | .pgFlush rs1 => some (fmtR 11 0 rs1 6 0 0x7B)
  | .waysCfg rs1 rs2 => some (fmtR 12 rs2 rs1 6 0 0x7B)
  -- tile command words and events have no 32-bit word
  | .ntIdleDrain _ _ | .minjFlip _ | .mwload _ _ | .mmulF _ _ => none
  | .mmulT _ _ | .mouter _ _ | .mmulG _ _ | .mzero _ _ => none
  | .mstore _ _ | .maccld _ _ | .mchk _ _ _ _ _ | .mpatch _ _ _ _ _ => none
  | .mgang _ _ | .gangFormationTimeout _ | .mres _ _ _ _ | .mscale _ _ _ _ => none
  | .cpy _ _ _ _ _ | .cpy2d _ _ _ | .cpyt _ _ _ | .cpys _ _ _ _ _ => none
  | .cpyg _ _ _ _ _ _ _ | .fill _ _ _ _ _ | .bcpy _ _ _ _ _ _ _ | .bfill _ _ _ _ _ => none
  | .bulkForward _ | .landing _ | .retryAfterResend _ | .upd _ _ => none
  | .updT _ _ | .metaBwd _ _ _ _ _ _ _ | .quarClr _ _ _ _ | .ruleQ _ _ _ => none
  | .ruleBlockUpdate _ | .ruleReport _ | .ruleActExchange _ _ | .gseed _ _ _ _ _ _ => none
  | .gdepR _ _ _ _ _ | .gread _ _ _ _ | .gpace _ _ _ _ | .droverExchange _ _ => none
  | .droverPacketReceive _ _ | .escrowResolve _ _ _ | .escrowReturn _ _ | .escrowEarlyResend _ _ => none
  | .messageDepart _ | .stageResolve _ | .messageArrive _ | .remoteCommandArrive _ => none
  | .spillReturn _ _ | .firingStart _ | .convoyGatherEnd _ _ | .laneResolve _ _ => none
  | .joinWaitAttach _ | .launchDispatch | .launchEnd _ _ | .faultRecord _ => none
  | .softwareInterrupt _ | .stallLimitExpiry _ | .tsliceExpiry _ | .saveDeadlineExpiry _ => none
  | .hbmRetrainRequest _ | .hbmRetrainRun _ | .read _ | .write _ => none
  | .writeWc _ | .writeWcPerform _ _ | .hostLaunch _ | .hfence _ => none
  | .setid _ | .serviceFence _ | .admitPeer _ | .limits _ => none
  | .give _ | .take _ | .pxmode _ | .mint _ => none
  | .rulectx _ | .clearfail _ | .unfencecore _ | .stateLastSeq _ => none
  | .stateNextEventSeq _ | .stateReplay _ | .stateBootStatus _ | .ucieModuleFailover _ _ => none
  | .linkResendTimeout _ _ | .laneLockTimeout _ | .linkRestored _ | .resyncComplete _ _ _ => none
  | .fenceIntervalExpiry _ | .cxlLinkFailure _ | .thermalThrottle _ _ | .thermalStop _ => none
  | .bootStage0 _ | .bootStage1 _ _ _ _ _ | .bootStage2 | .getVersion _ => none
  | .getCapabilities _ | .negotiateAlgorithms _ | .getDigests _ | .getCertificate _ => none
  | .challenge _ | .getMeasurements _ | .illegalInstruction _ | .instructionFetchFault => none
  | .contextCreate _ => none

/-! ### Tile command words (R81 to R84) -/

/-- A tile command word: four 64-bit words, q0 to q3 (R81). -/
structure Tcw where
  q0 : Word
  q1 : Word
  q2 : Word
  q3 : Word
  deriving DecidableEq, Repr

/-- `n` bits of a 64-bit word from bit `lo` up. -/
def qfld (q : Word) (lo n : Nat) : BitVec n := q.extractLsb' lo n

/-- The eop of a tile command word, q0[7:0] (R82). -/
def Tcw.eop (t : Tcw) : Nat := (qfld t.q0 0 8).toNat

/-- The engine field of a tile command word, q0[10:8] (R82). -/
def Tcw.engine (t : Tcw) : Nat := (qfld t.q0 8 3).toNat

/-- The header fields of a tile command word (R82). -/
def Tcw.hdr (t : Tcw) : TcwHdr :=
  { prio := qfld t.q0 11 3, cmsg := qfld t.q0 14 1 = 1, cq := qfld t.q0 15 3,
    rm := Rm.ofBits (qfld t.q0 18 2), ov := qfld t.q0 20 1 = 1 }

/-- q0[31:0] of a command (R82): the reserved bits [31:21] are zero. -/
def hdrBits (h : TcwHdr) (eop : BitVec 8) (engine : BitVec 3) : BitVec 32 :=
  (0 : BitVec 11) ++ bitOf h.ov ++ h.rm.toBits ++ h.cq ++ bitOf h.cmsg ++ h.prio ++ engine ++ eop

/-- The scalar fields of a product (R270). -/
def Tcw.product (t : Tcw) : ProductF :=
  { p1 := t.q1, p3 := t.q3, m := qfld t.q0 32 8, acc := qfld t.q0 40 2, pair := qfld t.q0 42 1 = 1,
    zf := qfld t.q0 43 1 = 1, chk := qfld t.q0 44 1 = 1, steps := qfld t.q0 45 5,
    ncols := qfld t.q0 50 13, stride1 := qfld t.q2 0 16, stride2 := qfld t.q2 16 16,
    rlimit := qfld t.q2 32 8, climit := qfld t.q2 40 13, sofs := qfld t.q2 53 11 }

/-- The words of a product (R270). -/
def productTcw (h : TcwHdr) (eop : BitVec 8) (f : ProductF) : Tcw :=
  { q0 := (0 : BitVec 1) ++ f.ncols ++ f.steps ++ bitOf f.chk ++ bitOf f.zf ++ bitOf f.pair ++ f.acc
      ++ f.m ++ hdrBits h eop 0,
    q1 := f.p1, q2 := f.sofs ++ f.climit ++ f.rlimit ++ f.stride2 ++ f.stride1, q3 := f.p3 }

/-- The fields of MSTORE and MACCLD (R278). -/
def Tcw.accMove (t : Tcw) : AccMoveF :=
  { ptr := t.q1, acc := qfld t.q0 32 2, pair := qfld t.q0 34 1 = 1, rows := qfld t.q0 35 8,
    cols := qfld t.q0 43 7, stride := qfld t.q2 0 16 }

/-- The words of MSTORE and MACCLD (R278). -/
def accMoveTcw (h : TcwHdr) (eop : BitVec 8) (f : AccMoveF) : Tcw :=
  { q0 := (0 : BitVec 14) ++ f.cols ++ f.rows ++ bitOf f.pair ++ f.acc ++ hdrBits h eop 0,
    q1 := f.ptr, q2 := (0 : BitVec 48) ++ f.stride, q3 := 0 }

/-- The barrier reference of a copy command, q0[52:32] (R316). -/
def Tcw.bar (t : Tcw) : BarRef := { bv := qfld t.q0 52 1 = 1, bar := qfld t.q0 32 20 }

/-- q0 of a copy or bulk command: eleven bits per command, the barrier reference, the header (R316). -/
def copyQ0 (h : TcwHdr) (eop : BitVec 8) (engine : BitVec 3) (b : BarRef) (top : BitVec 11) : Word :=
  top ++ bitOf b.bv ++ b.bar ++ hdrBits h eop engine

/-- The fields of UPD and UPD.T (R345). -/
def Tcw.upd (t : Tcw) : UpdF :=
  { region := t.q1, grad := t.q2, first := qfld t.q0 32 24, count := qfld t.q3 0 25,
    steptag := qfld t.q3 32 32, slot := qfld t.q0 56 3 }

/-- The words of UPD and UPD.T (R345). -/
def updTcw (h : TcwHdr) (eop : BitVec 8) (f : UpdF) : Tcw :=
  { q0 := (0 : BitVec 5) ++ f.slot ++ f.first ++ hdrBits h eop 2, q1 := f.region, q2 := f.grad,
    q3 := f.steptag ++ (0 : BitVec 7) ++ f.count }

/-- The words of a command (R82, R83 and the entries of the classes), or none for any other row. -/
def encodeTcw : Instr → Option Tcw
  | .mwload h f => some
      { q0 := (0 : BitVec 1) ++ f.sofs ++ f.cvt ++ bitOf f.stepchk ++ bitOf f.prev ++ f.cols ++ f.rows
          ++ hdrBits h 0x01 0,
        q1 := f.w, q2 := f.steptag ++ (0 : BitVec 16) ++ f.wstride, q3 := 0 }
  | .mmulF h f => some (productTcw h 0x02 f)
  | .mmulT h f => some (productTcw h 0x03 f)
  | .mouter h f => some (productTcw h 0x04 f)
  | .mmulG h f => some (productTcw h 0x05 f)
  | .mzero h m => some { q0 := (0 : BitVec 28) ++ m ++ hdrBits h 0x06 0, q1 := 0, q2 := 0, q3 := 0 }
  | .mstore h f => some (accMoveTcw h 0x07 f)
  | .maccld h f => some (accMoveTcw h 0x08 f)
  | .mchk h r acc pair tol => some
      { q0 := (0 : BitVec 21) ++ tol ++ bitOf pair ++ acc ++ hdrBits h 0x09 0, q1 := r, q2 := 0, q3 := 0 }
  | .mpatch h acc row col v => some
      { q0 := (0 : BitVec 18) ++ col ++ row ++ acc ++ hdrBits h 0x0A 0, q1 := 0,
        q2 := (0 : BitVec 32) ++ v, q3 := 0 }
  | .mgang h d => some { q0 := (0 : BitVec 32) ++ hdrBits h 0x0B 0, q1 := d, q2 := 0, q3 := 0 }
  | .mres h d acc rows => some
      { q0 := (0 : BitVec 22) ++ rows ++ acc ++ hdrBits h 0x0C 0, q1 := d, q2 := 0, q3 := 0 }
  | .mscale h p acc rows => some
      { q0 := (0 : BitVec 22) ++ rows ++ acc ++ hdrBits h 0x0D 0, q1 := p, q2 := 0, q3 := 0 }
  | .cpy h b src dst n => some
      { q0 := copyQ0 h 0x21 1 b 0, q1 := src, q2 := dst, q3 := (0 : BitVec 24) ++ n }
  | .cpy2d h b f => some
      { q0 := copyQ0 h 0x22 1 b 0, q1 := f.src, q2 := f.dst,
        q3 := f.dstride ++ f.sstride ++ f.cols ++ f.rows }
  | .cpyt h b f => some
      { q0 := copyQ0 h 0x23 1 b 0, q1 := f.src, q2 := f.dst,
        q3 := f.dstride ++ f.sstride ++ f.collim ++ f.rowlim ++ f.cols.extractLsb' 0 8
          ++ f.rows.extractLsb' 0 8 }
  | .cpys h b src n st => some
      { q0 := copyQ0 h 0x24 1 b 0, q1 := src, q2 := (0 : BitVec 22) ++ st ++ n, q3 := 0 }
  | .cpyg h b ix src dst c eb => some
      { q0 := copyQ0 h 0x25 1 b (eb ++ c), q1 := ix, q2 := src, q3 := dst }
  | .fill h b dst pat n => some
      { q0 := copyQ0 h 0x26 1 b 0, q1 := dst, q2 := pat, q3 := (0 : BitVec 24) ++ n }
  | .bcpy h b src dst n pkg r => some
      { q0 := copyQ0 h 0x81 4 b 0, q1 := src, q2 := dst, q3 := (0 : BitVec 11) ++ bitOf r ++ pkg ++ n }
  | .bfill h b dst pat n => some
      { q0 := copyQ0 h 0x82 4 b 0, q1 := dst, q2 := pat, q3 := (0 : BitVec 24) ++ n }
  | .upd h f => some (updTcw h 0x41 f)
  | .updT h f => some (updTcw h 0x42 f)
  | .metaBwd h region adj rg first count kk => some
      { q0 := kk ++ count ++ first ++ hdrBits h 0x43 2, q1 := region, q2 := adj, q3 := rg }
  | .quarClr h region first count => some
      { q0 := (0 : BitVec 8) ++ first ++ hdrBits h 0x44 2, q1 := region,
        q2 := (0 : BitVec 39) ++ count, q3 := 0 }
  | .ruleQ h d rc => some { q0 := (0 : BitVec 29) ++ rc ++ hdrBits h 0x45 2, q1 := d, q2 := 0, q3 := 0 }
  | .gseed h cells src n tag w0 => some
      { q0 := (0 : BitVec 8) ++ n ++ hdrBits h 0x61 3, q1 := cells, q2 := src, q3 := tag ++ w0 }
  | .gdepR h cells src n dw => some
      { q0 := (0 : BitVec 8) ++ n ++ hdrBits h 0x62 3, q1 := cells, q2 := src, q3 := dw }
  | .gread h cells dst n => some
      { q0 := (0 : BitVec 8) ++ n ++ hdrBits h 0x63 3, q1 := cells, q2 := dst, q3 := 0 }
  | .gpace h region mode share => some
      { q0 := (0 : BitVec 22) ++ share ++ mode ++ hdrBits h 0x64 3, q1 := region, q2 := 0, q3 := 0 }
  | _ => none

/-- The command that a tile command word's eop and claimed fields name, reserved bits not yet checked (R83). -/
def parseTcw (t : Tcw) : Option Instr :=
  let h := t.hdr
  match t.eop with
  | 0x01 => some (.mwload h
      { w := t.q1, rows := qfld t.q0 32 9, cols := qfld t.q0 41 7, prev := qfld t.q0 48 1 = 1,
        stepchk := qfld t.q0 49 1 = 1, cvt := qfld t.q0 50 2, sofs := qfld t.q0 52 11,
        wstride := qfld t.q2 0 16, steptag := qfld t.q2 32 32 })
  | 0x02 => some (.mmulF h t.product)
  | 0x03 => some (.mmulT h t.product)
  | 0x04 => some (.mouter h t.product)
  | 0x05 => some (.mmulG h t.product)
  | 0x06 => some (.mzero h (qfld t.q0 32 4))
  | 0x07 => some (.mstore h t.accMove)
  | 0x08 => some (.maccld h t.accMove)
  | 0x09 => some (.mchk h t.q1 (qfld t.q0 32 2) (qfld t.q0 34 1 = 1) (qfld t.q0 35 8))
  | 0x0A => some (.mpatch h (qfld t.q0 32 2) (qfld t.q0 34 6) (qfld t.q0 40 6) (qfld t.q2 0 32))
  | 0x0B => some (.mgang h t.q1)
  | 0x0C => some (.mres h t.q1 (qfld t.q0 32 2) (qfld t.q0 34 8))
  | 0x0D => some (.mscale h t.q1 (qfld t.q0 32 2) (qfld t.q0 34 8))
  | 0x21 => some (.cpy h t.bar t.q1 t.q2 (qfld t.q3 0 40))
  | 0x22 => some (.cpy2d h t.bar
      { src := t.q1, dst := t.q2, rows := qfld t.q3 0 16, cols := qfld t.q3 16 16, rowlim := 0, collim := 0,
        sstride := qfld t.q3 32 16, dstride := qfld t.q3 48 16 })
  | 0x23 => some (.cpyt h t.bar
      { src := t.q1, dst := t.q2, rows := (0 : BitVec 8) ++ (qfld t.q3 0 8), cols := (0 : BitVec 8) ++ (qfld t.q3 8 8),
        rowlim := qfld t.q3 16 8, collim := qfld t.q3 24 8, sstride := qfld t.q3 32 16, dstride := qfld t.q3 48 16 })
  | 0x24 => some (.cpys h t.bar t.q1 (qfld t.q2 0 40) (qfld t.q2 40 2))
  | 0x25 => some (.cpyg h t.bar t.q1 t.q2 t.q3 (qfld t.q0 53 8) (qfld t.q0 61 3))
  | 0x26 => some (.fill h t.bar t.q1 t.q2 (qfld t.q3 0 40))
  | 0x81 => some (.bcpy h t.bar t.q1 t.q2 (qfld t.q3 0 40) (qfld t.q3 40 12) (qfld t.q3 52 1 = 1))
  | 0x82 => some (.bfill h t.bar t.q1 t.q2 (qfld t.q3 0 40))
  | 0x41 => some (.upd h t.upd)
  | 0x42 => some (.updT h t.upd)
  | 0x43 => some (.metaBwd h t.q1 t.q2 t.q3 (qfld t.q0 32 17) (qfld t.q0 49 12) (qfld t.q0 61 3))
  | 0x44 => some (.quarClr h t.q1 (qfld t.q0 32 24) (qfld t.q2 0 25))
  | 0x45 => some (.ruleQ h t.q1 (qfld t.q0 32 3))
  | 0x61 => some (.gseed h t.q1 t.q2 (qfld t.q0 32 24) (qfld t.q3 32 32) (qfld t.q3 0 32))
  | 0x62 => some (.gdepR h t.q1 t.q2 (qfld t.q0 32 24) t.q3)
  | 0x63 => some (.gread h t.q1 t.q2 (qfld t.q0 32 24))
  | 0x64 => some (.gpace h t.q1 (qfld t.q0 32 2) (qfld t.q0 34 8))
  | _ => none

/-- The command of a tile command word, or none where the engine refuses it with ILLEGAL (R84): the eop is
unassigned, eop[7:5] differs from the engine field, or a bit no field claims is set. Every field claimed by
the command is rebuilt by `encodeTcw`; a reserved bit, and a field the command does not use, is the
difference between the word and the rebuilt one. -/
def decodeTcw (t : Tcw) : Option Instr :=
  match parseTcw t with
  | some i => if i.wf ∧ encodeTcw i = some t then some i else none
  | none => none

/-- The eight 32-bit words of a tile command word, q0 first, low half first (R81). -/
def Tcw.words (t : Tcw) : List (BitVec 32) :=
  [qfld t.q0 0 32, qfld t.q0 32 32, qfld t.q1 0 32, qfld t.q1 32 32,
   qfld t.q2 0 32, qfld t.q2 32 32, qfld t.q3 0 32, qfld t.q3 32 32]

/-- The tile command word of eight 32-bit words (R81). -/
def Tcw.ofWords : List (BitVec 32) → Option Tcw
  | [a, b, c, d, e, f, g, h] => some { q0 := b ++ a, q1 := d ++ c, q2 := f ++ e, q3 := h ++ g }
  | _ => none

/-- The words of a well-formed instruction: one for an instruction, eight for a command, none for an event. -/
def encode (i : Instr) : List (BitVec 32) :=
  match encodeWord i, encodeTcw i with
  | some w, _ => [w]
  | none, some t => t.words
  | none, none => []

/-- The instruction or command of a list of words: total, rejecting by none. -/
def decode : List (BitVec 32) → Option Instr
  | [w] => decodeWord w
  | ws => (Tcw.ofWords ws).bind decodeTcw

/-- The instruction read from an instruction whose bits are `w`, bit 0 the least significant bit of the first
word; with more than 32 bits, the tile command word of those bits. -/
def decodeTableWord (nbits w : Nat) : Option Instr :=
  if nbits ≤ 32 then decodeWord (BitVec.ofNat 32 w)
  else decodeTcw { q0 := BitVec.ofNat 64 w, q1 := BitVec.ofNat 64 (w >>> 64),
                   q2 := BitVec.ofNat 64 (w >>> 128), q3 := BitVec.ofNat 64 (w >>> 192) }

end Sys2Proof
end

