-- ==== Sys2Proof/Machine/State.lean ====
section
/-!
DEFINITION. The state of one KSG-40A package as plain data, the reasons a step can stop, and the state
right after reset. Maps are lists of (key, value) pairs; a key that is not listed reads as the default that
the accessors of Machine/Ops.lean name. A core is numbered by coord[14:2], a slot by coord[14:0], a
caravan, tile, slice and rule engine by coord[14:5] (R20); the steward core is core 8,192 (log 15).
-/

namespace Sys2Proof.Machine

/-- A map from natural numbers, as a list of pairs. -/
abbrev Sparse (α : Type) := List (Nat × α)

/-- Privilege modes; M-mode only on the steward core (R393). -/
inductive Priv where
  | u | s | m
  deriving DecidableEq, Repr

/-- The pending fault of a parked slot: cause, address, gfault reason and level, access kind (R396, R402). -/
structure ParkInfo where
  cause  : Nat
  addr   : Word
  reason : Nat
  level  : Nat
  access : Nat
  deriving DecidableEq, Repr

/-- The state of a slot (R156). -/
inductive Run where
  | idle
  | attached (lane : Nat)
  | stray
  | joinWait (target : Nat)
  | parked (p : ParkInfo)
  deriving DecidableEq, Repr

/-- What a slot's instruction waits for once it has a standing registration (R66, R325, R355, R380, R422). -/
inductive Wait where
  | none
  /-- WFI holds issue until a supervisor-class event is pending (R66). -/
  | event
  /-- A registered waiter of the barrier at a place (R325). -/
  | barrier (place : Nat)
  /-- The waiter has been released (R323). -/
  | released
  /-- GXCH after its commit point, until its escrow is resolved (R380). -/
  | escrow (port : Nat) (seq : BitVec 32)
  /-- RULE.ACT until every slice has exchanged; then x[rd] receives the result (R355). -/
  | exchange (rc rd : Nat) (result : Word)
  /-- MINJ until the flip is made (R422). -/
  | flip
  deriving DecidableEq, Repr

/-- A running repetition (R127): the count, the first iteration not committed, stride and fields. -/
structure RepRun where
  count  : Nat
  iter   : Nat
  stride : Nat
  fields : BitVec 3
  deriving DecidableEq, Repr

/-- A message: its eight words, the stage it carries (R203), its sender (slot, firing id, context) and, for
a start message, the launch it belongs to (R228); whether a kill put it back for a replay (R222). -/
structure Msg where
  words  : List Word
  stage  : BitVec 8
  src    : Nat
  fid    : Nat
  ctx    : Nat
  launch : Option Nat
  replay : Bool
  deriving DecidableEq, Repr

/-- An entry of a message buffer, or a message on its way: destination word, message, and for SEND.C the
capability, ccont, ticket and bwin it carries (R219, R313); whether it is an event message (R404). -/
structure Flight where
  dest     : Word
  msg      : Msg
  cap      : Option Word
  ccont    : Word
  ticket   : BitVec 32
  bwin     : Word
  released : Bool
  event    : Bool
  /-- The core it goes to, once that is known: at once in modes 0 and 2, after R205 in mode 1. -/
  target   : Nat
  deriving DecidableEq, Repr

/-- One hardware thread context (R18, R121, R232, R393). -/
structure Slot where
  x          : Sparse Word
  v          : Sparse VWord
  pc         : Word
  priv       : Priv
  run        : Run
  vctl       : Word
  vflags     : Word
  dscope     : Word
  repst      : Word
  nestst     : Word
  nestDesc   : BitVec 256
  sbind      : Word
  ports      : Sparse (List VWord)
  dseed      : Word
  ccont      : Word
  bwin       : Word
  stage      : BitVec 8
  jt         : Bool
  firing     : Word
  trig       : List Msg
  buf        : List Flight
  rticket    : BitVec 32
  tickets    : Sparse (BitVec 32)
  pend       : Sparse (List Word)
  lastDone   : Sparse (BitVec 32 × BitVec 8)
  sstatus    : Word
  sie        : Word
  sip        : Word
  stvec      : Word
  sscratch   : Word
  sepc       : Word
  scause     : Word
  stval      : Word
  scounteren : Word
  senvcfg    : Word
  gfault     : Word
  mcsr       : Sparse Word
  rep        : Option RepRun
  fresh      : Bool
  wait       : Wait
  instret    : Word
  mismatch   : Nat
  /-- The bits of x and v registers, by 32-bit word, that disagree with their check bits (R419, R421). -/
  errX       : Sparse (BitVec 32)
  errV       : Sparse (BitVec 32)
  deriving DecidableEq, Repr

/-- A valid 4-byte word of an L1 line: data, dirty bit, and what its line holds: the page class, whether it is read-only,
for class 5 the scratch way as 16 x slice + way (R179, R180); its bytes that carry an uncorrectable error (R421). -/
structure L1Word where
  data  : BitVec 32
  dirty : Bool
  cls   : Nat
  ro    : Bool
  way   : Nat
  bad   : BitVec 4
  deriving DecidableEq, Repr

/-- A translation: the page's base, the log of its size, and its leaf word (R171, R174). -/
structure TEntry where
  base : Nat
  log  : Nat
  leaf : Word
  deriving DecidableEq, Repr

/-- A valid 64-byte sector of an L2 superblock: its bytes, by offset, and its dirty bit (R179). -/
structure Sector where
  data  : Sparse Byte
  dirty : Bool
  deriving DecidableEq, Repr

/-- A superblock of an L2 slice (R179, R180): the slice, the way, the page whose leaf gave its tag the class, tier, key id
and ho bit, and its valid sectors by number, 0 to 3. -/
structure L2Block where
  slice   : Nat
  way     : Nat
  page    : TEntry
  sectors : Sparse Sector
  deriving DecidableEq, Repr

/-- A line of a sealed page in memory: its write counter and MAC (R181). -/
structure Seal where
  counter : Nat
  mac     : BitVec 64
  deriving DecidableEq, Repr

/-- An entry of the non-temporal buffer: 64-byte line, bytes held, cycle of the last store (R190). -/
structure NtEntry where
  line  : Nat
  bytes : Sparse Byte
  last  : Nat
  deriving DecidableEq, Repr

/-- The attributes of an inbox queue (R209, R211). -/
structure QAttr where
  lo     : Nat
  hi     : Nat
  en     : Bool
  replay : Bool
  prio   : Nat
  inst   : Nat
  count  : Nat
  bound  : Bool
  deriving DecidableEq, Repr

/-- A queue that has never been bound (R211). -/
def QAttr.unbound : QAttr :=
  { lo := 0, hi := 0, en := false, replay := false, prio := 0, inst := 1, count := 1, bound := false }

/-- A residue record of an accumulator row (R282). -/
structure Residue where
  block : Nat
  c251  : Nat
  c257  : Nat
  c256  : Nat
  c255  : Nat
  deriving DecidableEq, Repr

/-- An issuer of engine commands: a local slot, or a remote sending slot (R259). -/
inductive Issuer where
  | loc (slot : Nat)
  | rem (slot : Nat)
  deriving DecidableEq, Repr

/-- A command at an engine (R257, R262, R265, R313): its words, ticket, issuer, captured registers, the firing
that issued it, ages, accumulated flags, its progress, and what it carries from one step to the next. -/
structure Cmd where
  tcw      : Tcw
  ticket   : BitVec 32
  issuer   : Issuer
  core     : Nat
  ccont    : Word
  bwin     : Word
  stage    : BitVec 8
  fid      : Nat
  ctx      : Nat
  accepted : Nat
  oldest   : Nat
  started  : Bool
  /-- Whether another command has overtaken it, or a pre-emption has stopped it, at a step boundary (R266, R290). -/
  paused   : Bool
  flags    : BitVec 5
  prog     : Nat
  /-- The pieces of the current 4 KiB that are written beyond `prog`, by offset: the length; of a command of the matrix engine that
  writes several sectors in one step, those that are written, by number (R315). -/
  skip     : Sparse Nat
  landed   : Nat
  /-- The 64-byte sectors that a slice has refused, by address / 64: the cycle at which the request is sent again (R315). -/
  retries  : Sparse Nat
  /-- Whether a step has begun that waits for one of them; the bytes that it has fetched, and pinned, meanwhile (R267). -/
  mid      : Bool
  fetched  : Sparse Byte
  /-- The headers of the block records whose previous phase is being read, with their pages: their pin counts include this read
  (R277). -/
  pins     : List (Nat × TEntry)
  waiting  : Bool
  barFault : Bool
  /-- The descriptor of a gang, which a member reads once (R287). -/
  desc     : List Word
  /-- Exact sums of a block that is longer than a tile (R272), by 64 x row + column. -/
  part     : Sparse Int
  /-- The scales of such a block, by column (R272). -/
  pscale   : Sparse Byte
  deriving DecidableEq, Repr

/-- What names a weight tile (R255, R277): its pointer, the fields that a reload needs, and the governed phase. -/
structure TileRec where
  ptr     : Word
  kind    : Nat          -- 0 MWLOAD source, 1 packed tile, 2 tile of B
  index   : Nat
  rows    : Nat
  cols    : Nat
  stride  : Nat
  cvt     : Nat
  sofs    : Nat
  rm      : Rm
  ov      : Bool
  prev    : Bool
  stepchk : Bool
  steptag : BitVec 32
  rlimit  : Nat
  climit  : Nat
  /-- The number of the load that put it into the weight store. -/
  load    : Nat
  deriving DecidableEq, Repr

/-- A transient error in the residue channels of the matrix engine (R118): the element of the next block that it strikes, what it
adds to each channel, and how many computations of that block it strikes. -/
structure Upset where
  row   : Nat
  col   : Nat
  c251  : Nat
  c257  : Nat
  c256  : Nat
  c255  : Nat
  times : Nat
  deriving DecidableEq, Repr

/-- The state of one core (R18). -/
structure Core where
  /-- The slot that issued last, for the round-robin choice (R18). -/
  turn      : Nat
  ctx       : Option Nat
  mgr       : Bool
  test      : Bool
  plb       : Sparse Word
  l1        : Sparse L1Word
  nt        : List NtEntry
  loc       : Sparse Byte
  inbox     : Sparse (List Msg)
  spill     : Sparse (List Msg)
  qattr     : Sparse QAttr
  fid       : Nat
  acc       : Sparse (BitVec 32)
  rsum      : Sparse (BitVec 32)
  csum      : Sparse (BitVec 32)
  chkBad    : List Nat
  resid     : Sparse Residue
  /-- Resident-tile records: issuer, firing id of the command that left the record, the tile (R255). -/
  records   : List (Issuer × Nat × TileRec)
  wstore    : Sparse (BitVec 32)
  wscale    : Sparse Byte
  /-- The tiles that the halves of the weight store hold: 0, 1, or 2 for both (R277). -/
  wheld     : Sparse TileRec
  /-- The half that was loaded last (R277), and the number of loads so far. -/
  whalf     : Nat
  loads     : Nat
  /-- Transient errors that are to strike (R118). -/
  upsets    : List Upset
  /-- The bits of accumulator and weight-store words that disagree with their check bits (R419, R421). -/
  errAcc    : Sparse (BitVec 32)
  errW      : Sparse (BitVec 32)
  queues    : Sparse (List Cmd)
  remotes   : Sparse (List Cmd)
  running   : Sparse (List Cmd)
  stash     : Word
  used      : Nat
  fenced    : Bool
  corrected : Nat
  deriving DecidableEq, Repr

/-- A convoy member: its index, its slot, the sequence number it will issue next, and the number of its membership, which
no later member of the convoy has (R145, R148, R150, R154). -/
structure Member where
  id    : Nat
  index : Nat
  slot  : Nat
  seq   : Nat
  /-- The iterations of a repeated CVSYNC at `seq` that it has issued (R162). -/
  iter  : Nat
  /-- Whether it waits at the CVSYNC that it issued last, with that one's repeat count or 0 (R162). -/
  sync  : Option Nat
  /-- Whether a CVSYNC has let it go on and it has not issued since: those that it let go issue in one cycle (R162). -/
  go    : Bool
  deriving DecidableEq, Repr

/-- A pending resolution (R149, R150): the transfer's sequence number and the memberships concerned. A member that
has issued the transfer waits, so the next PC it reported is its slot's PC. -/
structure Resolution where
  seq       : Nat
  concerned : List Nat
  deriving DecidableEq, Repr

/-- An instruction a lane has delivered: its PC, its word, decoded once for the convoy, and the memberships at that instant
(R62, R147, R149, R154). No word: it has still to be fetched, as after a restore (R165), or where no member may. -/
structure Deliv where
  pc      : Nat
  word    : Option (BitVec 32)
  members : List Nat
  deriving DecidableEq, Repr

/-- A convoy lane that is not free (R145 to R148, R155). -/
structure Lane where
  start   : Nat
  opened  : Nat
  gather  : Bool
  nextSeq : Nat
  nextPc  : Option Nat
  stream  : Sparse Deliv
  members : List Member
  /-- The number that the next membership gets. -/
  nextId  : Nat
  pending : Option Resolution
  chosen  : Sparse Nat
  sync    : Option Nat
  deriving DecidableEq, Repr

/-- The state of one caravan (R17, R144): its lanes by number, its instruction-cache words, its context, L1 fusion. -/
structure Caravan where
  ctx   : Option Nat
  lanes : Sparse Lane
  ic    : Sparse (BitVec 32)
  fused : Bool
  deriving DecidableEq, Repr

/-- A version slot of a rule context: version (0 empty), held bit, the 1,505 weights (R337, R338). -/
structure RSlot where
  version : Nat
  held    : Bool
  weights : List (BitVec 16)
  deriving DecidableEq, Repr

/-- A rule context (R337, R355): its owner; the two slots as every slice that has exchanged holds them; the
slices that still have to make the RULE.ACT exchange in progress; slots emptied by a rule-store error. -/
structure RuleCtx where
  owner   : Option Nat
  active  : RSlot
  standby : RSlot
  late    : List Nat
  emptied : List (Nat × Bool)
  deriving DecidableEq, Repr

/-- A rule command in progress over its blocks (R347, R358): the command, the blocks not yet done, the sectors / 64 whose
requests a block waits to send again (R315), and the tallies. -/
structure RuleRun where
  cmd      : Cmd
  desc     : List Word
  todo     : List Nat
  waits    : Sparse (List Nat)
  versions : Sparse Nat
  newQuar  : Nat
  oldQuar  : Nat
  stale    : Nat
  held     : Nat
  norule   : Nat
  badhdr   : Nat
  clamped  : Nat
  nonfin   : Nat
  diverge  : List Nat
  code     : Nat
  updated  : Bool
  /-- The slice that each block that has still to be done was last a block of (R362). -/
  homes    : Sparse Nat
  deriving DecidableEq, Repr

/-- A commons region (R363, R365). -/
structure Region where
  ctx      : Nat
  base     : Nat
  ncell    : Nat
  nval     : Nat
  q        : Nat
  mode     : Nat
  share    : Nat
  ports    : List Nat
  spread   : Nat
  counters : Sparse Word
  removing : Bool
  core     : Nat
  deriving DecidableEq, Repr

/-- The states of an escrow (R386). -/
inductive EscState where
  | sent | waiting (due : Nat) | inDoubt | returning (counted : Nat)
  deriving DecidableEq, Repr

/-- An escrow held by a drover engine (R369). -/
structure Escrow where
  pkt   : Packet
  slot  : Nat
  state : EscState
  deriving DecidableEq, Repr

/-- The states of a port (R387). -/
inductive PortState where
  | up | down | resync | fenced
  deriving DecidableEq, Repr

/-- A Serlan link port with its drover engine (R363, R372, R387, R435). -/
structure Port where
  state    : PortState
  peer     : Option Nat
  seqOut   : BitVec 32
  lastIn   : BitVec 32
  appliedIn : BitVec 64
  escrows  : List Escrow
  walk     : Sparse Nat
  sentOut  : List Packet
  replies  : List (BitVec 32 × Reply)
  /-- Packets that have arrived and are not processed yet, in sequence order (R370). -/
  arrived  : List Packet
  /-- The flits not acknowledged, with the number of sendings of each whose 2 microseconds have passed (R435). -/
  resends  : Sparse Nat
  downAt   : Nat
  deriving DecidableEq, Repr

/-- A placement: die mask, origin, height and width minus 1, core mask (R205, R224). -/
structure Placement where
  dies  : Nat
  ty0   : Nat
  tx0   : Nat
  h     : Nat
  w     : Nat
  cores : Nat
  deriving DecidableEq, Repr

/-- A launch record in a launch queue (R224, R225). -/
structure LRec where
  words  : List Word
  id     : Nat
  ccont  : Word
  core   : Option Nat
  lane   : Nat
  stage  : BitVec 8
  order  : Nat
  headAt : Nat
  deriving DecidableEq, Repr

/-- A dispatched launch (R228): start messages not yet started, firings running, refused and killed counts. -/
structure Running where
  record   : LRec
  pending  : Nat
  running  : Nat
  refused  : Nat
  killed   : Nat
  ended    : Option Nat
  deriving DecidableEq, Repr

/-- A time slice (R411): length in microseconds, start cycle, deadline, addresses, successor, the executing context; whether
it was cancelled and starts again with the context's next firing (R412). -/
structure Slice where
  length   : Nat
  waits    : Bool
  start    : Nat
  deadline : Nat
  image    : Word
  simage   : Word
  sv       : Bool
  succ     : Nat
  exec     : Nat
  plb      : Nat
  deriving DecidableEq, Repr

/-- A save in progress (R407, R409, R413): the cycle of the pre-emption request, the deadline in microseconds or 0, the
context that executed CTX.SAVE or TSLICE, the image address, and whether a slice's expiry asked for it. -/
structure Saving where
  start    : Nat
  deadline : Nat
  exec     : Nat
  image    : Word
  slice    : Bool
  deriving DecidableEq, Repr

/-- An execution context (R223, R394, R395, R407 to R411). A stall that has been reported is known by the time at which it began
(R403). -/
structure Ctx where
  live       : Bool
  resident   : Bool
  failed     : Bool
  caravans   : List Nat
  sig        : BitVec 256
  queues     : Sparse (List LRec)
  stageMap   : Sparse Placement
  nextId     : Nat
  launches   : List Running
  /-- The launch queue whose head's dispatch waits for its predicate's page (R463). -/
  delayed    : Option Nat
  sevd       : Word
  sevh       : Word
  charged    : BitVec 32
  slice      : Option Slice
  counter    : Nat
  stallLimit : Nat
  stalledAt  : Option Nat
  saving     : Option Saving
  /-- Messages that arrived while the context was not resident, by 8 x core + queue: spilled (R207). -/
  away       : Sparse (List Msg)
  /-- The 64 KiB pages of the spill area at a core, and the time from which a message to the core waits for another (R207). -/
  pages      : Sparse Nat
  spillWait  : Sparse Nat
  /-- The frames left of the progress reserve, and the parked instruction that uses it, by slot and PC (R403). -/
  reserve    : Nat
  reserveFor : Option (Nat × Word)
  deriving DecidableEq, Repr

/-- A response of a host lane (R425): seq, status, result, read data. -/
structure Resp where
  seq    : BitVec 32
  status : Nat
  result : Word
  data   : List Byte
  deriving DecidableEq, Repr

/-- An event message or host event: its eight words (R404, R432). -/
structure Event where
  words : List Word
  deriving DecidableEq, Repr

/-- An accepted host request that is not performed yet (R425, R427): its kind, as 16 x kind + sub, and its place in the
order in which the lanes accepted their requests. -/
structure Held where
  kind  : Nat
  req   : HostReq
  order : Nat
  deriving DecidableEq, Repr

/-- A host service lane (R423 to R433): its accepted requests that are not performed yet, in seq order; its responses; the
events not yet sent, those of sources that wait for a place among them, the last ones sent, which it holds, and every event
flit that has gone to the host. -/
structure HLane where
  last     : BitVec 32
  module   : Nat
  buffer   : Sparse Byte
  held     : List Held
  resp     : List Resp
  unsent   : List Event
  waiting  : List Event
  sent     : List Event
  out      : List Event
  deriving DecidableEq, Repr

/-- A fault record at the package fault service, with the cycle it was sent, and the time from which it has found no frame
(R402, R403). -/
structure FaultRec where
  slot : Nat
  info : ParkInfo
  at_  : Nat
  stalled : Option Nat
  /-- Whether it has been reported to the supervisor or the host; the slot stays parked at its instruction (R402, R403). -/
  told : Bool
  deriving DecidableEq, Repr

/-- A landing in flight (R318, R323): the barrier, bytes, the destination, the command's place; whether it counts against the
barrier, and the other package at whose homes its bytes are still to be performed. -/
structure Landing where
  counts : Bool
  peer   : Option Nat
  bar    : Nat
  dst    : Nat
  bytes  : Nat
  core   : Nat
  engine : Nat
  issuer : Issuer
  ticket : BitVec 32
  deriving DecidableEq, Repr

/-- An injection that MINJ has accepted and that waits for its unit (R422). -/
structure Inject where
  slot   : Nat
  target : Nat
  word   : Word
  deriving DecidableEq, Repr

/-- A member of a gang that has arrived (R287): its core and issuer, the descriptor's words, the cycle. -/
structure GangWait where
  desc  : Nat
  core  : Nat
  issuer : Issuer
  words : List Word
  at_   : Nat
  limit : Nat
  deriving DecidableEq, Repr

/-- The saved image of a context as the model keeps its plaintext (R407, R408, log 9). -/
structure Snap where
  ctx      : Nat
  counter  : Nat
  caravans : List Nat
  slots    : Sparse Slot
  cores    : Sparse Core
  cars     : Sparse Caravan
  bulks    : Sparse (List Cmd)
  runs     : List RuleRun
  gangs    : List GangWait
  faults   : List FaultRec
  sig      : BitVec 256
  queues   : Sparse (List LRec)
  stageMap : Sparse Placement
  nextId   : Nat
  launches : List Running
  /-- The cycle of the save, and what the dies' clocks had lost until then. -/
  at_      : Nat
  lost     : Sparse Nat
  deriving DecidableEq, Repr

/-- The chunks of a context's image, at most 2^24 - 1, and the bytes of their plaintext, chunk after chunk: the spec lists what
they hold and leaves their layout open (R407, R408, log 9). -/
opaque imageSize : Snap → Nat
opaque imagePlain : Snap → Nat → Byte

/-- The boot status (R457). -/
structure Boot where
  stage : Nat
  fail  : Nat
  done  : Nat
  deriving DecidableEq, Repr

/-- The stage 2 image in die 0's HBM (R454). -/
structure Firmware where
  base : Nat
  size : Nat
  exec : Bool
  deriving DecidableEq, Repr

/-- A step that the outside, or a free choice of order, puts next (log 3). -/
inductive Move where
  /-- An event of the opcode table. -/
  | event (i : Instr)
  /-- The slot issues its next instruction if it is ready (R23). -/
  | issue (slot : Nat)
  /-- In one cycle each of some slots issues its next instruction, and each of some cores starts a firing, in ascending order
  (R145, R146, R158). -/
  | cycle (slots cores : List Nat)
  /-- Engine `e` of core `c` chooses a command and runs its next step (R265). -/
  | engine (core e : Nat)
  /-- Bulk engine `n` of die `d` chooses a command and runs its next step (R312). -/
  | bulk (die n : Nat)
  /-- `n` cycles pass (log 4). -/
  | elapse (n : Nat)
  /-- The L1 of a core evicts the line of an address (R179). -/
  | evict (core line : Nat)
  /-- A message of another package arrives at its destination interface (R206, R435, R436). -/
  | inbound (pkg : Nat) (f : Flight)
  /-- Lane `lane` of a caravan delivers its next instruction (R149). -/
  | deliver (caravan lane : Nat)
  /-- A host lane tries its oldest held request again (R427). -/
  | serve (lane : Nat)
  /-- A slice drops the translation of an address (R171, log 5). -/
  | forget (slice addr : Nat)
  /-- A slice evicts the superblock of an address (R179). -/
  | evictL2 (slice addr : Nat)
  /-- The instruction cache of a caravan evicts the word of an address (R17, log 6). -/
  | evictCode (caravan addr : Nat)
  /-- A transient error is to strike the residue channels of a core (R118, log 33). -/
  | upset (core : Nat) (u : Upset)
  /-- The drover engine of a port goes on with its oldest packet (R370). -/
  | drover (port : Nat)
  /-- The `k`th landing's bytes have been performed at the homes of the other package (R323, log 38). -/
  | shipped (k : Nat)
  /-- An uncorrectable error strikes a rule store (R354): rule context, slice, and whether its active slot. -/
  | ruleStore (rc slice : Nat) (active : Bool)
  /-- A host request arrives on a lane, as its flit of eight words and its data (R424). -/
  | request (lane : Nat) (words : List Word) (data : List Byte)
  /-- A lane sends its oldest event (R433). -/
  | sendEvent (lane : Nat)
  /-- A port's flit has been acknowledged (R435). -/
  | flitAcked (port : Nat) (flit : BitVec 32)
  /-- The `k`th message sent to another package has been acknowledged (R436). -/
  | acked (k : Nat)
  /-- A stack's retraining ends (R413). -/
  | retrained (stack : Nat)
  /-- The steward core takes the packet that stands in the SPDM mailbox (R459). -/
  | mail
  deriving DecidableEq, Repr

/-- The engine command whose step this is (R265). -/
structure EngSel where
  core   : Nat
  engine : Nat
  issuer : Issuer
  bulk   : Option Nat
  deriving DecidableEq, Repr

/-- The state of the package. -/
structure State where
  /-- Physical memory of the three tiers: key = tier x 2^53 + physical address (R174). -/
  mem       : List Host.Cell
  /-- Poisoned 64-byte lines of physical memory, by key / 64: the bytes not yet overwritten (R421). -/
  poison    : Sparse (BitVec 64)
  /-- The load reservation of a slot: place and size (R64, log 16). -/
  resv      : Sparse (Nat × Nat)
  /-- The superblocks of the L2 slices that hold an address, by address / 256 (R179). -/
  l2        : Sparse (List L2Block)
  /-- The MACs and counters of sealed lines, by key / 64, and the keys by key id (R181). -/
  seals     : Sparse Seal
  keys      : Sparse (BitVec 256)
  /-- The keys of the contexts' images (R408). -/
  ctxKeys   : Sparse (BitVec 256)
  ptRoot    : Nat
  /-- The translation caches of the slices (R171): slice and entry, newest first. -/
  trans     : List (Nat × TEntry)
  firstTouch : Sparse Nat
  slots     : Sparse Slot
  cores     : Sparse Core
  cars      : Sparse Caravan
  /-- The lanes, by caravan and number, that their last member has left in this cycle: they are free from the next one on (R151). -/
  freed     : List (Nat × Nat)
  /-- In a cycle in which several slots issue, the caravans as they stood when it began, of which CVSTAT takes its snapshot (R163). -/
  before    : Option (Sparse Caravan)
  ways      : Sparse (BitVec 16)
  bulks     : Sparse (List Cmd)
  clock     : Sparse Nat
  landings  : List Landing
  gangs     : List GangWait
  injects   : List Inject
  rules     : Sparse RuleCtx
  ruleRuns  : List RuleRun
  regions   : Sparse Region
  ports     : Sparse Port
  pkg       : Nat
  fencedPkgs : List Nat
  fenceInterval : Nat
  outbox    : List Flight
  toSeq     : List Flight
  toDest    : List Flight
  ctxs      : Sparse Ctx
  lastDisp  : Nat
  /-- The cycle from which the sequencer may dispatch again (R226). -/
  dispAt    : Nat
  order     : Nat
  lanes     : Sparse HLane
  evSeq     : Sparse Nat
  faults    : List FaultRec
  /-- Dies whose CXL port has lost its link (R437). -/
  cxlDown   : List Nat
  /-- The retrainings of HBM stacks that are deferred, with the time of their request, and those that run (R413). -/
  retrain   : Sparse Nat
  training  : List Nat
  /-- The temperatures that the sensors of the quadrants last gave, by 4 x die + quadrant, and the dies whose clock is being
  lowered (R460). -/
  temps     : Sparse Nat
  hot       : List Nat
  /-- Where the stage 2 image lies in die 0's HBM: base, bytes, and whether it has been mapped read-only and executable for the
  service cores rather than for the steward alone (R454); the mapping itself is in the tables and the PLBs. -/
  fw        : Option Firmware
  /-- The SPDM messages exchanged since GET_VERSION by which version, capabilities and algorithms are settled, which every signature
  covers; those about digests and certificates, which that of CHALLENGE covers too; those about measurements since the last
  signature, which that of MEASUREMENTS covers (R458, log 9). -/
  transcript : List Byte
  certMsgs   : List Byte
  measMsgs   : List Byte
  pxmode    : Bool
  boot      : Boot
  minSvn    : Sparse Nat
  mrs       : Sparse (BitVec 384)
  /-- The steward core's private SRAM (R454), by offset; it lies outside the package address space. -/
  sram      : Sparse Byte
  snaps     : List Snap
  /-- The time since reset, in cycles of the full clock (R5). -/
  cycle     : Nat
  /-- By how much the count of a die's own cycles is behind, since its clock was lowered, in sixteenths of a cycle (R461). -/
  lost      : Sparse Nat
  /-- The waits of drover engines, slices and landings of which a MIGRATION event has told the host (R434): the unit, the address. -/
  told      : List (Nat × Nat)
  /-- The requests of drover engines that a slice has refused: the port, the sector, the cycle from which it is sent again (R315). -/
  hints     : List (Nat × Nat × Nat)
  /-- The model's own counter of free values drawn (log 12). -/
  free      : Nat
  /-- The moves still to come (log 3). -/
  sched     : List Move
  /-- The slot whose step this is (log 3). -/
  cur       : Nat
  /-- The engine command whose step this is (log 3). -/
  eng       : Option EngSel
  /-- The host lane whose oldest held request this step tries again (log 3). -/
  serving   : Option Nat
  deriving DecidableEq, Repr

/-- The reasons a step can end in a fault. The spec reports every fault of a program by a trap, a parked slot,
a kill, a command status or a host status, and each of those is a next state; no rule of the spec leaves
a step without one. -/
inductive Fault where
  /-- Raised by no step of this model: it stands for a step the spec gives no effect. Safe. -/
  | noEffect
  deriving DecidableEq, Repr

/-- The reasons an instruction has no meaning. -/
inductive Refusal where
  /-- Raised by `exec` for an instruction that is not modelled yet. Safe: nothing is claimed about it. -/
  | notModelled (mnemonic : String)
  deriving DecidableEq, Repr

/-- A slot right after reset: idle, every register at its reset value (R22, R102, R131, R136, R164, R185, R216,
R217, R234, R235, R299, R321, R396), the others zero (log 1). -/
def Slot.reset : Slot :=
  { x := [], v := [], pc := 0, priv := .u, run := .idle, vctl := 0, vflags := 0, dscope := 3, repst := 0,
    nestst := 0, nestDesc := 0, sbind := 0, ports := [], dseed := 0, ccont := 0, bwin := 0, stage := 0,
    jt := false, firing := 0, trig := [], buf := [], rticket := 0, tickets := [], pend := [], lastDone := [],
    sstatus := 0, sie := 0, sip := 0, stvec := 0, sscratch := 0, sepc := 0, scause := 0, stval := 0,
    scounteren := 0, senvcfg := 0, gfault := 0, mcsr := [], rep := none, fresh := false,
    wait := .none, instret := 0, mismatch := 0, errX := [], errV := [] }

/-- A core right after reset (R170, R211, R216, R254, R304, R305, R395). -/
def Core.reset : Core :=
  { turn := 3, ctx := none, mgr := false, test := false, plb := [], l1 := [], nt := [], loc := [], inbox := [],
    spill := [], qattr := [], fid := 0, acc := [], rsum := [], csum := [], chkBad := [], resid := [],
    records := [], wstore := [], wscale := [], wheld := [], whalf := 1, loads := 0, upsets := [], errAcc := [], errW := [], queues := [], remotes := [],
    running := [], stash := 0, used := 0, fenced := false, corrected := 0 }

/-- A caravan right after reset: every lane free (R155). -/
def Caravan.reset : Caravan := { ctx := none, lanes := [], ic := [], fused := false }

/-- An empty version slot (R337). -/
def RSlot.empty : RSlot := { version := 0, held := false, weights := [] }

/-- A rule context right after reset: assigned to no context, both slots empty (R337, log 1). -/
def RuleCtx.reset : RuleCtx :=
  { owner := none, active := .empty, standby := .empty, late := [], emptied := [] }

/-- A port right after reset: its link is not up (R452, log 1). -/
def Port.reset : Port :=
  { state := .down, peer := none, seqOut := 0, lastIn := 0xFFFFFFFF, appliedIn := 0, escrows := [], walk := [],
    sentOut := [], replies := [], arrived := [], resends := [], downAt := 0 }

/-- A context that has not been created (R223). -/
def Ctx.none : Ctx :=
  { live := false, resident := false, failed := false, caravans := [], sig := 0, queues := [], stageMap := [],
    nextId := 0, launches := [], delayed := Option.none, sevd := 0, sevh := 0, charged := 0, slice := Option.none, counter := 0,
    stallLimit := Config.defaultStallLimit, stalledAt := Option.none, saving := Option.none,
    away := [], pages := [], spillWait := [], reserve := Config.reserveFrames, reserveFor := Option.none }

/-- A host lane right after reset: last accepted seq 0xFFFF_FFFF (R425); module 0 or 1 by the lane (R423). -/
def HLane.reset (lane : Nat) : HLane :=
  { last := 0xFFFFFFFF, module := (lane % 4) / 2, buffer := [], held := [], resp := [], unsent := [], waiting := [], sent := [], out := [] }

/-- The package right after reset: nothing has booted (R452), no id assigned (R20), measurement registers and boot
status zero (R456, R457), every slot idle, memory with nothing listed (log 2). -/
def State.reset : State :=
  { mem := [], poison := [], resv := [], l2 := [], seals := [], keys := [], ctxKeys := [], ptRoot := 0, trans := [], firstTouch := [], slots := [], cores := [], cars := [], freed := [], before := none,
    ways := [], bulks := [], clock := [], landings := [], gangs := [], injects := [], rules := [], ruleRuns := [],
    regions := [], ports := [], pkg := 0xFFF, fencedPkgs := [], fenceInterval := Config.defaultFenceInterval,
    outbox := [], toSeq := [], toDest := [], ctxs := [], lastDisp := 63, dispAt := 0, order := 0, lanes := [], evSeq := [],
    faults := [], cxlDown := [], retrain := [], training := [], temps := [], hot := [], fw := none, transcript := [], certMsgs := [], measMsgs := [], pxmode := false, boot := { stage := 0, fail := 0, done := 0 }, minSvn := [],
    mrs := [], sram := [], snaps := [], cycle := 0, lost := [], told := [], hints := [], free := 0, sched := [], cur := 0, eng := none, serving := none }

end Sys2Proof.Machine
end

