-- ==== Sys2Proof/Machine/Sparse.lean ====
section
/-!
DEFINITION. The one library of maps held as lists of (key, value) pairs with rising keys. `sput` keeps the
canonical form that memory and registers have: no entry equal to what an unlisted key reads as.
-/

namespace Sys2Proof.Machine

/-- The value at a key; `d` where the key is not listed. -/
def sget {α : Type} (d : α) : Sparse α → Nat → α
  | [], _ => d
  | (a, v) :: m, k => if a = k then v else sget d m k

/-- Whether a key is listed. -/
def shas {α : Type} : Sparse α → Nat → Bool
  | [], _ => false
  | (a, _) :: m, k => a == k || shas m k

/-- The value at a key, if it is listed. -/
def sfind {α : Type} : Sparse α → Nat → Option α
  | [], _ => none
  | (a, v) :: m, k => if a = k then some v else sfind m k

/-- The map with the value at a key set, its keys still rising. -/
def sset {α : Type} : Sparse α → Nat → α → Sparse α
  | [], k, v => [(k, v)]
  | (a, w) :: m, k, v =>
    if k < a then (k, v) :: (a, w) :: m
    else if k = a then (k, v) :: m
    else (a, w) :: sset m k v

/-- The map without a key. -/
def sdel {α : Type} : Sparse α → Nat → Sparse α
  | [], _ => []
  | (a, w) :: m, k => if a = k then sdel m k else (a, w) :: sdel m k

/-- The map with the value at a key set, in canonical form: a default value removes the entry. -/
def sput {α : Type} [DecidableEq α] (d : α) (m : Sparse α) (k : Nat) (v : α) : Sparse α :=
  if v = d then sdel m k else sset m k v

/-- The canonical form: keys strictly rising, and no entry equal to `d`. -/
def swf {α : Type} [DecidableEq α] (d : α) : Sparse α → Bool
  | [] => true
  | (a, v) :: m => m.all (fun e => decide (a < e.1)) && !decide (v = d) && swf d m

/-- The memory of the package, as a map from keys to bytes. -/
abbrev Memory := List Host.Cell

/-- The canonical form of memory: addresses strictly rising, no entry equal to what an unlisted one reads as, 0 (log 2). -/
def Memory.wf (m : Memory) : Bool := swf (0 : Byte) m

/-- Every value of a map changed by a function of its key and value. -/
def smap {α : Type} (f : Nat → α → α) (m : Sparse α) : Sparse α := m.map fun e => (e.1, f e.1 e.2)

/-- The first element of a list for which `f` gives an answer. -/
def firstOf {α β : Type} (f : α → Option β) : List α → Option β
  | [] => none
  | a :: l => match f a with
    | some b => some b
    | none => firstOf f l

/-- `f` applied for 0 to n - 1, in order. -/
def forRange {α : Type} (n : Nat) (f : Nat → α → α) (a : α) : α := (List.range n).foldl (fun b i => f i b) a

end Sys2Proof.Machine
end

