-- ==== Sys2Proof/Machine/Crypto.lean ====
section
/-!
DEFINITION. The cryptographic functions that the spec names by their standards: SHA-256 and SHA-384 (FIPS 180-4), MGF1
and RSASSA-PSS (RFC 8017), SLH-DSA-SHA2-128s verification (FIPS 205), AES-256 (FIPS 197), counter mode and GCM
(SP 800-38D). Multi-byte numbers inside them are most significant byte first, as those standards write them (R181,
R408, R455, R456).
-/

namespace Sys2Proof.Machine

/-! ### Numbers of bytes, most significant first -/

/-- The number of a list of bytes, most significant first. -/
def beNat (bs : List Byte) : Nat := bs.foldl (fun n b => n * 256 + b.toNat) 0

/-- The `n` bytes of a number, most significant first. -/
def beBytes (n v : Nat) : List Byte := (List.range n).map fun i => BitVec.ofNat 8 (v / 256 ^ (n - 1 - i))

/-- The byte-wise exclusive or of two lists. -/
def xorBytes (a b : List Byte) : List Byte := List.zipWith (· ^^^ ·) a b

/-- The `n` blocks of `k` bytes of a list. -/
def blocksOf (k : Nat) : Nat → List Byte → List (List Byte)
  | 0, _ => []
  | n + 1, bs => bs.take k :: blocksOf k n (bs.drop k)

/-- The integer root of degree `d` of `v`, by bits from 2^n down. -/
def iroot (d v : Nat) : Nat → Nat → Nat
  | 0, r => if (r + 1) ^ d ≤ v then r + 1 else r
  | n + 1, r => iroot d v n (if (r + 2 ^ (n + 1)) ^ d ≤ v then r + 2 ^ (n + 1) else r)

/-! ### SHA-2 -/

/-- The first 80 primes, from which FIPS 180-4 draws its constants. -/
def shaPrimes : List Nat :=
  [2, 3, 5, 7, 11, 13, 17, 19, 23, 29, 31, 37, 41, 43, 47, 53, 59, 61, 67, 71]
  ++ [73, 79, 83, 89, 97, 101, 103, 107, 109, 113, 127, 131, 137, 139, 149, 151, 157, 163, 167, 173]
  ++ [179, 181, 191, 193, 197, 199, 211, 223, 227, 229, 233, 239, 241, 251, 257, 263, 269, 271, 277, 281]
  ++ [283, 293, 307, 311, 313, 317, 331, 337, 347, 349, 353, 359, 367, 373, 379, 383, 389, 397, 401, 409]

/-- The first `w` bits of the fractional part of the root of degree `d` of a prime (FIPS 180-4, 4.2 and 5.3). -/
def shaFrac (w d p : Nat) : Nat := iroot d (p * 2 ^ (w * d)) (w + 5) 0 % 2 ^ w

/-- What tells SHA-256 and SHA-512 apart: the amounts of the six sigma functions. -/
structure ShaKind (w : Nat) where
  big0   : Nat × Nat × Nat
  big1   : Nat × Nat × Nat
  small0 : Nat × Nat × Nat
  small1 : Nat × Nat × Nat

/-- The sigma amounts of SHA-256. -/
def sha256Kind : ShaKind 32 := { big0 := (2, 13, 22), big1 := (6, 11, 25), small0 := (7, 18, 3), small1 := (17, 19, 10) }

/-- The sigma amounts of SHA-512 and SHA-384. -/
def sha512Kind : ShaKind 64 := { big0 := (28, 34, 39), big1 := (14, 18, 41), small0 := (1, 8, 7), small1 := (19, 61, 6) }

/-- A capital sigma: three rotations. -/
def shaBig {w : Nat} (r : Nat × Nat × Nat) (x : BitVec w) : BitVec w :=
  x.rotateRight r.1 ^^^ x.rotateRight r.2.1 ^^^ x.rotateRight r.2.2

/-- A small sigma: two rotations and a shift. -/
def shaSmall {w : Nat} (r : Nat × Nat × Nat) (x : BitVec w) : BitVec w :=
  x.rotateRight r.1 ^^^ x.rotateRight r.2.1 ^^^ (x >>> r.2.2)

/-- The message schedule: the last sixteen words, newest first, give the next. -/
def shaSchedule {w : Nat} (k : ShaKind w) : Nat → List (BitVec w) → List (BitVec w)
  | 0, ws => ws
  | n + 1, ws => shaSchedule k n ((shaSmall k.small1 (ws.getD 1 0) + ws.getD 6 0 + shaSmall k.small0 (ws.getD 14 0) + ws.getD 15 0) :: ws)

/-- One round: the eight working variables, and the sum of the round's constant and word. -/
def shaRound {w : Nat} (k : ShaKind w) (v : List (BitVec w)) (kw : BitVec w) : List (BitVec w) :=
  match v with
  | [a, b, c, d, e, f, g, h] =>
    let t1 := h + shaBig k.big1 e + ((e &&& f) ^^^ (~~~e &&& g)) + kw
    let t2 := shaBig k.big0 a + ((a &&& b) ^^^ (a &&& c) ^^^ (b &&& c))
    [t1 + t2, a, b, c, d + t1, e, f, g]
  | _ => v

/-- The compression of one block into the hash value. -/
def shaBlock {w : Nat} (k : ShaKind w) (ks : List (BitVec w)) (h : List (BitVec w)) (block : List Byte) : List (BitVec w) :=
  let m := (blocksOf (w / 8) 16 block).map fun bs => BitVec.ofNat w (beNat bs)
  let ws := (shaSchedule k (ks.length - 16) m.reverse).reverse
  List.zipWith (· + ·) h ((List.zipWith (· + ·) ks ws).foldl (shaRound k) h)

/-- The padded message: a 1 bit, zeros, and the length in bits, to a multiple of the block. -/
def shaPad (block lenBytes : Nat) (m : List Byte) : List Byte :=
  let z := (block - (m.length + 1 + lenBytes) % block) % block
  m ++ 0x80 :: List.replicate z 0 ++ beBytes lenBytes (8 * m.length)

/-- The hash of a message from an initial hash value. -/
def shaHash {w : Nat} (k : ShaKind w) (ks iv : List (BitVec w)) (m : List Byte) : List Byte :=
  let p := shaPad (2 * w) (w / 4) m
  ((blocksOf (2 * w) (p.length / (2 * w)) p).foldl (shaBlock k ks) iv).flatMap fun x => beBytes (w / 8) x.toNat

/-- The constants of SHA-256. -/
def sha256K : List (BitVec 32) := (shaPrimes.take 64).map fun p => BitVec.ofNat 32 (shaFrac 32 3 p)

/-- The initial hash value of SHA-256. -/
def sha256Iv : List (BitVec 32) := (shaPrimes.take 8).map fun p => BitVec.ofNat 32 (shaFrac 32 2 p)

/-- The constants of SHA-512. -/
def sha512K : List (BitVec 64) := shaPrimes.map fun p => BitVec.ofNat 64 (shaFrac 64 3 p)

/-- The initial hash value of SHA-384. -/
def sha384Iv : List (BitVec 64) := ((shaPrimes.drop 8).take 8).map fun p => BitVec.ofNat 64 (shaFrac 64 2 p)

/-- SHA-256 of a message: 32 bytes. -/
def sha256 (m : List Byte) : List Byte := shaHash sha256Kind sha256K sha256Iv m

/-- SHA-384 of a message: 48 bytes (R455, R456). -/
def sha384Bytes (m : List Byte) : List Byte := (shaHash sha512Kind sha512K sha384Iv m).take 48

/-- SHA-384 as the 384 bits of a measurement register (R456). -/
def sha384 (m : List Byte) : BitVec 384 := BitVec.ofNat 384 (beNat (sha384Bytes m))

/-! ### RSASSA-PSS -/

/-- MGF1 over a hash (RFC 8017, B.2.1): `n` bytes. -/
def mgf1 (hash : List Byte → List Byte) (hlen : Nat) (seed : List Byte) (n : Nat) : List Byte :=
  ((List.range ((n + hlen - 1) / hlen)).flatMap fun i => hash (seed ++ beBytes 4 i)).take n

/-- `b ^ e mod n` by the bits of `e`, least significant first. -/
def powMod (n : Nat) : Nat → Nat → Nat → Nat → Nat
  | 0, _, _, r => r
  | k + 1, b, e, r => powMod n k (b * b % n) (e / 2) (if e % 2 = 1 then r * b % n else r)

/-- EMSA-PSS verification of an encoded message of 384 bytes and 3,071 bits, with SHA-384, MGF1 with SHA-384 and a salt of
48 bytes (RFC 8017, 9.1.2; R455). -/
def pssVerify (hash em : List Byte) : Bool :=
  let dbLen := 384 - 48 - 1
  let masked := em.take dbLen
  let h := (em.drop dbLen).take 48
  let db := xorBytes masked (mgf1 sha384Bytes 48 h dbLen)
  let db := match db with
    | b :: bs => (b &&& 0x7F) :: bs
    | [] => []
  let zeros := dbLen - 48 - 1
  em.getLast? = some 0xBC && decide ((masked.headD 0).toNat < 128) && (db.take zeros).all (· = 0) && db.getD zeros 0 = 1
  && sha384Bytes (List.replicate 8 0 ++ hash ++ db.drop (zeros + 1)) = h

/-- RSASSA-PSS verification under an RSA-3072 key (R455): a modulus of 3,072 bits, an exponent, the hash of the message, the
signature. -/
def rsaPssVerify (n e : Nat) (hash sig : List Byte) : Bool :=
  sig.length = 384 && decide (2 ^ 3071 ≤ n) && decide (n < 2 ^ 3072) && decide (beNat sig < n)
  && pssVerify hash (beBytes 384 (powMod n (e.log2 + 1) (beNat sig) e 1))

/-! ### ECDSA P-384 (FIPS 186-5) -/

/-- The prime of the curve P-384. -/
def p384 : Nat := 2 ^ 384 - 2 ^ 128 - 2 ^ 96 + 2 ^ 32 - 1

/-- The order of its base point. -/
def n384 : Nat :=
  0xFFFFFFFFFFFFFFFFFFFFFFFFFFFFFFFFFFFFFFFFFFFFFFFFC7634D81F4372DDF581A0DB248B0A77AECEC196ACCC52973

/-- A point of the curve by its coordinates, or the point at infinity. -/
abbrev EcPoint := Option (Nat × Nat)

/-- The base point. -/
def g384 : EcPoint := some
  (0xAA87CA22BE8B05378EB1C71EF320AD746E1D3B628BA79B9859F741E082542A385502F25DBF55296C3A545E3872760AB7,
   0x3617DE4A96262C6F5D9E98BF9292DC29F8F41DBD289A147CE9DA3113B5F0B8C00A60B1CE1D7E819D7A431D7C90EA0E5F)

/-- The inverse modulo a prime of at most 384 bits. -/
def invMod (m a : Nat) : Nat := powMod m 384 (a % m) (m - 2) 1

/-- The sum of two points. -/
def ecAdd (x y : EcPoint) : EcPoint :=
  match x, y with
  | none, y => y
  | x, none => x
  | some (x1, y1), some (x2, y2) =>
    if x1 = x2 ∧ (y1 + y2) % p384 = 0 then none
    else
      let l := if x1 = x2 then (3 * (x1 * x1) + (p384 - 3)) * invMod p384 (2 * y1) % p384
        else (y2 + (p384 - y1)) * invMod p384 (x2 + (p384 - x1)) % p384
      let x3 := (l * l + (p384 - x1) + (p384 - x2)) % p384
      some (x3, (l * (x1 + (p384 - x3)) + (p384 - y1)) % p384)

/-- The multiple `n` of a point, added to a point, by the bits of `n`, least significant first. -/
def ecMul : Nat → Nat → EcPoint → EcPoint → EcPoint
  | 0, _, _, r => r
  | k + 1, n, p, r => ecMul k (n / 2) (ecAdd p p) (if n % 2 = 1 then ecAdd r p else r)

/-- The ECDSA P-384 signature of a SHA-384 hash under a private key, with the secret number `k`: r, then s, 48 bytes each, most
significant byte first (R458). -/
def ecdsaSign (d k : Nat) (hash : BitVec 384) : List Byte :=
  let r := ((ecMul 384 k g384 none).map (·.1)).getD 0 % n384
  beBytes 48 r ++ beBytes 48 (invMod n384 k * (hash.toNat + r * d) % n384)

/-! ### SLH-DSA-SHA2-128s -/

/-- A compressed address of FIPS 205, 11.2: layer, tree, type and the three words that its type names. -/
structure SlhAdrs where
  layer : Nat
  tree  : Nat
  kind  : Nat
  w1    : Nat
  w2    : Nat
  w3    : Nat
  deriving DecidableEq, Repr

/-- The 22 bytes of a compressed address. -/
def SlhAdrs.bytes (a : SlhAdrs) : List Byte :=
  beBytes 1 a.layer ++ beBytes 8 a.tree ++ beBytes 1 a.kind ++ beBytes 4 a.w1 ++ beBytes 4 a.w2 ++ beBytes 4 a.w3

/-- The tweakable hash F, H and T of the parameter set: 16 bytes. -/
def slhHash (pkSeed : List Byte) (a : SlhAdrs) (m : List Byte) : List Byte :=
  (sha256 (pkSeed ++ List.replicate 48 0 ++ a.bytes ++ m)).take 16

/-- A chain of `n` steps of F from step `i` on. -/
def slhChain (pkSeed : List Byte) (a : SlhAdrs) : Nat → Nat → List Byte → List Byte
  | 0, _, x => x
  | n + 1, i, x => slhChain pkSeed a n (i + 1) (slhHash pkSeed { a with w3 := i } x)

/-- The base-2^b digits of a list of bytes, `n` of them. -/
def slhDigits (b n : Nat) (bs : List Byte) : List Nat :=
  let v := beNat bs
  (List.range n).map fun i => v / 2 ^ (8 * bs.length - b * (i + 1)) % 2 ^ b

/-- The WOTS+ public key of a signature over 16 bytes (FIPS 205, algorithm 8); w1 is the key pair. -/
def slhWotsPk (pkSeed : List Byte) (a : SlhAdrs) (sig m : List Byte) : List Byte :=
  let d := slhDigits 4 32 m
  let csum := (d.map fun x => 15 - x).sum
  let d := d ++ slhDigits 4 3 (beBytes 2 (csum * 16))
  let ends := (List.range 35).flatMap fun i =>
    let x := d.getD i 0
    slhChain pkSeed { a with kind := 0, w2 := i } (15 - x) x ((sig.drop (16 * i)).take 16)
  slhHash pkSeed { a with kind := 1, w2 := 0, w3 := 0 } ends

/-- The root that an authentication path gives: node, its index, the height reached (FIPS 205, algorithms 11 and 17). -/
def slhRoot (pkSeed : List Byte) (a : SlhAdrs) : List (List Byte) → Nat → Nat → List Byte → List Byte
  | [], _, _, node => node
  | x :: xs, idx, height, node =>
    let a' := { a with w2 := height + 1, w3 := idx / 2 }
    slhRoot pkSeed a xs (idx / 2) (height + 1) (slhHash pkSeed a' (if idx % 2 = 0 then node ++ x else x ++ node))

/-- The FORS public key of a signature: fourteen trees of height 12 (FIPS 205, algorithm 17). -/
def slhForsPk (pkSeed : List Byte) (a : SlhAdrs) (sig md : List Byte) : List Byte :=
  let roots := (List.range 14).flatMap fun i =>
    let s := (sig.drop (208 * i)).take 208
    let idx := i * 4096 + (slhDigits 12 14 md).getD i 0
    let leaf := slhHash pkSeed { a with kind := 3, w2 := 0, w3 := idx } (s.take 16)
    slhRoot pkSeed { a with kind := 3 } (blocksOf 16 12 (s.drop 16)) idx 0 leaf
  slhHash pkSeed { a with kind := 4, w2 := 0, w3 := 0 } roots

/-- The hypertree root that seven XMSS signatures give, from layer `layer` on (FIPS 205, algorithm 13). -/
def slhHyper (pkSeed : List Byte) : Nat → Nat → Nat → Nat → List Byte → List Byte → List Byte
  | 0, _, _, _, _, node => node
  | n + 1, layer, tree, leaf, sig, node =>
    let a : SlhAdrs := { layer, tree, kind := 0, w1 := leaf, w2 := 0, w3 := 0 }
    let pk := slhWotsPk pkSeed a (sig.take 560) node
    let root := slhRoot pkSeed { a with kind := 2, w1 := 0 } (blocksOf 16 9 ((sig.drop 560).take 144)) leaf 0 pk
    slhHyper pkSeed n (layer + 1) (tree / 512) (tree % 512) (sig.drop 704) root

/-- SLH-DSA-SHA2-128s verification of a message with an empty context string (FIPS 205, algorithms 20 and 24): the public
key is PK.seed then PK.root, the signature 7,856 bytes. -/
def slhDsaVerify (pk msg sig : List Byte) : Bool :=
  let seed := pk.take 16
  let m := [0, 0] ++ msg
  let r := sig.take 16
  let digest := mgf1 sha256 32 (r ++ seed ++ sha256 (r ++ pk ++ m)) 30
  let tree := beNat ((digest.drop 21).take 7) % 2 ^ 54
  let leaf := beNat ((digest.drop 28).take 2) % 2 ^ 9
  let a : SlhAdrs := { layer := 0, tree, kind := 3, w1 := leaf, w2 := 0, w3 := 0 }
  let fors := slhForsPk seed a ((sig.drop 16).take 2912) (digest.take 21)
  pk.length = 32 && sig.length = 7856 && slhHyper seed 7 0 tree leaf (sig.drop 2928) fors = pk.drop 16

/-! ### AES-256 -/

/-- Multiplication by x in the field of AES. -/
def aesX (a : BitVec 8) : BitVec 8 := (a <<< 1) ^^^ if a.msb then 0x1B else 0

/-- The product in the field of AES. -/
def aesMul (a b : BitVec 8) : BitVec 8 :=
  (forRange 8 (fun i (p : BitVec 8 × BitVec 8) => (if b.getLsbD i then p.1 ^^^ p.2 else p.1, aesX p.2)) (0, a)).1

/-- The S-box: the inverse, a^254, then the affine map (FIPS 197, 5.1.1). -/
def aesSub (a : BitVec 8) : BitVec 8 :=
  let inv := (forRange 7 (fun _ (p : BitVec 8 × BitVec 8) => let q := aesMul p.1 p.1; (q, aesMul p.2 q)) (a, 1)).2
  inv ^^^ inv.rotateLeft 1 ^^^ inv.rotateLeft 2 ^^^ inv.rotateLeft 3 ^^^ inv.rotateLeft 4 ^^^ 0x63

/-- The 60 words of the AES-256 key schedule, newest first: `n` more words (FIPS 197, 5.2). -/
def aesExpand : Nat → List (List Byte) → List (List Byte)
  | 0, ws => ws
  | n + 1, ws =>
    let i := ws.length
    let t := ws.headD []
    let t := if i % 8 = 0 then
        let u := (t.drop 1 ++ t.take 1).map aesSub
        xorBytes u [forRange (i / 8 - 1) (fun _ b => aesX b) 1, 0, 0, 0]
      else if i % 8 = 4 then t.map aesSub else t
    aesExpand n (xorBytes (ws.getD 7 []) t :: ws)

/-- The fifteen round keys of a key of 32 bytes. -/
def aesKeys (key : List Byte) : List (List Byte) :=
  let ws := (aesExpand 52 (blocksOf 4 8 key).reverse).reverse
  (List.range 15).map fun r => ((ws.drop (4 * r)).take 4).flatten

/-- ShiftRows of a block in column order. -/
def aesShift (b : List Byte) : List Byte := (List.range 16).map fun i => b.getD ((i + 4 * (i % 4)) % 16) 0

/-- MixColumns of a block in column order. -/
def aesMix (b : List Byte) : List Byte :=
  (List.range 16).map fun i =>
    let c := i / 4 * 4
    let at_ := fun j => b.getD (c + (i + j) % 4) 0
    aesX (at_ 0) ^^^ (aesX (at_ 1) ^^^ at_ 1) ^^^ at_ 2 ^^^ at_ 3

/-- The AES-256 encryption of a block under a key of 32 bytes (FIPS 197, 5.1). -/
def aes256 (key block : List Byte) : List Byte :=
  let ks := aesKeys key
  let b := (List.range 13).foldl (fun b r => xorBytes (aesMix (aesShift (b.map aesSub))) (ks.getD (r + 1) [])) (xorBytes block (ks.getD 0 []))
  xorBytes (aesShift (b.map aesSub)) (ks.getD 14 [])

/-! ### GCM -/

/-- One bit of the product of GHASH: the accumulator and the other factor, bit 127 first. -/
def ghashStep (x : BitVec 128) (i : Nat) (p : BitVec 128 × BitVec 128) : BitVec 128 × BitVec 128 :=
  (if x.getLsbD (127 - i) then p.1 ^^^ p.2 else p.1,
   (p.2 >>> 1) ^^^ if p.2.getLsbD 0 then BitVec.ofNat 128 (0xE1 * 2 ^ 120) else 0)

/-- The product of GHASH (SP 800-38D, 6.3). -/
def ghashMul (x y : BitVec 128) : BitVec 128 := (forRange 128 (ghashStep x) (0, y)).1

/-- A list of bytes filled with zeros to a multiple of 16. -/
def pad16 (bs : List Byte) : List Byte := bs ++ List.replicate ((16 - bs.length % 16) % 16) 0

/-- GHASH of a list of bytes under a hash key (SP 800-38D, 6.4). -/
def ghash (h : BitVec 128) (bs : List Byte) : BitVec 128 :=
  (blocksOf 16 (bs.length / 16) bs).foldl (fun y b => ghashMul (y ^^^ BitVec.ofNat 128 (beNat b)) h) 0

/-- The key stream of `n` bytes in counter mode, from the counter blocks that `ctr` gives. -/
def ctrStream (key : List Byte) (ctr : Nat → List Byte) (n : Nat) : List Byte :=
  ((List.range ((n + 15) / 16)).flatMap fun i => aes256 key (ctr i)).take n

/-- The counter blocks of GCM with a nonce of 12 bytes, from counter 2 on. -/
def gcmCtr (nonce : List Byte) (i : Nat) : List Byte := nonce ++ beBytes 4 (i + 2)

/-- Encryption, and decryption, of AES-256-GCM with a nonce of 12 bytes (R408). -/
def gcmCrypt (key nonce bs : List Byte) : List Byte := xorBytes bs (ctrStream key (gcmCtr nonce) bs.length)

/-- The tag of AES-256-GCM over additional data and ciphertext (R408): 16 bytes. -/
def gcmTag (key nonce aad ct : List Byte) : List Byte :=
  let h := BitVec.ofNat 128 (beNat (aes256 key (List.replicate 16 0)))
  let s := ghash h (pad16 aad ++ pad16 ct ++ beBytes 8 (8 * aad.length) ++ beBytes 8 (8 * ct.length))
  xorBytes (beBytes 16 s.toNat) (aes256 key (nonce ++ beBytes 4 1))

end Sys2Proof.Machine
end

