-- ==== Sys2Proof/Machine/Ops.lean ====
section
/-!
DEFINITION. The named operations over the state: registers, physical memory, translation (R171 to R176),
the L1 and the non-temporal buffer (R179, R180, R190), releases and acquires (R183, R184), the checks of
an access (R178), events (R404, R464), convoy membership (R145 to R151), taking an exception and returning
(R399, R400), parking (R402), killing a firing (R222), and the commit of an instruction (R10, R127).
-/

namespace Sys2Proof.Machine

/-! ### Parts of the machine -/

/-- The slot number of the steward core (log 15). -/
def stewardSlot : Nat := 32768

/-- The slot `k`; the steward's starts in M-mode (R393). -/
def State.slot (s : State) (k : Nat) : Slot :=
  sget (if k = stewardSlot then { Slot.reset with priv := .m } else .reset) s.slots k

/-- The state with slot `k` set. -/
def State.setSlot (s : State) (k : Nat) (v : Slot) : State := { s with slots := sset s.slots k v }

/-- The state with slot `k` changed. -/
def State.modSlot (s : State) (k : Nat) (f : Slot → Slot) : State := s.setSlot k (f (s.slot k))

/-- The core `c` (R18). -/
def State.core (s : State) (c : Nat) : Core := sget .reset s.cores c

/-- The state with core `c` changed. -/
def State.modCore (s : State) (c : Nat) (f : Core → Core) : State := { s with cores := sset s.cores c (f (s.core c)) }

/-- The caravan `k` (R17). -/
def State.car (s : State) (k : Nat) : Caravan := sget .reset s.cars k

/-- The state with caravan `k` changed. -/
def State.modCar (s : State) (k : Nat) (f : Caravan → Caravan) : State := { s with cars := sset s.cars k (f (s.car k)) }

/-- The context `k` (R19, R223). -/
def State.ctx (s : State) (k : Nat) : Ctx := sget .none s.ctxs k

/-- The state with context `k` changed. -/
def State.modCtx (s : State) (k : Nat) (f : Ctx → Ctx) : State := { s with ctxs := sset s.ctxs k (f (s.ctx k)) }

/-- The core of a slot (R20). -/
def coreOf (slot : Nat) : Nat := slot / 4

/-- The core of the steward (log 15). -/
def stewardCore : Nat := 8192

/-- The caravan of a slot (R20). -/
def carOf (slot : Nat) : Nat := slot / 32

/-- The die of a core (R20); the steward core is on die 0 (R13). -/
def dieOf (core : Nat) : Nat := core / 2048 % 4

/-- The slice, and tile, of a core (R20); the steward counts at die 0 tile (0, 0) (log 15). -/
def sliceOf (core : Nat) : Nat := core / 8 % 1024

/-- The quadrant of a tile within its die (R14). -/
def quadOf (slice : Nat) : Nat := 2 * (if 8 ≤ slice / 16 % 16 then 1 else 0) + (if 8 ≤ slice % 16 then 1 else 0)

/-- The service core and host lane of a core's quadrant: 4 x die + quadrant (R15, R464). -/
def serviceOf (core : Nat) : Nat := 4 * dieOf core + quadOf (sliceOf core)

/-- The value of CSR coord of a slot (R20). -/
def State.coord (s : State) (slot : Nat) : Word := wordOfNat (s.pkg % 4096 * 32768 + slot % 32768)

/-- The coord of a sender: a slot of this package, or, from 2^20 on, slot `src % 2^20` of package `src / 2^20 - 1`. -/
def State.senderCoord (s : State) (src : Nat) : Word :=
  if src < 2 ^ 20 then s.coord src else wordOfNat ((src / 2 ^ 20 - 1) * 32768 + src % 32768)

/-- The core of a sender, in its own package. -/
def senderCore (src : Nat) : Nat := coreOf (src % 2 ^ 20)

/-- The context a slot's core belongs to; 0 where none does (R395). -/
def State.ctxOf (s : State) (slot : Nat) : Nat := (s.core (coreOf slot)).ctx.getD 0

/-- Whether the context of a core is stopped, because a save of it is in progress (R407). -/
def State.stopped (s : State) (core : Nat) : Bool :=
  match (s.core core).ctx with
  | some x => (s.ctx x).saving.isSome
  | none => false

/-! ### Time -/

/-- The step of a die's arithmetic clock, in sixteenths of 1.05 GHz (R460). -/
def State.clockOf (s : State) (die : Nat) : Nat := sget 16 s.clock die

/-- `n` cycles of the full clock pass; a die whose clock is lowered falls behind by what its clock lacks (R461). -/
def State.pass (s : State) (n : Nat) : State :=
  { s with cycle := s.cycle + n, lost := s.clock.foldl (fun m e => sput 0 m e.1 (sget 0 m e.1 + n * (16 - e.2))) s.lost }

/-- The cycles of a die's own clock until a time, by what the clocks have lost by then, in sixteenths (R461). -/
def dieCycles (time : Nat) (lost : Sparse Nat) (die : Nat) : Nat := time - ceilDiv (sget 0 lost die) 16

/-- The cycles of a die's own clock since reset, in which what its cores and engines do is counted (R461). -/
def State.cycles (s : State) (die : Nat) : Nat := dieCycles s.cycle s.lost die

/-- The same for the die of a core. -/
def State.coreCycle (s : State) (core : Nat) : Nat := s.cycles (dieOf core)

/-- Whether a cycle of a die's own clock has begun with the last cycle of the full clock (R461). -/
def State.dieRuns (s : State) (die : Nat) : Bool :=
  ceilDiv (sget 0 s.lost die) 16 == ceilDiv (sget 0 s.lost die - (16 - s.clockOf die)) 16

/-- The time since reset, in cycles of the full clock, by which durations in microseconds are measured (R5, R461). -/
def State.now (s : State) : Nat := s.cycle

/-- The slowest clock among the dies of a context's caravans, in sixteenths. -/
def State.ctxClock (s : State) (ctx : Nat) : Nat := (s.ctx ctx).caravans.foldl (fun k v => min k (s.clockOf (dieOf (8 * v)))) 16

/-- Whether a time falls into the present cycle of a context: that of its slowest die (R461). -/
def State.fallsNow (s : State) (ctx due : Nat) : Bool :=
  decide (due ≤ s.now) && decide ((s.now - due) * s.ctxClock ctx < 16)

/-- Microseconds between two times (R5). -/
def micros (a b : Nat) : Nat := (b - a) / Config.cyclesPerMicro

/-! ### Registers -/

/-- General register `n`; x0 reads 0 (R9, R121). -/
def Slot.xr (sl : Slot) (n : Nat) : Word := if n = 0 then 0 else sget 0 sl.x n

/-- Writes general register `n`; a write to x0 is discarded (R9). A whole write clears the register's error marks (R419). -/
def Slot.setX (sl : Slot) (n : Nat) (w : Word) : Slot :=
  if n = 0 then sl else { sl with x := sput 0 sl.x n w, errX := sdel (sdel sl.errX (2 * n)) (2 * n + 1) }

/-- Vector register `n` (R9). -/
def Slot.vr (sl : Slot) (n : Nat) : VWord := sget 0 sl.v n

/-- Writes vector register `n` (R9). -/
def Slot.setV (sl : Slot) (n : Nat) (w : VWord) : Slot :=
  { sl with v := sput 0 sl.v n w, errV := sl.errV.filter fun e => e.1 / 4 != n }

/-- The number of bits set in an error pattern. -/
def errBits (e : BitVec 32) : Nat := ((List.range 32).filter fun i => e.getLsbD i).length

/-- Whether SEC-DED finds an uncorrectable error in one of the words that `p` names: more than one wrong bit (R419, R421). -/
def errBad (e : Sparse (BitVec 32)) (p : Nat → Bool) : Bool := e.any fun x => p x.1 && decide (1 < errBits x.2)

/-- The words that `p` names with a single wrong bit, which a read corrects (R419). -/
def errSingle (e : Sparse (BitVec 32)) (p : Nat → Bool) : List (Nat × BitVec 32) := e.filter fun x => p x.1 && errBits x.2 == 1

/-- A word with bits `[h:l]` replaced. -/
def setBits (w : Word) (h l v : Nat) : Word :=
  let n := w.toNat
  wordOfNat (n - bitsOf n h l * 2 ^ l + v % 2 ^ (h + 1 - l) * 2 ^ l)

/-! ### Why an instruction does not complete -/

/-- What ends an instruction without its effect (R10): a synchronous trap (R399), a page fault that parks the slot
(R402), a kill by consuming uncorrectable data (R421), or a stall, after which the instruction is tried again. -/
inductive Stop where
  | trap (cause : Nat) (tval : Word)
  /-- A trap that names the word after a prefix (R80). -/
  | trapAt (pc : Word) (cause : Nat) (tval : Word)
  | park (p : ParkInfo)
  | kill (cause : Nat) (addr : Word)
  | wait
  /-- A stop after an access at `a` that has been translated: what its walk did stays, whatever ends the instruction (R173, R176,
  R178, R421). -/
  | after (a : Nat) (write : Bool) (stop : Stop)
  deriving DecidableEq, Repr

/-- What ends an instruction in the end. -/
def Stop.last : Stop → Stop
  | .after _ _ e => e.last
  | e => e

/-- A result for which an access at `a` has been translated: a stop keeps what its walk did. -/
def kept {α : Type} (a : Nat) (write : Bool) (r : Except Stop α) : Except Stop α := r.mapError (Stop.after a write)

/-- A stop after some accesses that have been translated, in their order. -/
def Stop.afterAll (walks : List (Nat × Bool)) (e : Stop) : Stop := walks.foldr (fun w e => .after w.1 w.2 e) e

/-- Accesses one after the other: where one stops, what the walks of those before it did stays. -/
def inTurn {α σ : Type} (walks : α → List (Nat × Bool)) (f : σ → α → Except Stop σ) : List α → σ → Except Stop σ
  | [], x => .ok x
  | a :: as, x => match f x a with
    | .ok y => (inTurn walks f as y).mapError (Stop.afterAll (walks a))
    | .error e => .error e

/-- The effect of an instruction of the slot `cur`: a new state and a value, or the reason it stops. -/
abbrev Act (α : Type) := StateT State (Except Stop) α

/-- Ends the instruction by a synchronous trap (R9). -/
def Act.trap {α : Type} (cause : Nat) (tval : Word) : Act α := fun _ => .error (.trap cause tval)

/-- What the walk for an access at `a` did stays where the rest of the instruction stops (R173, R176, R421). -/
def Act.keep {α : Type} (a : Nat) (write : Bool) (act : Act α) : Act α := fun s => kept a write (act s)

/-- What the walks for some accesses did stays where the rest of the instruction stops. -/
def Act.keepAll {α : Type} (walks : List (Nat × Bool)) (act : Act α) : Act α := fun s => (act s).mapError (Stop.afterAll walks)

/-- Ends the instruction by a stall. -/
def Act.wait {α : Type} : Act α := fun _ => .error .wait

/-- The executing slot. -/
def Act.slot : Act Slot := fun s => .ok (s.slot s.cur, s)

/-- Changes the executing slot. -/
def Act.modSlot (f : Slot → Slot) : Act Unit := fun s => .ok ((), s.modSlot s.cur f)

/-- Reads x register `r` of the executing slot. -/
def Act.x (r : Reg) : Act Word := fun s => .ok ((s.slot s.cur).xr r.toNat, s)

/-- Writes x register `r` of the executing slot. -/
def Act.setX (r : Reg) (w : Word) : Act Unit := Act.modSlot fun sl => sl.setX r.toNat w

/-- Changes the state. -/
def Act.mod (f : State → State) : Act Unit := fun s => .ok ((), f s)

/-! ### Physical memory -/

/-- The key of a byte of a tier: tier x 2^53 + physical address (R174). Tier 4 stands for the scratch ways (R179). -/
def memKey (tier pa : Nat) : Nat := tier * 2 ^ 53 + pa

/-- The byte at a key; an unlisted one reads 0 (log 2). -/
def State.byte (s : State) (k : Nat) : Byte := sget 0 s.mem k

/-- The `n` bytes from a key on. -/
def State.bytes (s : State) (k n : Nat) : List Byte := (List.range n).map fun i => s.byte (k + i)

/-- The bytes written into a map of bytes from a key on. -/
def putBytes (m : Sparse Byte) : Nat → List Byte → Sparse Byte
  | _, [] => m
  | k, b :: bs => putBytes (sput 0 m k b) (k + 1) bs

/-- The poison mask after bytes `[k, k + n)` have been overwritten: a line with no byte left to overwrite is clean (R421). -/
def clearPoison (p : Sparse (BitVec 64)) (k n : Nat) : Sparse (BitVec 64) :=
  if p.isEmpty then p
  else forRange n (fun i q => let a := k + i; sput 0 q (a / 64) (sget 0 q (a / 64) &&& ~~~(1#64 <<< (a % 64)))) p

/-- Writes bytes at a key. -/
def State.putKey (s : State) (k : Nat) (bs : List Byte) : State :=
  { s with mem := putBytes s.mem k bs, poison := clearPoison s.poison k bs.length }

/-- Whether the 64-byte line of a key is marked poisoned (R421). -/
def State.poisoned (s : State) (k : Nat) : Bool := decide (sget 0 s.poison (k / 64) ≠ 0)

/-- The die whose CXL port has lost its link, if the byte at a key lies behind one (R437). -/
def State.cxlLost (s : State) (k : Nat) : Option Nat :=
  if k / 2 ^ 53 = 1 && s.cxlDown.contains (k % 2 ^ 53 / 2 ^ 42) then some (k % 2 ^ 53 / 2 ^ 42) else none

/-! ### Translation -/

/-- The low 56 bits of an address (R167). -/
def va (w : Word) : Nat := w.toNat % 2 ^ 56

/-- Whether an address lies in the local window (R168). -/
def inWindow (a : Nat) : Bool := decide (Config.windowBase ≤ a)

/-- Why a walk faults (R173, R396): the reason and the level of gfault. -/
structure WalkFault where
  reason : Nat
  level  : Nat
  deriving DecidableEq, Repr

/-- Fields of a leaf entry (R174). -/
def leafFrame (w : Word) : Nat := wbits w 63 27
def leafHo (w : Word) : Bool := wbit w 26
def leafKey (w : Word) : Nat := wbits w 25 20
def leafTier (w : Word) : Nat := wbits w 19 18
def leafSize (w : Word) : Nat := wbits w 17 16
def leafParg (w : Word) : Nat := wbits w 15 8
def leafPlace (w : Word) : Nat := wbits w 7 6
def leafClass (w : Word) : Nat := wbits w 5 3

/-- Log2 of the bytes of a page of a leaf's size (R174). -/
def leafLog (w : Word) : Nat := if leafSize w = 0 then 16 else if leafSize w = 1 then 21 else 30

/-- A placement argument that R176 admits. -/
def pargOk (place parg : Nat) : Bool :=
  match place with
  | 0 =>
    let k := parg % 4
    let d := parg / 4 % 16
    parg < 64 && k ≠ 3 && (k ≠ 0 || d = 0) && (k ≠ 1 || d < 4)
  | 1 => true
  | _ => parg = 0

/-- Whether `[pa, pa + n)` lies within a tier (R174, R437). -/
def inTier (tier pa n : Nat) : Bool :=
  match tier with
  | 0 => decide (pa + n ≤ 4 * Config.hbmDieBytes)
  | 1 => let p := pa / 2 ^ 42; decide (p < 4) && decide (pa % 2 ^ 42 + n ≤ Config.cxlSize p)
  | 2 => decide (pa + n ≤ Config.hostTierSize)
  | _ => false

/-- The placement rules of a class (R175). -/
def placementOk (w : Word) : Bool :=
  let f := leafFrame w
  match leafClass w with
  | 2 => leafTier w = 0 && decide (f * 65536 + 2 ^ leafLog w ≤ Config.hbmDieBytes)
  | 5 => leafSize w = 0 && leafPlace w = 1 && decide (f < 64)
  | 6 => leafTier w ≤ 1
  | _ => true

/-- The gfault reason of a present leaf that breaks a rule, if it does (R172, R173, R175, R396). -/
def leafFault (w : Word) : Option Nat :=
  if leafClass w = 7 || leafPlace w = 3 || leafSize w = 3 || leafTier w = 3 then some 2
  else if !pargOk (leafPlace w) (leafParg w) then some 2
  else if leafFrame w * 65536 % 2 ^ leafLog w ≠ 0 then some 2
  else if !inTier (leafTier w) (leafFrame w * 65536) (2 ^ leafLog w) then some 3
  else if !placementOk w then some 2
  else if (leafClass w = 6 && leafKey w = 0) || (leafClass w ≠ 6 && leafKey w ≠ 0) then some 4
  else none

/-- The home slice of the line of address `a` by place and parg (R176); the home of a replicated page lies on the reader's
die, with the hash or tile applied on that die (R182). -/
def State.homeSlice (s : State) (t : TEntry) (die a : Nat) : Nat :=
  let h := Config.spreadHash (a / 64)
  let replicated := leafClass t.leaf = 2
  let d := if replicated then die
    else if leafClass t.leaf = 5 then leafFrame t.leaf / 16 % 4
    else if leafTier t.leaf = 0 then leafFrame t.leaf * 65536 / Config.hbmDieBytes else 0
  match leafPlace t.leaf with
  | 0 =>
    let k := leafParg t.leaf % 4
    let n := leafParg t.leaf / 4 % 16
    let inQuad := (8 * (n % 4 / 2) + h % 64 / 8) * 16 + 8 * (n % 2) + h % 8
    if k = 0 then if replicated then die * 256 + h % 256 else h % 1024
    else if k = 1 then (if replicated then die else n) * 256 + h % 256
    else (if replicated then die else n / 4) * 256 + inQuad
  | 1 => d * 256 + leafParg t.leaf
  | _ =>
    let touch := sget 0 s.firstTouch (t.base / 65536)
    if replicated then die * 256 + touch % 256 else touch

/-- The key that holds the byte at address `a` of a page, for a reader on die `die` (R174, R175, R179). -/
def TEntry.key (t : TEntry) (die a : Nat) : Nat :=
  let off := a - t.base
  if leafClass t.leaf = 5 then
    memKey 4 ((leafFrame t.leaf / 16 % 4 * 256 + leafParg t.leaf) * 1048576 + leafFrame t.leaf % 16 * 65536 + off)
  else memKey (leafTier t.leaf) (leafFrame t.leaf * 65536 + off
    + if leafClass t.leaf = 2 then die * Config.hbmDieBytes else 0)

/-- The dies whose copy a write of a page reaches: all four of a replicated page (R182), else one. -/
def TEntry.dies (t : TEntry) : List Nat := if leafClass t.leaf = 2 then [0, 1, 2, 3] else [0]

/-- Whether an address lies in a page. -/
def TEntry.covers (t : TEntry) (a : Nat) : Bool := decide (t.base ≤ a) && decide (a < t.base + 2 ^ t.log)

/-- Whether two pages overlap. -/
def TEntry.meets (t u : TEntry) : Bool := t.covers u.base || u.covers t.base

/-! ### The L2 slices -/

/-- A sector with no bytes. -/
def Sector.empty : Sector := { data := [], dirty := false }

/-- Whether a superblock holds the sector of address `a` for a reader on die `die`: the replica of that die (R182). -/
def L2Block.has (b : L2Block) (die a : Nat) : Bool :=
  shas b.sectors (a / 64 % 4) && (leafClass b.page.leaf != 2 || b.slice / 256 == die)

/-- The superblock that holds the sector of address `a`, if one does (R179). -/
def State.l2Find (s : State) (die a : Nat) : Option L2Block := (sget [] s.l2 (a / 256)).find? fun b => b.has die a

/-- The sector of address `a` in a superblock. -/
def L2Block.sector (b : L2Block) (a : Nat) : Sector := sget .empty b.sectors (a / 64 % 4)

/-- The first element of a list that meets `p`, changed by `f`. -/
def modFirst {α : Type} (p : α → Bool) (f : α → α) : List α → List α
  | [] => []
  | x :: xs => if p x then f x :: xs else x :: modFirst p f xs

/-- The superblock of an L2 whose valid sector holds the byte at a key, with the sector's address (R171, R172): table reads
and the walker's updates pass through the L2. -/
def State.physFind (s : State) (k : Nat) : Option (Nat × L2Block) :=
  firstOf (fun (e : Nat × List L2Block) =>
    firstOf (fun (b : L2Block) =>
      firstOf (fun (x : Nat × Sector) =>
        let a := e.1 * 256 + 64 * x.1
        if b.page.key (b.slice / 256) a = k / 64 * 64 then some (a, b) else none) b.sectors) e.2) s.l2

/-- The `n` bytes of one line from a key on, as the L2 holds them, else memory. -/
def State.physRead (s : State) (k n : Nat) : List Byte :=
  match s.physFind k with
  | some (a, b) => (List.range n).map fun i => sget 0 (b.sector a).data (k % 64 + i)
  | none => s.bytes k n

/-- A sector's bytes written, and the sector dirty (R179). -/
def Sector.write (x : Sector) (off : Nat) (bs : List Byte) : Sector := { data := putBytes x.data off bs, dirty := true }

/-- The superblock with bytes written at address `a`. -/
def L2Block.write (b : L2Block) (a : Nat) (bs : List Byte) : L2Block :=
  { b with sectors := sset b.sectors (a / 64 % 4) ((b.sector a).write (a % 64) bs) }

/-- Writes bytes of one line at a key: into the sector that holds them, else into memory. -/
def State.physWrite (s : State) (k : Nat) (bs : List Byte) : State :=
  match s.physFind k with
  | some (a, b) =>
    { s with l2 := sset s.l2 (a / 256) (modFirst (fun c => decide (c = b)) (fun c => c.write (a + k % 64) bs) (sget [] s.l2 (a / 256)))
             poison := clearPoison s.poison k bs.length }
  | none => s.putKey k bs

/-- The key of a sealed page's key id (R181). -/
def State.sealKey (s : State) (t : TEntry) : BitVec 256 := sget 0 s.keys (leafKey t.leaf)

/-- The bytes of a sealed line from or to their encryption: AES-256 in counter mode (R181). -/
def State.sealCrypt (s : State) (t : TEntry) (k counter : Nat) (bs : List Byte) : List Byte :=
  xorBytes bs (ctrStream (beBytes 32 (s.sealKey t).toNat) (Config.lineBlock (k / 64) counter) 64)

/-- Whether the sealed line at a key passes its check (R181): its MAC under the key of the page. A line that has never been
sealed passes only where nothing has written it (log 9). -/
def State.sealOk (s : State) (t : TEntry) (k : Nat) : Bool :=
  match sfind s.seals (k / 64) with
  | some x => x.mac = Config.lineMac (s.sealKey t) (k / 64) x.counter (s.bytes (k / 64 * 64) 64)
  | none => (s.bytes (k / 64 * 64) 64).all (· = 0)

/-- The byte at address `a` of a page as a miss finds it in memory: decrypted where the page is sealed (R181). -/
def State.memByte (s : State) (t : TEntry) (die a : Nat) : Byte :=
  let k := t.key die a
  if leafClass t.leaf = 6 then
    match sfind s.seals (k / 64) with
    | some x => (s.sealCrypt t k x.counter (s.bytes (k / 64 * 64) 64)).getD (k % 64) 0
    | none => s.byte k
  else s.byte k

/-- Writes a dirty sector back to memory, encrypted where its page is sealed; marks of poison stay (R179, R181, R421). -/
def State.writeBack (s : State) (b : L2Block) (a : Nat) (x : Sector) : State :=
  if !x.dirty then s
  else
    let k := b.page.key (b.slice / 256) a
    let bs := (List.range 64).map fun i => sget 0 x.data i
    if leafClass b.page.leaf = 6 then
      let counter := ((sfind s.seals (k / 64)).map (·.counter)).getD 0 + 1
      let ct := s.sealCrypt b.page k counter bs
      { s with mem := putBytes s.mem k ct
               seals := sset s.seals (k / 64) { counter, mac := Config.lineMac (s.sealKey b.page) (k / 64) counter ct } }
    else { s with mem := putBytes s.mem k bs }

/-- Evicts a superblock, number `n`: its dirty sectors are written to memory, and the whole superblock goes (R179). -/
def State.evictBlock (s : State) (n : Nat) (b : L2Block) : State :=
  let s := b.sectors.foldl (fun s x => s.writeBack b (n * 256 + 64 * x.1) x.2) s
  { s with l2 := sput [] s.l2 n ((sget [] s.l2 n).filter fun c => c != b) }

/-- Evicts every superblock that meets `p`, by number and block. -/
def State.evictBlocks (s : State) (p : Nat → L2Block → Bool) : State :=
  s.l2.foldl (fun s e => (e.2.filter (p e.1)).foldl (fun s b => s.evictBlock e.1 b) s) s

/-- The superblocks with the index of number `n`: 256 indices of 16 ways each (R179, log 6). -/
def State.l2Set (s : State) (n : Nat) : List (Nat × L2Block) :=
  (s.l2.filter fun e => e.1 % 256 == n % 256).flatMap fun e => e.2.map fun b => (e.1, b)

/-- The ways of a slice that can hold superblock `n`: neither scratch nor taken (R179). -/
def State.freeWays (s : State) (slice n : Nat) : List Nat :=
  (List.range 16).filter fun w =>
    !(sget 0 s.ways slice).toNat.testBit w && !(s.l2Set n).any fun e => e.2.slice == slice && e.2.way == w

/-- Whether superblock `n` holds a sector that a tile fetch unit has pinned: one that a command of a matrix engine has fetched and
not yet consumed (R267). -/
def State.pinned (s : State) (n : Nat) (b : L2Block) : Bool :=
  s.cores.any fun k => (sget [] k.2.running 0).any fun c => c.fetched.any fun x => x.1 / 256 == n && b.has (dieOf k.1) x.1

/-- Makes room in a slice for superblock `n`: where each of its ways is taken, one that the part chooses gives up its
superblock (R179, log 6), but none with a pinned sector (R267): there is no room where all have one. A slice has at least four ways
that are not scratch (R416), so three superblocks always fit. -/
def State.l2Room (s : State) (slice n : Nat) : Option State :=
  let set := s.l2Set n
  if set.length < 4 || !(s.freeWays slice n).isEmpty then some s
  else
    let mine := set.filter fun e => e.2.slice == slice && !s.pinned e.1 e.2
    (mine[Config.victim slice s.cycle % mine.length]?).map fun e => s.evictBlock e.1 e.2

/-- Whether two leaves give a tag the same contents: they may differ in the accessed and dirty bits. -/
def sameLeaf (v w : Word) : Bool := v ||| 6 == w ||| 6

/-- The sector of address `a` as a miss fills it from memory. -/
def State.sectorOf (s : State) (t : TEntry) (die a : Nat) : Sector :=
  { data := putBytes [] 0 ((List.range 64).map fun i => s.memByte t die (a / 64 * 64 + i)), dirty := false }

/-- Whether the sector of address `a` would be filled from a line that fails its check or lies behind a failed link. -/
def State.fillBad (s : State) (t : TEntry) (die a : Nat) : Bool :=
  leafClass t.leaf != 5 && (s.l2Find die a).isNone
  && ((leafClass t.leaf = 6 && !s.sealOk t (t.key die a)) || (s.cxlLost (t.key die a)).isSome)

/-- Installs the sector of address `a` in its home slice, unless it is there (R179, R180): the superblock's tag takes the
page's leaf; one with an older leaf is evicted first. Where the slice has no room for it the sector stays in memory. Scratch is no
cached memory. -/
def State.installL2 (s : State) (t : TEntry) (die a : Nat) : State :=
  if leafClass t.leaf = 5 || (s.l2Find die a).isSome then s
  else
    let slice := s.homeSlice t die a
    let n := a / 256
    let x := s.sectorOf t die a
    let add := fun (b : L2Block) => { b with sectors := sset b.sectors (a / 64 % 4) x }
    let same := fun (b : L2Block) => b.slice == slice && b.page.base == t.base && b.page.log == t.log && sameLeaf b.page.leaf t.leaf
    if (sget [] s.l2 n).any same then { s with l2 := sset s.l2 n (modFirst same add (sget [] s.l2 n)) }
    else
      let s := ((sget [] s.l2 n).filter fun b => b.slice == slice).foldl (fun s b => s.evictBlock n b) s
      match s.l2Room slice n with
      | some s => { s with l2 := sset s.l2 n (add { slice, way := (s.freeWays slice n).headD 0, page := t, sectors := [] } :: sget [] s.l2 n) }
      | none => s

/-- A read's miss fills the sector of address `a` into its home slice; a line that fails its check is not installed
(R179, R181). -/
def State.fillL2 (s : State) (t : TEntry) (die a : Nat) : State := if s.fillBad t die a then s else s.installL2 t die a

/-! ### Tables and walks -/

/-- One level of the table above the leaves: the next table, or the fault (R172). -/
def State.tableNext (s : State) (table index level : Nat) : Except WalkFault Nat :=
  let e := natOfBytes (s.physRead (memKey 0 (table + 8 * index)) 8)
  if e % 2 = 0 then .error { reason := 0, level }
  else if bitsOf e 63 53 ≠ 0 || bitsOf e 12 1 ≠ 0 then .error { reason := 1, level }
  else .ok (bitsOf e 52 13 * 8192)

/-- The key of the leaf entry of an address, or the fault of a level above it (R172). -/
def State.leafKey (s : State) (a : Nat) : Except WalkFault Nat := do
  let t1 ← s.tableNext s.ptRoot (bitsOf a 55 46) 0
  let t2 ← s.tableNext t1 (bitsOf a 45 36) 1
  let t3 ← s.tableNext t2 (bitsOf a 35 26) 2
  return memKey 0 (t3 + 8 * bitsOf a 25 16)

/-- The leaf entry of an address (R172, R174). -/
def State.leafAt (s : State) (k : Nat) : Word := wordOfNat (natOfBytes (s.physRead k 8))

/-- The page that a leaf describes at an address (R172). -/
def pageAt (leaf : Word) (a : Nat) : TEntry := { base := a / 2 ^ leafLog leaf * 2 ^ leafLog leaf, log := leafLog leaf, leaf }

/-- A slice's translation cache takes an entry: 4,096 entries, of which one that the part chooses goes when they are
taken (R171, log 6). -/
def State.cacheTrans (s : State) (slice : Nat) (t : TEntry) : State :=
  let rest := s.trans.filter fun e => !(e.2.meets t && e.1 == slice)
  let mine := rest.filter fun e => e.1 == slice
  let rest := if rest.length < 4096 || mine.length < 4096 then rest
    else match mine[Config.victim slice s.cycle % 4096]? with
      | some e => rest.erase e
      | none => rest
  { s with trans := (slice, t) :: rest }

/-- The walk for an access by a tile's core or engine (R171 to R173): sets accessed, and dirty for a write; fixes the home of
a first-touch page at the tile (R176); the home slice caches the translation. A host-owned page walks as not present
while page-exclusive mode is on (R434). -/
def State.walk (s : State) (tile a : Nat) (write : Bool) : Except WalkFault (TEntry × State) := do
  let k ← s.leafKey a
  let leaf := s.leafAt k
  if !wbit leaf 0 || (s.pxmode && leafHo leaf) then throw { reason := 0, level := 3 }
  match leafFault leaf with
  | some r => throw { reason := r, level := 3 }
  | none =>
    let leaf := leaf ||| 2 ||| if write then 4 else 0
    let t := pageAt leaf a
    let s := s.physWrite k (bytesOfNat 8 leaf.toNat)
    let s := if leafPlace leaf = 2 && !shas s.firstTouch (t.base / 65536)
      then { s with firstTouch := sset s.firstTouch (t.base / 65536) tile } else s
    return (t, s.cacheTrans (s.homeSlice t (tile / 256) a) t)

/-- Whether page-exclusive mode bars the device from a page: it walks as not present (R434). -/
def State.barred (s : State) (t : TEntry) : Bool := s.pxmode && leafHo t.leaf

/-- The page that an access by a reader on die `die` finds without a walk: in the tag of an L2 hit, else in the translation
cache of the home slice (R171, R180). -/
def State.held (s : State) (die a : Nat) : Option TEntry :=
  match s.l2Find die a with
  | some b => if s.barred b.page then none else some b.page
  | none => firstOf (fun (e : Nat × TEntry) =>
      if e.2.covers a && !s.barred e.2 && s.homeSlice e.2 die a == e.1 then some e.2 else none) s.trans

/-- Translates an address for an access by a tile: what is held, or a walk (R171). -/
def State.translate (s : State) (tile a : Nat) (write : Bool) : Except WalkFault (TEntry × State) :=
  match s.held (tile / 256) a with
  | some t => .ok (t, s)
  | none => s.walk tile a write

/-! ### Events -/

/-- Host lane `l` (R423). -/
def State.lane (s : State) (l : Nat) : HLane := sget (HLane.reset l) s.lanes l

/-- The state with host lane `l` changed. -/
def State.modLane (s : State) (l : Nat) (f : HLane → HLane) : State := { s with lanes := sset s.lanes l (f (s.lane l)) }

/-- Where an event comes from: kind and position (R404, R464). -/
structure Source where
  kind : Nat
  pos  : Nat
  deriving DecidableEq, Repr

/-- The host lane of a source (R432). -/
def Source.lane (src : Source) : Nat :=
  match src.kind with
  | 2 | 4 => src.pos % 16
  | 3 => 0
  | _ => serviceOf src.pos

/-- Emits a host event: it joins the events that its lane has still to send (R432); where there are 1,024 of them its source
waits (R433, log 79). -/
def State.hostEvent (s : State) (src : Source) (words : List Word) : State :=
  s.modLane src.lane fun l =>
    if l.unsent.length < 1024 && l.waiting.isEmpty then { l with unsent := l.unsent ++ [Event.mk words] }
    else { l with waiting := l.waiting ++ [Event.mk words] }

/-- A lane sends its oldest event; it holds the last 1,024 that it has sent, and a waiting source emits its event (R433). -/
def HLane.send (l : HLane) : HLane :=
  match l.unsent with
  | [] => l
  | e :: es =>
    { l with unsent := es ++ l.waiting.take 1, waiting := l.waiting.drop 1, out := l.out ++ [e],
             sent := (l.sent ++ [e]).drop (l.sent.length + 1 - 1024) }

/-- Port `n` (R363, R435). -/
def State.port (s : State) (n : Nat) : Port := sget .reset s.ports n

/-- The state with port `n` changed. -/
def State.modPort (s : State) (n : Nat) (f : Port → Port) : State := { s with ports := sset s.ports n (f (s.port n)) }

/-- The ports that reach a package (R435). -/
def State.portsTo (s : State) (pkg : Nat) : List Nat :=
  (List.range 16).filter fun n => (s.port n).peer == some pkg

/-- Fields of a destination word (R204). -/
def destMode (d : Word) : Nat := wbits d 63 62
def destOwn (d : Word) : Bool := wbit d 61
def destPkg (d : Word) : Nat := wbits d 60 49
def destCore (d : Word) : Nat := wbits d 48 36
def destQueue (d : Word) : Nat := wbits d 35 33
def destDs (d : Word) : Nat := wbits d 32 25

/-- Whether a destination lies in this package (R204). -/
def State.isLocal (s : State) (d : Word) : Bool := destOwn d || (s.pkg ≠ 0xFFF && destPkg d = s.pkg)

/-- The check at the sender's interface (R206): the reason of a refusal, if it is refused. -/
def State.departFault (s : State) (d : Word) : Option Nat :=
  if destOwn d then none
  else if s.pkg = 0xFFF then some 6
  else if s.fencedPkgs.contains (destPkg d) then some 4
  else if destPkg d = s.pkg then none
  else if (s.portsTo (destPkg d)).isEmpty then some 7
  else none

/-- A message of eight words with no firing behind it. -/
def Msg.plain (words : List Word) (stage : BitVec 8) (ctx : Nat) : Msg :=
  { words, stage, src := 0, fid := 0, ctx, launch := none, replay := false }

/-- A message on its way that carries no command. -/
def Flight.plain (dest : Word) (msg : Msg) (event : Bool) : Flight :=
  { dest, msg, cap := none, ccont := 0, ticket := 0, bwin := 0, released := true, event, target := destCore dest }

/-- Raises an event for the supervisor of a context (R404): the source's next number, a message to sevd with handler
sevh, or a host event where sevd is not valid or the message is refused at the interface. -/
def State.event (s : State) (ctx : Nat) (src : Source) (code cause reason : Nat) (w3 w4 w5 w6 w7 : Word) : State :=
  let key := src.kind * 2 ^ 28 + src.pos
  let n := sget 0 s.evSeq key
  let s := { s with evSeq := sset s.evSeq key ((n + 1) % 2 ^ 32) }
  let cx := s.ctx ctx
  let w1 := wordOfNat (n * 2 ^ 32 + key)
  let w2 := wordOfNat (ctx * 2 ^ 32 + reason * 2 ^ 24 + cause * 2 ^ 16 + code)
  let words := [cx.sevh, w1, w2, w3, w4, w5, w6, w7]
  if !wbit cx.sevd 0 || (s.departFault cx.sevd).isSome then s.hostEvent src words
  else
    let f := Flight.plain cx.sevd (Msg.plain words 0 ctx) true
    if s.isLocal cx.sevd then { s with toDest := s.toDest ++ [f] } else { s with outbox := s.outbox ++ [f] }

/-- Raises an event that goes to the host only (R432). -/
def State.hostOnly (s : State) (ctx : Nat) (src : Source) (code : Nat) (w3 w4 w5 w6 : Word) : State :=
  let key := src.kind * 2 ^ 28 + src.pos
  let n := sget 0 s.evSeq key
  let s := { s with evSeq := sset s.evSeq key ((n + 1) % 2 ^ 32) }
  s.hostEvent src [(s.ctx ctx).sevh, wordOfNat (n * 2 ^ 32 + key), wordOfNat (ctx * 2 ^ 32 + code), w3, w4, w5, w6, 0]

/-- The ERROR events of an access of `n` bytes whose lines are filled through a CXL port that has lost its link (R437, R464): the
accesses of the context complete with poison. -/
def State.cxlAccess (s : State) (ctx : Nat) (t : TEntry) (a n : Nat) : State :=
  if s.cxlDown.isEmpty then s
  else forRange ((a % 64 + n + 63) / 64) (fun i s =>
    let b := if i = 0 then a else (a / 64 + i) * 64
    match s.cxlLost (t.key 0 b), s.l2Find 0 b with
    | some d, none => s.event ctx { kind := 2, pos := 4 * d } 7 0 4 0 (wordOfNat b) 0 0 0
    | _, _ => s) s

/-! ### Accesses at the home -/

/-- Whether an address of a core is its own: in the local window (R168), or, for the steward core, in its private SRAM of
4 MiB, which it addresses from 0 (R454, log 15). -/
def isOwn (core a : Nat) : Bool := if core = stewardCore then decide (a < 0x400000) else inWindow a

/-- A place that a load reservation can name: the address, or a core's own byte (log 16). -/
def place (core a : Nat) : Nat := if isOwn core a then 2 ^ 56 * (core + 1) + a else a

/-- The reservations that survive a write of `n` bytes at a place. -/
def killResv (r : Sparse (Nat × Nat)) (p n : Nat) : Sparse (Nat × Nat) :=
  r.filter fun e => decide (e.2.1 + e.2.2 ≤ p ∨ p + n ≤ e.2.1)

/-- The parts of the bytes `[a, a + n)` that lie in one sector each. -/
def sectorParts (a : Nat) (bs : List Byte) : List (Nat × List Byte) :=
  (List.range ((a % 64 + bs.length + 63) / 64)).map fun i =>
    let b := if i = 0 then a else (a / 64 + i) * 64
    (b, (bs.drop (b - a)).take (64 - b % 64))

/-- Writes the bytes of one sector at their home on a die: the sector is filled first, or goes straight to memory where its slice
has no room; one that fails its check is poisoned until it is fully overwritten (R179, R181, R421). -/
def State.writeSector (s : State) (t : TEntry) (die : Nat) (p : Nat × List Byte) : State :=
  let k := t.key die p.1
  if leafClass t.leaf = 5 then s.putKey k p.2
  else
    let s := if s.fillBad t die p.1 then { s with poison := sset s.poison (k / 64) (BitVec.allOnes 64) } else s
    let s := s.installL2 t die p.1
    let s := if (s.l2Find die p.1).isSome then
        { s with l2 := sset s.l2 (p.1 / 256) (modFirst (fun b => b.has die p.1) (fun b => b.write p.1 p.2) (sget [] s.l2 (p.1 / 256))) }
      else s.writeBack { slice := s.homeSlice t die p.1, way := 0, page := t, sectors := [] } (p.1 / 64 * 64) ((s.sectorOf t die p.1).write (p.1 % 64) p.2)
    { s with poison := clearPoison s.poison k p.2.length }

/-- Performs a write at the home of address `a`, in every replica of a class 2 page (R182, R200). -/
def State.homeWrite (s : State) (t : TEntry) (a : Nat) (bs : List Byte) : State :=
  let s := t.dies.foldl (fun s d => (sectorParts a bs).foldl (fun s p => s.writeSector t d p) s) s
  { s with resv := killResv s.resv a bs.length }

/-- A write for a context at the home of address `a` (R200, R437). -/
def State.writeFor (s : State) (ctx : Nat) (t : TEntry) (a : Nat) (bs : List Byte) : State :=
  (s.cxlAccess ctx t a bs.length).homeWrite t a bs

/-- The byte at address `a` at its home, or at the replica of die `die` (R179, R182). -/
def State.homeByte (s : State) (t : TEntry) (die a : Nat) : Byte :=
  match s.l2Find die a with
  | some b => sget 0 (b.sector a).data (a % 64)
  | none => s.memByte t die a

/-- The `n` bytes from address `a` on at their home (R182). -/
def State.homeRead (s : State) (t : TEntry) (die a n : Nat) : List Byte := (List.range n).map fun i => s.homeByte t die (a + i)

/-- Fills the sectors of `[a, a + n)` into their home slices, as a read there does (R179). -/
def State.fillRange (s : State) (t : TEntry) (die a n : Nat) : State :=
  forRange ((a % 64 + n + 63) / 64) (fun i s => s.fillL2 t die ((a / 64 + i) * 64)) s

/-- Whether a read of `[a, a + n)` at the home meets a poisoned line, a sealed line that fails its check, or a CXL port whose
link has failed (R181, R421, R437). -/
def State.badAt (s : State) (t : TEntry) (die a n : Nat) : Bool :=
  (List.range ((a % 64 + n + 63) / 64)).any fun i =>
    let b := if i = 0 then a else (a / 64 + i) * 64
    s.poisoned (t.key die b) || s.fillBad t die b

/-! ### L1 and non-temporal buffer -/

/-- The core whose L1 holds the line of address `a` for core `c`: its own, or the part of a fused L1 (R179). -/
def State.l1Home (s : State) (c a : Nat) : Nat := if (s.car (c / 8)).fused then c / 8 * 8 + a / 32 % 8 else c

/-- The cores whose L1s a release or acquire of core `c` acts on (R183). -/
def State.l1Group (s : State) (c : Nat) : List Nat :=
  if (s.car (c / 8)).fused then (List.range 8).map fun i => c / 8 * 8 + i else [c]

/-- The L1 word of address `a` for core `c`. -/
def State.l1Word (s : State) (c a : Nat) : Option L1Word := sfind (s.core (s.l1Home c a)).l1 (a / 4)

/-- The bytes of L1 words and, over them, of the non-temporal buffer, at address `a` for core `c` (R190). -/
def State.l1Byte (s : State) (c a : Nat) : Byte :=
  match (s.core c).nt.find? fun e => e.line == a / 64 && shas e.bytes (a % 64) with
  | some e => sget 0 e.bytes (a % 64)
  | none => match s.l1Word c a with
    | some w => w.data.extractLsb' (8 * (a % 4)) 8
    | none => 0

/-- Whether the byte at address `a`, as core `c` sees it in its L1, carries an uncorrectable error (R421). -/
def State.l1Bad (s : State) (c a : Nat) : Bool :=
  !((s.core c).nt.any fun e => e.line == a / 64 && shas e.bytes (a % 64))
  && ((s.l1Word c a).map fun w => w.bad.getLsbD (a % 4)).getD false

/-- Sets the L1 word of address `a`. -/
def State.setL1 (s : State) (c a : Nat) (w : L1Word) : State :=
  s.modCore (s.l1Home c a) fun k => { k with l1 := sset k.l1 (a / 4) w }

/-- Drops the L1 word of address `a`. -/
def State.dropL1 (s : State) (c a : Nat) : State :=
  s.modCore (s.l1Home c a) fun k => { k with l1 := sdel k.l1 (a / 4) }

/-- A valid word of the L1 line of address `a` for core `c`, if it has one: it tells what the line holds (R179, R180). -/
def State.l1Line (s : State) (c a : Nat) : Option L1Word := firstOf (fun i => s.l1Word c (a / 32 * 32 + 4 * i)) (List.range 8)

/-- What an L1 line that is filled from a page holds (R179, R180). -/
def TEntry.l1Word (t : TEntry) : L1Word :=
  { data := 0, dirty := false, cls := leafClass t.leaf, ro := leafClass t.leaf = 1, bad := 0
    way := if leafClass t.leaf = 5 then 16 * (leafFrame t.leaf / 16 % 4 * 256 + leafParg t.leaf) + leafFrame t.leaf % 16 else 0 }

/-- A word made from the bytes that `f` gives it, kept where `f` gives none. -/
def wordBytes (d : BitVec 32) (f : Nat → Option Byte) : BitVec 32 :=
  forRange 4 (fun j d => match f j with
    | some b => d &&& ~~~(0xFF#32 <<< (8 * j)) ||| (BitVec.setWidth 32 b <<< (8 * j))
    | none => d) d

/-- Fills the invalid words of the 32-byte line of `a` from its home, through the L2 (R179); `ro` makes a read-only line, and a
line that is read-only stays so, and a line keeps the class that it has (R180). Words of a line with an uncorrectable error are
marked (R421). -/
def State.fillL1 (s : State) (c a : Nat) (t : TEntry) (ro : Bool) : State :=
  let line := a / 32 * 32
  let bad := if s.badAt t (dieOf c) line 32 then BitVec.allOnes 4 else 0
  let s := s.fillL2 t (dieOf c) a
  let held := s.l1Line c a
  let ro := ro || leafClass t.leaf = 1 || (held.map (·.ro)).getD false
  let new := (held.map fun x => { x with dirty := false }).getD t.l1Word
  forRange 8 (fun i s =>
    let w := line + 4 * i
    match s.l1Word c w with
    | some x => if x.ro = ro then s else s.setL1 c w { x with ro }
    | none => s.setL1 c w { new with data := BitVec.ofNat 32 (natOfBytes (s.homeRead t (dieOf c) w 4)), ro, bad }) s

/-- Writes through one dirty word, held in the L1 of core `c` (R179, R184): the fault of its translation, or the state
in which the word is clean. Bytes that carry an error are not written (R421). -/
def State.wtWord (s : State) (c a : Nat) : Except (Nat × WalkFault) State :=
  match sfind (s.core c).l1 (a / 4) with
  | some w =>
    if w.dirty then
      match s.translate (sliceOf c) a true with
      | .error f => .error (a, f)
      | .ok (t, s) =>
        let s := if w.bad = 0 then s.writeFor (s.ctxOf (4 * c)) t a (bytesOfNat 4 w.data.toNat)
          else forRange 4 (fun j s => if w.bad.getLsbD j then s else s.writeFor (s.ctxOf (4 * c)) t (a + j) [w.data.extractLsb' (8 * j) 8]) s
        .ok (s.modCore c fun k => { k with l1 := sset k.l1 (a / 4) { w with dirty := false } })
    else .ok s
  | none => .ok s

/-- The L1 of core `c` gives up the line with number `line`: its dirty words are written through first (R179). -/
def State.evictLine (s : State) (c line : Nat) : Except (Nat × WalkFault) State := do
  let s ← (List.range 8).foldlM (fun s i => s.wtWord c (line * 32 + 4 * i)) s
  return s.modCore c fun k => { k with l1 := k.l1.filter fun e => e.1 / 8 != line }

/-- The lines of a core's L1 in the set of address `a`: 512 sets of 4 ways, a fused L1 by its 512 KiB (R179, log 6). -/
def State.l1Set (s : State) (c a : Nat) : List Nat :=
  let index := fun line => if (s.car (c / 8)).fused then line / 8 % 512 else line % 512
  (((s.core (s.l1Home c a)).l1.map fun e => e.1 / 8).dedup).filter fun line => index line == index (a / 32)

/-- Makes room for the line of address `a` in the L1 of core `c`: a full set gives up a line that the part chooses (R179,
log 6). Where that line has a dirty word that cannot be translated, the miss waits (R184). -/
def State.l1Room (s : State) (c a : Nat) : Except Stop State :=
  let lines := s.l1Set c a
  if lines.length < 4 || lines.contains (a / 32) then .ok s
  else match s.evictLine (s.l1Home c a) (lines.getD (Config.victim c s.cycle % lines.length) 0) with
    | .ok s => .ok s
    | .error _ => .error .wait

/-- Writes through every dirty word of the L1 of core `c` (R183), lowest address first: where several cannot be translated, that
is the one whose address the release reports (R184 gives no order: DESIGN CHOICE, log 27). -/
def State.wtCore (s : State) (c : Nat) : Except (Nat × WalkFault) State :=
  (s.core c).l1.foldlM (fun s e => s.wtWord c (4 * e.1)) s

/-- Writes through every dirty word of a list of L1s, one L1 after the other: of a fused L1 that decides too which word is reported
(DESIGN CHOICE, log 27). -/
def State.wtCores (s : State) (cs : List Nat) : Except (Nat × WalkFault) State := cs.foldlM (fun s c => s.wtCore c) s

/-- Writes through the dirty words of core `c` in the 16-byte units that `[a, a + n)` meets (R462): a store of 8 or 16
bytes reaches its home in one piece (R192, R201). -/
def State.wtRange (s : State) (c a n : Nat) : Except (Nat × WalkFault) State :=
  let b := a / 16 * 16
  (List.range ((a % 16 + n + 15) / 16 * 4)).foldlM (fun s i => s.wtWord (s.l1Home c (b + 4 * i)) (b + 4 * i)) s

/-- Drops the L1 words of core `c` that `[a, a + n)` covers. -/
def State.dropRange (s : State) (c a n : Nat) : State :=
  forRange ((a % 4 + n + 3) / 4) (fun i s => s.dropL1 c (a / 4 * 4 + 4 * i)) s

/-- The bytes of a non-temporal entry put into the words that core `c` holds in its L1 (R190, R198). -/
def State.ntMerge (s : State) (c : Nat) (e : NtEntry) : State :=
  forRange 16 (fun i s =>
    let a := e.line * 64 + 4 * i
    match s.l1Word c a with
    | some w => s.setL1 c a { w with data := wordBytes w.data fun j => sfind e.bytes (4 * i + j) }
    | none => s) s

/-- Drains one entry of the non-temporal buffer of core `c` to its home; the core's own copies take the bytes (R190). Where its
page cannot be translated the address given is the line's first, whichever bytes it holds (log 27). -/
def State.drainNt (s : State) (c : Nat) (e : NtEntry) : Except (Nat × WalkFault) State :=
  match s.translate (sliceOf c) (e.line * 64) true with
  | .error f => .error (e.line * 64, f)
  | .ok (t, s) =>
    let s := e.bytes.foldl (fun s b => s.writeFor (s.ctxOf (4 * c)) t (e.line * 64 + b.1) [b.2]) s
    let s := s.ntMerge c e
    .ok (s.modCore c fun k => { k with nt := k.nt.filter fun f => f.line ≠ e.line })

/-- Drains every entry of the non-temporal buffer of core `c`, oldest first. -/
def State.drainAll (s : State) (c : Nat) : Except (Nat × WalkFault) State :=
  (s.core c).nt.foldlM (fun s e => s.drainNt c e) s

/-- Drains the entry that holds any byte of `[a, a + n)`, if one does (R190). -/
def State.drainOver (s : State) (c a n : Nat) : Except (Nat × WalkFault) State :=
  match (s.core c).nt.find? fun e => e.line == a / 64 && (List.range n).any fun i => shas e.bytes (a % 64 + i) with
  | some e => s.drainNt c e
  | none => .ok s

/-! ### Releases and acquires -/

/-- The scope of a code; codes above 4 are never held. -/
def scopeOf : Nat → Scope
  | 0 => .core | 1 => .caravan | 2 => .die | 3 => .package | _ => .system

/-- The write-through of a release by core `c` (R183): the fault of a word it cannot write through, or the state. -/
def State.release (s : State) (c : Nat) (sc : Scope) : Except (Nat × WalkFault) State :=
  match sc with
  | .core => .ok s
  | .caravan => if (s.car (c / 8)).fused then .ok s else s.wtCore c
  | .die | .package => s.wtCores (s.l1Group c)
  | .system => do (← s.wtCores (s.l1Group c)).drainAll c

/-- Invalidates the clean words of a core's L1 that are not read-only (R183). -/
def Core.invalidate (k : Core) : Core := { k with l1 := k.l1.filter fun e => e.2.dirty || e.2.ro }

/-- The invalidation of an acquire by core `c` (R183). -/
def State.acquire (s : State) (c : Nat) (sc : Scope) : State :=
  match sc with
  | .core => s
  | .caravan => if (s.car (c / 8)).fused then s else s.modCore c Core.invalidate
  | .die | .package | .system => (s.l1Group c).foldl (fun s c => s.modCore c Core.invalidate) s

/-- The addresses that a release by core `c` translates, in its order: its dirty words, and the lines of its non-temporal buffer. -/
def State.releaseWalks (s : State) (c : Nat) (sc : Scope) : List Nat :=
  let words := fun (cs : List Nat) => cs.flatMap fun d => ((s.core d).l1.filter (·.2.dirty)).map fun e => 4 * e.1
  match sc with
  | .core => []
  | .caravan => if (s.car (c / 8)).fused then [] else words [c]
  | .die | .package => words (s.l1Group c)
  | .system => words (s.l1Group c) ++ (s.core c).nt.map fun e => e.line * 64

/-- A release by the executing slot; a failed write-through raises cause 29 with the word's address (R184). The walks of the words
before it stay (R173). -/
def Act.release (sc : Scope) : Act Unit := fun s =>
  let c := coreOf s.cur
  match s.release c sc with
  | .ok t => .ok ((), t)
  | .error (a, _) =>
    .error (Stop.afterAll (((s.releaseWalks c sc).takeWhile (· != a)).map fun b => (b, true)) (.trap 29 (wordOfNat a)))

/-- A release, and then the rest of an instruction: where that stops, what the walks of the release did stays (R173, R176). -/
def Act.released {α : Type} (sc : Scope) (act : Act α) : Act α := fun s =>
  match Act.release sc s with
  | .ok (_, t) => Act.keepAll ((s.releaseWalks (coreOf s.cur) sc).map fun b => (b, true)) act t
  | .error e => .error e

/-- An acquire by the executing slot (R183). -/
def Act.acquire (sc : Scope) : Act Unit := Act.mod fun s => s.acquire (coreOf s.cur) sc

/-! ### Checks of an access -/

/-- The kinds of access that rights and classes tell apart (R169, R175). -/
inductive Acc where
  | load | store | amo | lr | sc | fetch
  deriving DecidableEq, Repr

/-- The access-fault cause of a kind (R169). -/
def Acc.cause : Acc → Nat
  | .load | .lr => 5
  | .store | .amo | .sc => 7
  | .fetch => 1

/-- The misalignment cause of a kind (R65). -/
def Acc.misaligned : Acc → Nat
  | .load | .lr => 4
  | .store | .amo | .sc => 6
  | .fetch => 0

/-- The page-fault cause of a kind (R173). -/
def Acc.page : Acc → Nat
  | .load | .lr => 13
  | .store | .amo | .sc => 15
  | .fetch => 12

/-- The access code of gfault (R396). -/
def Acc.code : Acc → Nat
  | .load | .lr => 0
  | .store | .amo | .sc => 1
  | .fetch => 2

/-- Whether a kind writes. -/
def Acc.writes : Acc → Bool
  | .load | .lr | .fetch => false
  | .store | .amo | .sc => true

/-- Whether a PLB entry gives the rights of a kind (R170): bit 0 R, 1 W, 2 X. -/
def Acc.right (k : Acc) (e : Word) : Bool :=
  match k with
  | .load | .lr => wbit e 0
  | .store | .sc => wbit e 1
  | .amo => wbit e 0 && wbit e 1
  | .fetch => wbit e 2

/-- Whether a valid PLB entry matches an address (R169, R170). -/
def plbMatch (e : Word) (a : Nat) : Bool :=
  wbit e 63 && decide (a / 2 ^ wbits e 13 8 = wbits e 55 16 * 65536 / 2 ^ wbits e 13 8)

/-- The lowest-indexed entry of a core's PLB that matches an address (R169). -/
def Core.plbFind (k : Core) (a : Nat) : Option Word := firstOf (fun e => if plbMatch e.2 a then some e.2 else none) k.plb

/-- Whether the scratch way that a class 5 page names is set as scratch (R175, R416). -/
def State.scratchOk (s : State) (t : TEntry) : Bool :=
  let w := t.l1Word.way
  (sget 0 s.ways (w / 16)).toNat.testBit (w % 16)

/-- The cause with which a class refuses an access, if it does; `g` is the G right, `way` the scratch check (R175). -/
def classRefuses (cls : Nat) (k : Acc) (g way : Bool) : Option Nat :=
  match cls with
  | 1 => if k.writes then some 7 else none
  | 2 => if k = .lr || k = .sc then some 7 else none
  | 3 => if k = .fetch then none else some 50
  | 4 => if k.writes && !g then some 7 else none
  | 5 => if way then none else some k.cause
  | _ => none

/-- The PLB check of R169. -/
def State.plbCheck (s : State) (c a : Nat) (k : Acc) : Except Stop Word :=
  match (s.core c).plbFind a with
  | some e => if k.right e then .ok e else .error (.trap k.cause (wordOfNat a))
  | none => .error (.trap k.cause (wordOfNat a))

/-- The park of a page fault (R396, R402). -/
def pageFault (k : Acc) (a : Nat) (f : WalkFault) : Stop :=
  .park { cause := k.page, addr := wordOfNat a, reason := f.reason, level := f.level, access := k.code }

/-- Steps 4 to 6 of R178 for an access at the home: PLB, translation, class. -/
def State.checkHome (s : State) (c a : Nat) (k : Acc) : Except Stop (TEntry × State) := do
  let e ← s.plbCheck c a k
  match s.translate (sliceOf c) a k.writes with
  | .error f => throw (pageFault k a f)
  | .ok (t, s) =>
    match classRefuses (leafClass t.leaf) k (wbit e 5) (s.scratchOk t) with
    | some cause => throw (.after a k.writes (.trap cause (wordOfNat a)))
    | none => return (t, s)

/-- Steps 4 and 5 of R178 for an access that hits in the L1, whose line is as word `w` tells (R180). -/
def State.checkHit (s : State) (c a : Nat) (w : L1Word) (k : Acc) : Except Stop Unit := do
  let e ← s.plbCheck c a k
  match classRefuses w.cls k (wbit e 5) ((sget 0 s.ways (w.way / 16)).toNat.testBit (w.way % 16)) with
  | some cause => throw (.trap cause (wordOfNat a))
  | none => return ()

/-! ### Loads and stores of a slot -/

/-- The bytes `[a, a + n)` of a core's local store (R168). -/
def Core.locBytes (k : Core) (a n : Nat) : List Byte := (List.range n).map fun i => sget 0 k.loc (a + i - Config.windowBase)

/-- The bytes `[a, a + n)` of a core's own: its local store (R168), or the steward's SRAM (R454). -/
def State.ownBytes (s : State) (c a n : Nat) : List Byte :=
  if c = stewardCore then (List.range n).map fun i => sget 0 s.sram (a + i) else (s.core c).locBytes a n

/-- Writes bytes into a core's own store (R168, R454). -/
def State.putLoc (s : State) (c a : Nat) (bs : List Byte) : State :=
  let s := if c = stewardCore then { s with sram := putBytes s.sram a bs }
    else s.modCore c fun k => { k with loc := putBytes k.loc (a - Config.windowBase) bs }
  { s with resv := killResv s.resv (place c a) bs.length }

/-- The kill of a read of uncorrectable data at the home, if the bytes carry an error (R421). -/
def State.consume (s : State) (t : TEntry) (c a n : Nat) (k : Acc) : Except Stop Unit :=
  if s.badAt t (dieOf c) a n then .error (.after a k.writes (.kill 52 (wordOfNat a))) else .ok ()

/-- Whether every word of `[a, a + n)` is valid in the L1 of core `c`. -/
def State.l1Hit (s : State) (c a n : Nat) : Bool :=
  (List.range ((a % 4 + n + 3) / 4)).all fun i => (s.l1Word c (a + 4 * i)).isSome

/-- The bytes of a load as core `c` sees them, unless one of them carries an error (R190, R421). -/
def State.l1Read (s : State) (c a n : Nat) : Except Stop (List Byte) :=
  if (List.range n).any fun i => s.l1Bad c (a + i) then .error (.kill 52 (wordOfNat a))
  else .ok ((List.range n).map fun i => s.l1Byte c (a + i))

/-- A plain load of `n` bytes within one line by core `c`: the checks of R178, the fill of a miss, and the bytes as
the core sees them. Poisoned data is consumed (R421). -/
def State.load (s : State) (c a n : Nat) (ro : Bool) : Except Stop (List Byte × State) :=
  if isOwn c a then .ok (s.ownBytes c a n, s)
  else if s.l1Hit c a n then do
    s.checkHit c a ((s.l1Word c a).getD (TEntry.l1Word { base := 0, log := 0, leaf := 0 })) .load
    let bs ← s.l1Read c a n
    return (bs, s)
  else do
    let (t, s) ← s.checkHome c a .load
    s.consume t c a n .load
    kept a false do
      let s ← s.l1Room c a
      let s := s.fillL1 c a t ro
      let bs ← s.l1Read c a n
      return (bs, s)

/-- Turns the fault of a write-through or drain into the page fault of the access that needed it (R462). -/
def ofWt (k : Acc) : Except (Nat × WalkFault) State → Except Stop State
  | .ok s => .ok s
  | .error (a, f) => .error (pageFault k a f)

/-- Writes the bytes of a store into L1 words, marking them dirty (R179); a word that is not valid starts as `line` tells. -/
def State.storeL1 (s : State) (c a : Nat) (line : L1Word) (bs : List Byte) : State :=
  forRange ((a % 4 + bs.length + 3) / 4) (fun i s =>
    let w := a / 4 * 4 + 4 * i
    let old := (s.l1Word c w).getD { line with data := 0, dirty := false, bad := 0 }
    let byte := fun j => if a ≤ w + j ∧ w + j < a + bs.length then some (bs.getD (w + j - a) 0) else none
    let clean := forRange 4 (fun j m => if (byte j).isSome then m &&& ~~~(1#4 <<< j) else m) old.bad
    s.setL1 c w { old with data := wordBytes old.data byte, dirty := true, bad := clean }) s

/-- A plain store by core `c` of bytes that lie within one line: the checks of R178, the drain of a non-temporal entry
it overlaps (R190), the fill of a word it covers in part, for which a miss checks the leaf's class (R178), and the dirty
words (R179). Where the drain of that entry cannot be translated the store takes the page fault (DESIGN CHOICE, log 27). -/
def State.store (s : State) (c a : Nat) (bs : List Byte) : Except Stop State :=
  if isOwn c a then .ok (s.putLoc c a bs)
  else do
    let (line, s) ← match s.l1Line c a with
      | some w => do
        s.checkHit c a w .store
        let s ← ofWt .store (s.drainOver c a bs.length)
        pure (w, s)
      | none => do
        let (t, s) ← s.checkHome c a .store
        let s ← kept a true do
          let s ← ofWt .store (s.drainOver c a bs.length)
          s.l1Room c a
        pure (t.l1Word, s)
    if bs.length < 4 && !s.l1Hit c a bs.length then
      let (t, s) ← s.checkHome c a .store
      return ((s.cxlAccess (s.ctxOf (4 * c)) t (a / 32 * 32) 32).fillL1 c a t false).storeL1 c a line bs
    else return s.storeL1 c a line bs

/-- Prepares an access that is performed at the home (R462): the checks, then the core's covering non-temporal bytes and
dirty words are written through. -/
def State.atHome (s : State) (c a n : Nat) (k : Acc) : Except Stop (TEntry × State) := do
  let (t, s) ← s.checkHome c a k
  kept a k.writes do
    let s ← ofWt k (s.drainOver c a n)
    let s ← ofWt k (s.wtRange c a n)
    return (t, s)

/-- Reads `n` bytes at the home of `a`, or in the local store (R462). -/
def State.readHome (s : State) (c a n : Nat) (k : Acc) : Except Stop (List Byte × State) :=
  if isOwn c a then .ok (s.ownBytes c a n, s)
  else do
    let (t, s) ← s.atHome c a n k
    s.consume t c a n k
    return (s.homeRead t (dieOf c) a n, s.fillRange t (dieOf c) a n)

/-- Writes bytes at the home of `a`, or in the local store, and drops the core's copy (R187, R462). -/
def State.writeHome (s : State) (c a : Nat) (bs : List Byte) (k : Acc) : Except Stop State :=
  if isOwn c a then .ok (s.putLoc c a bs)
  else do
    let (t, s) ← s.atHome c a bs.length k
    return (s.writeFor (s.ctxOf (4 * c)) t a bs).dropRange c a bs.length

/-- An atomic read-modify-write of `n` bytes at the home of `a` (R200, R462): `f` of the old value gives the new one, or
none where nothing is written. The old value is the result, and the core's copy of the words is dropped. -/
def State.rmw (s : State) (c a n : Nat) (k : Acc) (f : Nat → Option Nat) : Except Stop (Nat × State) :=
  if isOwn c a then
    let old := natOfBytes (s.ownBytes c a n)
    match f old with
    | some v => .ok (old, s.putLoc c a (bytesOfNat n v))
    | none => .ok (old, s)
  else do
    let (t, s) ← s.atHome c a n k
    if k = .amo then s.consume t c a n k
    let old := natOfBytes (s.homeRead t (dieOf c) a n)
    match f old with
    | some v => return (old, (s.writeFor (s.ctxOf (4 * c)) t a (bytesOfNat n v)).dropRange c a n)
    | none => return (old, s.fillRange t (dieOf c) a n)

/-- A plain load of the executing slot. -/
def Act.load (a n : Nat) : Act (List Byte) := fun s => s.load (coreOf s.cur) a n false

/-- A plain load of a natural number by the executing slot, its alignment checked first (R65, R178). -/
def Act.loadNat (a n : Nat) : Act Nat := fun s =>
  if a % n ≠ 0 then .error (.trap 4 (wordOfNat a))
  else match s.load (coreOf s.cur) a n false with
    | .ok (bs, t) => .ok (natOfBytes bs, t)
    | .error e => .error e

/-- The plain reads of 32 bytes or less, of the record of `n` bytes at `a`, that miss the L1 of core `c` and so are translated; where
every word is in the L1 nothing is walked (R180). -/
def State.missed (s : State) (c a n : Nat) : List (Nat × Bool) :=
  ((List.range ((n + 31) / 32)).filter fun i => !s.l1Hit c (a + 32 * i) (min 32 (n - 32 * i))).map fun i => (a + 32 * i, false)

/-- A record of `n` bytes read by plain loads of 32 bytes or less (R137, R209, R225, R411), alignment checked by the caller. Where one
of them stops, what the walks of those before it did stays (R173). -/
def Act.loadRecord (a n : Nat) : Act (List Byte) := fun s =>
  (List.range (n / 32)).foldlM (fun (acc : List Byte × State) i =>
    match acc.2.load (coreOf s.cur) (a + 32 * i) 32 false with
    | .ok (bs, t) => .ok (acc.1 ++ bs, t)
    | .error e => .error (.afterAll (s.missed (coreOf s.cur) a (32 * i)) e)) ([], s)

/-- What the plain reads of `[a, a + n)` in state `before` walked stays where the rest of the instruction stops (R173). -/
def Act.kept {α : Type} (before : State) (a n : Nat) (act : Act α) : Act α := Act.keepAll (before.missed (coreOf before.cur) a n) act

/-- A plain store of the executing slot, its alignment checked first (R65, R178). -/
def Act.storeNat (a n v : Nat) : Act Unit := fun s =>
  if a % n ≠ 0 then .error (.trap 6 (wordOfNat a))
  else match s.store (coreOf s.cur) a (bytesOfNat n v) with
    | .ok t => .ok ((), t)
    | .error e => .error e

/-- The little-endian 64-bit words of a list of bytes (R4). -/
def wordsOf : Nat → List Byte → List Word
  | 0, _ => []
  | n + 1, bs => wordOfNat (natOfBytes (bs.take 8)) :: wordsOf n (bs.drop 8)

/-! ### Messages -/

/-- Changes the running launch `id` of a context (R228). -/
def State.modLaunch (s : State) (ctx id : Nat) (f : Running → Running) : State :=
  s.modCtx ctx fun c => { c with launches := c.launches.map fun r => if r.record.id = id then f r else r }

/-- The source of an event message, from its word w1 (R404). -/
def Source.ofWord (w : Word) : Source := { kind := wbits w 31 28, pos := wbits w 27 0 }

/-- A message is refused (R206): an event message goes to the host (R404); any other raises BOUNDS for its sender (R464),
and a start message is counted as refused (R228). -/
def State.refuse (s : State) (f : Flight) (src : Source) (reason : Nat) (w7 : Word) : State :=
  if f.event then s.hostEvent (Source.ofWord (f.msg.words.getD 1 0)) f.msg.words
  else
    let s := s.event f.msg.ctx src 1 0 reason (wordOfNat f.msg.fid) f.dest
      (if f.msg.launch.isSome then 0 else s.senderCoord f.msg.src) (f.msg.words.getD 0 0) w7
    match f.msg.launch with
    | some id => s.modLaunch f.msg.ctx id fun r => { r with pending := r.pending - 1, refused := r.refused + 1 }
    | none => s

/-- A released message leaves the interface of the sending core (R206, R205, R464): refused, to the sequencer, to its
destination in this package, or to another package. -/
def State.emit (s : State) (core : Nat) (f : Flight) : State :=
  match s.departFault f.dest with
  | some r => s.refuse f { kind := 0, pos := core } r 0
  | none =>
    if destMode f.dest = 1 then { s with toSeq := s.toSeq ++ [f] }
    else if s.isLocal f.dest then { s with toDest := s.toDest ++ [f] }
    else { s with outbox := s.outbox ++ [f] }

/-- The destination word of queue `q` of a core of this package (R204). -/
def ownDest (core q : Nat) : Word := wordOfNat (2 ^ 61 + core * 2 ^ 36 + q * 2 ^ 33)

/-! ### Convoy membership -/

/-- The lane that a slot is attached to, with its member (R145). -/
def State.laneOf (s : State) (k : Nat) : Option (Nat × Lane × Member) :=
  firstOf (fun e => (e.2.members.find? fun m => m.slot == k).map fun m => (e.1, e.2, m)) (s.car (carOf k)).lanes

/-- Whether a member has issued all that another one has, iterations of a repeated CVSYNC counted (R162). -/
def Member.reached (y x : Member) : Bool := decide (x.seq < y.seq) || (x.seq == y.seq && decide (x.iter ≤ y.iter))

/-- A member that waits at a CVSYNC goes on once every current member has issued it, whoever else attaches later (R162). -/
def Lane.release (l : Lane) : Lane :=
  { l with members := l.members.map fun x =>
      if x.sync.isSome && l.members.all fun y => y.reached x then { x with sync := none, go := true } else x }

/-- A lane whose CVSYNC every current member has issued delivers again, and no member waits at it (R155, R162). -/
def Lane.settle (l : Lane) : Lane :=
  let l := l.release
  match l.sync with
  | some n =>
    if l.members.all fun m => decide (n < m.seq) then
      { l with sync := none, nextPc := some ((((sfind l.stream n).map (·.pc)).getD 0 + 4) % 2 ^ 64) }
    else l
  | none => l

/-- What a cycle begins with in the front ends: a lane whose CVSYNC every current member issued by the end of the cycle before goes
on, and the waiting members issue in this one (R155, R162); a lane that its last member left is free (R151). -/
def State.settleLanes (s : State) : State :=
  { s with cars := smap (fun _ c => { c with lanes := smap (fun _ l => l.settle) c.lanes }) s.cars, freed := [], before := none }

/-- The caravan with a lane set; one that has no member left is free from the next cycle on (R151, R155, R166). -/
def State.setLane (s : State) (car n : Nat) (l : Lane) : State :=
  if l.members.isEmpty then
    { s.modCar car fun c => { c with lanes := sdel c.lanes n } with freed := s.freed ++ [(car, n)] }
  else s.modCar car fun c => { c with lanes := sset c.lanes n l }

/-- A slot leaves its convoy, if it is in one (R151). -/
def State.leave (s : State) (k : Nat) : State :=
  match s.laneOf k with
  | some (n, l, _) => s.setLane (carOf k) n { l with members := l.members.filter fun m => m.slot ≠ k }
  | none => s

/-- The member of slot `k`, if it is one, changed. -/
def State.modMember (s : State) (k : Nat) (f : Member → Member) : State :=
  match s.laneOf k with
  | some (n, l, _) => s.setLane (carOf k) n { l with members := l.members.map fun x => if x.slot = k then f x else x }
  | none => s

/-- The word at an address that the lane of slot `k` has delivered to it, or delivers next, if there is one: every member issues
the word that was decoded once for the convoy, a newcomer of the gathering window too (R62, R80, R147). -/
def State.laneWord (s : State) (k : Nat) (pc : Nat) : Option (BitVec 32) :=
  match s.laneOf k with
  | some (_, l, m) => firstOf (fun q => match sfind l.stream q with
      | some d => if d.pc = pc then d.word else none
      | none => none) [m.seq, m.seq + 1]
  | none => none

/-- The member of slot `k` has issued one more instruction (R148). One that attached after a transfer was resolved
becomes a stray where its next PC differs from the path chosen (R150). -/
def State.bump (s : State) (k : Nat) : State :=
  match s.laneOf k with
  | some (_, l, m) =>
    let pc := (s.slot k).pc.toNat
    match sfind l.chosen m.seq with
    | some p =>
      if p = pc then s.modMember k fun x => { x with seq := x.seq + 1, iter := 0 }
      else (s.leave k).modSlot k fun sl => { sl with run := .stray }
    | none => s.modMember k fun x => { x with seq := x.seq + 1, iter := 0 }
  | none => s

/-! ### The commit of an instruction -/

/-- The address of the instruction a slot executes: the word after the prefix during a repetition (R127). -/
def Slot.at_ (sl : Slot) : Word := if sl.rep.isSome then sl.pc + 4 else sl.pc

/-- A slot's instruction commits: a repetition goes to its next iteration or ends at p + 8 (R127, R128); else the PC goes
to `target`, or to PC + 4. -/
def Slot.commit (sl : Slot) (target : Option Word) : Slot :=
  let sl := { sl with instret := sl.instret + 1, wait := .none }
  match sl.rep with
  | some r =>
    if r.iter + 1 < r.count then { sl with rep := some { r with iter := r.iter + 1 } }
    else { sl with rep := none, pc := sl.pc + 8 }
  | none => { sl with pc := target.getD (sl.pc + 4) }

/-- Whether a slot's commit moves its PC, so that its convoy member goes on (R132, R148). -/
def Slot.moves (sl : Slot) : Bool :=
  match sl.rep with
  | some r => !decide (r.iter + 1 < r.count)
  | none => true

/-- The instruction of slot `k` commits. -/
def State.commit (s : State) (k : Nat) (target : Option Word) : State :=
  let moves := (s.slot k).moves
  let s := s.modSlot k fun sl => sl.commit target
  if moves then s.bump k else s

/-- The executing instruction commits and the PC goes on (R10). -/
def Act.next : Act Unit := Act.mod fun s => s.commit s.cur none

/-- The executing instruction commits and the PC goes to a target; a target that is no multiple of 4 raises cause 0 (R61). -/
def Act.jump (target : Word) : Act Unit := fun s =>
  if target.toNat % 4 ≠ 0 then .error (.trap 0 target) else .ok ((), s.commit s.cur (some target))

/-! ### Taking an exception and returning -/

/-- The steward's own M-mode CSR (log 15). -/
def Slot.m (sl : Slot) (csr : Nat) : Word := sget 0 sl.mcsr csr

/-- Sets one of the steward's M-mode CSRs. -/
def Slot.setM (sl : Slot) (csr : Nat) (w : Word) : Slot := { sl with mcsr := sput 0 sl.mcsr csr w }

/-- Stops a repetition at an iteration boundary: repst names the first iteration not committed; any other stop leaves
repst unchanged, and the next return makes its first instruction the one that consumes it (R129). -/
def Slot.stopRep (sl : Slot) : Slot :=
  match sl.rep with
  | some r => { sl with rep := none, fresh := false, repst := wordOfNat (2 ^ 63 + r.count * 4096 + r.iter) }
  | none => { sl with fresh := false }

/-- The S-mode entry of a slot (R399): sepc, scause, stval, SPP and SPIE are set, SIE is cleared, PC := stvec. -/
def Slot.enterS (sl : Slot) (cause tval : Word) : Slot :=
  let sie := wbits sl.sstatus 1 1
  let st := setBits (setBits (setBits sl.sstatus 8 8 (if sl.priv = .u then 0 else 1)) 5 5 sie) 1 1 0
  { sl with sepc := sl.pc, scause := cause, stval := tval, sstatus := st, priv := .s, pc := sl.stvec }

/-- The M-mode entry of the steward core, as the privileged specification states (R13, R66, log 15). -/
def Slot.enterM (sl : Slot) (cause tval : Word) : Slot :=
  let st := sl.m 0x300
  let pp := match sl.priv with | .u => 0 | .s => 1 | .m => 3
  let st := setBits (setBits (setBits st 12 11 pp) 7 7 (wbits st 3 3)) 3 3 0
  let pc := sl.m 0x305
  let sl := (((sl.setM 0x341 sl.pc).setM 0x342 cause).setM 0x343 tval).setM 0x300 st
  { sl with priv := .m, pc }

/-- Whether a trap of the steward core goes to M-mode: from M-mode, or a cause that is not delegated (log 15). -/
def Slot.toM (sl : Slot) (k : Nat) (cause : Word) : Bool :=
  k = stewardSlot && (sl.priv = .m || !wbit (sl.m (if wbit cause 63 then 0x303 else 0x302)) (cause.toNat % 64))

/-- The entry of slot `k` into its handler (R399): it leaves its convoy and goes on as a stray (R151). -/
def State.enter (s : State) (k : Nat) (cause tval : Word) : State :=
  (s.leave k).modSlot k fun sl =>
    let sl := { sl.stopRep with run := .stray, wait := .none }
    if sl.toM k cause then sl.enterM cause tval else sl.enterS cause tval

/-- A synchronous trap of slot `k` (R399). -/
def State.takeTrap (s : State) (k cause : Nat) (tval : Word) : State := s.enter k (wordOfNat cause) tval

/-- The supervisor software interrupt of slot `k` (R400). -/
def State.takeInterrupt (s : State) (k : Nat) : State := s.enter k (wordOfNat (2 ^ 63 + 1)) 0

/-- The return of SRET (R393): PC := sepc, the mode is SPP, SIE := SPIE, SPIE := 1, SPP := 0; the next instruction is the
first after a return (R129). -/
def Slot.sret (sl : Slot) : Slot :=
  let st := sl.sstatus
  { sl with pc := sl.sepc, priv := if wbit st 8 then .s else .u, fresh := true,
            sstatus := setBits (setBits (setBits st 1 1 (wbits st 5 5)) 5 5 1) 8 8 0 }

/-- The return of MRET on the steward core, as the privileged specification states; a return below M-mode clears MPRV (R66,
log 15). -/
def Slot.mret (sl : Slot) : Slot :=
  let st := sl.m 0x300
  let priv := if wbits st 12 11 = 3 then Priv.m else if wbits st 12 11 = 1 then .s else .u
  let st := setBits (setBits (setBits st 3 3 (wbits st 7 7)) 7 7 1) 12 11 0
  let st := if priv = .m then st else setBits st 17 17 0
  { sl.setM 0x300 st with pc := sl.m 0x341, priv, fresh := true }

/-! ### Parking and killing -/

/-- The gfault record of a parking (R396). -/
def ParkInfo.gfault (p : ParkInfo) : Word :=
  wordOfNat (2 ^ 63 + p.reason * 2 ^ 60 + p.level * 2 ^ 58 + p.access * 2 ^ 56 + p.cause)

/-- The walkers learn that the page of an address is not resident: the home that a first touch had fixed is forgotten
(R176). -/
def State.nonResident (s : State) (a : Nat) : State :=
  match s.leafKey a with
  | .ok k =>
    let leaf := s.leafAt k
    if wbit leaf 0 then s else { s with firstTouch := sdel s.firstTouch ((pageAt leaf a).base / 65536) }
  | .error _ => s

/-- Whether the leaf of an address is present. -/
def State.leafPresent (s : State) (a : Nat) : Bool :=
  match s.leafKey a with
  | .ok k => wbit (s.leafAt k) 0
  | .error _ => false

/-- The walkers forget the home of every first-touch page that has been made non-resident (R176). -/
def State.dropHomes (s : State) : State := { s with firstTouch := s.firstTouch.filter fun e => s.leafPresent (e.1 * 65536) }

/-- A page fault parks slot `k` at its instruction and sends a fault record (R402). -/
def State.park (s : State) (k : Nat) (p : ParkInfo) : State :=
  let s := ((s.nonResident (va p.addr)).leave k).modSlot k fun sl =>
    { sl.stopRep with run := .parked p, wait := .none, stval := p.addr, gfault := p.gfault }
  { s with faults := s.faults ++ [{ slot := k, info := p, at_ := s.cycle, stalled := none, told := false }] }

/-- Whether a slot runs a firing (R156). -/
def Slot.running (sl : Slot) : Bool := sl.run ≠ .idle

/-- The queue of a slot's firing (R216). -/
def Slot.queue (sl : Slot) : Nat := wbits sl.firing 10 8

/-- The distinct launches whose start messages a firing consumed (R228). -/
def Slot.launchIds (sl : Slot) : List Nat := (sl.trig.filterMap (·.launch)).dedup

/-- Whether a launch record fuses the L1s (R224). -/
def LRec.fuse (r : LRec) : Bool := wbit (r.words.getD 1 0) 38

/-- Whether a message is a start message of one of some launches of a context. -/
def Msg.starts (m : Msg) (ctx : Nat) (rs : List Running) : Bool := m.ctx == ctx && rs.any fun r => m.launch == some r.record.id

/-- Whether caravan `car` still serves a fused launch of context `ctx`: a firing of one runs there, or a start message of
one is on its way to the caravan or waits there (R227). -/
def State.fuseNeeded (s : State) (ctx car : Nat) : Bool :=
  let fused := (s.ctx ctx).launches.filter fun r => r.record.fuse
  let waits := fun (q : Sparse (List Msg)) => q.any fun e => e.2.any fun m => m.starts ctx fused
  s.toDest.any (fun f => f.target / 8 == car && f.msg.starts ctx fused)
  || (List.range 8).any (fun i => waits (s.core (8 * car + i)).inbox || waits (s.core (8 * car + i)).spill)
  || (List.range 32).any fun i =>
    let sl := s.slot (32 * car + i)
    sl.running && fused.any fun r => sl.launchIds.contains r.record.id

/-- Writes through what it can of a list of L1s and drops every clean word, read-only ones too (R179, R184, R227). -/
def State.flushL1s (s : State) (cs : List Nat) : State :=
  cs.foldl (fun s c =>
    let s := (s.core c).l1.foldl (fun s e => (s.wtWord c (4 * e.1)).toOption.getD s) s
    s.modCore c fun k => { k with l1 := k.l1.filter fun e => e.2.dirty }) s

/-- A caravan of a context stops being fused once no firing of a fused launch is left there (R179, R195, R227). -/
def State.unfuse (s : State) (ctx car : Nat) : State :=
  if (s.car car).fused && (s.car car).ctx == some ctx && !s.fuseNeeded ctx car then
    let s := s.flushL1s ((List.range 8).map fun i => 8 * car + i)
    s.modCar car fun c => { c with fused := false }
  else s

/-- A slice whose expiry falls in the cycle in which the context's last running firing retires is cancelled: it starts again
with the context's next firing (R231, R412). A firing that is killed without a replay counts as one that retires, one that is to be
replayed does not (log 50). -/
def State.cancelSlice (s : State) (ctx : Nat) : State :=
  let busy := (s.ctx ctx).caravans.any fun v => (List.range 32).any fun i => (s.slot (32 * v + i)).running
  if busy then s
  else
    let cancel := fun (t : Slice) => if s.fallsNow ctx (t.start + t.length * Config.cyclesPerMicro) then { t with waits := true } else t
    s.modCtx ctx fun c => { c with slice := c.slice.map cancel }

/-- The firing of slot `k` ends, its launches told how, and the slot is idle (R156, R221, R222, R228). Here an end by a kill counts
for R412 as a retirement too (log 50). -/
def State.endFiring (s : State) (k : Nat) (killed : Bool) : State :=
  let sl := s.slot k
  let ctx := s.ctxOf k
  let s := s.leave k
  let s := sl.launchIds.foldl (fun s id => s.modLaunch ctx id fun r =>
    { r with running := r.running - 1, killed := r.killed + if killed then 1 else 0 }) s
  let s := s.modSlot k fun sl => { sl with run := .idle, trig := [], rep := none, wait := .none, fresh := false }
  (s.unfuse ctx (carOf k)).cancelSlice ctx

/-- The attributes of queue `q` of a core (R211). -/
def Core.queueAttr (c : Core) (q : Nat) : QAttr := sget .unbound c.qattr q

/-- Messages put back at the head of queue `q` (R222): the inbox holds 16 (R207), so what then lies beyond goes to the head
of the queue's spill area, and no message overtakes another (log 75). -/
def Core.replayTo (c : Core) (q : Nat) (ms : List Msg) : Core :=
  let all := ms ++ sget [] c.inbox q
  { c with inbox := sset c.inbox q (all.take 16)
           spill := if all.length ≤ 16 then c.spill else sset c.spill q (all.drop 16 ++ sget [] c.spill q) }

/-- The firing of slot `k`, if one runs there, is killed (R222): unreleased messages are dropped; a replayable one that
has not been sealed goes back to the head of its queue, by the binding that the queue has at the kill (log 75); else a
KILLED event is raised. Cause 0 stands for SLOT.KILL. -/
def State.killFiring (s : State) (k cause : Nat) (addr : Word) : State :=
  let sl := s.slot k
  let c := coreOf k
  let ctx := s.ctxOf k
  if !sl.running then s
  else
    let q := sl.queue
    let replay := ((s.core c).queueAttr q).replay && !wbit sl.firing 4 && !sl.trig.isEmpty
    let s := s.modSlot k fun sl => { sl with buf := sl.buf.filter fun f => f.released }
    let s := { s with faults := s.faults.filter fun f => f.slot ≠ k }
    if replay then
      let s := s.modCore c fun d => d.replayTo q (sl.trig.map fun m => { m with replay := true })
      let s := (s.leave k).modSlot k fun sl => { sl with run := .idle, trig := [], rep := none, wait := .none, fresh := false }
      let s := sl.launchIds.foldl (fun s id => s.modLaunch ctx id fun r =>
        { r with running := r.running - 1, pending := r.pending + (sl.trig.filter fun m => m.launch == some id).length }) s
      s.unfuse ctx (carOf k)
    else
      (s.endFiring k true).event ctx { kind := if cause = 51 then 6 else 0, pos := c } 3 cause 0 (wordOfNat (wbits sl.firing 63 32))
        (if cause = 52 then addr else 0) (s.coord k) sl.firing 0

/-- The ERROR event of an access that completed with poison because a CXL port has lost its link (R437, R464). -/
def State.cxlError (s : State) (ctx : Nat) (addr : Word) : State :=
  match s.held 0 (va addr) with
  | none => s
  | some t => match s.cxlLost (t.key 0 (va addr)) with
    | some d => s.event ctx { kind := 2, pos := 4 * d } 7 0 4 0 addr 0 0 0
    | none => s

/-- A kill of slot `k` by its own instruction: consuming uncorrectable data raises an ERROR event besides (R421). -/
def State.kill (s : State) (k cause : Nat) (addr : Word) : State :=
  let fid := if (s.slot k).running then wordOfNat (wbits (s.slot k).firing 63 32) else 0
  let t := s.killFiring k cause addr
  if cause = 52 then
    (t.event (s.ctxOf k) { kind := 0, pos := coreOf k } 7 0 1 fid addr (s.coord k) 0 0).cxlError (s.ctxOf k) addr
  else t

/-- The second mismatch of an instruction of slot `k` fences its core (R420): its firings are killed, a CORE_FENCED event is
raised, and its inboxes go into its spill area. The mismatches have struck: none is left for a later instruction. -/
def State.fenceCore (s : State) (k : Nat) : State :=
  let c := coreOf k
  let ctx := s.ctxOf k
  let mine := ((List.range 4).map fun i => 4 * c + i).filter fun j => (s.slot j).running
  let s := s.modSlot k fun sl => { sl with mismatch := 0 }
  let s := mine.foldl (fun s j => s.killFiring j 51 0) s
  let s := s.event ctx { kind := 6, pos := c } 6 51 0 0 0 (s.coord k) (wordOfNat mine.length) 0
  s.modCore c fun d =>
    { d with
      fenced := true, inbox := []
      spill := (List.range 8).foldl (fun m q =>
        if (sget [] d.inbox q).isEmpty then m else sset m q (sget [] d.inbox q ++ sget [] m q)) d.spill }

/-- An instruction of slot `k` that had to wait retires now, under the checker like any other (R418, R420): one mismatch replays
it, which has no other effect; a second one fences the core. -/
def State.retire (s : State) (k : Nat) : State :=
  if (s.slot k).mismatch = 2 then s.fenceCore k
  else if (s.slot k).mismatch = 0 then s.commit k none
  else (s.commit k none).modSlot k fun sl => { sl with mismatch := 0 }

/-- The state after the translation that an access of the slot `cur` has made (R173, R176). -/
def State.walked (s : State) (a : Nat) (write : Bool) : State :=
  if isOwn (coreOf s.cur) a then s
  else match s.translate (sliceOf (coreOf s.cur)) a write with
    | .ok (_, t) => t
    | .error _ => s

/-- The state after the walks of a stop, for the accesses of a core that executes no instruction. -/
def Stop.walks (st : Stop) (core : Nat) (s : State) : State :=
  match st with
  | .after a write e => e.walks core { { s with cur := 4 * core }.walked a write with cur := s.cur }
  | _ => s

/-- What a stop does to the state that the instruction found (R10). -/
def Stop.apply (st : Stop) (s : State) : State :=
  match st with
  | .trap cause tval => s.takeTrap s.cur cause tval
  | .trapAt pc cause tval => (s.modSlot s.cur fun sl => { sl with pc }).takeTrap s.cur cause tval
  | .park p => s.park s.cur p
  | .kill cause addr => s.kill s.cur cause addr
  | .wait => s
  | .after a write e => e.apply (s.walked a write)

/-- The step of an instruction of the slot `cur`: its effect, or what stops it (R10). -/
def runSlot (act : Act Unit) (s : State) : Host.Outcome State Fault Refusal :=
  .next (match act s with
    | .ok (_, t) => t
    | .error st => st.apply s)

end Sys2Proof.Machine
end

