-- ==== Sys2Proof/Machine/Operands.lean ====
section
/-!
DEFINITION. Operand forms: immediates and targets, scalar addresses (R65, R167), vector lanes (R233),
vector sources and the stream ports they may name (R236, R237), and the word an instruction was fetched as.
-/

namespace Sys2Proof.Machine

/-! ### Scalar operands -/

/-- A 12-bit immediate, sign-extended (R64). -/
def imm12 (i : BitVec 12) : Word := i.signExtend 64

/-- The 32-bit immediate of a U format, sign-extended (R64). -/
def imm20 (i : BitVec 20) : Word := (i ++ (0 : BitVec 12)).signExtend 64

/-- A branch target: the instruction's address plus a 12-bit count of 2-byte units (R64). -/
def branchTarget (pc : Word) (i : BitVec 12) : Word := pc + (i ++ (0 : BitVec 1)).signExtend 64

/-- A JAL target: the instruction's address plus a 20-bit count of 2-byte units (R64). -/
def jalTarget (pc : Word) (i : BitVec 20) : Word := pc + (i ++ (0 : BitVec 1)).signExtend 64

/-- A J-format target of the device's own: the instruction's address plus a 17-bit count of 4-byte units (R68). -/
def ownTarget (pc : Word) (i : BitVec 17) : Word := pc + (i ++ (0 : BitVec 2)).signExtend 64

/-- The effective address of a scalar access: base plus offset modulo 2^56, the tag byte ignored (R65, R167). -/
def effAddr (base off : Word) : Nat := va (base + off)

/-- The address of the executing instruction (R127). -/
def Act.pc : Act Word := fun s => .ok ((s.slot s.cur).at_, s)

/-- The word that the executing slot fetched for an instruction: its encoding, or during a repetition, whose iterations
raise fields, the word at p + 4 as its lane has decoded it, or as its own store or the instruction cache holds it (R60, R62,
R128). -/
def State.wordOf (s : State) (i : Instr) : Word :=
  let sl := s.slot s.cur
  let a := va sl.at_
  if sl.rep.isSome then
    match s.laneWord s.cur sl.at_.toNat with
    | some w => w.setWidth 64
    | none =>
      if isOwn (coreOf s.cur) a then wordOfNat (natOfBytes (s.ownBytes (coreOf s.cur) a 4))
      else (sget 0 (s.car (carOf s.cur)).ic (a / 4)).setWidth 64
  else ((encodeWord i).getD 0).setWidth 64

/-- The illegal-instruction trap of an instruction, stval holding its word (R60). -/
def Act.refuse {α : Type} (i : Instr) : Act α := fun s => .error (.trap 2 (s.wordOf i))

/-- An instruction that is not legal in U-mode (R66, R78). -/
def Act.privileged (i : Instr) : Act Unit := fun s =>
  if (s.slot s.cur).priv = .u then .error (.trap 2 (s.wordOf i)) else .ok ((), s)

/-- An instruction that needs ctxid.mgr (R401). -/
def Act.manager (i : Instr) : Act Unit := fun s =>
  if (s.core (coreOf s.cur)).mgr then .ok ((), s) else .error (.trap 2 (s.wordOf i))

/-! ### Lanes -/

/-- The lanes of a register in elements of `b` bytes, lane 0 first (R233). -/
def lanesOf (b : Nat) (v : VWord) : List Nat := (List.range (16 / b)).map fun i => bitsOf v.toNat (8 * b * i + 8 * b - 1) (8 * b * i)

/-- The number whose lanes of `b` bytes are given, lane 0 first. -/
def joinLanes (b : Nat) : List Nat → Nat
  | [] => 0
  | l :: ls => l % 2 ^ (8 * b) + 2 ^ (8 * b) * joinLanes b ls

/-- The register whose lanes of `b` bytes are given, lane 0 first; lanes not given are 0. -/
def ofLanes (b : Nat) (l : List Nat) : VWord := BitVec.ofNat 128 (joinLanes b l)

/-- Lane `i` of elements of `b` bytes. -/
def laneOf (b : Nat) (v : VWord) (i : Nat) : Nat := bitsOf v.toNat (8 * b * i + 8 * b - 1) (8 * b * i)

/-- A register with lane `i` of elements of `b` bytes set. -/
def setLaneOf (b : Nat) (v : VWord) (i x : Nat) : VWord := ofLanes b ((lanesOf b v).set i x)

/-- Lane results with the union of their flags. -/
def collect (b : Nat) (l : List (Nat × Flags)) : VWord × Flags :=
  (ofLanes b (l.map (·.1)), l.foldl (fun f x => f ||| x.2) 0)

/-- The register of 16 bytes (R192). -/
def vOfBytes (bs : List Byte) : VWord := BitVec.ofNat 128 (natOfBytes bs)

/-! ### Vector operands -/

/-- Whether v register `n` is a bound stream port (R235). -/
def Slot.bound (sl : Slot) (n : Nat) : Bool := decide (60 ≤ n) && wbit sl.sbind (4 * (n - 60) + 3)

/-- The queue of port `p` (R236). -/
def Slot.port (sl : Slot) (p : Nat) : List VWord := sget [] sl.ports p

/-- The value a vector source yields: the register, or the oldest element of a bound port; none while its queue is empty
(R236). -/
def Slot.vsrc (sl : Slot) (n : Nat) : Option VWord := if sl.bound n then (sl.port (n - 60)).head? else some (sl.vr n)

/-- A slot after the ports among its sources have each lost one element (R236). -/
def Slot.popPorts (sl : Slot) (srcs : List Nat) : Slot :=
  srcs.dedup.foldl (fun sl n =>
    if sl.bound n then { sl with ports := sput [] sl.ports (n - 60) (sl.port (n - 60)).tail } else sl) sl

/-- Reads a vector source; while a bound port is empty the slot is not ready (R236). -/
def Act.v (n : Nat) : Act VWord := fun s =>
  match (s.slot s.cur).vsrc n with
  | some v => .ok (v, s)
  | none => .error .wait

/-- Refuses a write of a bound port (R237). -/
def Act.writable (i : Instr) (n : Nat) : Act Unit := fun s =>
  if (s.slot s.cur).bound n then .error (.trap 2 (s.wordOf i)) else .ok ((), s)

/-- Adds flags to vflags (R102). -/
def Slot.addFlags (sl : Slot) (f : Flags) : Slot := { sl with vflags := sl.vflags ||| f.setWidth 64 }

/-- What every vector instruction shares (R239): sources read first, a bound destination refused, then `f` of the rounding
mode, the old destination and the sources gives the new destination and the flags. -/
def Act.vec (i : Instr) (vd : VReg) (srcs : List VReg) (f : Rm → VWord → List VWord → VWord × Flags) : Act Unit := do
  let ns := srcs.map (·.toNat)
  let vs ← ns.mapM Act.v
  Act.writable i vd.toNat
  let sl ← Act.slot
  let (r, fl) := f (rmOf sl.vctl) (sl.vr vd.toNat) vs
  Act.modSlot fun sl => ((sl.popPorts ns).setV vd.toNat r).addFlags fl
  Act.next

/-- A lane-wise instruction of two sources. -/
def Act.vec2 (i : Instr) (b : Nat) (vd vs1 vs2 : VReg) (f : Rm → Nat → Nat → Nat × Flags) : Act Unit :=
  Act.vec i vd [vs1, vs2] fun rm _ vs =>
    collect b ((lanesOf b (vs.getD 0 0)).zipWith (f rm) (lanesOf b (vs.getD 1 0)))

/-- A lane-wise instruction of two sources and the old destination. -/
def Act.vec3 (i : Instr) (b : Nat) (vd vs1 vs2 : VReg) (f : Rm → Nat → Nat → Nat → Nat × Flags) : Act Unit :=
  Act.vec i vd [vs1, vs2] fun rm old vs =>
    collect b (((lanesOf b old).zip (lanesOf b (vs.getD 0 0))).zipWith (fun c y => f rm c.1 c.2 y) (lanesOf b (vs.getD 1 0)))

end Sys2Proof.Machine
end

