-- ==== Sys2Proof/Machine/Memory.lean ====
section
/-!
DEFINITION. The meanings of the memory-access instructions: scalar loads and stores, LR, SC and AMOs
(R64, R65), fences, scoped accesses (R186, R187), line control and non-temporal stores (R189, R190),
floating-point atomics (R191) and vector memory instructions (R192, R193).
-/

namespace Sys2Proof.Machine

/-! ### Loads and stores -/

/-- A scalar load of n bytes, extended by `ext` (R65). -/
def Act.loadOp (n : Nat) (ext : Nat → Word) (rd rs1 : Reg) (imm : BitVec 12) : Act Unit := do
  let a ← Act.x rs1
  let v ← Act.loadNat (effAddr a (imm12 imm)) n
  Act.setX rd (ext v)
  Act.next

/-- A scalar store of the low n bytes of x[rs2] (R65). -/
def Act.storeOp (n : Nat) (rs1 rs2 : Reg) (imm : BitVec 12) : Act Unit := do
  let a ← Act.x rs1
  let d ← Act.x rs2
  Act.storeNat (effAddr a (imm12 imm)) n d.toNat
  Act.next

/-- LB (R64, R65). -/
def execLb (rd rs1 : Reg) (imm : BitVec 12) (s : State) := runSlot (Act.loadOp 1 (sext64 8) rd rs1 imm) s
/-- LH (R64, R65). -/
def execLh (rd rs1 : Reg) (imm : BitVec 12) (s : State) := runSlot (Act.loadOp 2 (sext64 16) rd rs1 imm) s
/-- LW (R64, R65). -/
def execLw (rd rs1 : Reg) (imm : BitVec 12) (s : State) := runSlot (Act.loadOp 4 (sext64 32) rd rs1 imm) s
/-- LD (R64, R65). -/
def execLd (rd rs1 : Reg) (imm : BitVec 12) (s : State) := runSlot (Act.loadOp 8 wordOfNat rd rs1 imm) s
/-- LBU (R64, R65). -/
def execLbu (rd rs1 : Reg) (imm : BitVec 12) (s : State) := runSlot (Act.loadOp 1 wordOfNat rd rs1 imm) s
/-- LHU (R64, R65). -/
def execLhu (rd rs1 : Reg) (imm : BitVec 12) (s : State) := runSlot (Act.loadOp 2 wordOfNat rd rs1 imm) s
/-- LWU (R64, R65). -/
def execLwu (rd rs1 : Reg) (imm : BitVec 12) (s : State) := runSlot (Act.loadOp 4 wordOfNat rd rs1 imm) s
/-- SB (R64, R65). -/
def execSb (rs1 rs2 : Reg) (imm : BitVec 12) (s : State) := runSlot (Act.storeOp 1 rs1 rs2 imm) s
/-- SH (R64, R65). -/
def execSh (rs1 rs2 : Reg) (imm : BitVec 12) (s : State) := runSlot (Act.storeOp 2 rs1 rs2 imm) s
/-- SW (R64, R65). -/
def execSw (rs1 rs2 : Reg) (imm : BitVec 12) (s : State) := runSlot (Act.storeOp 4 rs1 rs2 imm) s
/-- SD (R64, R65). -/
def execSd (rs1 rs2 : Reg) (imm : BitVec 12) (s : State) := runSlot (Act.storeOp 8 rs1 rs2 imm) s

/-! ### Atomics -/

/-- Whether a lower-indexed member that was attached when this instance was delivered has still to perform it and names the
same address, which `addr` gives for a slot at the instance; of a member that has not reached it the address is not known
yet (R154). -/
def State.earlierMember (s : State) (k : Nat) (addr : Slot → Option Nat) : Bool :=
  match s.laneOf k with
  | none => false
  | some (_, l, m) =>
    let iter := fun k => ((s.slot k).rep.map (·.iter)).getD 0
    let ids := ((sfind l.stream m.seq).map (·.members)).getD []
    l.members.any fun o => decide (o.index < m.index) && ids.contains o.id &&
      (decide (o.seq < m.seq) || (o.seq == m.seq &&
        (decide (iter o.slot < iter k) || (iter o.slot == iter k && addr (s.slot o.slot) == addr (s.slot k)))))

/-- Holds an atomic until every lower-indexed member of the convoy has performed its own (R154). -/
def Act.memberOrder (addr : Slot → Option Nat) : Act Unit := fun s => if s.earlierMember s.cur addr then .error .wait else .ok ((), s)

/-- The scope held in dscope (R185). -/
def Act.dscope : Act Scope := do return scopeOf (wbits (← Act.slot).dscope 2 0)

/-- The frame of a base atomic (R65, R187): alignment, the members' order, the release of rl, the access at the home,
the acquire of aq. -/
def Act.atomic (n : Nat) (k : Acc) (rs1 : Reg) (aq rl : Bool) (access : Nat → Act Unit) : Act Unit := do
  let a := va (← Act.x rs1)
  if a % n ≠ 0 then Act.trap k.misaligned (wordOfNat a)
  Act.memberOrder fun sl => some (va (sl.xr rs1.toNat))
  let sc ← Act.dscope
  let act := (do
    access a
    if aq then Act.acquire sc
    Act.next : Act Unit)
  if rl then Act.released sc act else act

/-- The sign-extended result of an atomic of n bytes. -/
def sextBytes (n : Nat) (v : Nat) : Word := sext64 (8 * n) v

/-- An AMO of n bytes (R64, R65): rd gets the old value, memory gets f of it and the operand. -/
def Act.amo (n : Nat) (f : Nat → Nat → Nat) (rd rs1 rs2 : Reg) (aq rl : Bool) : Act Unit :=
  Act.atomic n .amo rs1 aq rl fun a => do
    let b ← Act.x rs2
    let old ← (fun s => s.rmw (coreOf s.cur) a n .amo fun v => some (f v (b.toNat % 2 ^ (8 * n))) : Act Nat)
    Act.setX rd (sextBytes n old)

/-- LR of n bytes (R64, R65): the slot's reservation is set (log 16). -/
def Act.lr (n : Nat) (rd rs1 : Reg) (aq rl : Bool) : Act Unit :=
  Act.atomic n .lr rs1 aq rl fun a => do
    let bs ← (fun s => s.readHome (coreOf s.cur) a n .lr : Act (List Byte))
    Act.mod fun s => { s with resv := sset s.resv s.cur (place (coreOf s.cur) a, n) }
    Act.setX rd (sextBytes n (natOfBytes bs))

/-- Whether the reservation of a slot covers n bytes at a place (log 16). -/
def State.reserved (s : State) (p n : Nat) : Bool :=
  match sfind s.resv s.cur with
  | some (q, m) => decide (q ≤ p ∧ p + n ≤ q + m)
  | none => false

/-- The access of a store-conditional at the home of `a`: the reservation is looked at once the core's own dirty words have been
written through, since such a write ends it too (R462, log 16). -/
def State.scHome (s : State) (c a n v : Nat) : Except Stop (Bool × State) :=
  if isOwn c a then
    let ok := s.reserved (place c a) n
    .ok (ok, if ok then s.putLoc c a (bytesOfNat n v) else s)
  else do
    let (t, s) ← s.atHome c a n .sc
    let ok := s.reserved (place c a) n
    return (ok, if ok then (s.writeFor (s.ctxOf (4 * c)) t a (bytesOfNat n v)).dropRange c a n else s.fillRange t (dieOf c) a n)

/-- SC of n bytes (R64, R65): stores and gives 0 where the reservation holds, else gives 1; the reservation ends. -/
def Act.sc (n : Nat) (rd rs1 rs2 : Reg) (aq rl : Bool) : Act Unit :=
  Act.atomic n .sc rs1 aq rl fun a => do
    let b ← Act.x rs2
    let ok ← (fun s => s.scHome (coreOf s.cur) a n (b.toNat % 2 ^ (8 * n)) : Act Bool)
    Act.mod fun s => { s with resv := sdel s.resv s.cur }
    Act.setX rd (if ok then 0 else 1)

/-- The signed minimum of two n-byte values. -/
def minS (n a b : Nat) : Nat := if sextInt (8 * n) a ≤ sextInt (8 * n) b then a else b
/-- The signed maximum of two n-byte values. -/
def maxS (n a b : Nat) : Nat := if sextInt (8 * n) b ≤ sextInt (8 * n) a then a else b

/-- LR.W (R64, R65). -/
def execLrW (rd rs1 : Reg) (aq rl : Bool) (s : State) := runSlot (Act.lr 4 rd rs1 aq rl) s
/-- SC.W (R64, R65). -/
def execScW (rd rs1 rs2 : Reg) (aq rl : Bool) (s : State) := runSlot (Act.sc 4 rd rs1 rs2 aq rl) s
/-- AMOSWAP.W (R64, R65). -/
def execAmoswapW (rd rs1 rs2 : Reg) (aq rl : Bool) (s : State) :=
  runSlot (Act.amo 4 (fun _ b => b) rd rs1 rs2 aq rl) s
/-- AMOADD.W (R64, R65). -/
def execAmoaddW (rd rs1 rs2 : Reg) (aq rl : Bool) (s : State) :=
  runSlot (Act.amo 4 (fun a b => (a + b) % 2 ^ 32) rd rs1 rs2 aq rl) s
/-- AMOXOR.W (R64, R65). -/
def execAmoxorW (rd rs1 rs2 : Reg) (aq rl : Bool) (s : State) :=
  runSlot (Act.amo 4 (fun a b => a ^^^ b) rd rs1 rs2 aq rl) s
/-- AMOAND.W (R64, R65). -/
def execAmoandW (rd rs1 rs2 : Reg) (aq rl : Bool) (s : State) :=
  runSlot (Act.amo 4 (fun a b => a &&& b) rd rs1 rs2 aq rl) s
/-- AMOOR.W (R64, R65). -/
def execAmoorW (rd rs1 rs2 : Reg) (aq rl : Bool) (s : State) :=
  runSlot (Act.amo 4 (fun a b => a ||| b) rd rs1 rs2 aq rl) s
/-- AMOMIN.W (R64, R65). -/
def execAmominW (rd rs1 rs2 : Reg) (aq rl : Bool) (s : State) :=
  runSlot (Act.amo 4 (minS 4) rd rs1 rs2 aq rl) s
/-- AMOMAX.W (R64, R65). -/
def execAmomaxW (rd rs1 rs2 : Reg) (aq rl : Bool) (s : State) :=
  runSlot (Act.amo 4 (maxS 4) rd rs1 rs2 aq rl) s
/-- AMOMINU.W (R64, R65). -/
def execAmominuW (rd rs1 rs2 : Reg) (aq rl : Bool) (s : State) :=
  runSlot (Act.amo 4 (fun a b => min a b) rd rs1 rs2 aq rl) s
/-- AMOMAXU.W (R64, R65). -/
def execAmomaxuW (rd rs1 rs2 : Reg) (aq rl : Bool) (s : State) :=
  runSlot (Act.amo 4 (fun a b => max a b) rd rs1 rs2 aq rl) s
/-- LR.D (R64, R65). -/
def execLrD (rd rs1 : Reg) (aq rl : Bool) (s : State) := runSlot (Act.lr 8 rd rs1 aq rl) s
/-- SC.D (R64, R65). -/
def execScD (rd rs1 rs2 : Reg) (aq rl : Bool) (s : State) := runSlot (Act.sc 8 rd rs1 rs2 aq rl) s
/-- AMOSWAP.D (R64, R65). -/
def execAmoswapD (rd rs1 rs2 : Reg) (aq rl : Bool) (s : State) :=
  runSlot (Act.amo 8 (fun _ b => b) rd rs1 rs2 aq rl) s
/-- AMOADD.D (R64, R65). -/
def execAmoaddD (rd rs1 rs2 : Reg) (aq rl : Bool) (s : State) :=
  runSlot (Act.amo 8 (fun a b => (a + b) % 2 ^ 64) rd rs1 rs2 aq rl) s
/-- AMOXOR.D (R64, R65). -/
def execAmoxorD (rd rs1 rs2 : Reg) (aq rl : Bool) (s : State) :=
  runSlot (Act.amo 8 (fun a b => a ^^^ b) rd rs1 rs2 aq rl) s
/-- AMOAND.D (R64, R65). -/
def execAmoandD (rd rs1 rs2 : Reg) (aq rl : Bool) (s : State) :=
  runSlot (Act.amo 8 (fun a b => a &&& b) rd rs1 rs2 aq rl) s
/-- AMOOR.D (R64, R65). -/
def execAmoorD (rd rs1 rs2 : Reg) (aq rl : Bool) (s : State) :=
  runSlot (Act.amo 8 (fun a b => a ||| b) rd rs1 rs2 aq rl) s
/-- AMOMIN.D (R64, R65). -/
def execAmominD (rd rs1 rs2 : Reg) (aq rl : Bool) (s : State) :=
  runSlot (Act.amo 8 (minS 8) rd rs1 rs2 aq rl) s
/-- AMOMAX.D (R64, R65). -/
def execAmomaxD (rd rs1 rs2 : Reg) (aq rl : Bool) (s : State) :=
  runSlot (Act.amo 8 (maxS 8) rd rs1 rs2 aq rl) s
/-- AMOMINU.D (R64, R65). -/
def execAmominuD (rd rs1 rs2 : Reg) (aq rl : Bool) (s : State) :=
  runSlot (Act.amo 8 (fun a b => min a b) rd rs1 rs2 aq rl) s
/-- AMOMAXU.D (R64, R65). -/
def execAmomaxuD (rd rs1 rs2 : Reg) (aq rl : Bool) (s : State) :=
  runSlot (Act.amo 8 (fun a b => max a b) rd rs1 rs2 aq rl) s

/-! ### Fences and scoped accesses -/

/-- FENCE.AR (R187). -/
def Act.fenceAr (sc : Scope) : Act Unit := do
  Act.release sc
  Act.acquire sc
  Act.next

/-- FENCE (R65, R187): a full fence at the scope held in dscope, whatever its fields. -/
def execFence (_rd _rs1 : Reg) (_imm : BitVec 12) (s : State) := runSlot (do let sc ← Act.dscope; Act.fenceAr sc) s

/-- Writes through every dirty word and drains every non-temporal entry of core `c` that can be translated. -/
def State.wtWhatCan (s : State) (c : Nat) : State :=
  let s := (s.l1Group c).foldl (fun s d =>
    (s.core d).l1.foldl (fun s e => (s.wtWord d (4 * e.1)).toOption.getD s) s) s
  (s.core c).nt.foldl (fun s e => (s.drainNt c e).toOption.getD s) s

/-- FENCE.I (R65): the core's stores are made visible to fetch, and the caravan's instruction cache is emptied. -/
def execFenceI (_rd _rs1 : Reg) (_imm : BitVec 12) (s : State) :=
  runSlot (do
    Act.mod fun s => (s.wtWhatCan (coreOf s.cur)).modCar (carOf s.cur) fun c => { c with ic := [] }
    Act.next) s

/-- Whether the L1 of the executing slot's caravan is fused (R179). -/
def Act.fused : Act Bool := fun s => .ok ((s.car (carOf s.cur)).fused, s)

/-- LDAQ (R186, R187): a plain load at core scope, and at caravan scope in a fused L1; else a read at the home. -/
def execLdaq (rd rs1 : Reg) (scope : Scope) (s : State) :=
  runSlot (do
    let a := va (← Act.x rs1)
    if a % 8 ≠ 0 then Act.trap 4 (wordOfNat a)
    let fused ← Act.fused
    let v ← if scope = .core || (scope = .caravan && fused) then Act.loadNat a 8
      else (fun s => (s.readHome (coreOf s.cur) a 8 .load).map fun r => (natOfBytes r.1, r.2) : Act Nat)
    Act.setX rd (wordOfNat v)
    Act.acquire scope
    Act.next) s

/-- STRL (R186, R187): a release, then a store, at the home for caravan scope or wider. -/
def execStrl (rs1 rs2 : Reg) (scope : Scope) (s : State) :=
  runSlot (do
    let a := va (← Act.x rs1)
    let d ← Act.x rs2
    if a % 8 ≠ 0 then Act.trap 6 (wordOfNat a)
    Act.released scope do
      if scope = .core then Act.storeNat a 8 d.toNat
      else (fun s => (s.writeHome (coreOf s.cur) a (bytesOfNat 8 d.toNat) .store).map fun t => ((), t) : Act Unit)
      Act.next) s

/-- FENCE.AQ (R187). -/
def execFenceAq (scope : Scope) (s : State) := runSlot (do Act.acquire scope; Act.next) s
/-- FENCE.RL (R187). -/
def execFenceRl (scope : Scope) (s : State) := runSlot (do Act.release scope; Act.next) s
/-- FENCE.AR (R187). -/
def execFenceAr (scope : Scope) (s : State) := runSlot (Act.fenceAr scope) s

/-! ### Line control and non-temporal stores -/

/-- Writes through the dirty words of the L1 line of `a`; a failed translation is cause 29 (R184, R189). -/
def Act.wtLine (a : Nat) : Act Unit := fun s =>
  let c := coreOf s.cur
  match s.wtRange c (a / 32 * 32) 32 with
  | .ok t => .ok ((), t)
  | .error (b, _) => .error (.trap 29 (wordOfNat b))

/-- INVL and WBK (R189): the core's own store is left alone; the R right is needed. -/
def Act.lineOp (rs1 : Reg) (invalidate : Bool) : Act Unit := do
  let a := va (← Act.x rs1)
  let s ← get
  if !isOwn (coreOf s.cur) a then
    let _ ← (fun s => (s.plbCheck (coreOf s.cur) a .load).map fun e => (e, s) : Act Word)
    Act.wtLine a
    if invalidate then Act.mod fun s => s.dropRange (coreOf s.cur) (a / 32 * 32) 32
  Act.next

/-- INVL (R189). -/
def execInvl (rs1 : Reg) (s : State) := runSlot (Act.lineOp rs1 true) s
/-- WBK (R189). -/
def execWbk (rs1 : Reg) (s : State) := runSlot (Act.lineOp rs1 false) s

/-- The state after a prefetch of the line of `a`: filled where a load would be admitted without a fault, else unchanged
(R189, R421) but for what its walk did (R173). -/
def State.prefetch (s : State) (c a : Nat) : State :=
  if isOwn c a then s
  else match s.checkHome c a .load with
    | .ok (t, u) => if u.badAt t (dieOf c) (a / 32 * 32) 32 then u
      else match u.l1Room c a with
        | .ok u => u.fillL1 c a t false
        | .error _ => u
    | .error (.after _ _ _) => s.walked a false
    | .error _ => s

/-- PREF (R189). -/
def execPref (rs1 : Reg) (s : State) :=
  runSlot (do
    let a := va (← Act.x rs1)
    Act.mod fun s => s.prefetch (coreOf s.cur) a
    Act.next) s

/-- Puts bytes into the non-temporal buffer of core `c`, merged by line; a ninth line drains the oldest, and a complete
line drains at once (R190). -/
def State.ntPut (s : State) (c a : Nat) (bs : List Byte) : Except (Nat × WalkFault) State := do
  let line := a / 64
  let put := fun (e : NtEntry) =>
    { e with bytes := forRange bs.length (fun i m => sset m (a % 64 + i) (bs.getD i 0)) e.bytes, last := s.coreCycle c }
  let nt := (s.core c).nt
  let s ← match nt.find? fun e => e.line == line with
    | some _ => pure (s.modCore c fun k => { k with nt := k.nt.map fun e => if e.line = line then put e else e })
    | none => do
      let s ← match nt with
        | e :: _ => if 8 ≤ nt.length then s.drainNt c e else pure s
        | [] => pure s
      pure (s.modCore c fun k => { k with nt := k.nt ++ [put { line, bytes := [], last := 0 }] })
  match (s.core c).nt.find? fun e => e.line == line && decide (64 ≤ e.bytes.length) with
  | some e => s.drainNt c e
  | none => return s

/-- A non-temporal store of the executing slot (R190): the checks of a store, the L1 line written through and
invalidated, and the bytes put into the buffer. A line that has to drain, the oldest for a ninth one or this one when its 64 bytes
are complete, and cannot be translated makes the store wait (log 6). Where the L1 line's write-through cannot be translated the store
takes the page fault: R190 names none (DESIGN CHOICE, log 27). -/
def Act.storeNt (a n v : Nat) : Act Unit := fun s =>
  let c := coreOf s.cur
  let bs := bytesOfNat n v
  if a % n ≠ 0 then .error (.trap 6 (wordOfNat a))
  else if isOwn c a then .ok ((), s.putLoc c a bs)
  else do
    let (walks, s) ← match s.l1Line c a with
      | some w => do
        s.checkHit c a w .store
        let s' ← ofWt .store (s.wtRange c (a / 32 * 32) 32)
        pure ((List.range 8).any fun i => ((s.l1Word c (a / 32 * 32 + 4 * i)).map (·.dirty)).getD false, s')
      | none => do
        let (_, s) ← s.checkHome c a .store
        pure (true, s)
    match (s.dropRange c (a / 32 * 32) 32).ntPut c a bs with
    | .ok s => return ((), s)
    | .error _ => throw (if walks then .after a true .wait else .wait)

/-- ST.NT (R190). -/
def execStNt (rs1 rs2 : Reg) (s : State) :=
  runSlot (do
    let a := va (← Act.x rs1)
    let d ← Act.x rs2
    Act.storeNt a 8 d.toNat
    Act.next) s

/-- A non-temporal entry that has been idle for 256 cycles drains (R190); where it cannot be translated it stays. -/
def execNtIdleDrain (core line : Nat) (s : State) : Host.Outcome State Fault Refusal :=
  .next (match (s.core core).nt.find? fun e => e.line == line && decide (e.last + 256 ≤ s.coreCycle core) with
    | some e => (s.drainNt core e).toOption.getD s
    | none => s)

/-! ### Floating-point atomics -/

/-- A floating-point atomic of format F (R191): f of the old value and the operand, its flags in vflags. -/
def Act.fpAtomic (f : Fmt) (op : Rm → FVal → FVal → FVal × Flags) (rd rs1 rs2 : Reg) : Act Unit := do
  let n := f.bits / 8
  let a := va (← Act.x rs1)
  let b ← Act.x rs2
  let sl ← Act.slot
  let rm := rmOf sl.vctl
  let res := fun old => f.finish (op rm (f.value old) (f.value (b.toNat % 2 ^ f.bits))) rm false
  if a % n ≠ 0 then Act.trap 6 (wordOfNat a)
  Act.memberOrder fun sl => some (va (sl.xr rs1.toNat))
  let old ← (fun s => s.rmw (coreOf s.cur) a n .amo fun v => some (res v).1 : Act Nat)
  Act.setX rd (sextBytes n old)
  Act.modSlot fun sl => sl.addFlags (res old).2
  Act.next

/-- AMOFADD.S (R191). -/
def execAmofaddS (rd rs1 rs2 : Reg) (s : State) := runSlot (Act.fpAtomic .fp32 FVal.add rd rs1 rs2) s
/-- AMOFADD.D (R191). -/
def execAmofaddD (rd rs1 rs2 : Reg) (s : State) := runSlot (Act.fpAtomic .fp64 FVal.add rd rs1 rs2) s
/-- AMOFMAX.S (R191). -/
def execAmofmaxS (rd rs1 rs2 : Reg) (s : State) := runSlot (Act.fpAtomic .fp32 (fun _ a b => a.maxNum b) rd rs1 rs2) s

/-! ### Vector memory -/

/-- Whether a tag's block length is legal for its format code, and the code is not reserved (R92, R93). -/
def tagOk (c bl : Nat) : Bool :=
  match c with
  | 10 => bl ≤ 5
  | 11 => true
  | 12 | 13 => 2 ≤ bl
  | _ => c ≤ 15 && bl = 0

/-- The format code of a fat pointer (R123). -/
def ptrCode (p : Word) : Nat := wbits p 63 59

/-- The block length field of a fat pointer (R123). -/
def ptrBl (p : Word) : Nat := wbits p 58 56

/-- The effective address of a vector access (R192). -/
def vecAddr (p : Word) (imm : BitVec 6) : Nat := va (p + (imm ++ (0 : BitVec 4)).signExtend 64)

/-- The pointer of a vector access, its tag checked (R93, R192): cause 24 with the pointer. -/
def Act.vecPtr (rs1 : Reg) (accepts : Nat → Bool) : Act Word := do
  let p ← Act.x rs1
  if !tagOk (ptrCode p) (ptrBl p) || !accepts (ptrCode p) then Act.trap 24 p
  return p

/-- Loads n bytes, aligned to n, for a vector load (R192). -/
def Act.vecBytes (a n : Nat) (ro : Bool) : Act (List Byte) := fun s =>
  if a % n ≠ 0 then .error (.trap 4 (wordOfNat a)) else s.load (coreOf s.cur) a n ro

/-- An FP32 element converted to BF16 as it is read, with its flags (R95). -/
def fp32ToBf16 (rm : Rm) (b : Nat) : Nat × Flags := Fmt.bf16.convert (Fmt.fp32.value b) rm false

/-- VLD and VLD.RO (R192). The tag is checked before anything else, then whether the destination is a bound stream port (R237). -/
def Act.vld (i : Instr) (vd : VReg) (rs1 : Reg) (imm : BitVec 6) (ro : Bool) : Act Unit := do
  let p ← Act.vecPtr rs1 fun c => c ≠ 14
  Act.writable i vd.toNat
  let a := vecAddr p imm
  let sl ← Act.slot
  if ptrCode p = 15 then
    let bs ← Act.vecBytes a 32 ro
    let es := (List.range 8).map fun i => fp32ToBf16 (rmOf sl.vctl) (natOfBytes ((bs.drop (4 * i)).take 4))
    let (v, fl) := collect 2 es
    Act.modSlot fun sl => (sl.setV vd.toNat v).addFlags fl
  else
    let bs ← Act.vecBytes a 16 ro
    Act.modSlot fun sl => sl.setV vd.toNat (vOfBytes bs)
  Act.next

/-- VLD (R192). -/
def execVld (vd : VReg) (rs1 : Reg) (imm : BitVec 6) (s : State) := runSlot (Act.vld (.vld vd rs1 imm) vd rs1 imm false) s
/-- VLD.RO (R192, R195): a read-only line. -/
def execVldRo (vd : VReg) (rs1 : Reg) (imm : BitVec 6) (s : State) := runSlot (Act.vld (.vldRo vd rs1 imm) vd rs1 imm true) s

/-- VST (R192): a bound port yields its element (R236). -/
def execVst (vs : VReg) (rs1 : Reg) (imm : BitVec 6) (s : State) :=
  runSlot (do
    let d ← Act.v vs.toNat
    let p ← Act.vecPtr rs1 fun c => c ≤ 13
    Act.storeNat (vecAddr p imm) 16 d.toNat
    Act.modSlot fun sl => sl.popPorts [vs.toNat]
    Act.next) s

/-- VST.NT (R190, R192). -/
def execVstNt (vs : VReg) (rs1 : Reg) (imm : BitVec 6) (s : State) :=
  runSlot (do
    let d ← Act.v vs.toNat
    let p ← Act.vecPtr rs1 fun c => c ≤ 13
    Act.storeNt (vecAddr p imm) 16 d.toNat
    Act.modSlot fun sl => sl.popPorts [vs.toNat]
    Act.next) s

/-- The element size of VLDB by format code (R193); 0 where the form is not listed. -/
def vldbBytes (c : Nat) : Nat :=
  match c with
  | 0 | 1 => 8
  | 2 | 7 | 15 => 4
  | 3 | 4 | 8 => 2
  | 5 | 6 | 9 => 1
  | _ => 0

/-- VLDB (R192, R193): one element to every lane; code 15 converts FP32 to BF16. -/
def execVldb (vd : VReg) (rs1 : Reg) (imm : BitVec 6) (s : State) :=
  runSlot (do
    let p ← Act.vecPtr rs1 fun c => vldbBytes c ≠ 0
    Act.writable (.vldb vd rs1 imm) vd.toNat
    let n := vldbBytes (ptrCode p)
    let sl ← Act.slot
    let bs ← Act.vecBytes (vecAddr p imm) n false
    let (e, b, fl) := if ptrCode p = 15 then
        let r := fp32ToBf16 (rmOf sl.vctl) (natOfBytes bs)
        (r.1, 2, r.2)
      else (natOfBytes bs, n, 0)
    Act.modSlot fun sl => (sl.setV vd.toNat (ofLanes b (List.replicate (16 / b) e))).addFlags fl
    Act.next) s

end Sys2Proof.Machine
end

