-- ==== Sys2Proof/Machine/Barrier.lean ====
section
/-!
DEFINITION. Barrier objects (R321 to R323) and the barrier instructions (R324, R325). An operation on a
barrier is one atomic access at the object's home, or in the local store.
-/

namespace Sys2Proof.Machine

/-- The fields of a barrier object (R322); `high` is its reserved word. -/
structure Bar where
  arrivals : Nat
  expected : Nat
  bytes    : Nat
  phase    : Nat
  high     : Nat
  deriving DecidableEq, Repr

/-- The barrier that 16 bytes hold (R322). -/
def Bar.ofNat (n : Nat) : Bar :=
  { arrivals := bitsOf n 31 0, expected := bitsOf n 63 32, bytes := bitsOf n 91 64, phase := bitsOf n 95 92,
    high := bitsOf n 127 96 }

/-- The 16 bytes of a barrier as a number (R322). -/
def Bar.toNat (b : Bar) : Nat :=
  b.arrivals % 2 ^ 32 + 2 ^ 32 * (b.expected % 2 ^ 32 + 2 ^ 32 * (b.bytes % 2 ^ 28 + 2 ^ 28 * (b.phase % 16 + 16 * b.high)))

/-- The pending-byte counter as a signed number. -/
def Bar.count (b : Bar) : Int := sextInt 28 b.bytes

/-- A barrier with its pending-byte counter set. -/
def Bar.setCount (b : Bar) (i : Int) : Bar := { b with bytes := (i % 2 ^ 28).toNat }

/-- Whether a barrier's phase is complete (R323). -/
def Bar.complete (b : Bar) : Bool := b.arrivals = 0 && b.bytes = 0

/-- The check for completion (R323): the next phase, its arrivals restored. -/
def Bar.settle (b : Bar) : Bar := if b.complete then { b with phase := (b.phase + 1) % 16, arrivals := b.expected } else b

/-- A landing of `n` bytes: none where the counter would fall below -2^27 (R319, R323). -/
def Bar.land (b : Bar) (n : Nat) : Option Bar :=
  if b.count - n < -(2 ^ 27) then none else some (b.setCount (b.count - n))

/-- Where a barrier lies: the local store of a core, or a page's translation. -/
inductive BarSite where
  | loc (core : Nat)
  | page (core : Nat) (t : TEntry)
  deriving DecidableEq, Repr

/-- The barrier at an address. -/
def State.bar (s : State) (w : BarSite) (a : Nat) : Bar :=
  match w with
  | .loc c => Bar.ofNat (natOfBytes (s.ownBytes c a 16))
  | .page c t => Bar.ofNat (natOfBytes (s.homeRead t (dieOf c) a 16))

/-- A read of a barrier at its home (R200): the sector is in its slice from then on (R179). -/
def State.barTouch (s : State) (w : BarSite) (a : Nat) : State :=
  match w with
  | .loc _ => s
  | .page c t => s.fillRange t (dieOf c) a 16

/-- Writes the barrier at an address; a core's own copy of the line is dropped. -/
def State.putBar (s : State) (w : BarSite) (a : Nat) (b : Bar) : State :=
  match w with
  | .loc c => s.putLoc c a (bytesOfNat 16 b.toNat)
  | .page c t => (s.writeFor (s.ctxOf (4 * c)) t a (bytesOfNat 16 b.toNat)).dropRange c a 16

/-- The place of a barrier (log 16). -/
def BarSite.key (w : BarSite) (a : Nat) : Nat :=
  match w with
  | .loc c => place c a
  | .page _ _ => a

/-- Releases every slot that waits on a place (R323). -/
def State.releaseWaiters (s : State) (p : Nat) : State :=
  { s with slots := smap (fun _ sl => if sl.wait = .barrier p then { sl with wait := .released } else sl) s.slots }

/-- An operation on a barrier that is followed by the check for completion (R323). -/
def State.barUpdate (s : State) (w : BarSite) (a : Nat) (b : Bar) : State :=
  let s := s.putBar w a b.settle
  if b.complete then s.releaseWaiters (w.key a) else s

/-- The check for completion after an operation that only reads (R323). -/
def State.barCheck (s : State) (w : BarSite) (a : Nat) : State :=
  if (s.bar w a).complete then s.barUpdate w a (s.bar w a) else s.barTouch w a

/-- The checks of a barrier instruction up to the home (R324): the handle's range, its alignment, and those of an AMO,
with cause 7 for a page of another class than 0. -/
def Act.barSite (rs1 : Reg) : Act (Nat × BarSite) := do
  let h ← Act.x rs1
  if h.toNat > 0xFFFFF0 then Act.trap 49 4
  let sl ← Act.slot
  let a := va (sl.bwin + h)
  if a % 16 ≠ 0 then Act.trap 6 (wordOfNat a)
  let s ← get
  let c := coreOf s.cur
  if isOwn c a then return (a, .loc c)
  let t ← (fun s => s.atHome c a 16 .amo : Act TEntry)
  if leafClass t.leaf ≠ 0 then Act.keep a true (Act.trap 7 (wordOfNat a))
  let _ ← (fun s => (s.consume t c a 16 .amo).map fun u => (u, s) : Act Unit)
  return (a, .page c t)

/-- BAR.INIT (R324, R325). -/
def execBarInit (rs1 rs2 : Reg) (s : State) :=
  runSlot (do
    let (a, w) ← Act.barSite rs1
    let n ← Act.x rs2
    if n = 0 || decide (2 ^ 32 - 1 < n.toNat) then Act.keep a true (Act.trap 49 2)
    Act.mod fun s => s.putBar w a { arrivals := n.toNat, expected := n.toNat, bytes := 0, phase := 0, high := 0 }
    Act.next) s

/-- BAR.EXPECT (R324, R325). -/
def execBarExpect (rs1 rs2 : Reg) (s : State) :=
  runSlot (do
    let (a, w) ← Act.barSite rs1
    let n ← Act.x rs2
    let s ← get
    let b := s.bar w a
    if decide (2 ^ 27 - 1 < n.toNat) || decide ((2 ^ 27 - 1 : Int) < b.count + n.toNat) then Act.keep a true (Act.trap 49 1)
    Act.mod fun s => s.barUpdate w a (b.setCount (b.count + n.toNat))
    Act.next) s

/-- BAR.ARRIVE (R324, R325): a release at dscope, then the arrival. -/
def execBarArrive (rd rs1 : Reg) (s : State) :=
  runSlot (do
    let (a, w) ← Act.barSite rs1
    let sc ← Act.dscope
    Act.keep a true (Act.released sc do
      let s ← get
      let b := s.bar w a
      if b.arrivals = 0 then Act.trap 49 3
      Act.setX rd (wordOfNat b.phase)
      Act.mod fun s => s.barUpdate w a { b with arrivals := b.arrivals - 1 }
      Act.next)) s

/-- The acquire of a BAR.WAIT or BAR.TEST (R325). A landing precedes a waiter whose acquire scope is caravan or wider (R326), and by
R183 an acquire at caravan scope invalidates nothing in a fused L1: there the model follows R326 and invalidates as at die scope
(DEDUCED, log 81). -/
def Act.acquireLandings (sc : Scope) : Act Unit := Act.acquire (if sc = .caravan then .die else sc)

/-- BAR.WAIT (R325): a slot that has been released, or whose phase differs, makes its acquire and goes on; else it
registers as a waiter. -/
def execBarWait (rs1 rs2 : Reg) (scope : Scope) (s : State) :=
  runSlot (do
    let sl ← Act.slot
    if sl.wait = .released then
      Act.acquireLandings scope
      Act.next
    else
      let (a, w) ← Act.barSite rs1
      let p ← Act.x rs2
      let s ← get
      if (s.bar w a).phase = wbits p 3 0 then
        Act.modSlot fun sl => { sl with wait := .barrier (w.key a) }
        Act.mod fun s => s.barCheck w a
      else
        Act.mod fun s => s.barCheck w a
        Act.acquireLandings scope
        Act.next) s

/-- BAR.TEST's value (R325). -/
def barTestValue (b : Bar) (p : Word) : Word :=
  wordOfInt ((if b.phase ≠ wbits p 3 0 then 1 else 0) + b.phase * 16 + b.count * 2 ^ 8)

/-- BAR.TEST (R325). -/
def execBarTest (rd rs1 rs2 : Reg) (s : State) :=
  runSlot (do
    let (a, w) ← Act.barSite rs1
    let p ← Act.x rs2
    let s ← get
    let v := barTestValue (s.bar w a) p
    Act.setX rd v
    Act.mod fun s => s.barCheck w a
    if wbit v 0 then
      let sc ← Act.dscope
      Act.acquireLandings sc
    Act.next) s

end Sys2Proof.Machine
end

