-- ==== Sys2Proof/Machine/System.lean ====
section
/-!
DEFINITION. The privileged base instructions (R66), the control and status registers with their read and
write rules (R20, R22, R67, R86, R102, R131, R136, R164, R185, R216, R217, R234, R235, R299, R304, R305,
R321, R393 to R398), the words that are not instructions (R60) and the fetches that fail (R61, R169).
-/

namespace Sys2Proof.Machine

/-! ### Reading -/

/-- CSR cvst of a slot (R164). -/
def State.cvst (s : State) (k : Nat) : Word :=
  let sl := s.slot k
  let jt := if sl.jt then 2 ^ 15 else 0
  match s.laneOf k with
  | some (n, _, m) => wordOfNat (jt + m.index * 2 ^ 10 + n * 2 ^ 8 + 1)
  | none => wordOfNat (jt + if sl.run = .idle then 0 else 2)

/-- CSR ctxid of a core (R395). -/
def Core.ctxid (c : Core) : Word :=
  wordOfNat ((if c.mgr then 2 ^ 63 else 0) + (if c.test then 2 ^ 62 else 0) + c.ctx.getD 0)

/-- CSR tslice of a context (R397): the slice expiries charged, and the microseconds left; none of a slice
that has been cancelled (R412). -/
def State.tslice (s : State) (ctx : Nat) : Word :=
  let c := s.ctx ctx
  let left := match c.slice with
    | some sl => if sl.waits then 0 else sl.length - micros sl.start s.now
    | none => 0
  wordOfNat (c.charged.toNat * 2 ^ 32 + left % 2 ^ 32)

/-- An M-mode CSR of the steward core; mstatus, mie and mip hold the supervisor fields, of which sstatus, sie and sip are
views (R393, log 15). -/
def Slot.mview (sl : Slot) (csr : Nat) : Word :=
  match csr with
  | 0x300 => setBits ((sl.m 0x300 &&& ~~~0x122) ||| (sl.sstatus &&& 0x122)) 35 32 0xA
  | 0x304 => (sl.m 0x304 &&& ~~~2) ||| (sl.sie &&& 2)
  | 0x344 => (sl.m 0x344 &&& ~~~2) ||| (sl.sip &&& 2)
  | _ => sl.m csr

/-- A write of an M-mode CSR of the steward core (log 15). -/
def Slot.setMview (sl : Slot) (csr : Nat) (v : Word) : Slot :=
  match csr with
  | 0x300 => { sl.setM csr (v &&& ~~~0x122) with sstatus := v &&& 0x122 }
  | 0x304 => { sl.setM csr (v &&& ~~~2) with sie := v &&& 2 }
  | 0x344 => { sl.setM csr (v &&& ~~~2) with sip := v &&& 2 }
  | _ => sl.setM csr (if csr = 0x305 ∨ csr = 0x341 then v &&& ~~~3 else v)

/-- The bits of sie and sip that a slot has: bit 1 alone (R393), on the steward core only while mideleg delegates it (log 15). -/
def Slot.sbits (sl : Slot) (k : Nat) : Word := if k = stewardSlot then sl.m 0x303 &&& 2 else 2

/-- The M-mode CSRs of the steward core (log 15). -/
def stewardCsrs : List Nat := [0x300, 0x302, 0x303, 0x304, 0x305, 0x306, 0x340, 0x341, 0x342, 0x343, 0x344]

/-- The value of a CSR that slot `k` reads; none where its core does not implement it (R67). -/
def State.csr (s : State) (k csr : Nat) : Option Word :=
  let sl := s.slot k
  let co := s.core (coreOf k)
  let ctx := s.ctxOf k
  match csr with
  | 0x800 => some sl.vctl
  | 0x801 => some sl.vflags
  | 0x802 => some sl.dscope
  | 0x803 => some sl.repst
  | 0x804 => some sl.nestst
  | 0x805 => some sl.sbind
  | 0x806 => some sl.dseed
  | 0x807 => some sl.ccont
  | 0x808 => some sl.bwin
  | 0xCC0 => some (sl.stage.setWidth 64)
  | 0xCC1 => some (s.coord k)
  | 0xCC2 => some (s.cvst k)
  | 0xCC3 => some sl.firing
  | 0xCC4 => some 0x1111111
  | 0xCC5 => some (wordOfNat co.used)
  | 0xC00 => some (wordOfNat (s.coreCycle (coreOf s.cur)))
  | 0xC01 => some (wordOfNat (micros 0 s.now))
  | 0xC02 => some sl.instret
  | 0x100 => some (setBits sl.sstatus 33 32 2)
  | 0x104 => some (if k = stewardSlot then sl.mview 0x304 &&& sl.sbits k else sl.sie)
  | 0x105 => some sl.stvec
  | 0x106 => some sl.scounteren
  | 0x10A => some sl.senvcfg
  | 0x140 => some sl.sscratch
  | 0x141 => some sl.sepc
  | 0x142 => some sl.scause
  | 0x143 => some sl.stval
  | 0x144 => some (if k = stewardSlot then sl.mview 0x344 &&& sl.sbits k else sl.sip)
  | 0x5C0 => some sl.gfault
  | 0x5C1 => some co.ctxid
  | 0x5C2 => some (s.tslice ctx)
  | 0x5C3 => some co.stash
  | 0x5C4 => some (s.ctx ctx).sevd
  | 0x5C5 => some (s.ctx ctx).sevh
  | _ =>
    if 0xC03 ≤ csr ∧ csr ≤ 0xC1F then some 0
    else if k = stewardSlot ∧ csr ∈ stewardCsrs then some (sl.mview csr)
    else if k = stewardSlot ∧ (csr = 0x301 ∨ (0xF11 ≤ csr ∧ csr ≤ 0xF15)) then some 0
    else none

/-! ### Writing -/

/-- Whether a stream is bound to a port of the core other than port `p` of slot `k` (R235). -/
def State.streamBound (s : State) (k p stream : Nat) : Bool :=
  (List.range 4).any fun i =>
    let j := coreOf k * 4 + i
    (List.range 4).any fun q =>
      !(j = k && q = p) && wbit (s.slot j).sbind (4 * q + 3) && wbits (s.slot j).sbind (4 * q + 1) (4 * q) = stream

/-- Port `p` of slot `k` after a write of sbind (R235, R238): unchanged where it would bind a stream that another port had before
the write, in the state `old`, or has now; a cleared b bit empties the queue. -/
def State.bindPort (old : State) (k : Nat) (v : Word) (s : State) (p : Nat) : State :=
  let st := wbits v (4 * p + 1) (4 * p)
  if wbit v (4 * p + 3) then
    if old.streamBound k p st || s.streamBound k p st then s
    else s.modSlot k fun sl => { sl with sbind := setBits sl.sbind (4 * p + 3) (4 * p) (8 + st) }
  else s.modSlot k fun sl => { sl with sbind := setBits sl.sbind (4 * p + 3) (4 * p) st, ports := sdel sl.ports p }

/-- A write of sbind (R235): each port is held against the bindings before the write; of two that name one free stream the lower
binds it (log 24). -/
def State.writeSbind (s : State) (k : Nat) (v : Word) : State := (List.range 4).foldl (s.bindPort k v) s

/-- Whether a word may be written to sevd (R398). -/
def sevdOk (v : Word) : Bool := wbits v 63 62 = 0 && wbits v 24 1 = 0

/-- The effect of a CSR write by slot `k` that R67 admits; read-only fields ignore it (R6, R7). -/
def State.writeCsr (s : State) (k csr : Nat) (v : Word) : State :=
  let ctx := s.ctxOf k
  match csr with
  | 0x800 => s.modSlot k fun sl => { sl with vctl := v &&& 0xF3 }
  | 0x801 => s.modSlot k fun sl => { sl with vflags := v &&& 0x1F }
  | 0x802 => if wbits v 2 0 ≤ 4 then s.modSlot k fun sl => { sl with dscope := v &&& 7 } else s
  | 0x803 => s.modSlot k fun sl => { sl with repst := v &&& 0x8000000000FFFFFF }
  | 0x804 => s.modSlot k fun sl => { sl with nestst := (v &&& 0x7FFFFFFF7FFFFFFF) ||| (sl.nestst &&& 0x80000000) }
  | 0x805 => s.writeSbind k v
  | 0x806 => s.modSlot k fun sl => { sl with dseed := v }
  | 0x807 => s.modSlot k fun sl => { sl with ccont := v }
  | 0x808 => s.modSlot k fun sl => { sl with bwin := v &&& 0x00FFFFFFFFFFFFF0 }
  | 0x100 => s.modSlot k fun sl => { sl with sstatus := v &&& 0x122 }
  | 0x104 => s.modSlot k fun sl =>
    if k = stewardSlot then sl.setMview 0x304 ((sl.mview 0x304 &&& ~~~sl.sbits k) ||| (v &&& sl.sbits k)) else { sl with sie := v &&& 2 }
  | 0x105 => s.modSlot k fun sl => { sl with stvec := v &&& ~~~3 }
  | 0x106 => s.modSlot k fun sl => { sl with scounteren := v &&& 0xFFFFFFFF }
  | 0x10A => s.modSlot k fun sl => { sl with senvcfg := v &&& 1 }
  | 0x140 => s.modSlot k fun sl => { sl with sscratch := v }
  | 0x141 => s.modSlot k fun sl => { sl with sepc := v &&& ~~~3 }
  | 0x142 => s.modSlot k fun sl => { sl with scause := v }
  | 0x143 => s.modSlot k fun sl => { sl with stval := v }
  | 0x144 => s.modSlot k fun sl =>
    if k = stewardSlot then sl.setMview 0x344 ((sl.mview 0x344 &&& ~~~sl.sbits k) ||| (v &&& sl.sbits k))
    else { sl with sip := v &&& 2 }
  | 0x5C0 => if wbit v 63 then s.modSlot k fun sl => { sl with gfault := setBits sl.gfault 63 63 0 } else s
  | 0x5C3 => s.modCore (coreOf k) fun c => { c with stash := v &&& ~~~0xFFFF, used := 0 }
  | 0x5C4 => if sevdOk v then s.modCtx ctx fun c => { c with sevd := v } else s
  | 0x5C5 => s.modCtx ctx fun c => { c with sevh := v &&& 0x00FFFFFFFFFFFFFF }
  | _ =>
    if k = stewardSlot ∧ csr ∈ stewardCsrs then
      s.modSlot k fun sl => sl.setMview csr v
    else s

/-! ### CSR instructions -/

/-- The privilege a CSR needs, from bits [9:8] of its address (R67). -/
def csrLevel (csr : Nat) : Nat := csr / 256 % 4

/-- The level of a mode. -/
def Priv.level : Priv → Nat
  | .u => 0 | .s => 1 | .m => 3

/-- Whether slot `k` may not make an access to a CSR (R67): it is not implemented, needs more privilege, or is read-only by
its address and would be written. -/
def State.csrIllegal (s : State) (k csr : Nat) (writes : Bool) : Bool :=
  (s.csr k csr).isNone || decide ((s.slot k).priv.level < csrLevel csr) || (writes && csr / 1024 = 3)

/-- A CSR instruction (R67): illegal where the CSR is not implemented, needs more privilege, or is read-only by its
address and would be written; else rd gets the old value and `f` of it is written. -/
def Act.csrOp (i : Instr) (rd : Reg) (csr : BitVec 12) (writes : Bool) (f : Word → Word) : Act Unit := do
  let s ← get
  if s.csrIllegal s.cur csr.toNat writes then Act.refuse i
  let old := (s.csr s.cur csr.toNat).getD 0
  if writes then Act.mod fun s => s.writeCsr s.cur csr.toNat (f old)
  Act.setX rd old
  Act.next

/-- CSRRW (R67). -/
def execCsrrw (rd rs1 : Reg) (csr : BitVec 12) (s : State) :=
  runSlot (do let a ← Act.x rs1; Act.csrOp (.csrrw rd rs1 csr) rd csr true fun _ => a) s
/-- CSRRS (R67): with rs1 = x0 it does not write. -/
def execCsrrs (rd rs1 : Reg) (csr : BitVec 12) (s : State) :=
  runSlot (do let a ← Act.x rs1; Act.csrOp (.csrrs rd rs1 csr) rd csr (rs1 ≠ 0) fun o => o ||| a) s
/-- CSRRC (R67): with rs1 = x0 it does not write. -/
def execCsrrc (rd rs1 : Reg) (csr : BitVec 12) (s : State) :=
  runSlot (do let a ← Act.x rs1; Act.csrOp (.csrrc rd rs1 csr) rd csr (rs1 ≠ 0) fun o => o &&& ~~~a) s
/-- CSRRWI (R67). -/
def execCsrrwi (rd uimm : BitVec 5) (csr : BitVec 12) (s : State) :=
  runSlot (Act.csrOp (.csrrwi rd uimm csr) rd csr true fun _ => uimm.setWidth 64) s
/-- CSRRSI (R67): with a zero immediate it does not write. -/
def execCsrrsi (rd uimm : BitVec 5) (csr : BitVec 12) (s : State) :=
  runSlot (Act.csrOp (.csrrsi rd uimm csr) rd csr (uimm ≠ 0) fun o => o ||| uimm.setWidth 64) s
/-- CSRRCI (R67): with a zero immediate it does not write. -/
def execCsrrci (rd uimm : BitVec 5) (csr : BitVec 12) (s : State) :=
  runSlot (Act.csrOp (.csrrci rd uimm csr) rd csr (uimm ≠ 0) fun o => o &&& ~~~(uimm.setWidth 64)) s

/-! ### Traps by instruction, returns, waiting -/

/-- ECALL (R66): cause 8 from U-mode, 9 from S-mode, stval 0 (R399); 11 from the steward's M-mode (log 15). -/
def execEcall (s : State) :=
  runSlot (do
    let sl ← Act.slot
    Act.trap (match sl.priv with | .u => 8 | .s => 9 | .m => 11) 0) s

/-- EBREAK (R66): cause 3, stval the PC (R399). -/
def execEbreak (s : State) := runSlot (do let pc ← Act.pc; Act.trap 3 pc) s

/-- SRET (R66): illegal in U-mode; else the return of R393. -/
def execSret (s : State) :=
  runSlot (do
    Act.privileged .sret
    Act.modSlot fun sl => { sl.sret with instret := sl.instret + 1 }) s

/-- MRET (R66): illegal on compute cores; on the steward core the return of the privileged specification. -/
def execMret (s : State) :=
  runSlot (do
    let s ← get
    if s.cur ≠ stewardSlot || (s.slot s.cur).priv ≠ .m then Act.refuse .mret
    Act.modSlot fun sl => { sl.mret with instret := sl.instret + 1 }) s

/-- Whether a supervisor-class event is pending for a slot (R66, R400). -/
def Slot.pending (sl : Slot) : Bool := wbit sl.sip 1 && wbit sl.sie 1

/-- WFI (R66, R400): illegal in U-mode; the slot's issue is held until a supervisor-class event is pending. -/
def execWfi (s : State) :=
  runSlot (do
    Act.privileged .wfi
    let sl ← Act.slot
    if sl.pending then Act.next else Act.modSlot fun sl => { sl with wait := .event }) s

/-- Whether a slot takes the supervisor software interrupt at its next instruction boundary (R400): sip.SSIP and sie.SSIE
are 1 and the slot is in U-mode or sstatus.SIE is 1. -/
def Slot.interruptible (sl : Slot) : Bool := sl.pending && (sl.priv = .u || (sl.priv = .s && wbit sl.sstatus 1))

/-- Whether a slot is at an instruction boundary (R400): one that is idle or parked, or whose RULE.ACT or MINJ has begun, is
at none. -/
def Slot.atBoundary (sl : Slot) : Bool :=
  match sl.run, sl.wait with
  | .idle, _ | .parked _, _ => false
  | _, .exchange _ _ _ | _, .flip => false
  | _, _ => true

/-- The supervisor software interrupt of a slot (R400), taken at an instruction boundary. A waiting WFI, and a GXCH past its
commit point (R380), complete first, under the checker like any other instruction (R418, R420). A member that waits at a CVSYNC has issued it, so sepc is the next instruction
(log 76). -/
def execSoftwareInterrupt (slot : Nat) (s : State) : Host.Outcome State Fault Refusal :=
  .next (
    let sl := s.slot slot
    if sl.interruptible && sl.atBoundary then
      let t := match sl.wait with
        | .event | .escrow _ _ => s.retire slot
        | _ => s
      if (t.slot slot).running then t.takeInterrupt slot else t
    else s)

/-! ### Words that are not instructions, and fetches that fail -/

/-- A word that is not an instruction (R60): cause 2, stval the word. -/
def execIllegalInstruction (word : BitVec 32) (s : State) := runSlot (Act.trap 2 (word.setWidth 64)) s

/-- The checks of a fetch by slot `k` before its word is looked for (R59, R61, R168, R169): a misaligned PC is cause 0; a
tag byte, the window, and a refused right are cause 1. -/
def State.fetchCheck (s : State) (k : Nat) (pc : Word) : Except Stop Unit :=
  let a := va pc
  if pc.toNat % 4 ≠ 0 then .error (.trap 0 pc)
  else if pc.toNat ≠ a ∨ (inWindow a ∧ coreOf k ≠ stewardCore) then .error (.trap 1 pc)
  else if isOwn (coreOf k) a then .ok ()
  else (s.plbCheck (coreOf k) a .fetch).map fun _ => ()

/-- The instruction cache of a caravan takes a word: 65,536 words, of which one that the part chooses goes when they are
taken (R17, log 6). -/
def Caravan.icPut (c : Caravan) (unit cycle a : Nat) (w : BitVec 32) : Caravan :=
  let ic := if c.ic.length < 65536 then c.ic
    else match c.ic[Config.victim unit cycle % c.ic.length]? with
      | some e => sdel c.ic e.1
      | none => c.ic
  { c with ic := sset ic (a / 4) w }

/-- The fetch of the word at an address by slot `k`: its checks; then the instruction cache, else the home, gives the word;
the steward's SRAM is fetched from directly (R17, R149, log 15). -/
def State.fetchAt (s : State) (k : Nat) (pc : Word) : Except Stop (BitVec 32 × State) :=
  let a := va pc
  let c := coreOf k
  match s.fetchCheck k pc with
  | .error e => .error e
  | .ok _ =>
    if isOwn c a then .ok (BitVec.ofNat 32 (natOfBytes (s.ownBytes c a 4)), s)
    else match sfind (s.car (carOf k)).ic (a / 4) with
      | some w => .ok (w, s)
      | none => do
        let (t, s) ← s.checkHome c a .fetch
        s.consume t c a 4 .fetch
        let s := s.fillL2 t (dieOf c) a
        let w := BitVec.ofNat 32 (natOfBytes (s.homeRead t (dieOf c) a 4))
        return (w, s.modCar (carOf k) fun x => x.icPut c s.cycle a w)

/-- The word at an address for slot `k` (R62, R149): the one that its lane has decoded for the convoy, after the member's own
checks; a stray fetches for itself. -/
def State.fetchFor (s : State) (k : Nat) (pc : Word) : Except Stop (BitVec 32 × State) :=
  match s.laneWord k pc.toNat with
  | some w => (s.fetchCheck k pc).map fun _ => (w, s)
  | none => s.fetchAt k pc

/-- The access that a fetch of the word at an address by slot `k` has translated, if it went to the home (R171). -/
def State.fetchWalk (s : State) (k : Nat) (pc : Word) : List (Nat × Bool) :=
  if (s.laneWord k pc.toNat).isSome || shas (s.car (carOf k)).ic (va pc / 4) then [] else [(va pc, false)]

/-- A fetch that fails (R61, R169, R402, R421): the fetch of the executing slot is made and what stops it is taken. -/
def execInstructionFetchFault (s : State) : Host.Outcome State Fault Refusal :=
  runSlot (fun s => match s.fetchFor s.cur (s.slot s.cur).at_ with
    | .ok (_, t) => .ok ((), t)
    | .error e => .error e) s

end Sys2Proof.Machine
end

