-- ==== Sys2Proof/Machine/Rep.lean ====
section
/-!
DEFINITION. Fat-pointer instructions (R123 to R125), repeat prefixes with the register fields of a word
that they step (R79, R80, R126 to R132), and the iteration fetcher (R134 to R143).
-/

namespace Sys2Proof.Machine

/-! ### Fat pointers -/

/-- PADD (R125): the address wraps modulo 2^56 and the tag byte stays. -/
def padd (p y : Word) : Word := (p.extractLsb' 56 8) ++ ((p + y).extractLsb' 0 56)

/-- PTAG (R125). -/
def ptag (p t : Word) : Word := (t.extractLsb' 0 8) ++ (p.extractLsb' 0 56)

/-- A fat-pointer instruction of one register. -/
def Act.ptr1 (f : Word → Word) (rd rs1 : Reg) : Act Unit := do
  let a ← Act.x rs1
  Act.setX rd (f a)
  Act.next

/-- PADD (R125). -/
def execPadd (rd rs1 rs2 : Reg) (s : State) :=
  runSlot (do let b ← Act.x rs2; Act.ptr1 (fun a => padd a b) rd rs1) s
/-- PTAG (R125). -/
def execPtag (rd rs1 rs2 : Reg) (s : State) :=
  runSlot (do let b ← Act.x rs2; Act.ptr1 (fun a => ptag a b) rd rs1) s
/-- PADDI (R125). -/
def execPaddi (rd rs1 : Reg) (imm : BitVec 12) (s : State) := runSlot (Act.ptr1 (fun a => padd a (imm12 imm)) rd rs1) s
/-- PTAGI (R125). -/
def execPtagi (rd rs1 : Reg) (tag : BitVec 8) (s : State) := runSlot (Act.ptr1 (fun a => ptag a (tag.setWidth 64)) rd rs1) s
/-- PGET (R125). -/
def execPget (rd rs1 : Reg) (s : State) := runSlot (Act.ptr1 (fun a => (a.extractLsb' 56 8).setWidth 64) rd rs1) s
/-- PBASE (R125). -/
def execPbase (rd rs1 : Reg) (s : State) := runSlot (Act.ptr1 (fun a => (a.extractLsb' 0 56).setWidth 64) rd rs1) s

/-! ### The register fields of a word -/

/-- A register field of a word: whether it holds a v-register number, and its lowest bit. -/
structure RegField where
  isV : Bool
  pos : Nat
  deriving DecidableEq, Repr

/-- The fields that a prefix may select: destination, first source, second source (R79, R80). -/
structure RegFields where
  dest : Option RegField
  src1 : Option RegField
  src2 : Option RegField
  deriving DecidableEq, Repr

/-- Register fields by letter: d, a and b are rd, rs1 and rs2; D, A and B are vd, vs1 and vs2. -/
def regFields (dest src1 src2 : Option RegField) : RegFields := { dest, src1, src2 }

/-- rd. -/
def fRd : Option RegField := some { isV := false, pos := 7 }
/-- rs1. -/
def fRs1 : Option RegField := some { isV := false, pos := 15 }
/-- rs2. -/
def fRs2 : Option RegField := some { isV := false, pos := 20 }
/-- vd of formats V, VC and VC8. -/
def fVd : Option RegField := some { isV := true, pos := 7 }
/-- vs1. -/
def fVs1 : Option RegField := some { isV := true, pos := 13 }
/-- vs2. -/
def fVs2 : Option RegField := some { isV := true, pos := 19 }
/-- vd of format VM. -/
def fVm : Option RegField := some { isV := true, pos := 26 }
/-- An x register in the vs1 field. -/
def fXs : Option RegField := some { isV := false, pos := 13 }

/-- The register fields of custom-0 words, by f3 and f7 (R71, R72). -/
def fieldsCustom0 (f3 f7 : Nat) : RegFields :=
  match f3 with
  | 0 =>
    match f7 with
    | 0x00 | 0x01 | 0x1F | 0x22 => regFields fRd fRs1 fRs2
    | 0x02 | 0x03 | 0x19 | 0x1E | 0x24 => regFields fRd fRs1 none
    | 0x0A | 0x11 => regFields fRd none none
    | 0x10 | 0x18 | 0x25 => regFields none fRs1 none
    | 0x1C | 0x1D | 0x20 | 0x21 => regFields none fRs1 fRs2
    | _ => regFields none none none
  | 1 | 2 => regFields fRd fRs1 none
  | _ => regFields none none none

/-- The register fields of custom-2 words, by vop (R74, R75). -/
def fieldsCustom2 (vop : Nat) : RegFields :=
  match vop with
  | 0 | 1 | 2 | 3 | 5 => regFields fVd fVs1 fVs2
  | 4 | 6 | 7 | 8 | 13 => regFields fVd fVs1 none
  | 9 | 11 => regFields fVd fXs none
  | 10 => regFields fRd fVs1 none
  | 12 => regFields fVd none none
  | _ => regFields none none none

/-- The register fields of custom-3 words, by f3 and f7 (R76, R77). -/
def fieldsCustom3 (f3 f7 : Nat) : RegFields :=
  match f3, f7 with
  | 0, 0 => regFields fRd none none
  | 0, 1 => regFields fRd none fRs2
  | 1, 1 => regFields fRd none none
  | 2, 2 => regFields fRd fRs1 none
  | 2, 4 => regFields fRd fRs1 fRs2
  | 2, _ => regFields none fRs1 fRs2
  | 3, 0 => regFields fRd fRs1 none
  | 3, 1 | 3, 7 => regFields none fRs1 fRs2
  | 3, 5 | 3, 6 | 3, 8 => regFields none fRs1 none
  | 3, 9 | 3, 10 | 3, 11 => regFields fRd fRs1 fRs2
  | 4, 0 | 4, 1 | 4, 4 => regFields none fRs1 fRs2
  | 4, 2 | 4, 3 | 4, 5 => regFields fRd fRs1 none
  | 5, _ => regFields fVm fRs1 none
  | _, _ => regFields none none none

/-- The register fields of an instruction word (R79, R80). -/
def fieldsOf (w : BitVec 32) : RegFields :=
  let f3 := f3Of w
  let f7 := f7Of w
  match w.toNat % 128 with
  | 0x37 | 0x17 => regFields fRd none none
  | 0x13 | 0x1B | 0x03 => regFields fRd fRs1 none
  | 0x23 => regFields none fRs1 fRs2
  | 0x33 | 0x3B => regFields fRd fRs1 fRs2
  | 0x2F => if f7 / 4 = 2 then regFields fRd fRs1 none else regFields fRd fRs1 fRs2
  | 0x0B => fieldsCustom0 f3 f7
  | 0x2B => regFields fVd fVs1 fVs2
  | 0x5B => fieldsCustom2 (w.toNat / 2 ^ 28)
  | 0x7B => fieldsCustom3 f3 f7
  | _ => regFields none none none

/-- The register number in a field. -/
def RegField.num (f : RegField) (w : BitVec 32) : Nat := w.toNat / 2 ^ f.pos % if f.isV then 64 else 32

/-- The greatest register number of a field (R127). -/
def RegField.limit (f : RegField) : Nat := if f.isV then 63 else 31

/-- The fields that a prefix's `fields` operand selects: bit 2 the destination, bit 1 and bit 0 the sources (R126). -/
def RegFields.selected (r : RegFields) (fields : BitVec 3) : List (Option RegField) :=
  (if fields.toNat.testBit 2 then [r.dest] else []) ++ (if fields.toNat.testBit 1 then [r.src1] else [])
    ++ if fields.toNat.testBit 0 then [r.src2] else []

/-- The word with each selected field raised by k (R127). -/
def raiseWord (w : BitVec 32) (fields : BitVec 3) (k : Nat) : BitVec 32 :=
  ((fieldsOf w).selected fields).foldl (fun w f =>
    match f with
    | some f => w + BitVec.ofNat 32 (k * 2 ^ f.pos)
    | none => w) w

/-- Whether a word is a system instruction or would be one: any SYSTEM word, FENCE.I, any custom-3 word of f3 110, assigned or
not (R80). -/
def systemWord (w : BitVec 32) : Bool :=
  match w.toNat % 128 with
  | 0x73 => true
  | 0x0F => f3Of w = 1
  | 0x7B => f3Of w = 6
  | _ => false

/-- Whether a word may not follow a prefix: a control transfer, a prefix, DONE, or a system instruction (R80). -/
def noRepeat (w : BitVec 32) : Bool :=
  match w.toNat % 128 with
  | 0x6F | 0x67 | 0x63 | 0x73 => true
  | 0x0F => f3Of w = 1
  | 0x0B => f3Of w = 3 || f3Of w = 4 || f3Of w = 5 || f3Of w = 6 || (f3Of w = 0 && f7Of w = 0x1A)
  | 0x7B => f3Of w = 6
  | _ => false

/-! ### Repeat prefixes -/

/-- What a prefix with a following word traps on, if it does, before any operand is read (R80): a system word, or a word that may
not follow it or lacks a selected field, names the prefix; one that is no instruction names that word. -/
def prefixTrap (w : BitVec 32) (fields : BitVec 3) : Option Bool :=
  if systemWord w then some true
  else if !(decodeWord w).any Instr.wf then some false
  else if noRepeat w || ((fieldsOf w).selected fields).any Option.isNone then some true
  else none

/-- A prefix (R80, R127): it is decoded together with the word at p + 4, resumes from repst where it is the first
instruction after a return, and starts the repetition; `n` reads its count. -/
def Act.prefixOp (i : Instr) (n : Act Nat) (stride : BitVec 2) (fields : BitVec 3) : Act Unit := do
  let s ← get
  let sl := s.slot s.cur
  let w ← (fun s => s.fetchFor s.cur (sl.pc + 4) : Act (BitVec 32))
  Act.keepAll (s.fetchWalk s.cur (sl.pc + 4)) do
  match prefixTrap w fields with
  | some true => Act.refuse i
  | some false => (fun _ => .error (.trapAt (sl.pc + 4) 2 (w.setWidth 64)) : Act Unit)
  | none =>
    let n ← n
    let sel := (fieldsOf w).selected fields
    let resume := sl.fresh && wbit sl.repst 63
    let count := if resume then wbits sl.repst 23 12 else n
    let first := if resume then wbits sl.repst 11 0 else 0
    if count > 4095 then Act.trap 25 1
    if count > 0 && sel.any (fun f => match f with
        | some f => decide (f.limit < f.num w + stride.toNat * (count - 1))
        | none => false) then Act.trap 25 2
    let sl' := fun (sl : Slot) => { sl with repst := setBits sl.repst 63 63 0, fresh := false, instret := sl.instret + 1 }
    if first < count then
      Act.mod fun s => ((s.modSlot s.cur fun sl =>
        { sl' sl with rep := some { count, iter := first, stride := stride.toNat, fields } }).bump s.cur).modMember s.cur
          fun x => { x with iter := first }
    else
      Act.mod fun s => ((s.modSlot s.cur fun sl => { sl' sl with pc := sl.pc + 8 }).bump s.cur).bump s.cur

/-- REPI (R126, R127). -/
def execRepi (n : BitVec 12) (stride : BitVec 2) (fields : BitVec 3) (s : State) :=
  runSlot (Act.prefixOp (.repi n stride fields) (pure n.toNat) stride fields) s
/-- REP (R126, R127): the count is x[rs1], read once. -/
def execRep (rs1 : Reg) (stride : BitVec 2) (fields : BitVec 3) (s : State) :=
  runSlot (Act.prefixOp (.rep rs1 stride fields) (do let a ← Act.x rs1; return a.toNat) stride fields) s

/-! ### The iteration fetcher -/

/-- Fields of the nest descriptor (R134). -/
def nestField (d : BitVec 256) (lo n : Nat) : Nat := (d.extractLsb' lo n).toNat
/-- The trip count of level i: t0 outermost. -/
def nestTrip (d : BitVec 256) (i : Nat) : Nat := nestField d (64 + 32 * i) 32
/-- The participant count P. -/
def nestP (d : BitVec 256) : Nat := nestField d 224 16
/-- The minimum chunk. -/
def nestCmin (d : BitVec 256) : Nat := nestField d 192 32
/-- The address of the shared counter, its tag byte ignored. -/
def nestCtr (d : BitVec 256) : Nat := nestField d 0 56
/-- The total N. -/
def nestTotal (d : BitVec 256) : Nat := nestTrip d 0 * nestTrip d 1 * nestTrip d 2 * nestTrip d 3

/-- The first check of R133 that a descriptor fails, in the order of R137. -/
def nestFault (d : BitVec 256) : Option Nat :=
  if nestField d 240 16 ≠ 0 then some 7
  else if (List.range 4).any fun i => nestTrip d i = 0 || decide (2 ^ 24 < nestTrip d i) then some 4
  else if nestP d = 0 then some 5
  else if nestCmin d = 0 ∨ 2 ^ 24 < nestCmin d then some 6
  else if 2 ^ 31 - 1 < nestTotal d then some 3
  else none

/-- nestst of its fields (R136); a next that does not fit its 31 bits, which only a written nestst can give, wraps (log 76). -/
def nestWord (rem : Nat) (d : Bool) (nxt : Nat) : Word :=
  wordOfNat (rem % 2 ^ 31 * 2 ^ 32 + (if d then 2 ^ 31 else 0) + nxt % 2 ^ 31)

/-- NEST.SET (R137). -/
def execNestSet (rs1 : Reg) (s : State) :=
  runSlot (do
    let a := va (← Act.x rs1)
    if a % 32 ≠ 0 then Act.trap 4 (wordOfNat a)
    let before ← get
    let bs ← Act.load a 32
    let d : BitVec 256 := BitVec.ofNat 256 (natOfBytes bs)
    match nestFault d with
    | some c => Act.kept before a 32 (Act.trap 25 (wordOfNat c))
    | none =>
      Act.modSlot fun sl => { sl with nestDesc := d, nestst := nestWord 0 true 0 }
      Act.next) s

/-- NEST.STAT (R138): the counter word read at its home, checked as a plain load. -/
def execNestStat (rd : Reg) (s : State) :=
  runSlot (do
    let sl ← Act.slot
    if !wbit sl.nestst 31 then Act.setX rd 0
    else
      let a := nestCtr sl.nestDesc
      if a % 8 ≠ 0 then Act.trap 4 (wordOfNat a)
      let bs ← (fun s => s.readHome (coreOf s.cur) a 8 .load : Act (List Byte))
      let n := nestTotal sl.nestDesc
      Act.setX rd (wordOfNat (n * 2 ^ 32 + min (natOfBytes bs) n))
    Act.next) s

/-- The chunk a claim takes at counter value c (R139). -/
def nestChunk (d : BitVec 256) (c : Nat) : Nat :=
  let n := nestTotal d
  if n ≤ c then 0 else min (max (nestCmin d) (ceilDiv (n - c) (nestP d))) (n - c)

/-- The claim of NEST.NEXT (R139 to R141): one atomic at the counter's home. -/
def Act.claim (d : BitVec 256) : Act (Nat × Nat) := do
  let a := nestCtr d
  if a % 8 ≠ 0 then Act.trap 6 (wordOfNat a)
  let c ← (fun s => s.rmw (coreOf s.cur) a 8 .amo fun c => if nestTotal d ≤ c then none else some (c + nestChunk d c) : Act Nat)
  return (c, nestChunk d c)

/-- The four indices of iteration i (R134). -/
def nestIndices (d : BitVec 256) (i : Nat) : List Word :=
  let t1 := nestTrip d 1
  let t2 := nestTrip d 2
  let t3 := nestTrip d 3
  [wordOfNat (i / (t1 * t2 * t3)), wordOfNat (i / (t2 * t3) % t1), wordOfNat (i / t3 % t2), wordOfNat (i % t3)]

/-- Four fresh free values (log 12). -/
def Act.draw4 : Act (List Word) := fun s =>
  .ok ((List.range 4).map fun i => Config.freeWord (s.free + i), { s with free := s.free + 4 })

/-- Hands out the next local iteration (R139): the four index registers, nestst, and the PC. Software may write
nestst.rem with no descriptor loaded (R136); the spec states no indices there, and they are free values (log 12). -/
def Act.nestGive (rd : Reg) (rem nxt : Nat) : Act Unit := do
  let sl ← Act.slot
  let loaded := wbit sl.nestst 31
  let xs ← if loaded then pure (nestIndices sl.nestDesc nxt) else Act.draw4
  let r := rd.toNat
  Act.modSlot fun sl =>
    { (((sl.setX r (xs.getD 0 0)).setX (r + 1) (xs.getD 1 0)).setX (r + 2) (xs.getD 2 0)).setX (r + 3) (xs.getD 3 0)
      with nestst := nestWord (rem - 1) loaded (nxt + 1) }
  Act.next

/-- The counter that a slot's NEST.NEXT would claim from, if it would claim (R139, R154). -/
def claimAddr (sl : Slot) : Option Nat :=
  if wbits sl.nestst 62 32 = 0 && wbit sl.nestst 31 then some (nestCtr sl.nestDesc) else none

/-- NEST.NEXT (R139, R140). -/
def execNestNext (rd : Reg) (off : BitVec 17) (s : State) :=
  runSlot (do
    let sl ← Act.slot
    let pc ← Act.pc
    let target := ownTarget pc off
    let rem := wbits sl.nestst 62 32
    if rem ≠ 0 then Act.nestGive rd rem (wbits sl.nestst 30 0)
    else if !wbit sl.nestst 31 then Act.jump target
    else
      Act.memberOrder claimAddr
      let (c, n) ← Act.claim sl.nestDesc
      if n = 0 then Act.jump target else Act.nestGive rd n c) s

end Sys2Proof.Machine
end

