-- ==== Sys2Proof/Machine/Convoy.lean ====
section
/-!
DEFINITION. Convoys and the caravan front end: placement (R145, R146), delivery and the drift window
(R147 to R149), resolution (R150, R155), JOIN and JOIN.T (R157 to R160), LEAVE, CVSYNC and CVSTAT (R161
to R163), and the lane's own events.
-/

namespace Sys2Proof.Machine

/-! ### Placement -/

/-- Whether a lane of a caravan is in its gathering window (R147). -/
def State.gathering (s : State) (car : Nat) (l : Lane) : Bool := l.gather && decide (s.coreCycle (8 * car) < l.opened + 16)

/-- The lowest member index no current member holds (R145). -/
def Lane.freeIndex (l : Lane) : Nat :=
  ((List.range 32).find? fun i => !l.members.any fun m => m.index == i).getD 31

/-- A slot becomes a member of a lane, beginning at a sequence number (R145, R147, R158). -/
def State.attach (s : State) (k n : Nat) (l : Lane) (seq : Nat) : State :=
  let s := s.setLane (carOf k) n
    { l with members := l.members ++ [{ id := l.nextId, index := l.freeIndex, slot := k, seq, iter := 0, sync := none, go := false }], nextId := l.nextId + 1 }
  s.modSlot k fun sl => { sl with run := .attached n }

/-- The convoy that a slot at address `h` attaches to (R146 steps 1 and 2): the lane whose next multicast PC is `h`, or
the gathering convoy that started at `h`, and the sequence number it begins at. -/
def State.convoyAt (s : State) (car : Nat) (h : Nat) : Option (Nat × Lane × Nat) :=
  let ls := (s.car car).lanes
  match ls.find? fun e => e.2.nextPc == some h && decide (e.2.members.length < 32) with
  | some (n, l) => some (n, l, l.nextSeq)
  | none =>
    match ls.find? fun e => s.gathering car e.2 && e.2.start == h && decide (e.2.members.length < 32) with
    | some (n, l) => some (n, l, 0)
    | none => none

/-- The lowest free lane of a caravan (R146); one that its last member has left in this cycle is not free yet (R151, R166). -/
def State.freeLane (s : State) (car : Nat) : Option Nat :=
  (List.range 4).find? fun n => !shas (s.car car).lanes n && !s.freed.contains (car, n)

/-- A lane of a caravan that opens at `h` (R155). -/
def State.newLane (s : State) (car h : Nat) : Lane :=
  { start := h, opened := s.coreCycle (8 * car), gather := true, nextSeq := 0, nextPc := some h, stream := [], members := [],
    nextId := 0, pending := none, chosen := [], sync := none }

/-- The join-waiting slots of a caravan with their targets, in ascending (core, slot) order (R159). -/
def State.joiners (s : State) (car : Nat) : List (Nat × Nat) :=
  (List.range 32).filterMap fun i =>
    match (s.slot (32 * car + i)).run with
    | .joinWait t => some (32 * car + i, t)
    | .idle | .attached _ | .stray | .parked _ => none

/-- The commit of a JOIN that attaches (R158): the PC is the target. A JOIN that has had to wait leaves cvst.jt as it is: R158
clears it only where the slot attaches or opens a convoy at once (log 80). -/
def Slot.joined (sl : Slot) (target : Nat) : Slot :=
  { sl with pc := wordOfNat target, instret := sl.instret + 1, wait := .none }

/-- A join-waiting slot attaches to a lane (R159), and its JOIN retires, under the checker like any other instruction (R418, R420). One
that the fence of its core has killed meanwhile waits no more. -/
def State.joinNow (s : State) (k target n : Nat) (l : Lane) (seq : Nat) : State :=
  if (s.slot k).run ≠ .joinWait target then s
  else if (s.slot k).mismatch = 2 then s.fenceCore k
  else (s.attach k n l seq).modSlot k fun sl => { sl.joined target with mismatch := 0 }

/-- The waiting strays whose target is a convoy's next multicast PC, or the start of a gathering one, attach (R159 step 1). -/
def State.joinExisting (s : State) (car : Nat) : State :=
  (s.joiners car).foldl (fun s e =>
    match s.convoyAt car e.2 with
    | some (n, l, q) => s.joinNow e.1 e.2 n l q
    | none => s) s

/-- While a lane is free, the waiting strays with the lowest target open one convoy together (R159 step 2). -/
def State.joinOpen (s : State) (car : Nat) : State :=
  match s.freeLane car, s.joiners car with
  | some n, e :: es =>
    let low := es.foldl (fun a x => min a x.2) e.2
    ((e :: es).filter fun x => x.2 = low).foldl (fun s x =>
      match sfind (s.car car).lanes n with
      | some l => s.joinNow x.1 low n l 0
      | none => s.joinNow x.1 low n (s.newLane car low) 0) s
  | _, _ => s

/-- The join-waiting strays of a caravan are served (R159). -/
def State.serveJoins (s : State) (car : Nat) : State :=
  if (s.joiners car).isEmpty then s else (List.range 4).foldl (fun s _ => s.joinOpen car) (s.joinExisting car)

/-- The caravans with a join-waiting stray. -/
def State.joinCars (s : State) : List Nat :=
  (s.slots.filterMap fun e => match e.2.run with
    | .joinWait _ => some (carOf e.1)
    | .idle | .attached _ | .stray | .parked _ => none).dedup

/-- A cycle begins: the front ends serve join-waiting strays before anything else, so that none waits beyond the first cycle
in which it can attach (R159, R160). -/
def State.serveAll (s : State) : State := s.joinCars.foldl (fun s car => s.serveJoins car) s

/-- Places a slot that starts a firing at address `h`, after the waiting strays have been served: a lane that is then still
free is one that no waiting stray claims (R146, R159). -/
def State.placeFiring (s : State) (k h : Nat) : State :=
  let s := s.serveJoins (carOf k)
  match s.convoyAt (carOf k) h with
  | some (n, l, q) => s.attach k n l q
  | none =>
    match s.freeLane (carOf k) with
    | some n => s.attach k n (s.newLane (carOf k) h) 0
    | none => s.modSlot k fun sl => { sl with run := .stray }

/-! ### Delivery -/

/-- The lowest sequence number that a current member will issue next (R148). -/
def Lane.minSeq (l : Lane) : Nat := l.members.foldl (fun a m => min a m.seq) l.nextSeq

/-- The greatest such sequence number (R148). -/
def Lane.maxSeq (l : Lane) : Nat := l.members.foldl (fun a m => max a m.seq) 0

/-- What a lane does after it has delivered a word (R149): the next multicast PC, whether it resolves, whether it holds. -/
def afterDelivery (w : BitVec 32) (pc : Nat) : Option Nat × Bool × Bool :=
  match decodeWord w with
  | some (.jal _ imm) => (some (jalTarget (wordOfNat pc) imm).toNat, false, false)
  | some (.beq _ _ _) | some (.bne _ _ _) | some (.blt _ _ _) | some (.bge _ _ _) | some (.bltu _ _ _)
  | some (.bgeu _ _ _) | some (.jalr _ _ _) | some (.nestNext _ _) | some (.fenceI _ _ _) => (none, true, false)
  | some .cvsync => (none, false, true)
  | _ => (some ((pc + 4) % 2 ^ 64), false, false)

/-- The word at an address as the front end fetches and decodes it once for a convoy: by the rights of the first member that
may fetch there; none where no member may (R62, R149). -/
def State.laneFetch (s : State) (l : Lane) (pc : Word) : Option (BitVec 32) × State :=
  match firstOf (fun (m : Member) => (s.fetchAt m.slot pc).toOption) l.members with
  | some (w, s) => (some w, s)
  | none => (none, s)

/-- What a lane does after it has delivered a word to members, as sequence number `q` (R149, R155). -/
def Lane.follow (l : Lane) (q pc : Nat) (w : BitVec 32) (ids : List Nat) : Lane :=
  let (nxt, resolves, holds) := afterDelivery w pc
  { l with nextPc := nxt, pending := if resolves then some { seq := q, concerned := ids } else l.pending,
           sync := if holds then some q else l.sync }

/-- Lane `n` of a caravan delivers its next instruction (R148, R149), if it is delivering and no current member has
still to issue the instruction 32 before it; then the waiting strays are served (R160). A word that no member may fetch is
delivered as it stands, and each member takes its own fetch fault: the lane goes on once a newcomer may fetch it. -/
def State.deliver (s : State) (car n : Nat) : Option State :=
  match sfind (s.car car).lanes n with
  | none => none
  | some l =>
    match l.nextPc with
    | some pc =>
      if l.nextSeq < l.minSeq + 32 then
        let (w, s) := s.laneFetch l (wordOfNat pc)
        let ids := l.members.map (·.id)
        let keep := fun (q : Nat) => l.gather || decide (l.minSeq ≤ q + 1)
        let l' : Lane :=
          { l with stream := sset (l.stream.filter fun e => keep e.1) l.nextSeq { pc, word := w, members := ids },
                   chosen := l.chosen.filter fun e => keep e.1,
                   nextSeq := l.nextSeq + 1, nextPc := none }
        let l' := (w.map fun w => l'.follow l.nextSeq pc w ids).getD l'
        some ((s.modCar car fun c => { c with lanes := sset c.lanes n l' }).serveJoins car)
      else none
    | none => none

/-- Lane `n` delivers until it has delivered sequence number `q`, `fuel` instructions at most; what it has delivered stays
delivered where it must then wait (R148). -/
def State.deliverTo (s : State) (car n q : Nat) : Nat → State
  | 0 => s
  | fuel + 1 => match sfind (s.car car).lanes n with
    | some l => if q < l.nextSeq then s
      else match s.deliver car n with
        | some s => s.deliverTo car n q fuel
        | none => s
    | none => s

/-- Whether the lane of slot `k` has delivered the instruction `ahead` after its next one. -/
def State.delivered (s : State) (k ahead : Nat) : Bool :=
  match s.laneOf k with
  | some (_, l, m) => decide (m.seq + ahead < l.nextSeq)
  | none => true

/-- Whether a lane neither delivers, nor resolves, nor holds: no member could fetch the word that it delivered last. -/
def Lane.stuck (l : Lane) : Bool := l.nextPc.isNone && l.pending.isNone && l.sync.isNone

/-- The word of the delivered instruction `q` of lane `n` is fetched where it has still to be: after a restore (R165), or where
no member could; there the lane goes on by the word. -/
def State.refetch (s : State) (car n q : Nat) : State :=
  match sfind (s.car car).lanes n with
  | some l => match sfind l.stream q with
    | some d => match d.word with
      | some _ => s
      | none =>
        let (w, s) := s.laneFetch l (wordOfNat d.pc)
        let ids := l.members.map (·.id)
        let l' := match w with
          | none => l
          | some w =>
            if l.stuck && q + 1 = l.nextSeq then
              { l with stream := sset l.stream q { d with word := some w, members := ids } }.follow q d.pc w ids
            else { l with stream := sset l.stream q { d with word := some w } }
        s.modCar car fun c => { c with lanes := sset c.lanes n l' }
    | none => s
  | none => s

/-- The lane of slot `k` delivers until the slot has its next instruction, and the one after a prefix too, since the two are
decoded together (R80, R148). A stray needs none. -/
def State.feed (s : State) (k : Nat) : State :=
  match s.laneOf k with
  | none => s
  | some (n, l, m) =>
    let car := carOf k
    let s := (s.deliverTo car n m.seq (m.seq + 1 - l.nextSeq)).refetch car n m.seq
    let prefix_ := match s.laneWord k (s.slot k).pc.toNat with
      | some w => (s.slot k).rep.isNone && (w.toNat % 128 == 0x0B) && (f3Of w == 3 || f3Of w == 4)
      | none => false
    if prefix_ then (s.deliverTo car n (m.seq + 1) 1).refetch car n (m.seq + 1) else s

/-- Whether slot `k` has what it needs to issue: its next instruction, and after a prefix the next too (R80, R148). -/
def State.fed (s : State) (k : Nat) : Bool :=
  s.delivered k 0 && match s.laneWord k (s.slot k).pc.toNat with
    | some w => !((s.slot k).rep.isNone && (w.toNat % 128 == 0x0B) && (f3Of w == 3 || f3Of w == 4)) || s.delivered k 1
    | none => true

/-- The members, by slot, that a CVSYNC has let go on together with slot `k` and that have not issued since (R162). -/
def State.together (s : State) (k : Nat) : List Nat :=
  match s.laneOf k with
  | some (_, l, m) => if m.go then (l.members.filter (·.go)).map (·.slot) else []
  | none => []

/-- Slot `k` issues: a CVSYNC that let it go on is behind it. -/
def State.goes (s : State) (k : Nat) : State := if (s.together k).isEmpty then s else s.modMember k fun x => { x with go := false }

/-- Whether slot `k` is a member that waits at a CVSYNC, or at an iteration of a repeated one (R162). -/
def State.syncHeld (s : State) (k : Nat) : Bool :=
  match s.laneOf k with
  | some (_, _, m) => m.sync.isSome
  | none => false

/-- Slot `k`, which has issued a CVSYNC, waits until every current member has issued it (R162); each iteration of a repeated one
is a CVSYNC of its own. -/
def State.holdAt (s : State) (k : Nat) (rep : Option RepRun) : State :=
  s.modMember k fun x =>
    { x with sync := some ((rep.map (·.count)).getD 0)
             iter := match rep with
               | some r => if r.iter + 1 < r.count then r.iter + 1 else x.iter
               | none => x.iter }

/-! ### JOIN, LEAVE, CVSYNC, CVSTAT -/

/-- JOIN and JOIN.T (R158): cause 26 for an attached slot or in S-mode; else attach, open a convoy, stay a stray with
cvst.jt set, or wait. -/
def Act.joinOp (off : BitVec 17) (variant : Bool) : Act Unit := do
  let sl ← Act.slot
  let pc ← Act.pc
  let target := (ownTarget pc off).toNat
  let s ← get
  let k := s.cur
  if (s.laneOf k).isSome || sl.priv ≠ .u then Act.trap 26 1
  Act.mod fun s => s.serveJoins (carOf s.cur)
  let s ← get
  let go := fun (s : State) => s.modSlot k fun sl => { sl.joined target with jt := false }
  match s.convoyAt (carOf k) target with
  | some (n, l, q) => Act.mod fun s => go (s.attach k n l q)
  | none =>
    let lower := (s.joiners (carOf k)).any fun e => decide (e.2 < target)
    match s.freeLane (carOf k), lower with
    | some n, false => Act.mod fun s => go (s.attach k n (s.newLane (carOf k) target) 0)
    | _, _ =>
      if variant then
        Act.modSlot fun sl => { sl with jt := true }
        Act.next
      else Act.modSlot fun sl => { sl with run := .joinWait target }

/-- JOIN (R158). -/
def execJoin (off : BitVec 17) (s : State) := runSlot (Act.joinOp off false) s
/-- JOIN.T (R158). -/
def execJoinT (off : BitVec 17) (s : State) := runSlot (Act.joinOp off true) s

/-- LEAVE (R161): an attached member goes on as a stray; a no-op for a stray. -/
def execLeave (s : State) :=
  runSlot (do
    Act.next
    Act.mod fun s => match s.laneOf s.cur with
      | some _ => (s.leave s.cur).modSlot s.cur fun sl => { sl with run := .stray }
      | none => s) s

/-- CVSYNC (R162): a member waits until every current member has issued it; a stray goes on. -/
def execCvsync (s : State) :=
  runSlot (do
    let sl ← Act.slot
    Act.next
    Act.mod fun s => s.holdAt s.cur sl.rep) s

/-- CVSTAT's value (R163): a snapshot of the cycle, so that members which issue in one cycle read the same. The instruction that the
executing member issues next is there the CVSTAT itself; R148 and R163 do not say (DESIGN CHOICE, log 80). -/
def State.cvstat (s : State) (k : Nat) : Word :=
  match State.laneOf { s with cars := s.before.getD s.cars } k with
  | none => 0x80000000
  | some (n, l, m) =>
    let members := l.members.foldl (fun a x => a + 2 ^ x.index) 0
    wordOfNat (members * 2 ^ 32 + 32 * 2 ^ 26 + (l.maxSeq - l.members.foldl (fun a x => min a x.seq) l.maxSeq) * 2 ^ 20
      + m.index * 2 ^ 15 + n * 2 ^ 13 + 1)

/-- CVSTAT (R163): a snapshot of the cycle, with the CVSTAT's own number as that of the member that executes it (State.cvstat;
DESIGN CHOICE, log 80). -/
def execCvstat (rd : Reg) (s : State) :=
  runSlot (do let s ← get; Act.setX rd (s.cvstat s.cur); Act.next) s

/-! ### The lane's events -/

/-- The gathering window of a lane ends, 16 cycles after it opened (R147). -/
def execConvoyGatherEnd (caravan lane : Nat) (s : State) : Host.Outcome State Fault Refusal :=
  .next (match sfind (s.car caravan).lanes lane with
    | some l =>
      if l.opened + 16 ≤ s.coreCycle (8 * caravan) then s.modCar caravan fun c => { c with lanes := sset c.lanes lane { l with gather := false } }
      else s
    | none => s)

/-- The members that have issued the transfer of a pending resolution, if every member concerned that is still in the
convoy has issued it (R149, R150). -/
def Lane.resolved (l : Lane) : Option (Nat × List Member) :=
  match l.pending with
  | none => none
  | some r =>
    let done := l.members.filter fun m => decide (r.seq < m.seq)
    let concerned := l.members.filter fun m => r.concerned.contains m.id
    if concerned.all (fun m => decide (r.seq < m.seq)) && !done.isEmpty then some (r.seq, done) else none

/-- A lane resolves (R150): it goes on at the lowest next PC of the members concerned, or, where none of them is left, of
those that have issued the transfer; every member that issued it and has another next PC becomes a stray. A newcomer of the gathering
window that issues it before the lane has resolved has no part in the choice and is compared with it (DESIGN CHOICE, log 80). -/
def execLaneResolve (caravan lane : Nat) (s : State) : Host.Outcome State Fault Refusal :=
  .next (match sfind (s.car caravan).lanes lane with
    | none => s
    | some l =>
      match l.resolved with
      | none => s
      | some (q, done) =>
        let pcOf := fun (m : Member) => (s.slot m.slot).pc.toNat
        let ids := (l.pending.map (·.concerned)).getD []
        let voters := done.filter fun m => ids.contains m.id
        let voters := if voters.isEmpty then done else voters
        let low := voters.foldl (fun a m => min a (pcOf m)) (2 ^ 64)
        let out := done.filter fun m => pcOf m ≠ low
        let s := s.setLane caravan lane
          { l with nextPc := some low, pending := none, chosen := sset l.chosen q low,
                   members := l.members.filter fun m => !out.contains m }
        out.foldl (fun s m => s.modSlot m.slot fun sl => { sl with run := .stray }) s)

/-- The join-waiting strays of a caravan are served (R159, R160). -/
def execJoinWaitAttach (caravan : Nat) (s : State) : Host.Outcome State Fault Refusal := .next (s.serveJoins caravan)

end Sys2Proof.Machine
end

