-- ==== Sys2Proof/Machine/Firing.lean ====
section
/-!
DEFINITION. Messages, firings, launches, signals and the stash (chapters 08 and 11): the meanings of their
instructions, and the events that carry a message from a slot's buffer to a firing, and a launch from
its queue to its end.
-/

namespace Sys2Proof.Machine

/-! ### Queues -/

/-- HBIND's record (R209): its fields, or the stval of the check it fails (R210). The rules give no order between a bad field and
bad bounds in one record: here the field is told first (log 67). -/
def bindRecord (bs : List Byte) : Except Nat QAttr :=
  let ws := wordsOf 4 bs
  let f := (ws.getD 0 0)
  let lo := va (ws.getD 1 0)
  let hi := va (ws.getD 2 0)
  let inst := wbits f 6 4
  let count := wbits f 2 0
  if ws.getD 3 0 ≠ 0 ∨ wbits f 63 12 ≠ 0 ∨ wbit f 7 ∨ wbit f 3 ∨ inst = 0 ∨ 4 < inst ∨ count = 0 ∨ 4 < count then .error 2
  else if hi < lo ∨ lo % 4 ≠ 0 ∨ hi % 4 ≠ 0 then .error 3
  else .ok { lo, hi, en := wbit f 11, replay := wbit f 10, prio := wbits f 9 8, inst, count, bound := true }

/-- HBIND (R209 to R211). The rules give no order between a queue index above 7 and a misaligned record: here the index is
checked first (log 67). -/
def execHbind (rs1 rs2 : Reg) (s : State) :=
  runSlot (do
    let q ← Act.x rs1
    let a := va (← Act.x rs2)
    if q.toNat > 7 then Act.trap 27 1
    if a % 32 ≠ 0 then Act.trap 4 (wordOfNat a)
    let before ← get
    let bs ← Act.load a 32
    match bindRecord bs with
    | .error c => Act.kept before a 32 (Act.trap 27 (wordOfNat c))
    | .ok r =>
      Act.mod fun s => s.modCore (coreOf s.cur) fun c => { c with qattr := sset c.qattr q.toNat r }
      Act.next) s

/-- QCTL (R212). -/
def execQctl (rs1 rs2 : Reg) (s : State) :=
  runSlot (do
    let m ← Act.x rs1
    let e ← Act.x rs2
    if wbits m 63 8 ≠ 0 || wbits e 63 1 ≠ 0 then Act.trap 27 2
    Act.mod fun s => s.modCore (coreOf s.cur) fun c =>
      { c with qattr := forRange 8 (fun q m' => if wbit m q then sset m' q { sget .unbound m' q with en := wbit e 0 } else m') c.qattr }
    Act.next) s

/-- The firings of queue `q` that run on a core (R213, R214). -/
def State.runningOf (s : State) (c q : Nat) : Nat :=
  ((List.range 4).filter fun i => (s.slot (4 * c + i)).running && (s.slot (4 * c + i)).queue = q).length

/-- QSTAT's value (R213). -/
def State.qstat (s : State) (c q : Nat) : Word :=
  let k := s.core c
  let a := k.queueAttr q
  let b := fun (x : Bool) => if x then 1 else 0
  wordOfNat (min (sget [] k.spill q).length (2 ^ 24 - 1) * 2 ^ 40 + (sget [] k.inbox q).length * 2 ^ 35
    + s.runningOf c q * 2 ^ 32 + b a.en * 2 ^ 11 + b a.replay * 2 ^ 10 + a.prio * 2 ^ 8 + a.inst * 2 ^ 4 + b a.bound * 2 ^ 3 + a.count)

/-- QSTAT (R213). -/
def execQstat (rd rs1 : Reg) (s : State) :=
  runSlot (do
    let q ← Act.x rs1
    if q.toNat > 7 then Act.trap 27 1
    let s ← get
    Act.setX rd (s.qstat (coreOf s.cur) q.toNat)
    Act.next) s

/-! ### SEND, SEAL, DONE -/

/-- A destination word that SEND or SEND.C accepts (R204, R210 stval 5). -/
def destOk (d : Word) (remote : Bool) : Bool :=
  let m := destMode d
  (if remote then m = 2 else m = 0 || m = 1)
  && wbits d 24 0 = 0
  && (m = 1 || destDs d = 0)
  && (m ≠ 1 || (destOwn d && destCore d = 0))
  && (destOwn d || destPkg d ≠ 0xFFF)

/-- The eight words of a register group (R203): lane 0 before lane 1. -/
def groupWords (vs : List VWord) : List Word := vs.flatMap fun v => [v.extractLsb' 0 64, v.extractLsb' 64 64]

/-- SEND and SEND.C (R219): `cap` is the capability's register for SEND.C. -/
def Act.sendOp (rs1 : Reg) (g : BitVec 4) (cap : Option Reg) : Act Unit := do
  let d ← Act.x rs1
  if !destOk d cap.isSome then Act.trap 27 5
  let regs := (List.range 4).map fun i => 4 * g.toNat + i
  let vs ← regs.mapM Act.v
  let sl ← Act.slot
  if 64 ≤ sl.buf.length then
    if sl.buf.any (·.released) then Act.wait else Act.trap 27 4
  let s ← get
  let c ← match cap with
    | some r => do let x ← Act.x r; pure (some x)
    | none => pure none
  let msg : Msg := { words := groupWords vs, stage := sl.stage, src := s.cur, fid := wbits sl.firing 63 32,
                     ctx := s.ctxOf s.cur, launch := none, replay := false }
  let f : Flight := { dest := d, msg, cap := c, ccont := sl.ccont, ticket := sl.rticket, bwin := sl.bwin,
                      released := false, event := false, target := destCore d }
  Act.modSlot fun sl =>
    { sl.popPorts regs with buf := sl.buf ++ [f], rticket := if cap.isSome then sl.rticket + 1 else sl.rticket }
  Act.next

/-- SEND (R219). -/
def execSend (rs1 : Reg) (g : BitVec 4) (s : State) := runSlot (Act.sendOp rs1 g none) s
/-- SEND.C (R219, R220). -/
def execSendC (rs1 : Reg) (g : BitVec 4) (cap : Reg) (s : State) := runSlot (Act.sendOp rs1 g (some cap)) s

/-- The release of SEAL and DONE (R197, R221): every unreleased entry is marked released. -/
def Act.releaseBuffer : Act Unit := do
  Act.release .package
  Act.modSlot fun sl => { sl with buf := sl.buf.map fun f => { f with released := true } }

/-- SEAL (R221). -/
def execSealF (s : State) :=
  runSlot (do
    Act.releaseBuffer
    Act.modSlot fun sl => { sl with firing := setBits sl.firing 4 4 1 }
    Act.next) s

/-- DONE (R221): the firing ends, the slot leaves its convoy and becomes idle. -/
def execDone (s : State) :=
  runSlot (do
    Act.releaseBuffer
    Act.modSlot fun sl => { sl with instret := sl.instret + 1 }
    Act.mod fun s => s.endFiring s.cur false) s

/-! ### Launch records -/

/-- The placement of a launch record's word 1 (R224). -/
def placementOf (w : Word) : Placement :=
  { dies := wbits w 3 0, ty0 := wbits w 7 4, tx0 := wbits w 11 8, h := wbits w 15 12, w := wbits w 19 16, cores := wbits w 27 20 }

/-- The caravans a placement occupies (R224). -/
def Placement.caravans (p : Placement) : List Nat :=
  ((List.range 4).filter fun d => p.dies.testBit d).flatMap fun d =>
    (List.range (p.h + 1)).flatMap fun y => (List.range (p.w + 1)).map fun x => d * 256 + (p.ty0 + y) * 16 + (p.tx0 + x)

/-- The cores a placement occupies, caravan by caravan (R224). -/
def Placement.coreList (p : Placement) : List Nat :=
  p.caravans.flatMap fun v => ((List.range 8).filter fun i => p.cores.testBit i).map fun i => v * 8 + i

/-- Whether a launch record is malformed (R224). -/
def recordBad (ws : List Word) : Bool :=
  let w := ws.getD 1 0
  let p := placementOf w
  wbits w 63 49 ≠ 0 || p.dies = 0 || p.cores = 0 || decide (15 < p.ty0 + p.h) || decide (15 < p.tx0 + p.w)
  || (wbit w 36 && (ws.getD 7 0).toNat % 8 ≠ 0)

/-- A 256-bit mask of four record words (R223, R224). -/
def maskOf (ws : List Word) (i : Nat) : BitVec 256 :=
  ws.getD (i + 3) 0 ++ ws.getD (i + 2) 0 ++ ws.getD (i + 1) 0 ++ ws.getD i 0

/-- Whether every caravan of a placement is assigned to a context (R210 stval 7). -/
def State.assigned (s : State) (ctx : Nat) (p : Placement) : Bool := p.caravans.all fun v => (s.ctx ctx).caravans.contains v

/-- Puts a record into launch queue `q` of a context (R225): it gets the context's next launch id. -/
def State.enqueueLaunch (s : State) (ctx q : Nat) (ws : List Word) (ccont : Word) (core : Option Nat) (lane : Nat)
    (stage : BitVec 8) : Nat × State :=
  let c := s.ctx ctx
  let r : LRec := { words := ws, id := c.nextId, ccont, core, lane, stage, order := s.order, headAt := s.cycle }
  (c.nextId, { s with order := s.order + 1 }.modCtx ctx fun c =>
    { c with nextId := (c.nextId + 1) % 2 ^ 32, queues := sset c.queues q (sget [] c.queues q ++ [r]) })

/-- LAUNCH (R225). -/
def execLaunch (rd rs1 rs2 : Reg) (s : State) :=
  runSlot (do
    let a := va (← Act.x rs1)
    let q ← Act.x rs2
    if q.toNat > 7 then Act.trap 27 8
    if a % 128 ≠ 0 then Act.trap 4 (wordOfNat a)
    Act.released .package do
      let before ← get
      let ws := wordsOf 16 (← Act.loadRecord a 128)
      Act.kept before a 128 do
        if recordBad ws then Act.trap 27 6
        let s ← get
        let ctx := s.ctxOf s.cur
        if !s.assigned ctx (placementOf (ws.getD 1 0)) then Act.trap 27 7
        if 64 ≤ (sget [] (s.ctx ctx).queues q.toNat).length then Act.wait
        let sl ← Act.slot
        let id ← (fun s => .ok (s.enqueueLaunch ctx q.toNat ws sl.ccont (some (coreOf s.cur)) 0 sl.stage) : Act Nat)
        Act.setX rd (wordOfNat id)
        Act.next) s

/-! ### Signals -/

/-- Word `i` of a signal vector (R223). -/
def sigWord (v : BitVec 256) (i : Nat) : Word := v.extractLsb' (64 * i) 64

/-- A signal vector with word `i` set. -/
def setSigWord (v : BitVec 256) (i : Nat) (w : Word) : BitVec 256 :=
  v ^^^ ((sigWord v i ^^^ w).setWidth 256 <<< (64 * i))

/-- SIGSET and SIGCLR (R229): a package-scope release, then the change at the sequencer. -/
def Act.sigOp (rs1 rs2 : Reg) (f : Word → Word → Word) : Act Unit := do
  let i ← Act.x rs1
  let m ← Act.x rs2
  if i.toNat > 3 then Act.trap 27 9
  Act.release .package
  Act.mod fun s => s.modCtx (s.ctxOf s.cur) fun c => { c with sig := setSigWord c.sig i.toNat (f (sigWord c.sig i.toNat) m) }
  Act.next

/-- SIGSET (R229). -/
def execSigset (rs1 rs2 : Reg) (s : State) := runSlot (Act.sigOp rs1 rs2 fun a m => a ||| m) s
/-- SIGCLR (R229). -/
def execSigclr (rs1 rs2 : Reg) (s : State) := runSlot (Act.sigOp rs1 rs2 fun a m => a &&& ~~~m) s
/-- SIGTEST (R229). -/
def execSigtest (rd rs1 rs2 : Reg) (s : State) :=
  runSlot (do
    let i ← Act.x rs1
    let m ← Act.x rs2
    if i.toNat > 3 then Act.trap 27 9
    let s ← get
    Act.setX rd (sigWord (s.ctx (s.ctxOf s.cur)).sig i.toNat &&& m)
    Act.acquire .package
    Act.next) s

/-! ### Stash -/

/-- The base of the stash (R304). -/
def stashBase (w : Word) : Nat := wbits w 55 16 * 2 ^ 16
/-- The size of the stash in bytes (R304). -/
def stashSize (w : Word) : Nat := wbits w 63 56 * 2 ^ 16

/-- STASH.ALLOC (R306). -/
def execStashAlloc (rd rs1 : Reg) (s : State) :=
  runSlot (do
    let n ← Act.x rs1
    let s ← get
    let c := s.core (coreOf s.cur)
    let need := ceilDiv n.toNat 256 * 256
    if n = 0 || stashSize c.stash = 0 || decide (stashSize c.stash < c.used + need) then Act.setX rd 0
    else
      Act.setX rd (wordOfNat (stashBase c.stash + c.used))
      Act.mod fun s => s.modCore (coreOf s.cur) fun c => { c with used := c.used + need }
    Act.next) s

/-- STASH.FREE (R306). -/
def execStashFree (rs1 : Reg) (s : State) :=
  runSlot (do
    let a := va (← Act.x rs1)
    Act.mod fun s => s.modCore (coreOf s.cur) fun c =>
      let b := stashBase c.stash
      if b ≤ a ∧ a < b + c.used then { c with used := (a - b) / 256 * 256 } else c
    Act.next) s

/-! ### The way of a message -/

/-- Whether a SEND.C message to a core of this package must stay in its sender's buffer (R219, R288): the engine's four
remote entries are occupied, or are spoken for by messages on their way. -/
def State.remoteFull (s : State) (f : Flight) : Bool :=
  let e := wbits (f.msg.words.getD 0 0) 10 8
  let near := s.toDest.filter fun g => destMode g.dest = 2 && g.target = f.target && wbits (g.msg.words.getD 0 0) 10 8 = e
  destMode f.dest = 2 && s.isLocal f.dest && decide (4 ≤ (sget [] (s.core f.target).remotes e).length + near.length)

/-- The oldest released entry of a slot's buffer leaves it (R206, R219); it waits behind an earlier stage-relative
message of the slot whose target is not yet resolved (R208), and for a remote entry (R288). -/
def execMessageDepart (slot : Nat) (s : State) : Host.Outcome State Fault Refusal :=
  .next (match (s.slot slot).buf with
    | f :: rest =>
      if f.released && !(s.toSeq.any fun g => g.msg.src == slot) && !s.remoteFull f then
        (s.modSlot slot fun sl => { sl with buf := rest }).emit (coreOf slot) f
      else s
    | [] => s)

/-- The lowest die of a mask (R205). -/
def lowestDie (dies : Nat) : Nat := ((List.range 4).find? fun d => dies.testBit d).getD 0

/-- The core that a stage-relative message resolves to, or none (R205): the sender's offset from the origin of its own
stage, added to the origin of the target stage. -/
def State.resolveStage (s : State) (f : Flight) : Option Nat :=
  let cx := s.ctx f.msg.ctx
  let t : Int := f.msg.stage.toNat + sextInt 8 (destDs f.dest)
  if t < 0 ∨ 255 < t then none
  else match sfind cx.stageMap f.msg.stage.toNat, sfind cx.stageMap t.toNat with
    | some a, some b =>
      let c := coreOf f.msg.src
      let die : Int := dieOf c - (lowestDie a.dies : Int) + lowestDie b.dies
      let ty : Int := c / 128 % 16 - (a.ty0 : Int) + b.ty0
      let tx : Int := c / 8 % 16 - (a.tx0 : Int) + b.tx0
      if die < 0 ∨ 3 < die ∨ !b.dies.testBit die.toNat ∨ ty < b.ty0 ∨ b.ty0 + b.h < ty ∨ tx < b.tx0 ∨ b.tx0 + b.w < tx
          ∨ !b.cores.testBit (c % 8) then none
      else some (die.toNat * 2048 + ty.toNat * 128 + tx.toNat * 8 + c % 8)
    | _, _ => none

/-- The `k`th message at the sequencer is resolved against the stage map, or refused as NOSTAGE (R205, R206). -/
def State.resolveAt (s : State) (k : Nat) : State :=
  match s.toSeq[k]? with
  | none => s
  | some f =>
    let s' := { s with toSeq := s.toSeq.eraseIdx k }
    match s.resolveStage f with
    | some c => { s' with toDest := s'.toDest ++ [{ f with target := c }] }
    | none => s'.refuse f { kind := 3, pos := 0 } 5 (wordOfInt (f.msg.stage.toNat + sextInt 8 (destDs f.dest)))

/-- A message at the sequencer is resolved (R205, R206). -/
def execStageResolve (k : Nat) (s : State) : Host.Outcome State Fault Refusal := .next (s.resolveAt k)

/-- Whether two messages go to one queue of a core, or, as commands, to one engine, whose queue field is ignored: the bulk engines of
a die take theirs through each of its cores (R204, R208, R288, R312). -/
def Flight.together (f g : Flight) : Bool :=
  let engine := fun (x : Flight) => wbits (x.msg.words.getD 0 0) 10 8
  if destMode f.dest = 2
    then destMode g.dest == 2 && engine g == engine f && (g.target == f.target || (engine f == 4 && dieOf g.target == dieOf f.target))
    else g.target == f.target && destMode g.dest != 2 && destQueue g.dest == destQueue f.dest

/-- Whether the `k`th message on its way waits behind an earlier one of its sender to its queue or engine (R208, R288). -/
def State.behind (s : State) (k : Nat) (f : Flight) : Bool :=
  (s.toDest.take k).any fun g => g.msg.src == f.msg.src && f.together g
    && g.msg.launch.isNone && f.msg.launch.isNone && g.event == f.event

/-- Whether a context is on a core now, so that a message can be delivered there (R207). -/
def State.present (s : State) (ctx core : Nat) : Bool := (s.core core).ctx == some ctx

/-- A core as a context has it: the core where the context is resident, else as its image holds it (R207, log 70). -/
def State.coreAs (s : State) (ctx core : Nat) : Core :=
  if s.present ctx core then s.core core
  else match s.snaps.find? fun n => n.ctx == ctx with
    | some n => sget .reset n.cores core
    | none => .reset

/-- The check at the destination interface (R206): the reason of a refusal. -/
def State.arriveFault (s : State) (f : Flight) : Option Nat :=
  if !(s.ctx f.msg.ctx).caravans.contains (f.target / 8) then some 1
  else if destMode f.dest = 2 then none
  else
    let a := (s.coreAs f.msg.ctx f.target).queueAttr (destQueue f.dest)
    let h := va (f.msg.words.getD 0 0)
    if !a.bound then some 2
    else if h < a.lo ∨ a.hi ≤ h then some 3
    else none

/-- The fault service looks for a frame (R403): a free one, or, for the oldest parked instruction of its context, one of the
reserve, which is whole again for the next such instruction (log 77). -/
def State.takeFrame (s : State) (ctx : Nat) (oldest : Option (Nat × Word)) : Bool × State :=
  let s' := { s with free := s.free + 1 }
  if Config.frameFree s.free then (true, s')
  else match oldest with
    | none => (false, s')
    | some o =>
      let left := if (s.ctx ctx).reserveFor = some o then (s.ctx ctx).reserve else Config.reserveFrames
      if left = 0 then (false, s')
      else (true, s'.modCtx ctx fun c => { c with reserve := left - 1, reserveFor := some o })

/-- The messages that a context has in its spill area at a core (R207). -/
def State.spilled (s : State) (ctx core : Nat) : Nat :=
  let count := fun (ls : List (List Msg)) => (ls.map List.length).foldl (· + ·) 0
  count ((s.coreAs ctx core).spill.map (·.2)) + count (((s.ctx ctx).away.filter fun e => e.1 / 8 == core).map (·.2))

/-- Whether the spill area of a context at a core is full (R207). -/
def State.spillFull (s : State) (ctx core : Nat) : Bool := decide (1024 * sget 0 (s.ctx ctx).pages core ≤ s.spilled ctx core)

/-- No message of a context to a core waits for a frame any more (R207, R403). -/
def State.endSpillWait (s : State) (ctx core : Nat) : State :=
  if shas (s.ctx ctx).spillWait core then s.modCtx ctx fun c => { c with spillWait := sdel c.spillWait core } else s

/-- Room in the spill area of a context at a core (R207): it grows by a page of 1,024 messages where it is full (log 77).
Where no frame is free the message waits, and the stall is timed (R403). -/
def State.growSpill (s : State) (ctx core : Nat) : Bool × State :=
  if !s.spillFull ctx core then (true, s)
  else
    let (ok, s) := s.takeFrame ctx none
    if ok then (true, s.modCtx ctx fun c => { c with pages := sset c.pages core (sget 0 c.pages core + 1) })
    else if shas (s.ctx ctx).spillWait core then (false, s)
    else (false, s.modCtx ctx fun c => { c with spillWait := sset c.spillWait core s.now })

/-- Whether a message goes to the spill area (R207, R420): its context is not resident on the core, the core is fenced, the
queue has messages there, or its inbox is full. -/
def State.spills (s : State) (f : Flight) : Bool :=
  let c := s.core f.target
  let q := destQueue f.dest
  !s.present f.msg.ctx f.target || c.fenced || !(sget [] c.spill q).isEmpty || decide (16 ≤ (sget [] c.inbox q).length)

/-- Whether a message of a context that is on its way to a core must go to its spill area there (R207). -/
def State.mustSpill (s : State) (ctx core : Nat) : Bool :=
  s.toDest.any fun f => f.msg.ctx == ctx && f.target == core && destMode f.dest != 2 && s.spills f

/-- A message has arrived at a core, or is dropped: where no other one waits for room in its spill area there, because none must go
there or because there is room, the wait is over (R207, R403). -/
def State.arrived (s : State) (ctx core : Nat) : State :=
  if s.spillFull ctx core && s.mustSpill ctx core then s else s.endSpillWait ctx core

/-- The waits for room in spill areas that have ended in whatever way (R207, R403). -/
def State.settleSpills (s : State) : State :=
  s.ctxs.foldl (fun s e => e.2.spillWait.foldl (fun s w => s.arrived e.1 w.1) s) s

/-- Appends a message to the spill area, or to the inbox queue. -/
def State.putMessage (s : State) (f : Flight) (spill : Bool) : State :=
  let q := destQueue f.dest
  if s.present f.msg.ctx f.target then s.modCore f.target fun c =>
    if spill then { c with spill := sset c.spill q (sget [] c.spill q ++ [f.msg]) }
    else { c with inbox := sset c.inbox q (sget [] c.inbox q ++ [f.msg]) }
  else s.modCtx f.msg.ctx fun c =>
    let n := 8 * f.target + q
    { c with away := sset c.away n (sget [] c.away n ++ [f.msg]) }

/-- A start message of a launch was refused: its caravan is fused no longer where nothing else of a fused launch is left (R227). -/
def State.unfuseAt (s : State) (f : Flight) : State := if f.msg.launch.isSome then s.unfuse f.msg.ctx (f.target / 8) else s

/-- The `k`th message on its way arrives (R206, R207): refused, or put into its inbox queue or into the spill area; it waits
where the spill area can get no frame. -/
def execMessageArrive (k : Nat) (s : State) : Host.Outcome State Fault Refusal :=
  .next (match s.toDest[k]? with
    | none => s
    | some f =>
      if destMode f.dest = 2 || s.behind k f then s
      else
        let s' := { s with toDest := s.toDest.eraseIdx k }
        match s.arriveFault f with
        | some r => ((s'.refuse f { kind := 0, pos := f.target } r 0).unfuseAt f).arrived f.msg.ctx f.target
        | none =>
          if s.spills f then
            let (ok, t) := s.growSpill f.msg.ctx f.target
            if ok then ({ t with toDest := t.toDest.eraseIdx k }.putMessage f true).arrived f.msg.ctx f.target else t
          else (s'.putMessage f false).arrived f.msg.ctx f.target)

/-- The oldest spilled message of a queue returns to the inbox as a place is free (R207, R420). -/
def execSpillReturn (core queue : Nat) (s : State) : Host.Outcome State Fault Refusal :=
  .next (
    let c := s.core core
    match sget [] c.spill queue with
    | m :: rest =>
      if c.fenced || decide (16 ≤ (sget [] c.inbox queue).length) then s
      else s.modCore core fun c =>
        { c with spill := sset c.spill queue rest, inbox := sset c.inbox queue (sget [] c.inbox queue ++ [m]) }
    | [] => s)

/-! ### The start of a firing -/

/-- Whether queue `q` of a core qualifies for a firing (R214). -/
def State.qualifies (s : State) (c q : Nat) : Bool :=
  let a := (s.core c).queueAttr q
  a.en && decide (a.count ≤ (sget [] (s.core c).inbox q).length) && decide (s.runningOf c q < a.inst)

/-- The queue that starts next: the highest priority, then the lowest number (R214). -/
def State.nextQueue (s : State) (c : Nat) : Option Nat :=
  let qs := (List.range 8).filter fun q => s.qualifies c q
  let top := qs.foldl (fun a q => max a ((s.core c).queueAttr q).prio) 0
  qs.find? fun q => ((s.core c).queueAttr q).prio == top

/-- The lowest-numbered idle slot of a core (R214). -/
def State.idleSlot (s : State) (c : Nat) : Option Nat :=
  ((List.range 4).map fun i => 4 * c + i).find? fun k => !(s.slot k).running

/-- The v registers of the messages a firing consumes: message j in group j (R203, R215). -/
def messageRegs (ms : List Msg) : Sparse VWord :=
  let ws := ms.flatMap fun m => m.words
  forRange (4 * ms.length) (fun i v => sput 0 v i (ws.getD (2 * i + 1) 0 ++ ws.getD (2 * i) 0)) []

/-- A slot as a firing finds it (R215). -/
def Slot.start (sl : Slot) (fid q : Nat) (ms : List Msg) : Slot :=
  let first := ms.head?.map (·.words.getD 0 0) |>.getD 0
  { sl with
    x := [], v := messageRegs ms, pc := wordOfNat (va first), vctl := 0, sbind := 0, ports := [], ccont := 0, dseed := 0,
    dscope := 3, vflags := 0, repst := 0, nestst := 0, nestDesc := 0, jt := false,
    stage := (ms.head?.map (·.stage)).getD 0, priv := .u, rep := none, fresh := false, wait := .none, errX := [], errV := [],
    firing := wordOfNat (fid % 2 ^ 32 * 2 ^ 32 + q * 2 ^ 8 + (if (ms.head?.map (·.replay)).getD false then 8 else 0) + ms.length),
    trig := ms.map fun m => { m with replay := false } }

/-- A cancelled slice starts again (R412). -/
def State.restartSlice (s : State) (ctx : Nat) : State :=
  s.modCtx ctx fun c => { c with slice := c.slice.map fun t => if t.waits then { t with waits := false, start := s.now } else t }

/-- A firing starts on a core (R214, R215): the chosen queue's oldest messages are consumed, the slot's state is set, the
package-scope acquire of R197 is made, and the slot is placed (R146). -/
def State.startFiring (s : State) (c k q : Nat) : State :=
  let n := ((s.core c).queueAttr q).count
  let ms := (sget [] (s.core c).inbox q).take n
  let fid := (s.core c).fid
  let s := s.modCore c fun d => { d with inbox := sset d.inbox q ((sget [] d.inbox q).drop n), fid := (d.fid + 1) % 2 ^ 32 }
  let s := s.modSlot k fun sl => sl.start fid q ms
  let ids := (s.slot k).launchIds
  let s := ids.foldl (fun s id => s.modLaunch ((s.core c).ctx.getD 0) id fun r =>
    { r with pending := r.pending - (ms.filter fun m => m.launch == some id).length, running := r.running + 1 }) s
  let s := s.acquire c .package
  let s := s.restartSlice ((s.core c).ctx.getD 0)
  s.placeFiring k (s.slot k).pc.toNat

/-- A firing starts on a core, if a queue qualifies and a slot is idle; a fenced core, and one whose context is being
saved, starts none (R214, R407, R420). -/
def execFiringStart (core : Nat) (s : State) : Host.Outcome State Fault Refusal :=
  .next (if (s.core core).fenced || (s.core core).ctx.isNone || s.stopped core then s
    else match s.nextQueue core, s.idleSlot core with
      | some q, some k => s.startFiring core k q
      | _, _ => s)

/-! ### The launch sequencer -/

/-- Whether a context's launches are dispatched: it is live and resident, and no save of it is in progress (R407). -/
def Ctx.dispatches (c : Ctx) : Bool := c.live && c.resident && c.saving.isNone

/-- Whether a record at the head of its queue is dispatchable (R226). -/
def Ctx.dispatchable (c : Ctx) (r : LRec) : Bool := maskOf r.words 8 &&& ~~~c.sig = 0

/-- The effective priority of a head (R226). -/
def State.effPrio (s : State) (r : LRec) : Nat := min 7 (wbits (r.words.getD 1 0) 41 39 + (s.cycle - r.headAt) / 1024)

/-- The dispatchable head of a context that goes first: the highest effective priority, then the oldest accepted (R226). While
a head waits for its predicate's page no other launch of the context is dispatched (R463); one whose wait bits have been
cleared meanwhile waits no longer (log 67). -/
def State.chosenHead (s : State) (ctx : Nat) : Option (Nat × LRec) :=
  let c := s.ctx ctx
  if !c.dispatches then none
  else
    let heads := c.queues.filterMap fun e => match e.2 with
      | r :: _ => if c.dispatchable r then some (e.1, r) else none
      | [] => none
    let heads := match heads.find? fun x => c.delayed == some x.1 with
      | some x => [x]
      | none => heads
    heads.foldl (fun (best : Option (Nat × LRec)) x =>
      match best with
      | none => some x
      | some b =>
        if s.effPrio b.2 < s.effPrio x.2 ∨ (s.effPrio b.2 = s.effPrio x.2 ∧ x.2.order < b.2.order) then some x else some b) none

/-- What the predicate read of a conditional launch gives, with the state that it leaves (R463). -/
inductive Predicate where
  | value (w : Word) (s : State)
  | wait (s : State)
  | failed (cause : Nat) (s : State)

/-- The fault service makes a page present (R402): a leaf whose tier is 1 or 2, which breaks no rule and is not the host's
(R434); none where it cannot. A leaf that is present by now needs nothing more. -/
def State.makePresent (s : State) (a : Nat) : Option State :=
  match s.leafKey a with
  | .error _ => none
  | .ok k =>
    let leaf := s.leafAt k
    if leafTier leaf = 0 || (leafFault leaf).isSome || (s.pxmode && leafHo leaf) then none
    else if wbit leaf 0 then some s
    else some ((s.nonResident a).physWrite k (bytesOfNat 8 (leaf ||| 1).toNat))

/-- What the fault service can do about a page: nothing, so that the supervisor is told; nothing yet, for want of a frame;
or it is present. -/
inductive Service where
  | fails
  | stalls (s : State)
  | done (s : State)

/-- The fault service takes up a page that a walk found not present (R402, R403). -/
def State.servePage (s : State) (ctx a : Nat) (oldest : Option (Nat × Word)) : Service :=
  match s.makePresent a with
  | none => .fails
  | some t =>
    if s.leafPresent a then .done t
    else
      let (ok, s) := s.takeFrame ctx oldest
      if ok then .done ((s.makePresent a).getD s) else .stalls s

/-- Whether the leaf of an address gives its page to the host while page-exclusive mode is on (R434). -/
def State.hostOwned (s : State) (a : Nat) : Bool :=
  s.pxmode && match s.leafKey a with
    | .ok k => leafHo (s.leafAt k)
    | .error _ => false

/-- A unit waits for a page that the host owns: a MIGRATION event, once for a wait (R434). Drover engine `p` is unit `p`, the slice of
context `x` unit 16 + x, the landings of a core units 80 + core, the predicate of context `x` unit 10,000 + x. -/
def State.migration (s : State) (unit ctx core a : Nat) : State :=
  if s.told.contains (unit, a) then s
  else { s.hostOnly ctx { kind := 2, pos := serviceOf core } 12 0 (wordOfNat a) 0 0 with told := s.told ++ [(unit, a)] }

/-- Whether a unit's request for a sector, which a slice has refused, is still to be sent again (R315). -/
def State.unitWaits (s : State) (unit a : Nat) : Bool := s.hints.any fun h => h.1 == unit && h.2.1 == a / 64 && decide (s.cycle < h.2.2)

/-- A wait for a page that the host owns no longer is over (R434). -/
def State.forgetTold (s : State) : State := { s with told := s.told.filter fun x => s.hostOwned x.2 }

/-- The package fault service takes up the fault of a walk for a unit that then tries again (R263, R402, R434). -/
def State.serviced (s : State) (unit ctx core a : Nat) (f : WalkFault) : State :=
  if s.hostOwned a then s.migration unit ctx core a
  else match if f.reason = 0 then s.servePage ctx a none else .fails with
  | .done t | .stalls t => t
  | .fails => s

/-- The class rules for the predicate read (R463): those of a plain load (R175); for a host launch those of a host access, which
refuse classes 3 and 5 (R425, R426). -/
def State.predicateRefused (s : State) (host : Bool) (t : TEntry) : Option Nat :=
  if host && leafClass t.leaf = 5 then some 5
  else classRefuses (leafClass t.leaf) .load false (s.scratchOk t)

/-- The predicate's value at its home, once its page is translated: the class rules, then the read (R463). -/
def State.predicateRead (s : State) (ctx : Nat) (host : Bool) (t : TEntry) (a : Nat) : Predicate :=
  match s.predicateRefused host t with
  | some c => .failed c s
  | none =>
    if s.badAt t 0 a 8 then .failed 52 (s.cxlError ctx (wordOfNat a))
    else .value (wordOfNat (natOfBytes (s.homeRead t 0 a 8))) (s.fillRange t 0 a 8)

/-- The predicate read of a context's launch (R463): checked as a plain load against the launching core's PLB, or against the
classes alone for a host launch; it waits for a page that the host owns (R434). The rules do not say what an address in the local window or a poisoned word does here: the
launch ends FAULTED, with cause 5 and cause 52 (log 67). -/
def State.predicate (s : State) (ctx : Nat) (r : LRec) : Predicate :=
  let a := va (r.words.getD 7 0)
  let right := match r.core with
    | some c => if inWindow a then some 5 else match s.plbCheck c a .load with
      | .ok _ => none
      | .error _ => some 5
    | none => if inWindow a then some 5 else none
  match right with
  | some c => .failed c s
  | none =>
    match s.translate 0 a false with
    | .error f =>
      if s.hostOwned a then .wait (s.migration (10000 + ctx) ctx (r.core.getD 0) a)
      else match if f.reason = 0 then s.servePage ctx a none else .fails with
      | .done s' => match s'.translate 0 a false with
        | .ok (t, s') => s'.predicateRead ctx r.core.isNone t a
        | .error _ => .wait s'
      | .stalls s' => .wait s'
      | .fails => .failed 13 s
    | .ok (t, s') => s'.predicateRead ctx r.core.isNone t a

/-- The start messages of a launch (R227). -/
def startMessages (ctx : Nat) (r : LRec) : List Flight :=
  let w := r.words.getD 1 0
  let words := [r.words.getD 0 0, wordOfNat r.id] ++ (r.words.drop 2).take 6
  (placementOf w).coreList.map fun c =>
    let f := Flight.plain (ownDest c (wbits w 48 46)) { Msg.plain words (BitVec.ofNat 8 (wbits w 35 28)) ctx with launch := some r.id } false
    { f with target := c }

/-- The dispatch instant (R227), the predicate's outcome given: none to send start messages, or the completion status. -/
def State.dispatchAs (s : State) (ctx q : Nat) (r : LRec) (ended : Option Nat) : State :=
  let w := r.words.getD 1 0
  let p := placementOf w
  let msgs := if ended.isSome then [] else startMessages ctx r
  let run : Running := { record := r, pending := msgs.length, running := 0, refused := 0, killed := 0, ended }
  let s := s.modCtx ctx fun c =>
    let sig := if wbit w 37 then c.sig &&& ~~~maskOf r.words 8 else c.sig
    let sig := if ended.isSome then sig ||| maskOf r.words 12 else sig
    let rest := (sget [] c.queues q).drop 1
    let rest := match rest with
      | h :: t => { h with headAt := s.cycle } :: t
      | [] => []
    { c with sig, delayed := none, queues := sset c.queues q rest, stageMap := sset c.stageMap (wbits w 35 28) p, launches := c.launches ++ [run] }
  let s := if ended.isNone && r.fuse then
      p.caravans.foldl (fun s v =>
        (s.flushL1s ((List.range 8).map fun i => 8 * v + i)).modCar v fun c => { c with fused := true }) s
    else s
  { s with toDest := s.toDest ++ msgs, lastDisp := ctx, dispAt := s.cycle + 4 }

/-- Dispatches the chosen head of a context (R227, R463): whether it was dispatched, and the state; where its predicate's page
has still to be made present, it waits. -/
def State.dispatchHead (s : State) (ctx q : Nat) (r : LRec) : Bool × State :=
  if wbit (r.words.getD 1 0) 36 then
    match s.predicate ctx r with
    | .wait s' => (false, s'.modCtx ctx fun c => { c with delayed := some q })
    | .value v s => (true, s.dispatchAs ctx q r (if v = 0 then some 1 else none))
    | .failed c s => (true, (s.dispatchAs ctx q r (some 5)).event ctx { kind := 3, pos := 0 } 7 0 6 (wordOfNat r.id) (r.words.getD 7 0) 0
        (wordOfNat c) 0)
  else (true, s.dispatchAs ctx q r none)

/-- The contexts of a list are tried in order until one dispatches; one whose launch waits holds up no other (R226, R463). -/
def State.dispatchFirst (s : State) : List Nat → State
  | [] => s
  | c :: cs => match s.chosenHead c with
    | none => s.dispatchFirst cs
    | some (q, r) => let (ok, t) := s.dispatchHead c q r; if ok then t else t.dispatchFirst cs

/-- The sequencer dispatches one head (R226): contexts in round-robin order after the one dispatched last; at most one
dispatch in 4 cycles. -/
def execLaunchDispatch (s : State) : Host.Outcome State Fault Refusal :=
  .next (if s.cycle < s.dispAt then s
    else s.dispatchFirst ((List.range 64).map fun i => (s.lastDisp + 1 + i) % 64))

/-- The completion status of a launch (R228). -/
def Running.status (r : Running) : Nat :=
  match r.ended with
  | some x => x
  | none => if r.killed = 0 then (if r.refused = 0 then 0 else 3) else if r.refused = 0 then 2 else 4

/-- A launch ends when no start message and no firing of it is left (R228): its set mask is ORed into the signal vector,
unless that was done at the dispatch instant (R227, R463); then the completion message or the LAUNCH_END host event follows. The
record names the launching core alone; slot 0 of that core counts as the message's sender (DESIGN CHOICE, log 69). -/
def execLaunchEnd (ctx id : Nat) (s : State) : Host.Outcome State Fault Refusal :=
  .next (match (s.ctx ctx).launches.find? fun r => r.record.id == id && r.pending == 0 && r.running == 0 with
    | none => s
    | some r =>
      let w := r.record.words.getD 1 0
      let s := s.modCtx ctx fun c =>
        { c with sig := if r.ended.isSome then c.sig else c.sig ||| maskOf r.record.words 12, launches := c.launches.filter fun x => x.record.id ≠ id }
      let s := (placementOf w).caravans.foldl (fun s v => s.unfuse ctx v) s
      match r.record.core with
      | some c =>
        if wbit w 42 then
          let words := [r.record.ccont, wordOfNat id, wordOfNat r.status, wordOfNat r.refused, wordOfNat r.killed, 0, 0, 0]
          s.emit c { Flight.plain (ownDest c (wbits w 45 43)) { Msg.plain words r.record.stage ctx with src := 4 * c } false with target := c }
        else s
      | none => s.hostOnly ctx { kind := 3, pos := 0 } 9 (wordOfNat id) (wordOfNat r.status) 0 0)

end Sys2Proof.Machine
end

