-- ==== Sys2Proof/Machine/Engine.lean ====
section
/-!
DEFINITION. What all engines share: the core queues and ENQ, ENQM, EQWAIT, EQSTAT (R257 to R261), completion
statuses, messages and events (R262 to R264), the choice of the next command (R265, R266), accesses by
engines with their checks, refusals and retries (R263, R267, R313, R315), and remote commands (R220, R288).
-/

namespace Sys2Proof.Machine

/-! ### Queues and commands -/

/-- The code of an engine (R69). -/
def engineNum (e : Engine) : Nat := e.toBits.toNat

/-- The commands of engine `e` of a core that have started, the one that ran last first. -/
def Core.started (k : Core) (e : Nat) : List Cmd := sget [] k.running e
/-- The entries of a core's queue for engine `e` (R258). -/
def Core.queue (k : Core) (e : Nat) : List Cmd := sget [] k.queues e
/-- The remote entries of engine `e` of a core (R288). -/
def Core.remote (k : Core) (e : Nat) : List Cmd := sget [] k.remotes e

/-- Bulk engine `n` of a die, by 4 x die + n (R312). -/
def State.bulk (s : State) (b : Nat) : List Cmd := sget [] s.bulks b

/-- The commands of a slot on engine `e` that have not completed (R260, R261). -/
def State.outstanding (s : State) (slot e : Nat) : List Cmd :=
  let k := s.core (coreOf slot)
  let here := k.started e ++ k.queue e
  let all := if e = 4 then here ++ (List.range 4).flatMap fun n => s.bulk (4 * dieOf (coreOf slot) + n) else here
  all.filter fun c => c.issuer == .loc slot

/-- The cause that a status code raises at EQWAIT, 0 for none (R263, R319, R346, R383). -/
def statusCause (code : Nat) : Nat :=
  match code with
  | 1 | 3 | 4 | 5 | 10 | 11 | 33 | 42 | 43 => 30
  | 2 => 24
  | 6 => 51
  | 32 => 49
  | 40 | 41 => 31
  | 48 | 49 => 50
  | _ => 0

/-- The status word of a command (R262). -/
def Cmd.status (c : Cmd) (code : Nat) : Word :=
  wordOfNat (c.ticket.toNat * 2 ^ 32 + c.tcw.eop * 2 ^ 16 + c.flags.toNat * 2 ^ 8 + code)

/-- Whether firing `fid` runs in slot `k`. -/
def State.firingRuns (s : State) (k fid : Nat) : Bool := (s.slot k).running && wbits (s.slot k).firing 63 32 = fid

/-- The sender of a command: its slot, as `senderCoord` reads it. -/
def Issuer.src : Issuer → Nat
  | .loc k => k
  | .rem k => k

/-- The destination of a command's completion message (R264). -/
def Cmd.replyTo (c : Cmd) : Word :=
  let src := c.issuer.src
  let q := c.tcw.hdr.cq.toNat
  if src < 2 ^ 20 then ownDest (coreOf src) q
  else wordOfNat ((src / 2 ^ 20 - 1) * 2 ^ 49 + senderCore src * 2 ^ 36 + q * 2 ^ 33)

/-- The completion message of a command (R264). -/
def State.completion (s : State) (c : Cmd) (code : Nat) : Flight :=
  Flight.plain c.replyTo { words := [c.ccont, c.status code, s.coord (4 * c.core), 0, 0, 0, 0, 0], stage := c.stage,
                           src := c.issuer.src, fid := c.fid, ctx := c.ctx, launch := none, replay := false } false

/-- The STATUS event of a command (R260, R288, R464). -/
def State.statusEvent (s : State) (c : Cmd) (e pos code : Nat) : State :=
  s.event c.ctx { kind := 1, pos } 4 (statusCause code) 0 (wordOfNat c.ticket.toNat) (c.status code)
    (s.senderCoord c.issuer.src) (wordOfNat c.fid) (wordOfNat e)

/-- A command completes with a status code on engine `e` at position `pos` (R260 to R264, R288). -/
def State.report (s : State) (c : Cmd) (e pos code : Nat) : State :=
  let raises := statusCause code ≠ 0
  let cmsg := c.tcw.hdr.cmsg
  let s := match c.issuer with
    | .loc k =>
      let s := s.modSlot k fun sl => { sl with lastDone := sset sl.lastDone e (c.ticket, BitVec.ofNat 8 code) }
      if !raises then s
      else if s.firingRuns k c.fid && s.ctxOf k = c.ctx then
        s.modSlot k fun sl => { sl with pend := sset sl.pend e (sget [] sl.pend e ++ [c.status code]) }
      else s.statusEvent c e pos code
    | .rem _ => if raises && !cmsg then s.statusEvent c e pos code else s
  if cmsg then s.emit pos (s.completion c code) else s

/-- A command as an engine accepts it (R257, R288, R313). -/
def newCmd (tcw : Tcw) (ticket : BitVec 32) (issuer : Issuer) (core : Nat) (ccont bwin : Word) (stage : BitVec 8)
    (fid ctx cycle : Nat) : Cmd :=
  { tcw, ticket, issuer, core, ccont, bwin, stage, fid, ctx, accepted := cycle, oldest := cycle, started := false, paused := false,
    flags := 0, prog := 0, skip := [], landed := 0, retries := [], mid := false, fetched := [], pins := [], waiting := false,
    barFault := false, desc := [], part := [], pscale := [] }

/-- ENQ and ENQM from the command word on (R257). -/
def Act.enqueue (rd : Reg) (e : Engine) (t : Tcw) (ports : List Nat) : Act Unit := do
  let n := engineNum e
  if t.engine ≠ n then Act.trap 30 1
  Act.released .package do
    let s ← get
    let c := coreOf s.cur
    let sl := s.slot s.cur
    if 2 ≤ ((s.core c).queue n).length then Act.wait
    let ticket := sget 0 sl.tickets n
    let cmd := newCmd t ticket (.loc s.cur) c sl.ccont sl.bwin sl.stage (wbits sl.firing 63 32) (s.ctxOf s.cur) (s.coreCycle c)
    Act.mod fun s => s.modCore c fun k => { k with queues := sset k.queues n (k.queue n ++ [cmd]) }
    Act.modSlot fun sl => { sl.popPorts ports with tickets := sset sl.tickets n (ticket + 1) }
    Act.setX rd (ticket.setWidth 64)
    Act.next

/-- The command word of a vector pair (R81). -/
def tcwOfPair (a b : VWord) : Tcw :=
  { q0 := a.extractLsb' 0 64, q1 := a.extractLsb' 64 64, q2 := b.extractLsb' 0 64, q3 := b.extractLsb' 64 64 }

/-- The command word of 32 bytes (R81). -/
def tcwOfBytes (bs : List Byte) : Tcw :=
  let ws := wordsOf 4 bs
  { q0 := ws.getD 0 0, q1 := ws.getD 1 0, q2 := ws.getD 2 0, q3 := ws.getD 3 0 }

/-- ENQ (R257). -/
def execEnq (rd : Reg) (e : Engine) (p : BitVec 5) (s : State) :=
  runSlot (do
    let a ← Act.v (2 * p.toNat)
    let b ← Act.v (2 * p.toNat + 1)
    Act.enqueue rd e (tcwOfPair a b) [2 * p.toNat, 2 * p.toNat + 1]) s

/-- ENQM (R257). -/
def execEnqm (rd : Reg) (e : Engine) (rs2 : Reg) (s : State) :=
  runSlot (do
    let a := va (← Act.x rs2)
    if a % 32 ≠ 0 then Act.trap 4 (wordOfNat a)
    let s ← get
    let bs ← Act.load a 32
    Act.kept s a 32 (Act.enqueue rd e (tcwOfBytes bs) [])) s

/-- EQWAIT (R260): waits for the slot's own commands; a pending status traps after it has been emptied. -/
def execEqwait (e : Engine) (s : State) :=
  runSlot (do
    let n := engineNum e
    let s ← get
    if !(s.outstanding s.cur n).isEmpty then Act.wait
    match sget [] (s.slot s.cur).pend n with
    | st :: _ =>
      Act.mod fun s =>
        (s.modSlot s.cur fun sl => { sl with pend := sset sl.pend n [] }).takeTrap s.cur (statusCause (wbits st 7 0)) st
    | [] =>
      Act.acquire .package
      Act.next) s

/-- EQSTAT's value (R261). -/
def State.eqstat (s : State) (slot e : Nat) : Word :=
  let sl := s.slot slot
  let last := sget (0, 0) sl.lastDone e
  let pend := match sget [] sl.pend e with
    | st :: _ => wbits st 7 0
    | [] => 0
  wordOfNat (last.1.toNat * 2 ^ 32 + last.2.toNat * 2 ^ 24 + min (s.outstanding slot e).length 15 * 2 ^ 20
    + ((s.core (coreOf slot)).queue e).length % 4 * 2 ^ 18 + pend * 2 ^ 8)

/-- EQSTAT (R261). -/
def execEqstat (rd : Reg) (e : Engine) (s : State) :=
  runSlot (do let s ← get; Act.setX rd (s.eqstat s.cur (engineNum e)); Act.next) s

/-! ### The command whose step it is -/

/-- The started command that a selection names. -/
def State.selCmd (s : State) (g : EngSel) : Option Cmd :=
  match g.bulk with
  | some b => (s.bulk b).find? fun c => c.issuer == g.issuer
  | none => ((s.core g.core).started g.engine).find? fun c => c.issuer == g.issuer

/-- The state with the selected command changed. -/
def State.setCmd (s : State) (g : EngSel) (c : Cmd) : State :=
  match g.bulk with
  | some b => { s with bulks := sset s.bulks b ((s.bulk b).map fun d => if d.issuer == g.issuer && d.ticket == c.ticket then c else d) }
  | none => s.modCore g.core fun k =>
    { k with running := sset k.running g.engine ((k.started g.engine).map fun d => if d.issuer == g.issuer then c else d) }

/-- The commands of an issuer count their age as its oldest from now on (R265). -/
def renew (cs : List Cmd) (i : Issuer) (cycle : Nat) : List Cmd := cs.map fun c => if c.issuer == i then { c with oldest := cycle } else c

/-- An issuer's entries of a core's queue for engine `e`, and its remote entries, count their age from now on (R265, R312). -/
def Core.renewQueues (k : Core) (e : Nat) (i : Issuer) (cycle : Nat) : Core :=
  { k with queues := sset k.queues e (renew (k.queue e) i cycle), remotes := sset k.remotes e (renew (k.remote e) i cycle) }

/-- The selected command leaves its engine, and the issuer's next one becomes its oldest, in a bulk queue too where no other has been
forwarded: that of its core, or, for a remote sender, of any core of the die (R259, R265, R312). -/
def State.dropCmd (s : State) (g : EngSel) (c : Cmd) : State :=
  match g.bulk with
  | some b =>
    let mine := fun (d : Cmd) => d.issuer == g.issuer
    let rest := (s.bulk b).filter fun d => !(mine d && d.ticket == c.ticket)
    let s := { s with bulks := sset s.bulks b (rest.map fun d => if mine d then { d with oldest := s.coreCycle g.core } else d) }
    { s with cores := smap (fun n k => if dieOf n = dieOf g.core then k.renewQueues 4 g.issuer (s.coreCycle g.core) else k) s.cores }
  | none => s.modCore g.core fun k =>
    { k with running := sset k.running g.engine ((k.started g.engine).filter fun d => d.issuer != g.issuer) }.renewQueues
      g.engine g.issuer (s.coreCycle g.core)

/-- Whether an issuer is a remote one. -/
def Issuer.isRem : Issuer → Bool
  | .rem _ => true
  | .loc _ => false

/-- The pin count of the block record at an address of a page goes up or down by one (R277, R335). -/
def State.pinBlock (s : State) (core : Nat) (x : Nat × TEntry) (up : Bool) : State :=
  let a := x.1 + 8
  let w := wordOfNat (natOfBytes (s.homeRead x.2 (dieOf core) a 8))
  let n := wbits w 47 32
  s.homeWrite x.2 a (bytesOfNat 8 (setBits w 47 32 (if up then n + 1 else n - 1)).toNat)

/-- The read of a command ends: what it had fetched is consumed, and its pins are released, by the translations with which they
were made (R267, R277). -/
def State.endRead (s : State) (c : Cmd) : State := c.pins.foldl (fun s x => s.pinBlock c.core x false) s

/-- The position of an engine (R464): a rule engine's has the core field 0. -/
def EngSel.pos (g : EngSel) : Nat := if g.engine = 2 then g.core / 8 * 8 else g.core

/-- The selected command completes with a status code. -/
def State.finish (s : State) (g : EngSel) (c : Cmd) (code : Nat) : State :=
  ((s.endRead c).dropCmd g c).report c g.engine g.pos code

/-! ### The effect of a command -/

/-- The state and the command during one step of an engine. -/
structure EngSt where
  st  : State
  cmd : Cmd

/-- What the requests of a step bring whose translations are not all there (R315): the addresses that a slice refused, what has
been fetched, and the block records, with their pages, whose pins the read holds (R277). -/
structure Fetched where
  missing : List Nat
  got     : Sparse Byte
  pins    : List (Nat × TEntry)
  /-- Of requests that write, where those of `missing` read. -/
  stores  : List Nat := []

/-- A piece that a step has written although it has to wait for another one (R315): its number, page, address and bytes. -/
structure Written where
  number : Nat
  page   : TEntry
  addr   : Nat
  bytes  : List Byte

/-- What ends a step of an engine before its end: a status, with what has been done so far (R263); translations that
are missing at the homes, and, of a step that writes, the pieces that have been written, with what it has fetched (R315); nothing
that can be done now. -/
inductive EngStop where
  | status (code : Nat) (at_ : EngSt)
  | retry (f : Fetched) (write : Bool)
  | later (ws : List Written) (missing : List Nat) (got : Sparse Byte)
  | hold

/-- A step of an engine command. -/
abbrev Eng (α : Type) := StateT EngSt (Except EngStop) α

/-- Ends the command with a status. -/
def Eng.status {α : Type} (code : Nat) : Eng α := fun e => .error (.status code e)
/-- Ends the step without effect: the command goes on later. -/
def Eng.hold {α : Type} : Eng α := fun _ => .error .hold
/-- Ends the command with a status if a condition holds. -/
def Eng.failIf (b : Bool) (code : Nat) : Eng Unit := if b then Eng.status code else pure ()
/-- The state. -/
def Eng.st : Eng State := fun e => .ok (e.st, e)
/-- The command. -/
def Eng.cmd : Eng Cmd := fun e => .ok (e.cmd, e)
/-- The core of the engine, or the one that issued a bulk command. -/
def Eng.core : Eng Core := fun e => .ok (e.st.core e.cmd.core, e)
/-- Changes the state. -/
def Eng.mod (f : State → State) : Eng Unit := fun e => .ok ((), { e with st := f e.st })
/-- Changes the core of the engine. -/
def Eng.modCore (f : Core → Core) : Eng Unit := fun e => .ok ((), { e with st := e.st.modCore e.cmd.core f })
/-- Changes the command. -/
def Eng.modCmd (f : Cmd → Cmd) : Eng Unit := fun e => .ok ((), { e with cmd := f e.cmd })
/-- Accumulates flags (R103). -/
def Eng.flag (f : Flags) : Eng Unit := Eng.modCmd fun c => { c with flags := c.flags ||| f }

/-- A pointer's tag is checked (R93). -/
def Eng.tag (p : Word) : Eng Unit := Eng.failIf (!tagOk (ptrCode p) (ptrBl p)) 2

/-- The kinds of engine access: read or write, with the rights beyond E that it needs (R267, R336, R383). -/
structure EngAcc where
  write : Bool
  needG : Bool
  needC : Bool

/-- A plain read of an engine. -/
def EngAcc.read : EngAcc := { write := false, needG := false, needC := false }
/-- A plain write of an engine. -/
def EngAcc.wr : EngAcc := { write := true, needG := false, needC := false }

/-- The translation of an access that the slice finds: none for a sector whose request is still to be sent again (R315). -/
def Cmd.held (c : Cmd) (s : State) (a : Nat) : Option TEntry := if shas c.retries (a / 64) then none else s.held (dieOf c.core) a

/-- The translation of an access at address `a`, its rights and class checked (R267, R313): RIGHTS where refused. A cell needs
E and C alone (R336, R383). `cls` says which classes are admitted beyond the rules of R175. -/
def Eng.page (a : Nat) (k : EngAcc) (cls : Nat → Bool) : Eng TEntry := fun e =>
  if inWindow a then .error (.status 5 e)
  else match (e.st.core e.cmd.core).plbFind a with
  | none => .error (.status 5 e)
  | some p =>
    if !wbit p 3 || !(k.needC || wbit p (if k.write then 1 else 0)) || (k.needG && !wbit p 5) || (k.needC && !wbit p 4) then
      .error (.status 5 e)
    else match e.cmd.held e.st a with
    | none => .error (.retry { missing := [a], got := e.cmd.fetched, pins := e.cmd.pins } k.write)
    | some t =>
      let c := leafClass t.leaf
      let refused := if k.needC then c ≠ 3
        else (classRefuses c (if k.write then .store else .load) (wbit p 5) (e.st.scratchOk t)).isSome
      if refused || !cls c then .error (.status 5 e) else .ok (t, e)

/-- The pieces of `[a, a + n)` that lie within one 64-byte sector each, lowest first. -/
def sectors (a n : Nat) : List (Nat × Nat) :=
  if n = 0 then []
  else (List.range ((a % 64 + n + 63) / 64)).map fun i =>
    let lo := if i = 0 then a else (a / 64 + i) * 64
    (lo % 2 ^ 56, min (a + n) ((a / 64 + i + 1) * 64) - lo)

/-- Uncorrectable data is consumed by an engine (R421): the issuing firing is killed if it runs, and an ERROR event is
raised. -/
def State.engineConsume (s : State) (c : Cmd) (a : Word) : State :=
  let k := c.issuer.src
  let runs := decide (k < 2 ^ 20) && s.firingRuns k c.fid && s.ctxOf k = c.ctx
  let t := if runs then s.killFiring k 52 a else s
  (t.event c.ctx { kind := 1, pos := c.core } 7 0 1 (if runs then wordOfNat c.fid else 0) a
    (if runs then s.coord k else 0) 0 0).cxlError c.ctx a

/-- A read of `n` bytes of a context at their home that no slot or command makes, by a core's drover engine or for a landing: bytes
with an uncorrectable error raise an ERROR event and read as free values (R421, R437, log 12). -/
def State.unitRead (s : State) (ctx core : Nat) (t : TEntry) (a n : Nat) : List Byte × State :=
  if s.badAt t (dieOf core) a n then
    let s := (s.event ctx { kind := 1, pos := core } 7 0 1 0 (wordOfNat a) 0 0 0).cxlError ctx (wordOfNat a)
    ((List.range n).map fun i => Config.freeByte (s.free + i), { s with free := s.free + n })
  else (s.homeRead t (dieOf core) a n, s.fillRange t (dieOf core) a n)

/-- Reads bytes within one sector at their home; poisoned ones are consumed and read as free values (R421, log 12). -/
def Eng.sector (a n : Nat) (t : TEntry) : Eng (List Byte) := fun e =>
  let die := dieOf e.cmd.core
  if e.st.badAt t die a n then
    let s := e.st.engineConsume e.cmd (wordOfNat a)
    .ok ((List.range n).map fun i => Config.freeByte (s.free + i), { e with st := { s with free := s.free + n } })
  else .ok (e.st.homeRead t die a n, { e with st := e.st.fillRange t die a n })

/-- The bytes within one sector that the command has fetched before (R315), if it has. -/
def Cmd.fetchedAt (c : Cmd) (a n : Nat) : Option (List Byte) := (List.range n).mapM fun i => sfind c.fetched (a + i)

/-- Bytes kept from a key on, zeros too. -/
def keepBytes (m : Sparse Byte) : Nat → List Byte → Sparse Byte
  | _, [] => m
  | k, b :: bs => keepBytes (sset m k b) (k + 1) bs

/-- The sectors, by address / 64, that hold the bytes of a map: its keys rise. -/
def sectorsOf : Sparse Byte → List Nat
  | [] => []
  | b :: m => match sectorsOf m with
    | n :: ns => if n = b.1 / 64 then n :: ns else b.1 / 64 :: n :: ns
    | [] => [b.1 / 64]

/-- Fetches a sector that is there while another is waited for (R267, R315): a core holds at most 64 sectors. One that carries an
error, or that the PLB or its class refuses, is met when it is used. -/
def fetchSectorAs (k : EngAcc) (cls : Nat → Bool) (e : EngSt) (got : Sparse Byte) (x : Nat × Nat) : Sparse Byte :=
  match Eng.page x.1 k cls e with
  | .ok (t, _) =>
    let new := keepBytes got x.1 (e.st.homeRead t (dieOf e.cmd.core) x.1 x.2)
    if (e.cmd.fetchedAt x.1 x.2).isSome || decide (64 < (sectorsOf new).length) || e.st.badAt t (dieOf e.cmd.core) x.1 x.2 then got else new
  | .error _ => got

/-- Fetches a sector of a plain read. -/
def fetchSector (e : EngSt) (got : Sparse Byte) (x : Nat × Nat) : Sparse Byte := fetchSectorAs .read (fun _ => true) e got x

/-- Whether the translation of a sector that a command accesses is missing: one that the PLB refuses needs none. -/
def lacksAs (k : EngAcc) (cls : Nat → Bool) (e : EngSt) (a : Nat) : Bool :=
  match Eng.page a k cls e with
  | .error (.retry _ _) => true
  | _ => false

/-- Whether the translation of a sector that a command reads, and has not fetched, is missing. -/
def lacks (e : EngSt) (a : Nat) : Bool := (e.cmd.fetchedAt a 1).isNone && lacksAs .read (fun _ => true) e a

/-- The requests of a step, all made at once (R315): where the translation of one is missing, those that address other
sectors are served meanwhile. -/
def Eng.fetch (spans : List (Nat × Nat)) : Eng Unit := fun e =>
  let xs := spans.flatMap fun x => sectors x.1 x.2
  let missing := (xs.map (·.1)).filter (lacks e)
  if missing.isEmpty then .ok ((), e)
  else .error (.retry { missing, got := xs.foldl (fetchSector e) e.cmd.fetched, pins := e.cmd.pins } false)

/-- One of the accesses that a step makes: its kind, the classes that it admits, and the bytes. -/
structure Request where
  acc : EngAcc
  cls : Nat → Bool
  a   : Nat
  n   : Nat

/-- The requests of a step whose other accesses need what these bring, all made at once (R315): the reads that are there are fetched
while the translation of another is missing; `units` are sectors that the home itself reaches, beyond the command's rights. -/
def Eng.request (rs : List Request) (units : List Nat := []) : Eng Unit := fun e =>
  let part := fun (w : Bool) => (rs.filter fun r => r.acc.write == w).flatMap fun r => (sectors r.a r.n).map fun x => (r, x)
  let unread := (part false).filter fun y => (e.cmd.fetchedAt y.2.1 y.2.2).isNone
  let missing := (unread.filter fun y => lacksAs y.1.acc y.1.cls e y.2.1).map (·.2.1)
  let stores := ((part true).filter fun y => lacksAs y.1.acc y.1.cls e y.2.1).map (·.2.1) ++ units.filter fun a => (e.cmd.held e.st a).isNone
  if missing.isEmpty && stores.isEmpty then .ok ((), e)
  else .error (.retry { missing, got := unread.foldl (fun m y => fetchSectorAs y.1.acc y.1.cls e m y.2) e.cmd.fetched, pins := e.cmd.pins, stores } false)

/-- Reads `n` bytes from address `a` on, with a check of each sector (R267, R313): the requests for the sectors are made at once
(R315). -/
def Eng.readAs (k : EngAcc) (cls : Nat → Bool) (a n : Nat) : Eng (List Byte) := do
  if 64 < a % 64 + n then Eng.request [{ acc := k, cls, a, n }]
  (sectors a n).foldlM (fun acc x => do
    let c ← Eng.cmd
    match if c.fetched.isEmpty then none else c.fetchedAt x.1 x.2 with
    | some bs => return acc ++ bs
    | none =>
      let t ← Eng.page x.1 k cls
      let bs ← Eng.sector x.1 x.2 t
      return acc ++ bs) []

/-- Writes bytes from address `a` on, sector by sector, with a check of each (R263, R267, R313). -/
def Eng.writeAs (k : EngAcc) (cls : Nat → Bool) (a : Nat) (bs : List Byte) : Eng Unit := do
  let _ ← (sectors a bs.length).foldlM (fun (rest : List Byte) x => do
    let t ← Eng.page x.1 k cls
    let c ← Eng.cmd
    Eng.mod fun s => s.writeFor c.ctx t x.1 (rest.take x.2)
    return rest.drop x.2) bs

/-- The pieces of some writes that lie within one sector each, in order. -/
def writePieces (xs : List (Nat × List Byte)) : List (Nat × List Byte) :=
  xs.flatMap fun x => ((sectors x.1 x.2.length).foldl (fun (y : List (Nat × List Byte) × List Byte) p =>
    (y.1 ++ [(p.1, y.2.take p.2)], y.2.drop p.2)) ([], x.2)).1

/-- One of the pieces of a step that writes: made, and listed, or its address listed as one whose translation is missing. -/
def writePiece (y : EngSt × List Written × List Nat) (p : (Nat × List Byte) × Nat) : Except EngStop (EngSt × List Written × List Nat) :=
  match Eng.page p.1.1 .wr (fun _ => true) y.1 with
  | .ok (t, e) => .ok ({ e with st := e.st.writeFor e.cmd.ctx t p.1.1 p.1.2 },
      y.2.1 ++ [{ number := p.2, page := t, addr := p.1.1, bytes := p.1.2 }], y.2.2)
  | .error (.retry f _) => .ok (y.1, y.2.1, y.2.2 ++ f.missing)
  | .error x => .error x

/-- The writes of a step, each sector a request of its own (R315): those whose translation is there are made, each once, and the
step goes on when the others are. -/
def Eng.writeAll (xs : List (Nat × List Byte)) : Eng Unit := fun e =>
  match ((writePieces xs).zipIdx.filter fun p => !shas e.cmd.skip p.2).foldlM writePiece (e, [], []) with
  | .ok (e, ws, missing) => if missing.isEmpty then .ok ((), e) else .error (.later ws missing e.cmd.fetched)
  | .error x => .error x

/-- A plain engine read. -/
def Eng.read (a n : Nat) : Eng (List Byte) := Eng.readAs .read (fun _ => true) a n
/-- A plain engine write. -/
def Eng.write (a : Nat) (bs : List Byte) : Eng Unit := Eng.writeAs .wr (fun _ => true) a bs

/-- An address that a slice refused is looked up (R315): the walk is made at once, and the request is to be sent again after its
hint. A walk that faults goes to the package fault service, which makes the page present if it can (R263, R402); for a
page that the host owns a MIGRATION event is sent, once for a wait (R434). -/
def refuseAt (core : Nat) (write : Bool) (x : State × Cmd) (a : Nat) : State × Cmd :=
  let (s, c) := x
  if shas c.retries (a / 64) then x
  else
    let c' := { c with retries := sset c.retries (a / 64) (s.coreCycle core + Config.hintOf a * 64) }
    match s.walk (sliceOf core) a write with
    | .ok (_, t) => (t, c')
    | .error f =>
      match if f.reason = 0 then s.servePage c.ctx a none else .fails with
      | .done t => (t, c')
      | .stalls t => (t, { c' with waiting := true })
      | .fails =>
        (if s.hostOwned a && !c.waiting then s.hostOnly c.ctx { kind := 2, pos := serviceOf core } 12 0 (wordOfNat a) 0 0 else s,
          { c' with waiting := true })

/-- The sectors that a command has fetched besides those it had are in their home slices from then on (R179, R267). -/
def State.fillFetched (s : State) (core : Nat) (old got : Sparse Byte) : State :=
  (sectorsOf (got.filter fun b => !shas old b.1)).foldl (fun s n => match s.held (dieOf core) (64 * n) with
    | some t => s.fillL2 t (dieOf core) (64 * n)
    | none => s) s

/-- A step waits for translations (R315): each missing one is looked up, and what has been fetched is kept; the blocks whose
previous phase is being read are pinned (R277). -/
def State.refuseRemote (s : State) (g : EngSel) (c : Cmd) (f : Fetched) (write : Bool) : State :=
  let s := s.fillFetched c.core c.fetched f.got
  let s := (f.pins.filter fun x => !c.pins.contains x).foldl (fun s x => s.pinBlock c.core x true) s
  let (s, c) := f.missing.foldl (refuseAt g.core write) (s, { c with mid := true, fetched := f.got, pins := f.pins })
  let (s, c) := f.stores.foldl (refuseAt g.core true) (s, c)
  s.setCmd g c

/-- A step that writes waits for translations (R315): the pieces that are there have been written and are not written again, and what
it has fetched is kept. -/
def State.refuseWrites (s : State) (g : EngSel) (c : Cmd) (ws : List Written) (missing : List Nat) (got : Sparse Byte) : State :=
  (ws.foldl (fun s w => s.writeFor c.ctx w.page w.addr w.bytes) s).refuseRemote g
    { c with skip := ws.foldl (fun m w => sset m w.number 1) c.skip } { missing, got, pins := c.pins } true

/-- A command whose step has been made: nothing of it waits any more. What a copy has read ahead it keeps within its 4 KiB (R314,
R315). -/
def Cmd.stepped (c : Cmd) : Cmd :=
  { c with waiting := false, mid := false, pins := []
           fetched := if (c.tcw.engine = 1 || c.tcw.engine = 4) && c.prog % 4096 ≠ 0 then c.fetched else [] }

/-- What a step of the command `c` that has been stopped leaves of the state in which it began. -/
def State.stopStep (s : State) (g : EngSel) (c : Cmd) (x : EngStop) : State :=
  match x with
  | .status code e => e.st.finish g e.cmd code
  | .retry f write => s.refuseRemote g c f write
  | .later ws missing got => s.refuseWrites g c ws missing got
  | .hold => s

/-- One step of the command `c` that a selection names: none where it goes on, or the status it ends with. -/
def State.runStep (s : State) (g : EngSel) (c : Cmd) (step : Eng (Option Nat)) : State :=
  match step { st := s, cmd := c } with
  | .ok (none, e) => (e.st.endRead e.cmd).setCmd g e.cmd.stepped
  | .ok (some code, e) => e.st.finish g e.cmd code
  | .error x => s.stopStep g c x

/-- The step of a tile command: of the command that the state's selection names. -/
def runCmd (step : Eng (Option Nat)) (s : State) : Host.Outcome State Fault Refusal :=
  .next (match s.eng with
    | none => s
    | some g => match s.selCmd g with
      | none => s
      | some c => s.runStep g c step)

/-! ### The choice of the next command -/

/-- The effective priority of a command (R265). -/
def State.cmdPrio (s : State) (c : Cmd) : Nat := min 7 (c.tcw.hdr.prio.toNat + (s.coreCycle c.core - c.oldest) / 1024)

/-- The order of acceptance (R265): the cycle, local before remote, the lower slot. -/
def Cmd.rank (c : Cmd) : Nat × Nat × Nat :=
  match c.issuer with
  | .loc k => (c.accepted, 0, k)
  | .rem k => (c.accepted, 1, k)

/-- Whether one command was accepted before another. -/
def Cmd.before (c d : Cmd) : Bool :=
  let a := c.rank
  let b := d.rank
  decide (a.1 < b.1) || (a.1 == b.1 && (decide (a.2.1 < b.2.1) || (a.2.1 == b.2.1 && decide (a.2.2 < b.2.2))))

/-- The tiles that a command names (R266). -/
def Cmd.tiles (c : Cmd) : List Nat :=
  let pairOf := fun (a : BitVec 2) (p : Bool) => if p then [a.toNat, a.toNat + 1] else [a.toNat]
  match decodeTcw c.tcw with
  | some (.mmulF _ f) | some (.mmulT _ f) | some (.mouter _ f) | some (.mmulG _ f) => pairOf f.acc f.pair
  | some (.mzero _ m) => (List.range 4).filter fun t => m.toNat.testBit t
  | some (.mstore _ f) | some (.maccld _ f) => pairOf f.acc (f.pair || decide (64 < f.rows.toNat))
  | some (.mchk _ _ a p _) => pairOf a p
  | some (.mpatch _ a _ _ _) => [a.toNat]
  | some (.mgang _ _) => [0, 1, 2, 3]
  | some (.mres _ _ a rows) | some (.mscale _ _ a rows) => pairOf a (decide (64 < rows.toNat))
  | _ => []

/-- Whether a started command waits outside its engine: an MGANG until its gang forms (R287), an update until its blocks
are done (R347). -/
def State.parkedCmd (s : State) (c : Cmd) : Bool :=
  (c.started && c.tcw.eop == 0x0B && s.gangs.any fun w => w.core == c.core && w.issuer == c.issuer) ||
  (s.ruleRuns.any fun r => r.cmd.core == c.core && r.cmd.issuer == c.issuer && c.tcw.engine == 2)

/-- The slot and port that a stream of a core feeds, if it is bound (R235). -/
def State.streamPort (s : State) (core stream : Nat) : Option (Nat × Nat) :=
  firstOf (fun i => let k := 4 * core + i / 4
    let p := i % 4
    let b := (s.slot k).sbind
    if wbit b (4 * p + 3) && wbits b (4 * p + 1) (4 * p) = stream then some (k, p) else none) (List.range 16)

/-- The port into which a stream can deliver an element now: bound, enabled, with a free place (R236). -/
def State.canDeliver (s : State) (core stream : Nat) : Option (Nat × Nat) :=
  match s.streamPort core stream with
  | some (k, p) => if wbit (s.slot k).vctl (4 + p) && decide (((s.slot k).port p).length < 4) then some (k, p) else none
  | none => none

/-- Whether a command stands at a step boundary (R266, R311, R312, R382): products after each k-step, copies after each 4 KiB,
bulk after each 64 KiB, commons after each 16 cells; and no step has begun that waits for a translation. -/
def Cmd.atBoundary (c : Cmd) : Bool :=
  !c.mid && match c.tcw.engine with
  | 1 => c.prog % 4096 = 0 && c.skip.isEmpty
  | 4 => c.prog % 65536 = 0 && c.skip.isEmpty
  | 3 => c.prog % 16 = 0
  | _ => true

/-- Whether a command is one that writes several sectors in one step (R280, R282, R284, R382). -/
def Cmd.writes (c : Cmd) : Bool :=
  match decodeTcw c.tcw with
  | some (.mstore _ _) | some (.mres _ _ _ _) | some (.mchk _ _ _ _ _) | some (.gread _ _ _ _) => true
  | _ => false

/-- Whether a command can do nothing before a request is sent again (R315): a copy, and a command that writes several sectors, goes
on with other sectors. -/
def Cmd.blocked (c : Cmd) : Bool := !c.retries.isEmpty && c.tcw.engine ≠ 1 && c.tcw.engine ≠ 4 && !c.writes

/-- Whether a started command holds the tiles that it names (R266): a parked one does not, nor an MGANG whose gang has formed and
which has not begun to compute; that one waits until a paused command that has one of its tiles has completed (R287). -/
def State.holdsTiles (s : State) (c : Cmd) : Bool := !s.parkedCmd c && !(c.tcw.eop == 0x0B && !c.mid)

/-- The requests that wait to be sent again (R315), core by core, then the bulk engines: the command, the sector's address / 64
and the cycle. -/
def State.resends (s : State) : List (EngSel × Cmd × Nat × Nat) :=
  let ofCore : List (EngSel × Cmd) := s.cores.flatMap fun x => (List.range 4).flatMap fun e =>
    (x.2.started e).map fun c => ({ core := x.1, engine := e, issuer := c.issuer, bulk := none }, c)
  let ofBulk : List (EngSel × Cmd) := s.bulks.flatMap fun x =>
    x.2.map fun c => ({ core := c.core, engine := 4, issuer := c.issuer, bulk := some x.1 }, c)
  (ofCore ++ ofBulk).flatMap fun x => x.2.retries.map fun r => (x.1, x.2, r.1, r.2)

/-- A remote initiator sends a refused request again when its hint has passed (R315). -/
def execRetryAfterResend (k : Nat) (s : State) : Host.Outcome State Fault Refusal :=
  .next (match s.resends[k]? with
    | some (g, c, n, t) => if t ≤ s.coreCycle g.core then s.setCmd g { c with retries := sdel c.retries n } else s
    | none => s)

/-! ### Remote commands -/

/-- The fields of a capability (R220). -/
def capOk (secretCtx : Nat) (cap : Word) (target engine : Nat) : Bool :=
  wbits cap 63 48 = secretCtx && wbits cap 47 45 = 0 && wbits cap 39 29 = 0 && wbits cap 28 16 = target
  && decide (engine ≤ 4) && wbit cap (40 + engine)
  && Config.checkCode secretCtx (wbits cap 63 16) = cap.extractLsb' 0 16

/-- The command word that a SEND.C message carries in w0 to w3, laid out as a vector pair (R220). -/
def tcwOfMessage (ws : List Word) : Tcw := { q0 := ws.getD 0 0, q1 := ws.getD 1 0, q2 := ws.getD 2 0, q3 := ws.getD 3 0 }

/-- The remote command of a message (R288). -/
def State.remoteCmd (s : State) (f : Flight) : Cmd :=
  newCmd (tcwOfMessage f.msg.words) f.ticket (.rem f.msg.src) f.target f.ccont f.bwin f.msg.stage f.msg.fid f.msg.ctx (s.coreCycle f.target)

/-- The `k`th message on its way, a SEND.C, arrives (R206, R220, R288): refused at the interface or for its capability, put
into a remote entry, or left on its way while all four entries are occupied or its context is not resident. -/
def execRemoteCommandArrive (k : Nat) (s : State) : Host.Outcome State Fault Refusal :=
  .next (match s.toDest[k]? with
    | none => s
    | some f =>
      if destMode f.dest ≠ 2 || s.behind k f then s
      else if (s.ctx f.msg.ctx).caravans.contains (f.target / 8) && !s.present f.msg.ctx f.target then s
      else
        let s' := { s with toDest := s.toDest.eraseIdx k }
        let t := tcwOfMessage f.msg.words
        match s.arriveFault f with
        | some r => s'.refuse f { kind := 0, pos := f.target } r 0
        | none =>
          if !capOk f.msg.ctx (f.cap.getD 0) f.target t.engine then
            s'.event f.msg.ctx { kind := 0, pos := f.target } 2 28 0 (wordOfNat f.msg.fid) (f.cap.getD 0) (s.senderCoord f.msg.src)
              (f.msg.words.getD 0 0) 0
          else if 4 ≤ ((s.core f.target).remote t.engine).length then s
          else s'.modCore f.target fun c => { c with remotes := sset c.remotes t.engine (c.remote t.engine ++ [s.remoteCmd f]) })

/-! ### The bulk queue -/

/-- The bytes that a bulk command has still to write (R312). -/
def Cmd.bytesLeft (c : Cmd) : Nat :=
  match decodeTcw c.tcw with
  | some (.bcpy _ _ _ _ n _ _) | some (.bfill _ _ _ _ n) => n.toNat - c.prog
  | _ => 0

/-- The bulk engine that a command is forwarded to (R312): the one that holds a command of its issuer, else the one with
the fewest bytes outstanding, ties to the lowest number. -/
def State.bulkTarget (s : State) (c : Cmd) : Nat :=
  let base := 4 * dieOf c.core
  let bs := (List.range 4).map fun n => base + n
  match bs.find? fun b => (s.bulk b).any fun d => d.issuer == c.issuer with
  | some b => b
  | none =>
    let load := fun b => ((s.bulk b).map Cmd.bytesLeft).sum
    bs.foldl (fun best b => if load b < load best then b else best) base

/-- The command of a list that was accepted first. -/
def firstAccepted (cs : List Cmd) : Option Cmd :=
  cs.foldl (fun b c => match b with
    | none => some c
    | some d => if c.before d then some c else some d) none

/-- Whether a remote sender's bulk command waits in a remote entry of core `core` while an earlier one of that sender waits in one of
another core of the die: a bulk engine runs them in the order of their SENDs (R259, R288, R312). -/
def State.bulkAfter (s : State) (core : Nat) (c : Cmd) : Bool :=
  c.issuer.isRem && s.cores.any fun k => k.1 != core && dieOf k.1 == dieOf core &&
    (k.2.remote 4).any fun d => d.issuer == c.issuer && d.ticket != c.ticket && decide ((c.ticket - d.ticket).toNat < 2 ^ 31)

/-- The core's bulk queue forwards its oldest entry when the chosen engine has a free place (R258, R312). -/
def execBulkForward (core : Nat) (s : State) : Host.Outcome State Fault Refusal :=
  .next (match firstAccepted ((s.core core).queue 4 ++ (s.core core).remote 4) with
    | none => s
    | some c =>
      let b := s.bulkTarget c
      if 16 ≤ (s.bulk b).length || s.bulkAfter core c then s
      else
        let keep := fun (d : Cmd) => !(d.issuer == c.issuer && d.ticket == c.ticket)
        let s := s.modCore core fun k =>
          { k with queues := sset k.queues 4 ((k.queue 4).filter keep), remotes := sset k.remotes 4 ((k.remote 4).filter keep) }
        { s with bulks := sset s.bulks b (s.bulk b ++ [{ c with accepted := s.coreCycle core }]) })

end Sys2Proof.Machine
end

