-- ==== Sys2Proof/Machine/Vector.lean ====
section
/-!
DEFINITION. The meanings of the vector instructions that work on registers only (R242 to R253): lane
arithmetic, comparisons, logic, shifts, rearrangement, reduction, division, special functions,
conversions and moves between x and v.
-/

namespace Sys2Proof.Machine

/-! ### Shared lane operations -/

/-- A lane operation: `op` on a floating type, rounded once (R108); `int` on an integer type, wrapping (R90). -/
def laneOp (et : ElemTy) (op : Rm → FVal → FVal → FVal × Flags) (int : Nat → Nat → Nat) (rm : Rm) (a b : Nat) : Nat × Flags :=
  match fmtOf et with
  | some f => f.finish (op rm (f.value a) (f.value b)) rm false
  | none => (int a b % 2 ^ (8 * et.bytes), 0)

/-- All ones of a lane where a relation holds, else zero (R243). -/
def laneMask (et : ElemTy) (b : Bool) : Nat := if b then 2 ^ (8 * et.bytes) - 1 else 0

/-- A lane comparison: `rel` on a floating type with its flag rule, `int` on signed integers (R104, R243). -/
def laneCmp (et : ElemTy) (rel : FVal → FVal → Bool) (onlySig : Bool) (int : Int → Int → Bool) (_rm : Rm) (a b : Nat) : Nat × Flags :=
  match fmtOf et with
  | some f =>
    let x := f.value a
    let y := f.value b
    let nv := if onlySig then x.isSig || y.isSig else x.isNan || y.isNan
    (laneMask et (rel x y), Flags.when nv .nv)
  | none => (laneMask et (int (sextInt (8 * et.bytes) a) (sextInt (8 * et.bytes) b)), 0)

/-- The lesser of two lanes as signed integers. -/
def laneMinI (et : ElemTy) (a b : Nat) : Nat := if sextInt (8 * et.bytes) a ≤ sextInt (8 * et.bytes) b then a else b
/-- The greater of two lanes as signed integers. -/
def laneMaxI (et : ElemTy) (a b : Nat) : Nat := if sextInt (8 * et.bytes) b ≤ sextInt (8 * et.bytes) a then a else b

/-- VFMA's and VFNMA's lane: c plus or minus a x b, rounded once (R242). -/
def laneFma (et : ElemTy) (negate : Bool) (rm : Rm) (c a b : Nat) : Nat × Flags :=
  match fmtOf et with
  | some f =>
    let (p, fl) := (f.value a).mul (f.value b)
    let (r, fl') := FVal.add rm (f.value c) (if negate then p.negate else p)
    f.finish (r, fl ||| fl') rm false
  | none => (c, 0)

/-- The shift count of a lane: its low log2 of the lane's bits (R245). -/
def laneCount (et : ElemTy) (b : Nat) : Nat := b % (8 * et.bytes)

/-! ### Lane arithmetic (R242) -/

/-- VADD (R242). -/
def execVadd (et : ElemTy) (vd vs1 vs2 : VReg) (s : State) :=
  runSlot (Act.vec2 (.vadd et vd vs1 vs2) et.bytes vd vs1 vs2 (laneOp et FVal.add fun a b => a + b)) s
/-- VSUB (R242). -/
def execVsub (et : ElemTy) (vd vs1 vs2 : VReg) (s : State) :=
  runSlot (Act.vec2 (.vsub et vd vs1 vs2) et.bytes vd vs1 vs2
    (laneOp et (fun rm a b => FVal.add rm a b.negate) fun a b => a + 2 ^ (8 * et.bytes) - b)) s
/-- VMUL (R242). -/
def execVmul (et : ElemTy) (vd vs1 vs2 : VReg) (s : State) :=
  runSlot (Act.vec2 (.vmul et vd vs1 vs2) et.bytes vd vs1 vs2 (laneOp et (fun _ => FVal.mul) fun a b => a * b)) s
/-- VFMA (R242). -/
def execVfma (et : ElemTy) (vd vs1 vs2 : VReg) (s : State) :=
  runSlot (Act.vec3 (.vfma et vd vs1 vs2) et.bytes vd vs1 vs2 (laneFma et false)) s
/-- VFNMA (R242). -/
def execVfnma (et : ElemTy) (vd vs1 vs2 : VReg) (s : State) :=
  runSlot (Act.vec3 (.vfnma et vd vs1 vs2) et.bytes vd vs1 vs2 (laneFma et true)) s
/-- VMIN (R104, R242). -/
def execVmin (et : ElemTy) (vd vs1 vs2 : VReg) (s : State) :=
  runSlot (Act.vec2 (.vmin et vd vs1 vs2) et.bytes vd vs1 vs2 (laneOp et (fun _ => FVal.minNum) (laneMinI et))) s
/-- VMAX (R104, R242). -/
def execVmax (et : ElemTy) (vd vs1 vs2 : VReg) (s : State) :=
  runSlot (Act.vec2 (.vmax et vd vs1 vs2) et.bytes vd vs1 vs2 (laneOp et (fun _ => FVal.maxNum) (laneMaxI et))) s

/-! ### Comparisons, logic and shifts (R243 to R245) -/

/-- VCMPLT (R243). -/
def execVcmplt (et : ElemTy) (vd vs1 vs2 : VReg) (s : State) :=
  runSlot (Act.vec2 (.vcmplt et vd vs1 vs2) et.bytes vd vs1 vs2 (laneCmp et FVal.lt false fun a b => decide (a < b))) s
/-- VCMPLE (R243). -/
def execVcmple (et : ElemTy) (vd vs1 vs2 : VReg) (s : State) :=
  runSlot (Act.vec2 (.vcmple et vd vs1 vs2) et.bytes vd vs1 vs2
    (laneCmp et (fun a b => a.lt b || a.eq b) false fun a b => decide (a ≤ b))) s
/-- VCMPEQ (R243). -/
def execVcmpeq (et : ElemTy) (vd vs1 vs2 : VReg) (s : State) :=
  runSlot (Act.vec2 (.vcmpeq et vd vs1 vs2) et.bytes vd vs1 vs2 (laneCmp et FVal.eq true fun a b => decide (a = b))) s
/-- VAND (R244). -/
def execVand (vd vs1 vs2 : VReg) (s : State) :=
  runSlot (Act.vec (.vand vd vs1 vs2) vd [vs1, vs2] fun _ _ vs => (vs.getD 0 0 &&& vs.getD 1 0, 0)) s
/-- VOR (R244). -/
def execVor (vd vs1 vs2 : VReg) (s : State) :=
  runSlot (Act.vec (.vor vd vs1 vs2) vd [vs1, vs2] fun _ _ vs => (vs.getD 0 0 ||| vs.getD 1 0, 0)) s
/-- VXOR (R244). -/
def execVxor (vd vs1 vs2 : VReg) (s : State) :=
  runSlot (Act.vec (.vxor vd vs1 vs2) vd [vs1, vs2] fun _ _ vs => (vs.getD 0 0 ^^^ vs.getD 1 0, 0)) s
/-- VSHL (R245). -/
def execVshl (et : ElemTy) (vd vs1 vs2 : VReg) (s : State) :=
  runSlot (Act.vec2 (.vshl et vd vs1 vs2) et.bytes vd vs1 vs2
    fun _ a b => (a * 2 ^ laneCount et b % 2 ^ (8 * et.bytes), 0)) s
/-- VSHR (R245). -/
def execVshr (et : ElemTy) (vd vs1 vs2 : VReg) (s : State) :=
  runSlot (Act.vec2 (.vshr et vd vs1 vs2) et.bytes vd vs1 vs2 fun _ a b => (a / 2 ^ laneCount et b, 0)) s
/-- VSHRA (R245). -/
def execVshra (et : ElemTy) (vd vs1 vs2 : VReg) (s : State) :=
  runSlot (Act.vec2 (.vshra et vd vs1 vs2) et.bytes vd vs1 vs2
    fun _ a b => ((sextInt (8 * et.bytes) a / 2 ^ laneCount et b % 2 ^ (8 * et.bytes)).toNat, 0)) s

/-! ### Selection and rearrangement (R246) -/

/-- VSEL (R246): the old destination is the mask. -/
def execVsel (et : ElemTy) (vd vs1 vs2 : VReg) (s : State) :=
  runSlot (Act.vec3 (.vsel et vd vs1 vs2) et.bytes vd vs1 vs2
    fun _ m a b => (if 2 ^ (8 * et.bytes - 1) ≤ m then a else b, 0)) s
/-- VSHUF (R246). -/
def execVshuf (et : ElemTy) (vd vs1 vs2 : VReg) (s : State) :=
  runSlot (Act.vec (.vshuf et vd vs1 vs2) vd [vs1, vs2] fun _ _ vs =>
    (ofLanes et.bytes ((lanesOf et.bytes (vs.getD 1 0)).map fun j =>
      if j < et.lanes then laneOf et.bytes (vs.getD 0 0) j else 0), 0)) s
/-- VZIP (R246). -/
def execVzip (et : ElemTy) (vd vs1 vs2 : VReg) (s : State) :=
  runSlot (Act.vec (.vzip et vd vs1 vs2) vd [vs1, vs2] fun _ _ vs =>
    (ofLanes et.bytes ((List.range et.lanes).map fun i => laneOf et.bytes (vs.getD (i % 2) 0) (i / 2)), 0)) s
/-- VUNZIP (R246). -/
def execVunzip (et : ElemTy) (vd vs1 vs2 : VReg) (s : State) :=
  runSlot (Act.vec (.vunzip et vd vs1 vs2) vd [vs1, vs2] fun _ _ vs =>
    (ofLanes et.bytes ((List.range et.lanes).map fun i =>
      laneOf et.bytes (vs.getD (i / (et.lanes / 2)) 0) (2 * (i % (et.lanes / 2)))), 0)) s

/-! ### Reduction (R247) -/

/-- The exact sum of values, and its flags (R247): a NaN, or both infinities, or an infinity, or the sum, whose exact zero
is -0 when every addend is -0, and else signed by R115. -/
def exactSum (rm : Rm) (l : List FVal) : FVal × Flags :=
  if l.any FVal.isNan then (.nan false, Flags.when (l.any FVal.isSig) .nv)
  else if l.any (fun x => x.isInf && x.neg) && l.any (fun x => x.isInf && !x.neg) then (.nan false, .nv)
  else match l.find? FVal.isInf with
    | some x => (x, 0)
    | none =>
      if l.all fun x => x.isZero && x.neg then (.fin true 0 0, 0)
      else
        let t := l.foldl (fun a x => (FVal.add .rne a x).1) (.fin false 0 0)
        (if t.isZero then .fin (decide (rm = .rdn)) 0 0 else t, 0)

/-- The maximum or minimum of values with the flags of each pairing (R104). -/
def foldNum (op : FVal → FVal → FVal × Flags) : List FVal → FVal × Flags
  | [] => (.nan false, 0)
  | x :: l => l.foldl (fun a y => let r := op a.1 y; (r.1, a.2 ||| r.2)) (x, 0)

/-- The result of VRED in lane 0 (R247). -/
def redLane (et : ElemTy) (k : RedKind) (rm : Rm) (l : List Nat) : Nat × Flags :=
  match fmtOf et with
  | some f =>
    let vs := l.map f.value
    f.finish (match k with
      | .sum => exactSum rm vs
      | .max => foldNum FVal.maxNum vs
      | .min => foldNum FVal.minNum vs) rm false
  | none =>
    (match k with
      | .sum => l.foldl (· + ·) 0 % 2 ^ (8 * et.bytes)
      | .max => l.foldl (laneMaxI et) (l.headD 0)
      | .min => l.foldl (laneMinI et) (l.headD 0), 0)

/-- VRED (R247). -/
def execVred (et : ElemTy) (vd vs1 : VReg) (kind : RedKind) (s : State) :=
  runSlot (Act.vec (.vred et vd vs1 kind) vd [vs1] fun rm _ vs =>
    collect et.bytes [redLane et kind rm (lanesOf et.bytes (vs.getD 0 0))]) s

/-! ### Division and special functions (R248, R249) -/

/-- VDIV (R248). -/
def execVdiv (et : ElemTy) (vd vs1 vs2 : VReg) (s : State) :=
  runSlot (Act.vec2 (.vdiv et vd vs1 vs2) et.bytes vd vs1 vs2 (laneOp et (fun _ => FVal.div) fun a _ => a)) s
/-- VSF (R249). -/
def execVsf (et : ElemTy) (vd vs1 : VReg) (kind : SfKind) (s : State) :=
  runSlot (Act.vec (.vsf et vd vs1 kind) vd [vs1] fun rm _ vs =>
    collect et.bytes ((lanesOf et.bytes (vs.getD 0 0)).map fun a => laneOp et (fun _ x _ => sfApply kind x) (fun a _ => a) rm a 0)) s

/-! ### Conversions (R250 to R252) -/

/-- Convert of one lane (R251). -/
def convertLane (dst src : ElemTy) (rm : Rm) (ov : Bool) (b : Nat) : Nat × Flags :=
  match fmtOf src, fmtOf dst with
  | some f, some g => g.convert (f.value b) rm ov
  | some f, none => toInteger (8 * dst.bytes) (f.value b) rm
  | none, some g => g.round (.ofInt (sextInt (8 * src.bytes) b) 0) rm ov
  | none, none => intToInt (8 * dst.bytes) (sextInt (8 * src.bytes) b)

/-- VCVT (R250, R251): the lanes both types have in common; the rest of vd is cleared. -/
def execVcvt (dst src : ElemTy) (vd vs1 : VReg) (rm : Rm) (ov : Bool) (s : State) :=
  runSlot (Act.vec (.vcvt dst src vd vs1 rm ov) vd [vs1] fun _ _ vs =>
    collect dst.bytes (((lanesOf src.bytes (vs.getD 0 0)).take dst.lanes).map (convertLane dst src rm ov))) s

/-- The format of an FP8 kind. -/
def fp8Fmt : Fp8Kind → Fmt
  | .e4m3 => .e4m3
  | .e5m2 => .e5m2

/-- The format of the wide type of VCVT8. -/
def wideFmt : WideKind → Fmt
  | .bf16 => .bf16
  | .fp32 => .fp32

/-- VCVT8 to FP8 (R252): n bytes of vd from byte n x group are replaced, the others kept. -/
def execVcvt8ToFp8 (k : Fp8Kind) (w : WideKind) (vd vs1 : VReg) (group : BitVec 3) (rm : Rm) (ov : Bool) (s : State) :=
  runSlot (Act.vec (.vcvt8ToFp8 k w vd vs1 group rm ov) vd [vs1] fun _ old vs =>
    let n := w.elems
    let es := (lanesOf (16 / n) (vs.getD 0 0)).map fun b => (fp8Fmt k).convert ((wideFmt w).value b) rm ov
    (ofLanes 1 ((List.range 16).map fun i =>
      if n * group.toNat ≤ i ∧ i < n * group.toNat + n then (es.getD (i - n * group.toNat) (0, 0)).1 else laneOf 1 old i),
     es.foldl (fun f x => f ||| x.2) 0)) s

/-- VCVT8 from FP8 (R252): exact. -/
def execVcvt8FromFp8 (k : Fp8Kind) (w : WideKind) (vd vs1 : VReg) (group : BitVec 3) (s : State) :=
  runSlot (Act.vec (.vcvt8FromFp8 k w vd vs1 group) vd [vs1] fun _ _ vs =>
    let n := w.elems
    collect (16 / n) ((List.range n).map fun i =>
      (wideFmt w).convert ((fp8Fmt k).value (laneOf 1 (vs.getD 0 0) (n * group.toNat + i))) .rne false)) s

/-! ### Moves between x and v (R253) -/

/-- VINS (R253). -/
def execVins (et : ElemTy) (vd : VReg) (xs : Reg) (lane : BitVec 6) (s : State) :=
  runSlot (do
    let x ← Act.x xs
    Act.vec (.vins et vd xs lane) vd [] fun _ old _ => (setLaneOf et.bytes old lane.toNat x.toNat, 0)) s

/-- VEXT (R253): integer lanes sign-extended, floating lanes zero-extended; a bound port yields one element (R236). -/
def execVext (et : ElemTy) (xd : Reg) (vs1 : VReg) (lane : BitVec 6) (s : State) :=
  runSlot (do
    let v ← Act.v vs1.toNat
    let e := laneOf et.bytes v lane.toNat
    Act.modSlot fun sl => sl.popPorts [vs1.toNat]
    Act.setX xd (if et.isFloat then wordOfNat e else sext64 (8 * et.bytes) e)
    Act.next) s

/-- VBCAST (R253). -/
def execVbcast (et : ElemTy) (vd : VReg) (xs : Reg) (s : State) :=
  runSlot (do
    let x ← Act.x xs
    Act.vec (.vbcast et vd xs) vd [] fun _ _ _ => (ofLanes et.bytes (List.replicate et.lanes x.toNat), 0)) s

end Sys2Proof.Machine
end

