-- ==== Sys2Proof/Machine/Sums.lean ====
section
/-!
DEFINITION. The order of matrix sums (R111 to R120): operand formats, the path of an operand pair, group sums,
residue blocks, and the accumulation of a list of operands into one accumulator element.
-/

namespace Sys2Proof.Machine

/-- Operand formats of the matrix engine (R111). -/
inductive OpFmt where
  | fp (f : Fmt)
  | s8 | s4 | i8
  deriving DecidableEq, Repr

/-- An operand's format and block length, 0 for a plain one (R92). -/
structure Opnd where
  fmt : OpFmt
  bl  : Nat
  deriving DecidableEq, Repr

/-- The operand of a pointer whose tag is legal (R92, R95, R111); none for a format that is no operand. -/
def opndOf (p : Word) : Option Opnd :=
  let bl := 2 ^ (ptrBl p + 3)
  match ptrCode p with
  | 1 => some { fmt := .fp .fp64, bl := 0 }
  | 2 => some { fmt := .fp .fp32, bl := 0 }
  | 3 | 15 => some { fmt := .fp .bf16, bl := 0 }
  | 4 => some { fmt := .fp .fp16, bl := 0 }
  | 5 => some { fmt := .fp .e4m3, bl := 0 }
  | 6 => some { fmt := .fp .e5m2, bl := 0 }
  | 9 => some { fmt := .i8, bl := 0 }
  | 10 => some { fmt := .s8, bl }
  | 11 => some { fmt := .s4, bl }
  | 12 => some { fmt := .fp .e4m3, bl }
  | 13 => some { fmt := .fp .e5m2, bl }
  | _ => none

/-- Bits of an element of a format code in memory. -/
def memBits (code : Nat) : Nat :=
  match code with
  | 0 | 1 => 64
  | 2 | 7 | 15 => 32
  | 3 | 4 | 8 => 16
  | 11 => 4
  | _ => 8

/-- Bits of an operand element (R88, R92). -/
def OpFmt.bits : OpFmt → Nat
  | .fp f => f.bits
  | .s8 | .i8 => 8
  | .s4 => 4

/-- Kd of an operand format (R256). -/
def OpFmt.kd : OpFmt → Nat
  | .fp .fp64 | .fp .fp32 => 32
  | .fp .bf16 | .fp .fp16 => 64
  | .fp .e4m3 | .fp .e5m2 | .s8 | .i8 => 128
  | .s4 => 256

/-- The value of an operand element. -/
def OpFmt.val (f : OpFmt) (b : Nat) : FVal :=
  match f with
  | .fp f => f.value b
  | .s8 | .i8 => .ofInt (sextInt 8 b) 0
  | .s4 => .ofInt (sextInt 4 b) 0

/-- The integer of an operand element; 0 for a floating one. -/
def OpFmt.int (f : OpFmt) (b : Nat) : Int :=
  match f with
  | .fp _ => 0
  | .s8 | .i8 => sextInt 8 b
  | .s4 => sextInt 4 b

/-- The paths of R111. -/
inductive Path where
  | fma (f : Fmt)
  | g8 | g32 | res | int
  deriving DecidableEq, Repr

/-- Whether a format is an FP8 format. -/
def OpFmt.isFp8 (f : OpFmt) : Bool := f = .fp .e4m3 || f = .fp .e5m2

/-- The path of an operand pair; none where the pair is not accepted (R111). -/
def pathOf (a w : Opnd) : Option Path :=
  if a.fmt.isFp8 && w.fmt.isFp8 then
    if a.bl ≠ 0 && w.bl ≠ 0 && a.bl ≠ w.bl then none else some .g32
  else if a.fmt ≠ w.fmt || a.bl ≠ w.bl then none
  else match a.fmt with
    | .fp .fp64 => some (.fma .fp64)
    | .fp .fp32 => some (.fma .fp32)
    | .fp _ => some .g8
    | .s8 | .s4 => some .res
    | .i8 => some .int

/-- The accumulator format of a path. -/
def Path.is64 (p : Path) : Bool := p = .fma .fp64

/-- The lists of `n` elements into which a list falls; the last may be shorter. -/
def chunksOf {α : Type} (n : Nat) (l : List α) : List (List α) :=
  (List.range (ceilDiv l.length n)).map fun i => (l.drop (n * i)).take n

/-- The special values of a group sum (R114, R116): a NaN, both infinities, an infinity; none for finite products. -/
def groupSpecial (ps : List (FVal × Flags)) : Option (FVal × Flags) :=
  let fl := ps.foldl (fun f x => f ||| x.2) 0
  let vs := ps.map (·.1)
  if vs.any FVal.isNan then some (.nan false, fl)
  else if vs.any (fun x => x.isInf && x.neg) && vs.any (fun x => x.isInf && !x.neg) then some (.nan false, fl ||| .nv)
  else (vs.find? FVal.isInf).map fun x => (x, fl)

/-- The exponent of a value's leading bit. -/
def FVal.top : FVal → Int
  | .fin _ m e => e + Nat.log2 m
  | .nan _ | .inf _ => 0

/-- The signed multiple of 2^q that a finite value's magnitude truncates to. -/
def FVal.truncAt (x : FVal) (q : Int) : Int :=
  match x with
  | .fin n m e =>
    let k : Nat := if q ≤ e then m * 2 ^ (e - q).toNat else m / 2 ^ (q - e).toNat
    if n then -(k : Int) else k
  | .nan _ | .inf _ => 0

/-- GroupSum16 of exact products (R114). -/
def groupSum16 (ps : List (FVal × Flags)) : FVal × Flags :=
  match groupSpecial ps with
  | some r => r
  | none =>
    let vs := ps.map (·.1)
    let nz := vs.filter fun x => !x.isZero
    match nz with
    | [] => (.fin (vs.all FVal.neg) 0 0, 0)
    | x :: _ =>
      let q := nz.foldl (fun a y => max a y.top) x.top - 44
      let t := nz.foldl (fun a y => a + y.truncAt q) 0
      (if t = 0 then .fin false 0 0 else .ofInt t q, 0)

/-- A finite value times 2^k. -/
def FVal.shift (x : FVal) (k : Int) : FVal :=
  match x with
  | .fin n m e => .fin n m (e + k)
  | .inf n => .inf n
  | .nan s => .nan s

/-- The value of an element of a block with scale byte `sc`, the scale apart: 0xFF makes it a quiet NaN (R91). -/
def OpFmt.inBlock (f : OpFmt) (sc b : Nat) : FVal := if sc = 255 then .nan false else f.val b

/-- The group sum of up to 32 FP8 products with two scale bytes (R91, R116); the elements of a block whose scale byte is 0xFF
came in as quiet NaNs. -/
def groupSum32 (ps : List (FVal × Flags)) (ea eb : Nat) : FVal × Flags :=
  let fl := ps.foldl (fun f x => f ||| x.2) 0
  if ea = 255 || eb = 255 then (.nan false, fl)
  else match groupSpecial ps with
    | some r => r
    | none =>
      let vs := ps.map (·.1)
      let t := vs.foldl (fun a x => (FVal.add .rne a x).1) (.fin false 0 0)
      (if t.isZero then .fin (vs.all fun x => x.isZero && x.neg) 0 0 else t.shift ((ea : Int) + eb - 254), 0)

/-- An exact sum added to an FP32 accumulator and rounded (R114 to R117, R120). -/
def addAcc (rm : Rm) (ov : Bool) (acc : Nat) (s : FVal × Flags) : Nat × Flags :=
  let (r, fl) := FVal.add rm (Fmt.fp32.value acc) s.1
  Fmt.fp32.finish (r, fl ||| s.2) rm ov

/-- A running result with its flags, and one more step. -/
def thenFlags (x : Nat × Flags) (f : Nat → Nat × Flags) : Nat × Flags :=
  let y := f x.1
  (y.1, x.2 ||| y.2)

/-- The exact dot product of a residue block (R117). -/
def blockDot (fa fw : OpFmt) (l : List ((Nat × Nat) × (Nat × Nat))) : Int :=
  l.foldl (fun d x => d + fa.int x.1.1 * fw.int x.2.1) 0

/-- The dot product that the three channels of a block reconstruct (R117): the unique D in [-8,388,480, 8,388,479]. -/
def Residue.dot (r : Residue) : Int :=
  let m := 16776960
  let d := (r.c255 * 65792 * 128 + r.c256 * 65535 * 255 + r.c257 * 65280 * 129) % m
  if d ≤ 8388479 then d else (d : Int) - m

/-- Whether the checking channel agrees (R117). -/
def Residue.agrees (r : Residue) : Bool := r.dot % 251 = r.c251

/-- The channels of a block that a transient error strikes (R118, log 33). -/
def Residue.struck (r : Residue) (u : Upset) : Residue :=
  { r with c251 := (r.c251 + u.c251) % 251, c257 := (r.c257 + u.c257) % 257, c256 := (r.c256 + u.c256) % 256,
           c255 := (r.c255 + u.c255) % 255 }

/-- A residue block's sum added to the accumulator (R117). -/
def addBlock (rm : Rm) (ov : Bool) (acc : Nat) (d : Int) (ea eb : Nat) : Nat × Flags :=
  addAcc rm ov acc (if ea = 255 || eb = 255 then .nan false else .ofInt d ((ea : Int) + eb - 254), 0)

/-- The residue record of a block (R117, R282). -/
def residueOf (block : Nat) (d : Int) : Residue :=
  { block := block % 2 ^ 23, c251 := (d % 251).toNat, c257 := (d % 257).toNat, c256 := (d % 256).toNat, c255 := (d % 255).toNat }

/-- The accumulation of operands into one element (R113 to R119): each operand is its bits and its scale byte, in ascending
k; `bl` is the residue block length, which divides the list but for a last shorter block. -/
def accumulate (p : Path) (fa fw : OpFmt) (bl : Nat) (rm : Rm) (ov : Bool) (acc : Nat) (a w : List (Nat × Nat)) : Nat × Flags :=
  let l := a.zip w
  let prods := fun (g : List ((Nat × Nat) × (Nat × Nat))) => g.map fun x => (fa.val x.1.1).mul (fw.val x.2.1)
  match p with
  | .fma f =>
    l.foldl (fun s x => thenFlags s fun c => f.finish (FVal.fma rm (f.value c) (fa.val x.1.1) (fw.val x.2.1)) rm ov) (acc, 0)
  | .g8 => (chunksOf 8 l).foldl (fun s g => thenFlags s fun c => addAcc rm ov c (groupSum16 (prods g))) (acc, 0)
  | .g32 =>
    (chunksOf 32 l).foldl (fun s g => thenFlags s fun c =>
      addAcc rm ov c (groupSum32 (g.map fun x => (fa.inBlock x.1.2 x.1.1).mul (fw.inBlock x.2.2 x.2.1))
        ((g.head?.map (·.1.2)).getD 127) ((g.head?.map (·.2.2)).getD 127))) (acc, 0)
  | .res =>
    (chunksOf bl l).foldl (fun s g => thenFlags s fun c =>
      addBlock rm ov c (blockDot fa fw g) ((g.head?.map (·.1.2)).getD 127) ((g.head?.map (·.2.2)).getD 127)) (acc, 0)
  | .int => ((((sextInt 32 acc + blockDot fa fw l) % 2 ^ 32).toNat), 0)

end Sys2Proof.Machine
end

