-- ==== Sys2Proof/Machine/Copy.lean ====
section
/-!
DEFINITION. The copy engine and the bulk copy engines (chapter 12): one step moves one piece that lies within
one 64-byte sector of its destination and, where a barrier is named, sends its landing (R311 to R319, R323).
-/

namespace Sys2Proof.Machine

/-! ### Accesses -/

/-- Whether the engine reaches the local window: the issuing core's own copy engine, on a local command (R168, R313). -/
def Cmd.reachesWindow (c : Cmd) : Bool :=
  c.tcw.engine = 1 && match c.issuer with
    | .loc _ => true
    | .rem _ => false

/-- A copy or bulk read of `n` bytes, sector by sector, in memory or in the local store (R313), or as they were read ahead. -/
def Eng.take (a n : Nat) : Eng (List Byte) := do
  let c ← Eng.cmd
  (sectors a n).foldlM (fun acc x => do
    if inWindow x.1 && c.reachesWindow then
      let k ← Eng.core
      return acc ++ k.locBytes x.1 x.2
    else match if c.fetched.isEmpty then none else c.fetchedAt x.1 x.2 with
      | some bs => return acc ++ bs
      | none =>
        let t ← Eng.page x.1 .read fun _ => true
        let bs ← Eng.sector x.1 x.2 t
        return acc ++ bs) []

/-- The address of the barrier that a command names (R321). -/
def Cmd.barAddr (c : Cmd) (b : BarRef) : Nat := va (c.bwin + wordOfNat (16 * b.bar.toNat))

/-- The landing of bytes that a command writes (R323): on its way to the barrier, once they are performed at their homes. -/
def Cmd.landing (c : Cmd) (b : BarRef) (a n : Nat) (peer : Option Nat) : Landing :=
  { counts := b.bv, peer, bar := c.barAddr b, dst := a, bytes := n, core := c.core, engine := c.tcw.engine, issuer := c.issuer,
    ticket := c.ticket }

/-- Bytes written by a command land (R323). -/
def Eng.sendLanding (b : BarRef) (a n : Nat) : Eng Unit := do
  let c ← Eng.cmd
  if b.bv && n ≠ 0 then
    Eng.mod fun s => { s with landings := s.landings ++ [c.landing b a n none] }

/-- A copy or bulk write from address `a` on, sector by sector, each of which lands (R313, R318). -/
def Eng.put (b : BarRef) (a : Nat) (bs : List Byte) : Eng Unit := do
  let c ← Eng.cmd
  let _ ← (sectors a bs.length).foldlM (fun (rest : List Byte) x => do
    if inWindow x.1 && c.reachesWindow then
      Eng.mod fun s => s.putLoc c.core x.1 (rest.take x.2)
    else
      let t ← Eng.page x.1 .wr fun _ => true
      Eng.mod fun s => s.writeFor c.ctx t x.1 (rest.take x.2)
    Eng.sendLanding b x.1 x.2
    return rest.drop x.2) bs

/-! ### Barrier references -/

/-- The barrier reference of a command is checked before it has any effect (R319, R321): BARRIER where it resolves into a
class other than 0 or into a local window that the engine cannot reach; the engine needs the rights of a write. -/
def Eng.checkBar (b : BarRef) : Eng Unit := do
  let c ← Eng.cmd
  if b.bv && c.prog = 0 then
    let a := c.barAddr b
    if inWindow a then Eng.failIf (!c.reachesWindow) 32
    else
      let k ← Eng.core
      Eng.failIf (!((k.plbFind a).any fun p => wbit p 3 && wbit p 1)) 5
      let s ← Eng.st
      match c.held s a with
      | none => fun _ => .error (.retry { missing := [a], got := c.fetched, pins := c.pins } true)
      | some t => Eng.failIf (leafClass t.leaf ≠ 0) 32

/-- What every step of a copy or bulk command begins with: a landing that found BARRIER ends it (R319). -/
def Eng.beginCopy (b : BarRef) : Eng Cmd := do
  let c ← Eng.cmd
  Eng.failIf c.barFault 32
  Eng.checkBar b
  return c

/-- Progress over the pieces that are written, from `prog` on. -/
def pastSkip (prog : Nat) : Sparse Nat → Nat × Sparse Nat
  | [] => (prog, [])
  | (o, n) :: m => if o = prog then pastSkip (prog + n) m else (prog, (o, n) :: m)

/-- A command has written `n` bytes at offset `o`: all up to `prog`, and what lies beyond (R311, R315). -/
def Cmd.wrote (c : Cmd) (o n : Nat) : Cmd :=
  let (prog, skip) := pastSkip c.prog (sset c.skip o n)
  { c with prog, skip }

/-- What every step ends with: `n` more bytes are written at offset `o`; the command completes when all are written and have
landed, or, in another package, been performed (R263, R323). -/
def Eng.endCopy (b : BarRef) (total o n : Nat) (away : Bool := false) : Eng (Option Nat) := do
  let c ← Eng.cmd
  if n ≠ 0 then
    Eng.modCmd fun c => c.wrote o n
    return none
  else if c.prog < total ∨ ((b.bv ∨ away) ∧ c.landed < total) then Eng.hold
  else return some 0

/-- The length of the next piece: within a sector of the destination, within 4 KiB of progress, within what is left (R311). -/
def piece (dst prog left : Nat) : Nat := min (64 - dst % 64) (min (4096 - prog % 4096) left)

/-- The first of the next `fuel` pieces from offset `o` on that is not written yet and that no refused request holds up, within
the 4 KiB of the step (R311, R315): `len` gives the length of the piece at an offset, 0 at the end, and `act` writes it. A piece
that a slice refuses now ends the step. -/
def Eng.pieces (len : Nat → Nat) (act : Nat → Nat → Eng Unit) : Nat → Nat → Eng (Nat × Nat)
  | 0, _ => Eng.hold
  | fuel + 1, o => fun e =>
    let n := len o
    if n = 0 || o / 4096 ≠ e.cmd.prog / 4096 then .error .hold
    else match sfind e.cmd.skip o with
      | some m => Eng.pieces len act fuel (o + m) e
      | none => match act o n e with
        | .ok (_, e) => .ok ((o, n), e)
        | .error (.retry f w) =>
          if f.missing.all fun a => shas e.cmd.retries (a / 64) then Eng.pieces len act fuel (o + n) e
          else .error (.retry f w)
        | .error x => .error x

/-- The next `fuel` pieces from offset `o` on within a step of 4 KiB: offset and length (R311). -/
def piecesFrom (len : Nat → Nat) (step : Nat) : Nat → Nat → List (Nat × Nat)
  | 0, _ => []
  | fuel + 1, o => if len o = 0 || o / 4096 ≠ step then [] else (o, len o) :: piecesFrom len step fuel (o + len o)

/-- While the next piece waits, the reads of the later ones within the 4 KiB of the step proceed (R315): `src` gives the source
address of an offset. -/
def readAhead (e : EngSt) (f : Fetched) (src : Nat → Nat) (ps : List (Nat × Nat)) : Fetched :=
  let xs := (ps.flatMap fun p => sectors (src p.1) p.2).filter fun x => !inWindow x.1
  { f with missing := f.missing ++ (xs.map (·.1)).filter (lacks e), got := xs.foldl (fetchSector e) f.got }

/-- The next piece of a command that takes its source in order, with its offset and length: while a slice refuses it the reads of the
later ones proceed (R315). -/
def Eng.reading {α : Type} (len src : Nat → Nat) (act : Nat → Nat → Eng α) : Eng (α × Nat × Nat) := fun e =>
  let o := e.cmd.prog
  match act o (len o) e with
  | .ok (x, e) => .ok ((x, o, len o), e)
  | .error (.retry f w) => .error (.retry (readAhead e f src (piecesFrom len (o / 4096) 4096 (o + len o))) w)
  | .error x => .error x

/-- The next piece of a command that writes its destination in ascending order (R314): one that a slice refuses holds up the writes
of the later ones, not their reads (R315). -/
def Eng.inOrder (len src : Nat → Nat) (act : Nat → Nat → Eng Unit) : Eng (Nat × Nat) := do return (← Eng.reading len src act).2

/-- One step of a command that writes `total` bytes piece by piece, `next` being its next piece; once all are written it waits for
their landings. -/
def Eng.copyStep (b : BarRef) (total : Nat) (next : Eng (Nat × Nat)) (away : Bool := false) : Eng (Option Nat) := do
  let c ← Eng.cmd
  if total ≤ c.prog then Eng.endCopy b total 0 0 away
  else
    let (o, n) ← next
    Eng.endCopy b total o n away

/-- One step of a command whose pieces may be written in any order (R311, R315). -/
def Eng.anyOrder (b : BarRef) (total : Nat) (len : Nat → Nat) (act : Nat → Nat → Eng Unit) : Eng (Option Nat) :=
  Eng.copyStep b total (do let c ← Eng.cmd; Eng.pieces len act 4096 c.prog)

/-- The length of the piece at an offset of `total` bytes that go to consecutive addresses (R311). -/
def linearPiece (dst : Word) (total o : Nat) : Nat := piece ((va dst + o) % 2 ^ 56) o (total - o)

/-- The address at an offset from a pointer. -/
def offsetAddr (p : Word) (o : Nat) : Nat := (va p + o) % 2 ^ 56

/-- One step of a command that fills `total` bytes at consecutive addresses, its piece given by `get` (R318). -/
def Eng.linear (b : BarRef) (dst : Word) (total : Nat) (get : Nat → Nat → Eng (List Byte)) : Eng (Option Nat) :=
  Eng.anyOrder b total (linearPiece dst total) fun o n => do
    let bs ← get o n
    Eng.put b (offsetAddr dst o) bs

/-- One step of a command that copies `total` bytes (R314, R318): `len`, `src` and `dst` give the length, source and destination of
the piece at an offset. -/
def Eng.copy (b : BarRef) (total : Nat) (len src dst : Nat → Nat) : Eng (Option Nat) :=
  Eng.copyStep b total (Eng.inOrder len src fun o n => do
    let bs ← Eng.take (src o) n
    Eng.put b (dst o) bs)

/-- The bytes `[o, o + n)` of a pattern that repeats every 16 bytes; the pattern is read once (R318). -/
def Eng.pattern (pattern : Word) (o n : Nat) : Eng (List Byte) := do
  let c ← Eng.cmd
  let p ← match sfind c.part 0 with
    | some p => pure (bytesOfNat 16 p.toNat)
    | none => Eng.take (va pattern) 16
  Eng.modCmd fun c => { c with part := [(0, (natOfBytes p : Int))] }
  return (List.range n).map fun i => p.getD ((o + i) % 16) 0

/-! ### Copy commands -/

/-- CPY (R318): one piece. -/
def execCpy (_h : TcwHdr) (b : BarRef) (src dst : Word) (bytes : BitVec 40) (s : State) :=
  runCmd (do
    Eng.tag src
    Eng.tag dst
    let _ ← Eng.beginCopy b
    Eng.copy b bytes.toNat (linearPiece dst bytes.toNat) (offsetAddr src) (offsetAddr dst)) s

/-- FILL (R318, R319): one piece. -/
def execFill (_h : TcwHdr) (b : BarRef) (dst pattern : Word) (bytes : BitVec 40) (s : State) :=
  runCmd (do
    Eng.tag dst
    Eng.tag pattern
    Eng.failIf (va pattern % 16 ≠ 0) 4
    let _ ← Eng.beginCopy b
    Eng.linear b dst bytes.toNat (Eng.pattern pattern)) s

/-- CPY2D (R317 to R319): one piece of a row. -/
def execCpy2d (_h : TcwHdr) (b : BarRef) (f : Copy2F) (s : State) :=
  runCmd (do
    Eng.tag f.src
    Eng.tag f.dst
    Eng.failIf (f.rows = 0 || f.cols = 0) 4
    let _ ← Eng.beginCopy b
    let w := f.cols.toNat
    let total := f.rows.toNat * w
    let at_ := fun (p : Word) (stride p' : Nat) => (va p + p' / w * stride * 16 + p' % w) % 2 ^ 56
    Eng.copy b total (fun o => piece (at_ f.dst f.dstride.toNat o) o (min (w - o % w) (total - o))) (at_ f.src f.sstride.toNat)
      (at_ f.dst f.dstride.toNat)) s

/-- A count in which 0 stands for 256 (R317). -/
def or256 (n : Nat) : Nat := if n = 0 then 256 else n

/-- CPYT (R317 to R319): one element, +0 beyond the limits. -/
def execCpyt (_h : TcwHdr) (b : BarRef) (f : Copy2F) (s : State) :=
  runCmd (do
    Eng.tag f.src
    Eng.tag f.dst
    let code := ptrCode f.src
    Eng.failIf (code = 0 || decide (9 < code) || ptrCode f.dst ≠ code) 3
    let _ ← Eng.beginCopy b
    let z := memBits code / 8
    let cols := or256 f.cols.toNat
    let total := or256 f.rows.toNat * cols * z
    Eng.anyOrder b total (fun o => if o < total then z else 0) fun o _ => do
      let i := o / z / cols
      let j := o / z % cols
      let e ← if i < or256 f.rowlim.toNat ∧ j < or256 f.collim.toNat then
          Eng.take ((va f.src + i * f.sstride.toNat * 16 + j * z) % 2 ^ 56) z
        else pure (List.replicate z 0)
      Eng.put b ((va f.dst + j * f.dstride.toNat * 16 + i * z) % 2 ^ 56) e) s

/-- CPYS (R236, R318, R319): one 16-byte element enters the port's queue; it waits while the port cannot take it. -/
def execCpys (_h : TcwHdr) (b : BarRef) (src : Word) (bytes : BitVec 40) (stream : BitVec 2) (s : State) :=
  runCmd (do
    Eng.tag src
    let c0 ← Eng.cmd
    Eng.failIf (!c0.reachesWindow || bytes.toNat % 16 ≠ 0) 4
    let c ← Eng.beginCopy b
    if c.prog < bytes.toNat then
      let s ← Eng.st
      match s.canDeliver c.core stream.toNat with
      | none => Eng.hold
      | some (k, p) =>
        let (bs, _) ← Eng.reading (linearPiece src bytes.toNat) (offsetAddr src) fun o _ => Eng.take (offsetAddr src o) 16
        Eng.mod fun s => s.modSlot k fun sl => { sl with ports := sset sl.ports p (sl.port p ++ [vOfBytes bs]) }
        Eng.sendLanding b ((va src + c.prog) % 2 ^ 56) 16
    Eng.endCopy b bytes.toNat c.prog (if c.prog < bytes.toNat then 16 else 0)) s

/-- CPYG (R317 to R319): one gathered element. -/
def execCpyg (_h : TcwHdr) (b : BarRef) (index src dst : Word) (count : BitVec 8) (elembytes : BitVec 3) (s : State) :=
  runCmd (do
    Eng.tag index
    Eng.tag src
    Eng.tag dst
    let code := ptrCode index
    Eng.failIf (code ≠ 7 && code ≠ 8 && code ≠ 9) 3
    let _ ← Eng.beginCopy b
    let e := 2 ^ elembytes.toNat
    let z := memBits code / 8
    let total := or256 count.toNat * e
    Eng.anyOrder b total (fun o => if o < total then e else 0) fun o _ => do
      let ix ← Eng.take ((va index + o / e * z) % 2 ^ 56) z
      let bs ← Eng.take ((va src + natOfBytes ix * e) % 2 ^ 56) e
      Eng.put b ((va dst + o) % 2 ^ 56) bs) s

/-! ### Bulk commands -/

/-- A bulk command with a pointer in the local window gives RIGHTS before it has any effect (R313). -/
def Eng.noWindow (ps : List Word) : Eng Unit := Eng.failIf (ps.any fun p => inWindow (va p)) 5

/-- Whether a command's destination is another package (R317, R435). The rules do not say what a BCPY with remote = 1 does that names
the own package: it is a copy within the package (DESIGN CHOICE, log 38). -/
def State.otherPackage (s : State) (dpkg : BitVec 12) (remote : Bool) : Bool :=
  remote && !(s.pkg ≠ 0xFFF && dpkg.toNat = s.pkg)

/-- The checks of a remote destination (R319): SHAPE for the package id 0xFFF, FENCED for one that is fenced or to which
no route exists. -/
def Eng.checkRemote (dpkg : BitVec 12) (remote : Bool) : Eng Unit := do
  let s ← Eng.st
  Eng.failIf (remote && dpkg = 0xFFF) 4
  Eng.failIf (s.otherPackage dpkg remote && (s.fencedPkgs.contains dpkg.toNat || (s.portsTo dpkg.toNat).isEmpty)) 33

/-- Bytes go to another package over its link (R317, R435): the pointer is checked against the core's PLB (R312). They land once
the peer has performed them at their homes (R323), which is beyond this package. -/
def Eng.ship (b : BarRef) (a n peer : Nat) : Eng Unit := do
  let k ← Eng.core
  Eng.failIf (inWindow a || !((k.plbFind a).any fun p => wbit p 3 && wbit p 1)) 5
  let c ← Eng.cmd
  Eng.mod fun s => { s with landings := s.landings ++ [c.landing b a n (some peer)] }

/-- One step of BCPY (R312, R314, R318). -/
def Eng.bulkStep (b : BarRef) (src dst : Word) (total : Nat) (dpkg : BitVec 12) (remote : Bool) : Eng (Option Nat) := do
  let s ← Eng.st
  if s.otherPackage dpkg remote then
    Eng.copyStep b total (Eng.inOrder (linearPiece dst total) (offsetAddr src) fun o n => do
      let _ ← Eng.take (offsetAddr src o) n
      Eng.ship b (offsetAddr dst o) n dpkg.toNat) true
  else Eng.copy b total (linearPiece dst total) (offsetAddr src) (offsetAddr dst)

/-- BCPY (R312, R313, R318, R319): one piece. -/
def execBcpy (_h : TcwHdr) (b : BarRef) (src dst : Word) (bytes : BitVec 40) (dpkg : BitVec 12) (remote : Bool) (s : State) :=
  runCmd (do
    Eng.tag src
    Eng.tag dst
    Eng.checkRemote dpkg remote
    Eng.noWindow [src, dst]
    let _ ← Eng.beginCopy b
    Eng.bulkStep b src dst bytes.toNat dpkg remote) s

/-- BFILL (R312, R313, R318, R319): one piece. R317 gives it no package: its bits [63:40] of q3 are reserved (log 23). -/
def execBfill (_h : TcwHdr) (b : BarRef) (dst pattern : Word) (bytes : BitVec 40) (s : State) :=
  runCmd (do
    Eng.tag dst
    Eng.tag pattern
    Eng.failIf (va pattern % 16 ≠ 0) 4
    Eng.noWindow [dst, pattern]
    let _ ← Eng.beginCopy b
    Eng.linear b dst bytes.toNat (Eng.pattern pattern)) s

/-! ### Landings -/

/-- Whether a command is the one that a landing belongs to. -/
def Landing.of (l : Landing) (c : Cmd) : Bool := c.issuer == l.issuer && c.ticket == l.ticket && c.core == l.core

/-- The state with the command of a landing changed, if it has not completed. -/
def State.modLanded (s : State) (l : Landing) (f : Cmd → Cmd) : State :=
  let g := fun (cs : List Cmd) => cs.map fun c => if l.of c then f c else c
  if l.engine = 4 then { s with bulks := smap (fun _ cs => g cs) s.bulks }
  else s.modCore l.core fun k => { k with running := sset k.running l.engine (g (k.started l.engine)) }

/-- The site of a landing's barrier: the local store, or its page's translation, walked again if the home has lost it; or the
walk's fault. -/
def State.barOf (s : State) (l : Landing) : Except WalkFault (BarSite × State) :=
  if inWindow l.bar then .ok (.loc l.core, s)
  else (s.translate (sliceOf l.core) l.bar true).map fun x => (.page l.core x.1, x.2)

/-- The context of a landing. -/
def State.landingCtx (s : State) (l : Landing) : Nat := s.ctxOf (4 * l.core)

/-- The barrier of a landing as the landing reads it: one with an uncorrectable error, or behind a failed port, reads as free
values (R421, R437). -/
def State.landingBar (s : State) (l : Landing) (w : BarSite) : Bar × State :=
  match w with
  | .loc _ => (s.bar w l.bar, s)
  | .page c t =>
    let (bs, s) := s.unitRead (s.landingCtx l) c t l.bar 16
    (Bar.ofNat (natOfBytes bs), s)

/-- A landing takes its bytes from the barrier's pending-byte counter and checks for completion (R323). One that would take
the counter below -2^27 ends its command with BARRIER, and none of the command's later landings counts (R319). One whose barrier's
page cannot be translated waits for the package fault service (R263, R434). -/
def State.performLanding (s : State) (l : Landing) : State :=
  if !l.counts then s.modLanded l fun c => { c with landed := c.landed + l.bytes }
  else match s.barOf l with
  | .error f => { s with landings := s.landings ++ [l] }.serviced (80 + l.core) (s.landingCtx l) l.core l.bar f
  | .ok (w, s) =>
    let (b, s) := s.landingBar l w
    match b.land l.bytes with
    | some b => (s.barUpdate w l.bar b).modLanded l fun c => { c with landed := c.landed + l.bytes }
    | none =>
      let s := s.modLanded l fun c => { c with barFault := true }
      { s with landings := s.landings.filter fun m => !(m.core == l.core && m.engine == l.engine && m.issuer == l.issuer && m.ticket == l.ticket) }

/-- The `k`th landing on its way is performed at its barrier, once its bytes are performed at their homes (R323). -/
def execLanding (k : Nat) (s : State) : Host.Outcome State Fault Refusal :=
  .next (match s.landings[k]? with
    | none => s
    | some l => if l.peer.isSome then s else { s with landings := s.landings.eraseIdx k }.performLanding l)

/-- The bytes of the `k`th landing have been performed at the homes of the other package (R323). -/
def State.shipped (s : State) (k : Nat) : State :=
  match s.landings[k]? with
  | none => s
  | some l => { s with landings := s.landings.set k { l with peer := none } }

end Sys2Proof.Machine
end

