-- ==== Sys2Proof/Machine/Commons.lean ====
section
/-!
DEFINITION. The commons (chapter 17): cells, estimates and masses (R364, R368), the commons instructions
(R376 to R380), COMMONS.CFG (R365 to R367), the commons commands (R381 to R383), and the drover engines with
their exchanges and escrows (R369 to R375, R386, R387).
-/

namespace Sys2Proof.Machine

/-! ### Cells -/

/-- Whether an exact integer is an I64 (R368). -/
def inI64 (i : Int) : Bool := decide (-(2 ^ 63) ≤ i) && decide (i < 2 ^ 63)

/-- Word `i` of a cell's 32 words: 0 the weight, 1 the tag, 2 + i the values (R364). -/
def cellWord (ws : List Word) (i : Nat) : Word := ws.getD i 0

/-- The step tag of a cell (R364). -/
def cellTag (ws : List Word) : BitVec 32 := (cellWord ws 1).setWidth 32

/-- The words of the cell at an address, read at its home (R384). -/
def State.cellWords (s : State) (t : TEntry) (core a : Nat) : List Word := wordsOf 32 (s.homeRead t (dieOf core) a 256)

/-- The words of the cell at an address as a drover engine reads them (R384, R421, R437). -/
def State.unitCell (s : State) (ctx core : Nat) (t : TEntry) (a : Nat) : List Word × State :=
  let (bs, s) := s.unitRead ctx core t a 256
  (wordsOf 32 bs, s)

/-- Writes the words of a cell at its home, for a context. -/
def State.putCell (s : State) (ctx : Nat) (t : TEntry) (a : Nat) (ws : List Word) : State :=
  s.writeFor ctx t a (ws.flatMap fun w => bytesOfNat 8 w.toNat)

/-- The address of cell `n` of a region (R364). -/
def Region.cell (r : Region) (n : Nat) : Nat := (r.base + 256 * n) % 2 ^ 56

/-- The address of slot `k` of the spread record of cell `n` (R365). -/
def Region.spreadSlot (r : Region) (n k : Nat) : Nat := (r.spread + 64 * n + 8 * k) % 2 ^ 56

/-- The FP64 bits of +infinity. -/
def plusInf : Nat := 0x7FF0000000000000

/-- The estimate of a value word (R368), with the flags of its roundings. -/
def estimate (q : Nat) (w v : Word) : Nat × Flags :=
  let r := fun (x : FVal) => Fmt.fp64.round x .rne false
  let a := r (.ofInt v.toInt 0)
  let b := r (.ofInt w.toInt 0)
  let c := Fmt.fp64.finish (FVal.div (Fmt.fp64.value a.1) (Fmt.fp64.value b.1)) .rne false
  let d := r ((Fmt.fp64.value c.1).shift (-(q : Int)))
  (d.1, a.2 ||| b.2 ||| c.2 ||| d.2)

/-- The half that a packet carries for word `i` of its cell. -/
def packetHalf (p : Packet) (i : Nat) : Int := if i = 0 then p.hw.toInt else (p.hs.getD (i - 2) 0).toInt

/-- Every escrow that the package's drover engines hold, with its port. -/
def State.allEscrows (s : State) : List (Nat × Escrow) := s.ports.flatMap fun e => e.2.escrows.map fun x => (e.1, x)

/-- The mass of word `i` of cell `n` of region `rn` (R368). -/
def State.mass (s : State) (rn n : Nat) (ws : List Word) (i : Nat) : Int :=
  s.allEscrows.foldl (fun m e =>
    if e.2.pkt.region = rn ∧ e.2.pkt.cell = n ∧ e.2.pkt.tag = cellTag ws then m + packetHalf e.2.pkt i else m) (cellWord ws i).toInt

/-- The cell with an amount added to word `i`. -/
def addWord (ws : List Word) (i : Nat) (a : Int) : List Word := ws.set i (wordOfInt ((cellWord ws i).toInt + a))

/-- The region of a context that holds an address (R367). -/
def State.regionAt (s : State) (ctx a : Nat) : Option (Nat × Region) :=
  firstOf (fun e => if e.2.ctx = ctx ∧ e.2.base ≤ a ∧ a < e.2.base + 256 * e.2.ncell then some e else none) s.regions

/-- The state with a region changed. -/
def State.modRegion (s : State) (rn : Nat) (f : Region → Region) : State :=
  { s with regions := smap (fun k r => if k = rn then f r else r) s.regions }

/-- Counts one more in word `d` of a region's report (R365). -/
def Region.count (d n : Nat) (r : Region) : Region := { r with counters := sput 0 r.counters d (sget 0 r.counters d + wordOfNat n) }

/-- Every spread slot of cell `n` becomes +infinity (R366, R382). -/
def State.clearSpread (s : State) (r : Region) (n : Nat) : Except (Nat × WalkFault) State :=
  let a := r.spreadSlot n 0
  match s.translate (sliceOf r.core) a true with
  | .error f => .error (a, f)
  | .ok (t, s) => .ok (s.writeFor r.ctx t a ((List.replicate 8 (bytesOfNat 8 plusInf)).flatten))

/-! ### The exchange -/

/-- The halving of a cell (R369): what is kept and what is sent. -/
def halve (ws : List Word) (nval : Nat) : List Word × Word × List Word :=
  let half := fun i => wordOfInt ((cellWord ws i).toInt / 2)
  let idx := (List.range nval).map fun i => 2 + i
  let kept := (0 :: idx).foldl (fun c i => c.set i (cellWord ws i - half i)) ws
  (kept, half 0, idx.map half)

/-- Sends a packet through a port under the port's next sequence number (R369). -/
def State.sendPacket (s : State) (port : Nat) (p : Packet) : Packet × State :=
  let q := { p with seq := (s.port port).seqOut }
  (q, s.modPort port fun x => { x with seqOut := x.seqOut + 1, sentOut := x.sentOut ++ [q] })

/-- An exchange of a cell on port slot `k` (R369): the sequence number of the escrow, or none where nothing is exchanged. -/
def State.exchange (s : State) (rn : Nat) (r : Region) (n k : Nat) (t : TEntry) : Option (BitVec 32) × State :=
  let a := r.cell n
  let (ws, s) := s.unitCell r.ctx r.core t a
  if (cellWord ws 0).toInt < 2 then (none, s)
  else
    let (kept, hw, hs) := halve ws r.nval
    let port := r.ports.getD k 0
    let (p, s) := (s.putCell r.ctx t a kept).sendPacket port { region := rn, tag := cellTag ws, seq := 0, cell := n, hw, hs }
    let s := s.modPort port fun x => { x with escrows := x.escrows ++ [{ pkt := p, slot := k, state := .sent }] }
    (some p.seq, s.modRegion rn (Region.count 8 1))

/-- Whether a cell has an escrow outstanding on a port (R375, R380). -/
def Port.holds (p : Port) (rn n : Nat) : Bool := p.escrows.any fun e => e.pkt.region == rn && e.pkt.cell == n

/-- An escrow has been resolved: the slot whose GXCH waits for it completes (R371, R380), under the checker (R418, R420). -/
def State.escrowDone (s : State) (port : Nat) (seq : BitVec 32) : State :=
  s.slots.foldl (fun s e => if e.2.wait = .escrow port seq then s.retire e.1 else s) s

/-- An escrow leaves its port. -/
def State.dropEscrow (s : State) (port : Nat) (seq : BitVec 32) : State :=
  (s.modPort port fun p => { p with escrows := p.escrows.filter fun e => e.pkt.seq ≠ seq }).escrowDone port seq

/-- The escrow of a port with a sequence number changed. -/
def State.modEscrow (s : State) (port : Nat) (seq : BitVec 32) (f : Escrow → Escrow) : State :=
  s.modPort port fun p => { p with escrows := p.escrows.map fun e => if e.pkt.seq = seq then f e else e }

/-- The escrow of a port with a sequence number. -/
def State.escrow (s : State) (port : Nat) (seq : BitVec 32) : Option Escrow := (s.port port).escrows.find? fun e => e.pkt.seq == seq

/-! ### Commons instructions -/

/-- The word that a commons instruction names: its address, region, cell, word and translation. -/
structure CellRef where
  addr : Nat
  rn   : Nat
  reg  : Region
  n    : Nat
  word : Nat
  t    : TEntry

/-- The checks of a commons instruction (R367, R178): alignment, window, C right, translation, class, region, word. -/
def Act.cell (rs1 : Reg) (k : Acc) (wordOk : Region → Nat → Bool) : Act CellRef := do
  let a := va (← Act.x rs1)
  if a % 8 ≠ 0 then Act.trap 50 2
  if inWindow a then Act.trap 50 1
  let s ← get
  let c := coreOf s.cur
  if !((s.core c).plbFind a).any fun e => wbit e 4 then Act.trap k.cause (wordOfNat a)
  match s.translate (sliceOf c) a k.writes with
  | .error f => fun _ => .error (pageFault k a f)
  | .ok (t, s') =>
    Act.mod fun _ => s'
    if leafClass t.leaf ≠ 3 then Act.keep a k.writes (Act.trap 50 1)
    match s'.regionAt (s'.ctxOf s'.cur) a with
    | none => Act.keep a k.writes (Act.trap 50 1)
    | some (rn, reg) =>
      let word := (a - reg.base) % 256 / 8
      if !wordOk reg word then Act.keep a k.writes (Act.trap 50 2)
      let _ ← (fun s => (s.consume t c (a / 256 * 256) 256 k).map fun u => (u, s) : Act Unit)
      return { addr := a, rn, reg, n := (a - reg.base) / 256, word, t }

/-- The words of the cell that a commons instruction names. -/
def State.refWords (s : State) (r : CellRef) : List Word := s.cellWords r.t (coreOf s.cur) (r.addr / 256 * 256)

/-- Whether a word is a value word of a region (R364). -/
def valueWord (r : Region) (w : Nat) : Bool := decide (2 ≤ w) && decide (w < 2 + r.nval)

/-- A deposit (R376). -/
def Act.deposit (rs1 rs2 : Reg) (wordOk : Region → Nat → Bool) : Act Unit := do
  let r ← Act.cell rs1 .store wordOk
  let a := (← Act.x rs2).toInt
  let s ← get
  let ws := s.refWords r
  if !inI64 (s.mass r.rn r.n ws r.word + a) then Act.keep r.addr true (Act.trap 50 3)
  Act.mod fun s => s.putCell r.reg.ctx r.t (r.addr / 256 * 256) (addWord ws r.word a)
  Act.next

/-- GDEPX (R376). -/
def execGdepx (rs1 rs2 : Reg) (s : State) := runSlot (Act.deposit rs1 rs2 valueWord) s

/-- GDEPW (R376). -/
def execGdepw (rs1 rs2 : Reg) (s : State) := runSlot (Act.deposit rs1 rs2 fun _ w => w = 0) s

/-- GEST (R377). -/
def execGest (rd rs1 : Reg) (s : State) :=
  runSlot (do
    let r ← Act.cell rs1 .load valueWord
    let s ← get
    let ws := s.refWords r
    Act.setX rd (wordOfNat (estimate r.reg.q (cellWord ws 0) (cellWord ws r.word)).1)
    Act.next) s

/-- The maximumNumber of FP64 values, +infinity where none is a number (R370, R378). -/
def maxSpread (vs : List Nat) : Nat :=
  match vs.filter fun v => !(Fmt.fp64.value v).isNan with
  | [] => plusInf
  | v :: l => l.foldl (fun m x => (Fmt.fp64.round ((Fmt.fp64.value m).maxNum (Fmt.fp64.value x)).1 .rne false).1) v

/-- GSPREAD (R378): the greatest spread slot of the cell's ports, +infinity where the region has none. -/
def execGspread (rd rs1 : Reg) (s : State) :=
  runSlot (do
    let r ← Act.cell rs1 .load fun _ w => w = 0
    let s ← get
    let a := r.reg.spreadSlot r.n 0
    match s.translate (sliceOf (coreOf s.cur)) a false with
    | .error f => Act.keep r.addr false (fun _ => .error (pageFault .load a f) : Act Unit)
    | .ok (t, s') =>
      Act.mod fun _ => s'
      let c := coreOf s'.cur
      let n := 8 * r.reg.ports.length
      Act.keep r.addr false (fun s => (s.consume t c a n .load).map fun u => (u, s) : Act Unit)
      Act.mod fun s => s.fillRange t (dieOf c) a n
      let ws := wordsOf r.reg.ports.length (s'.homeRead t (dieOf c) a n)
      Act.setX rd (wordOfNat (maxSpread (ws.map (·.toNat))))
      Act.next) s

/-- GMASS (R379). -/
def execGmass (rd rs1 : Reg) (s : State) :=
  runSlot (do
    let r ← Act.cell rs1 .load fun g w => w = 0 || valueWord g w
    let s ← get
    Act.setX rd (wordOfInt (s.mass r.rn r.n (s.refWords r) r.word))
    Act.next) s

/-- GXCH (R380): the wait before its commit point; then the exchange, and the wait until the escrow is resolved. -/
def execGxch (rs1 rs2 : Reg) (s : State) :=
  runSlot (do
    let r ← Act.cell rs1 .store fun _ w => w = 0
    let k := (← Act.x rs2).toNat
    if r.reg.ports.length ≤ k then Act.keep r.addr true (Act.trap 50 4)
    let port := r.reg.ports.getD k 0
    let s ← get
    let p := s.port port
    if p.state = .down || p.state = .resync || p.holds r.rn r.n || decide (64 ≤ p.escrows.length) then
      Act.keep r.addr true Act.wait
    if p.state = .fenced || r.reg.removing then Act.next
    else
      let (e, s') := s.exchange r.rn r.reg r.n k r.t
      Act.mod fun _ => s'
      match e with
      | none => Act.next
      | some seq => Act.modSlot fun sl => { sl with wait := .escrow port seq }) s

/-! ### COMMONS.CFG -/

/-- The port slots that a descriptor lists (R365). -/
def descPorts (d : List Word) : List Nat :=
  let w := d.getD 2 0
  (List.range (wbits w 35 32)).map fun k => wbits w (4 * k + 3) (4 * k)

/-- Whether a region descriptor has a reserved bit set (R7, R365). -/
def descReserved (d : List Word) : Bool :=
  wbits (d.getD 1 0) 63 52 ≠ 0 || wbits (d.getD 2 0) 63 36 ≠ 0 || wbits (d.getD 3 0) 63 32 ≠ 0
  || d.getD 5 0 ≠ 0 || d.getD 6 0 ≠ 0 || d.getD 7 0 ≠ 0

/-- Whether a region descriptor is malformed: a reserved bit, a field out of range, an address that is not aligned, or a
port named twice (R365 to R367). -/
def descBad (d : List Word) : Bool :=
  let d1 := d.getD 1 0
  let d2 := d.getD 2 0
  descReserved d || wbits d1 51 50 = 3 || wbits d1 37 36 = 3 || decide (62 < wbits d1 35 30) || wbits d1 29 25 = 0
  || decide (30 < wbits d1 29 25) || wbits d1 24 0 = 0 || decide (2 ^ 24 < wbits d1 24 0)
  || decide (8 < wbits d2 35 32) || !decide (descPorts d).Nodup || va (d.getD 0 0) % 256 ≠ 0 || va (d.getD 4 0) % 64 ≠ 0

/-- The region that a descriptor defines, for a context and core (R365). -/
def descRegion (d : List Word) (ctx core : Nat) : Region :=
  let d1 := d.getD 1 0
  { ctx, base := va (d.getD 0 0), ncell := wbits d1 24 0, nval := wbits d1 29 25, q := wbits d1 35 30, mode := wbits d1 37 36,
    share := wbits d1 49 42, ports := descPorts d, spread := va (d.getD 4 0), counters := [], removing := false, core }

/-- Whether every page of `[a, a + n)` has a class and a right of the executing core's PLB (R366), with the accesses that have been
translated for it (R173); a page that cannot be translated parks the slot. -/
def Act.rangeOk (a n : Nat) (k : Acc) (cls : Nat) (right : Word → Bool) : Act (Bool × List (Nat × Bool)) := do
  let granules := (a + n - 1) / 65536 + 1 - a / 65536
  (List.range granules).foldlM (fun (r : Bool × List (Nat × Bool)) i => do
    let g := if i = 0 then a else (a / 65536 + i) * 65536
    if !r.1 then return r
    let s ← get
    if inWindow g || 2 ^ 56 ≤ g || !(((s.core (coreOf s.cur)).plbFind g).any right) then return (false, r.2)
    match s.translate (sliceOf (coreOf s.cur)) g k.writes with
    | .error f => Act.keepAll r.2 (fun _ => .error (pageFault k g f) : Act (Bool × List (Nat × Bool)))
    | .ok (t, s') =>
      Act.mod fun _ => s'
      return (leafClass t.leaf = cls, r.2 ++ [(g, k.writes)])) (true, [])

/-- Every cell and spread slot of a region takes its first value (R366). -/
def Act.initCells (r : Region) (tag : Nat) : Act Unit :=
  let cell := [(0 : Word), wordOfNat tag] ++ List.replicate 30 0
  (List.range r.ncell).forM fun n => do
    let s ← get
    match s.translate (sliceOf r.core) (r.cell n) true with
    | .error f => (fun _ => .error (pageFault .store (r.cell n) f) : Act Unit)
    | .ok (t, s') =>
      match (s'.putCell r.ctx t (r.cell n) cell).clearSpread r n with
      | .error (b, f) => (fun _ => .error (pageFault .store b f) : Act Unit)
      | .ok s' => Act.mod fun _ => s'

/-- A define (R366): its checks, then every cell and spread slot takes its first value. -/
def Act.define (d : List Word) (a : Nat) : Act Unit := do
  let s ← get
  let rn := wbits (d.getD 1 0) 41 38
  let r := descRegion d (s.ctxOf s.cur) (coreOf s.cur)
  let own ← Act.rangeOk a 128 .load 0 fun _ => true
  Act.keepAll own.2 do
    if shas s.regions rn || !own.1 then Act.trap 50 6
    if s.regions.any fun e => decide (r.base < e.2.base + 256 * e.2.ncell ∧ e.2.base < r.base + 256 * r.ncell) then Act.trap 50 6
    let cells ← Act.rangeOk r.base (256 * r.ncell) .store 3 fun e => wbit e 4
    Act.keepAll cells.2 do
      if !cells.1 then Act.trap 50 6
      let spread ← Act.rangeOk r.spread (64 * r.ncell) .store 0 fun e => wbit e 0 && wbit e 1
      Act.keepAll spread.2 do
        if !spread.1 then Act.trap 50 6
        Act.initCells r (wbits (d.getD 3 0) 31 0)
        Act.mod fun s => { s with regions := sset s.regions rn r,
                                  ports := r.ports.foldl (fun m p => sset m p { sget .reset m p with walk := sdel (sget .reset m p).walk rn }) s.ports }
        Act.next

/-- The report of a region, d8 to d15 (R365). -/
def Region.report (r : Region) : List Byte := (List.range 8).flatMap fun i => bytesOfNat 8 (sget 0 r.counters (8 + i)).toNat

/-- COMMONS.CFG (R366): a remove waits, with no exchange started, until no escrow of its region is outstanding. Where d8 to d15
cannot be written, a remove or report takes the fault of that store: R366 names none (log 46). -/
def Act.commonsCfg (i : Instr) (rs1 : Reg) : Act Unit := do
  Act.privileged i
  let a := va (← Act.x rs1)
  Act.released .package do
    if a % 128 ≠ 0 then Act.trap 4 (wordOfNat a)
    let before ← get
    let d := wordsOf 8 (← Act.loadRecord a 64)
    Act.kept before a 64 do
      if descBad d then Act.trap 50 5
      let op := wbits (d.getD 1 0) 51 50
      if op = 0 then Act.define d a
      else
        let s ← get
        let rn := wbits (d.getD 1 0) 41 38
        match sfind s.regions rn with
        | none => Act.trap 50 6
        | some r =>
          if r.ctx ≠ s.ctxOf s.cur then Act.trap 50 6
          if op = 1 && s.allEscrows.any (fun e => e.2.pkt.region == rn) then
            Act.mod fun s => s.modRegion rn fun r => { r with removing := true }
          else
            match s.writeHome (coreOf s.cur) (a + 64) r.report .store with
            | .error e => (fun _ => .error e : Act Unit)
            | .ok s' =>
              Act.mod fun _ => if op = 1 then { s' with regions := sdel s'.regions rn } else s'
              Act.next

/-- COMMONS.CFG with op 0, which defines a region (R366). -/
def execCommonsCfgDefine (rs1 : Reg) (s : State) := runSlot (Act.commonsCfg (.commonsCfgDefine rs1) rs1) s
/-- COMMONS.CFG with op 1, which removes a region (R366): the descriptor names the operation. -/
def execCommonsCfgRemove (rs1 : Reg) (s : State) := runSlot (Act.commonsCfg (.commonsCfgRemove rs1) rs1) s
/-- COMMONS.CFG with op 2, which reports on a region (R366): the descriptor names the operation. -/
def execCommonsCfgReport (rs1 : Reg) (s : State) := runSlot (Act.commonsCfg (.commonsCfgReport rs1) rs1) s

/-! ### Commons commands -/

/-- The access of a commons command to a cell (R383): E and C, class 3. -/
def EngAcc.cell : EngAcc := { write := true, needG := false, needC := true }

/-- The region and first cell of a cells range that lies wholly inside one region of the issuing context (R383). -/
def Eng.cellRange (cells : Word) (n : Nat) : Eng (Nat × Region × Nat) := do
  let s ← Eng.st
  let c ← Eng.cmd
  let a := va cells
  match s.regionAt c.ctx a with
  | none => Eng.status 49
  | some (rn, r) =>
    Eng.failIf ((a - r.base) % 256 ≠ 0 || decide (r.ncell < (a - r.base) / 256 + n)) 49
    return (rn, r, (a - r.base) / 256)

/-- The checks of GSEED, GDEP.R and GREAD (R382, R383): the region, the first cell, and the bytes of an element. -/
def Eng.cellCheck (cells data : Word) (n : Nat) : Eng (Nat × Region × Nat × Nat) := do
  Eng.tag cells
  Eng.tag data
  let code := ptrCode data
  Eng.failIf (ptrCode cells ≠ 0 || decide (2 < code)) 3
  let (rn, r, first) ← Eng.cellRange cells n
  return (rn, r, first, if code = 2 then 4 else 8)

/-- The value of a source element as an amount (R382): an I64, or x times `scale` times 2^q, rounded once. -/
def Eng.amount (h : TcwHdr) (code q : Nat) (scale : Int) (bits : Nat) : Eng Int := do
  if code = 0 then return sextInt 64 bits
  let f := if code = 1 then Fmt.fp64 else Fmt.fp32
  let (p, g) := FVal.mul (f.value bits) (.ofInt scale 0)
  let r := toInteger 64 (p.shift q) h.rm
  Eng.flag (g ||| r.2)
  return sextInt 64 r.1

/-- The request for a commons cell. -/
def Request.cell (a : Nat) : Request := { acc := .cell, cls := fun _ => true, a, n := 1 }

/-- The request for the source elements of cell `j` of a command. -/
def Request.elements (data : Word) (z j nval : Nat) : Request :=
  { acc := .read, cls := fun _ => true, a := (va data + j * nval * z) % 2 ^ 56, n := nval * z }

/-- The source elements of cell `j` of a command. -/
def Eng.elements (data : Word) (z j nval : Nat) : Eng (List Nat) := do
  let bs ← Eng.read ((va data + j * nval * z) % 2 ^ 56) (nval * z)
  return (List.range nval).map fun i => natOfBytes ((bs.drop (z * i)).take z)

/-- Ends the step of one cell: `code` is the status when it was the last. -/
def Eng.endCell (n code : Nat) : Eng (Option Nat) := do
  let c ← Eng.cmd
  if c.prog + 1 < n then
    Eng.modCmd fun c => { c with prog := c.prog + 1 }
    return none
  return some code

/-- GSEED (R382): one cell. -/
def execGseed (h : TcwHdr) (cells src : Word) (ncells : BitVec 24) (steptag w0 : BitVec 32) (s : State) :=
  runCmd (do
    let n := ncells.toNat + 1
    let (_, r, first, z) ← Eng.cellCheck cells src n
    Eng.failIf (w0 = 0) 4
    let c ← Eng.cmd
    let a := r.cell (first + c.prog)
    Eng.request [.cell a, Request.elements src z c.prog r.nval] [r.spreadSlot (first + c.prog) 0]
    let t ← Eng.page a .cell fun _ => true
    let xs ← Eng.elements src z c.prog r.nval
    let vs ← xs.mapM (Eng.amount h (ptrCode src) r.q w0.toNat)
    let s ← Eng.st
    let ws := s.cellWords t c.core a
    let ws := (ws.set 0 (w0.setWidth 64)).set 1 (wordOfNat steptag.toNat)
    let ws := (List.range r.nval).foldl (fun ws i => ws.set (2 + i) (wordOfInt (vs.getD i 0))) ws
    match (s.putCell r.ctx t a ws).clearSpread r (first + c.prog) with
    | .error (b, _) => fun e => .error (.retry { missing := [b], got := e.cmd.fetched, pins := e.cmd.pins } true)
    | .ok s' =>
      Eng.mod fun _ => s'
      Eng.endCell n 0) s

/-- GDEP.R (R382): one cell, left whole where a mass would leave the I64 range. -/
def execGdepR (h : TcwHdr) (cells src : Word) (ncells : BitVec 24) (dw : Word) (s : State) :=
  runCmd (do
    let n := ncells.toNat + 1
    let (rn, r, first, z) ← Eng.cellCheck cells src n
    let c ← Eng.cmd
    let a := r.cell (first + c.prog)
    Eng.request [.cell a, Request.elements src z c.prog r.nval]
    let t ← Eng.page a .cell fun _ => true
    let xs ← Eng.elements src z c.prog r.nval
    let vs ← xs.mapM (Eng.amount h (ptrCode src) r.q dw.toInt)
    let ws := wordsOf 32 (← Eng.sector a 256 t)
    let s ← Eng.st
    let adds := (0, dw.toInt) :: (List.range r.nval).map fun i => (2 + i, vs.getD i 0)
    if adds.all fun x => inI64 (s.mass rn (first + c.prog) ws x.1 + x.2) then
      Eng.mod fun s => s.putCell r.ctx t a (adds.foldl (fun ws x => addWord ws x.1 x.2) ws)
    else Eng.modCmd fun c => { c with part := [(0, 1)] }
    let c ← Eng.cmd
    Eng.endCell n (if c.part.isEmpty then 0 else 48)) s

/-- GREAD (R382): one cell, read in one operation; its destination sectors are written as their translations are there (R315). -/
def execGread (h : TcwHdr) (cells dst : Word) (ncells : BitVec 24) (s : State) :=
  runCmd (do
    let n := ncells.toNat + 1
    let (_, r, first, z) ← Eng.cellCheck cells dst n
    let c ← Eng.cmd
    let a := r.cell (first + c.prog)
    let raw ← match if c.fetched.isEmpty then none else c.fetchedAt a 256 with
      | some bs => pure bs
      | none => do
        let t ← Eng.page a .cell fun _ => true
        Eng.sector a 256 t
    Eng.modCmd fun c => { c with fetched := keepBytes [] a raw }
    let ws := wordsOf 32 raw
    if ptrCode dst = 0 then Eng.writeAll [((va dst + 256 * c.prog) % 2 ^ 56, raw)]
    else
      let es ← (List.range r.nval).mapM fun i => do
        let e := estimate r.q (cellWord ws 0) (cellWord ws (2 + i))
        Eng.flag e.2
        if z = 8 then pure (bytesOfNat 8 e.1)
        else
          let f := Fmt.fp32.convert (Fmt.fp64.value e.1) h.rm h.ov
          Eng.flag f.2
          pure (bytesOfNat 4 f.1)
      Eng.writeAll [((va dst + c.prog * r.nval * z) % 2 ^ 56, es.flatten)]
    Eng.modCmd fun c => { c with skip := [] }
    Eng.endCell n 0) s

/-- GPACE (R382, R383): SHAPE where a reserved bit of the descriptor is not zero (R7, R365). -/
def execGpace (_h : TcwHdr) (region : Word) (mode : BitVec 2) (share : BitVec 8) (s : State) :=
  runCmd (do
    Eng.tag region
    Eng.failIf (mode = 3) 4
    let d := wordsOf 8 (← Eng.read (va region) 64)
    Eng.failIf (descReserved d) 4
    let rn := wbits (d.getD 1 0) 41 38
    let s ← Eng.st
    let c ← Eng.cmd
    match sfind s.regions rn with
    | none => Eng.status 49
    | some r =>
      Eng.failIf (r.ctx ≠ c.ctx) 49
      Eng.mod fun s => s.modRegion rn fun r => { r with mode := mode.toNat, share := share.toNat }
      return some 0) s

/-! ### Drover engines -/

/-- The translation with which a drover engine's request is served at its home: none where the slice refuses it, or it is still to be
sent again (R315). -/
def State.unitPage (s : State) (port core a : Nat) : Option TEntry := if s.unitWaits port a then none else s.held (dieOf core) a

/-- The slice refuses a drover engine's request (R315): the walk is made at once, and the request is to be sent again after its hint.
A walk that faults goes to the package fault service (R263, R434). -/
def State.unitRefused (s : State) (port ctx core a : Nat) : State :=
  if s.unitWaits port a then s
  else
    let live := s.hints.filter fun h => decide (s.cycle < h.2.2)
    let s := { s with hints := live ++ [(port, a / 64, s.cycle + Config.hintOf a * 64)] }
    match s.walk (sliceOf core) a true with
    | .ok (_, t) => t
    | .error f => s.serviced port ctx core a f

/-- A drover engine starts the next exchange of its walk of a region (R375): it pauses while the port is not up or holds
64 escrows, and skips a cell with w < 2 or an escrow outstanding on the port. -/
def execDroverExchange (port region : Nat) (s : State) : Host.Outcome State Fault Refusal :=
  .next (match sfind s.regions region with
    | none => s
    | some r =>
      let p := s.port port
      match r.ports.findIdx? (· == port) with
      | none => s
      | some k =>
        if r.mode = 2 || r.removing || p.state ≠ .up || decide (64 ≤ p.escrows.length) then s
        else
          let n := sget 0 p.walk region
          let s' := s.modPort port fun p => { p with walk := sput 0 p.walk region (if n + 1 < r.ncell then n + 1 else 0) }
          if p.holds region n then s'
          else match s.unitPage port r.core (r.cell n) with
            | none => s.unitRefused port r.ctx r.core (r.cell n)
            | some t => (s'.exchange region r n k t).2)

/-- The sequence number and the map of what has been applied, after one more packet of a port (R370, R372). -/
def Port.record (p : Port) (seq : BitVec 32) (applied : Bool) : Port :=
  let d := (seq - p.lastIn).toNat
  { p with lastIn := seq, appliedIn := (if d < 64 then p.appliedIn <<< d else 0) ||| if applied then 1 else 0 }

/-- The word of a region's report in which a refusal counts (R365). -/
def replyCounter : Reply → Nat
  | .applied => 9
  | .stale => 10
  | .early => 11
  | .overflow => 12

/-- The answer to a packet at its cell (R370). -/
def State.packetReply (s : State) (p : Packet) (r : Region) (ws : List Word) : Reply :=
  let d := (p.tag - cellTag ws).toNat
  if 2 ^ 31 ≤ d then .stale
  else if d ≠ 0 then .early
  else if (0 :: (List.range r.nval).map (2 + ·)).all fun i => inI64 (s.mass p.region p.cell ws i + packetHalf p i) then .applied
  else .overflow

/-- The spread of a packet against its cell (R370). -/
def spreadOf (p : Packet) (r : Region) (ws : List Word) : Nat :=
  maxSpread ((List.range r.nval).map fun i =>
    let e := (estimate r.q (cellWord ws 0) (cellWord ws (2 + i))).1
    let x := (estimate r.q p.hw (p.hs.getD i 0)).1
    (Fmt.fp64.round (FVal.add .rne (Fmt.fp64.value e) (Fmt.fp64.value x).negate).1 .rne false).1 % 2 ^ 63)

/-- A packet is applied to its cell in one operation (R370): the spread slot of the arriving port, if one names it, and the
halves added. Where the request for the slot is refused nothing is done: its address. -/
def State.applyPacket (s : State) (port : Nat) (p : Packet) (r : Region) (t : TEntry) (ws : List Word) : Except Nat State :=
  let added := (0 :: (List.range r.nval).map (2 + ·)).foldl (fun c i => addWord c i (packetHalf p i)) ws
  match r.ports.findIdx? (· == port) with
  | none => .ok (s.putCell r.ctx t (r.cell p.cell) added)
  | some k =>
    let a := r.spreadSlot p.cell k
    match s.unitPage port r.core a with
    | none => .error a
    | some u => .ok ((s.writeFor r.ctx u a (bytesOfNat 8 (spreadOf p r ws))).putCell r.ctx t (r.cell p.cell) added)

/-- The reply to a packet is sent, and the packet recorded (R370, R372). -/
def State.answer (s : State) (port : Nat) (p : Packet) (r : Reply) : State :=
  s.modPort port fun x => { x.record p.seq (decide (r = .applied)) with replies := x.replies ++ [(p.seq, r)] }

/-- A packet is processed at its cell (R370): the reply, with the state in which it is applied; or, where a request is refused, the
region and the address. -/
def State.packet (s : State) (port : Nat) (p : Packet) : Except (Region × Nat) State :=
  match sfind s.regions p.region with
  | none => .ok (s.answer port p .stale)
  | some r =>
    if r.ncell ≤ p.cell then .ok ((s.modRegion p.region (Region.count 10 1)).answer port p .stale)
    else match s.unitPage port r.core (r.cell p.cell) with
      | none => .error (r, r.cell p.cell)
      | some t =>
        let (ws, s) := s.unitCell r.ctx r.core t (r.cell p.cell)
        let reply := s.packetReply p r ws
        match if reply = .applied then s.applyPacket port p r t ws else .ok s with
        | .error a => .error (r, a)
        | .ok s => .ok ((s.modRegion p.region (Region.count (replyCounter reply) 1)).answer port p reply)

/-- A drover engine goes on with the oldest packet that has arrived at its port (R370): one whose request is refused waits (R263,
R315). One of a port that is not up is not processed (R373, R387). -/
def State.nextPacket (s : State) (port : Nat) : State :=
  match (s.port port).arrived with
  | [] => s
  | p :: rest =>
    if (s.port port).state ≠ .up then s
    else match (s.modPort port fun x => { x with arrived := rest }).packet port p with
      | .ok t => t
      | .error (r, a) => s.unitRefused port r.ctx r.core a

/-- A packet arrives at a port (R370, R373): one of a port that is not up is not processed; an earlier one that still waits
goes first. -/
def execDroverPacketReceive (port : Nat) (p : Packet) (s : State) : Host.Outcome State Fault Refusal :=
  .next (if (s.port port).state ≠ .up then s
    else (s.modPort port fun x => { x with arrived := x.arrived ++ [p] }).nextPacket port)

/-- A reply resolves an escrow (R371, R386). -/
def State.resolve (s : State) (port : Nat) (seq : BitVec 32) (r : Reply) : State :=
  match r with
  | .applied => s.dropEscrow port seq
  | .stale | .overflow => s.modEscrow port seq fun e => { e with state := .returning 0 }
  | .early => s.modEscrow port seq fun e => { e with state := .waiting (s.cycle + 1024) }

/-- The reply to a packet arrives (R371): it resolves the escrow that waits for it. -/
def execEscrowResolve (port : Nat) (seq : BitVec 32) (r : Reply) (s : State) : Host.Outcome State Fault Refusal :=
  .next (match s.escrow port seq with
    | none => s
    | some e => if e.state = .sent ∧ (s.port port).state = .up then s.resolve port seq r else s)

/-- An escrow returns to its cell (R371, R373): the halves are added back where the tags agree, else it is discarded;
d13 counts a return, d15 one that was in doubt, d14 a discard. -/
def execEscrowReturn (port : Nat) (seq : BitVec 32) (s : State) : Host.Outcome State Fault Refusal :=
  .next (match s.escrow port seq with
    | none => s
    | some e =>
      match e.state, sfind s.regions e.pkt.region with
      | .returning k, some r =>
        match s.unitPage port r.core (r.cell e.pkt.cell) with
        | none => s.unitRefused port r.ctx r.core (r.cell e.pkt.cell)
        | some t =>
          let a := r.cell e.pkt.cell
          let (ws, s') := s.unitCell r.ctx r.core t a
          let same := cellTag ws = e.pkt.tag
          let s' := s'.dropEscrow port seq
          let s' := if same then
              s'.putCell r.ctx t a ((0 :: (List.range r.nval).map (2 + ·)).foldl (fun c i => addWord c i (packetHalf e.pkt i)) ws)
            else s'.modRegion e.pkt.region (Region.count 14 1)
          if k ≠ 0 then s'.modRegion e.pkt.region (Region.count 15 1)
          else if same then s'.modRegion e.pkt.region (Region.count 13 1) else s'
      | _, _ => s)

/-- An escrow that was early is sent again under a new sequence number (R371, R386). -/
def execEscrowEarlyResend (port : Nat) (seq : BitVec 32) (s : State) : Host.Outcome State Fault Refusal :=
  .next (match s.escrow port seq with
    | none => s
    | some e =>
      match e.state with
      | .waiting due =>
        if s.cycle < due ∨ (s.port port).state ≠ .up then s
        else
          let (p, s') := s.sendPacket port e.pkt
          let s' := s'.modEscrow port seq fun e => { e with pkt := p, state := .sent }
          { s' with slots := smap (fun _ sl => if sl.wait = .escrow port seq then { sl with wait := .escrow port p.seq } else sl) s'.slots }
      | _ => s)

end Sys2Proof.Machine
end

