-- ==== Sys2Proof/Machine/Matrix.lean ====
section
/-!
DEFINITION. The matrix engine (chapter 10): accumulators, the tile fetch unit (R267 to R269), resident tiles
and the weight store (R255, R277), the product commands (R270 to R275), the accumulator commands (R278 to
R285), and gangs (R286, R287).
-/

namespace Sys2Proof.Machine

/-! ### Accumulators and checksums -/

/-- The index of acc(t, i, j) (R254). -/
def accIx (t i j : Nat) : Nat := t * 4096 + i * 64 + j

/-- The element at an index of the accumulator file: 32 bits, or an FP64 pair's 64 (R254). -/
def Core.accGet (k : Core) (wide : Bool) (ix : Nat) : Nat :=
  (sget 0 k.acc ix).toNat + if wide then (sget 0 k.acc (ix + 4096)).toNat * 2 ^ 32 else 0

/-- Sets the element at an index; its error marks go (R254, R419). -/
def Core.accPut (k : Core) (wide : Bool) (ix v : Nat) : Core :=
  let k := { k with acc := sput 0 k.acc ix (BitVec.ofNat 32 v), errAcc := if wide then sdel (sdel k.errAcc ix) (ix + 4096) else sdel k.errAcc ix }
  if wide then { k with acc := sput 0 k.acc (ix + 4096) (BitVec.ofNat 32 (v / 2 ^ 32)) } else k

/-- The checksums of tiles become zero and valid (R283). -/
def Core.resetSums (k : Core) (ts : List Nat) : Core :=
  let out := fun (e : Nat) => !ts.contains (e / 64)
  { k with rsum := k.rsum.filter fun e => out e.1, csum := k.csum.filter fun e => out e.1,
           chkBad := k.chkBad.filter fun t => !ts.contains t }

/-- The checksums of tiles become not valid (R283). -/
def Core.voidSums (k : Core) (ts : List Nat) : Core :=
  { k with chkBad := k.chkBad.filter (fun t => !ts.contains t) ++ ts }

/-- The residue records of rows are cleared; a row is tile x 64 + row (R282). -/
def Core.clearResid (k : Core) (rows : List Nat) : Core := { k with resid := k.resid.filter fun e => !rows.contains e.1 }

/-- Single-bit errors of the accumulator words that `p` names are repaired in place and counted (R419). -/
def Core.repairAcc (k : Core) (p : Nat → Bool) : Core :=
  (errSingle k.errAcc p).foldl (fun k x =>
    { k with acc := sput 0 k.acc x.1 (sget 0 k.acc x.1 ^^^ x.2), errAcc := sdel k.errAcc x.1, corrected := k.corrected + 1 }) k

/-- Single-bit errors of the weight-store words that `p` names are repaired in place and counted (R419). -/
def Core.repairW (k : Core) (p : Nat → Bool) : Core :=
  (errSingle k.errW p).foldl (fun k x =>
    { k with wstore := sput 0 k.wstore x.1 (sget 0 k.wstore x.1 ^^^ x.2), errW := sdel k.errW x.1, corrected := k.corrected + 1 }) k

/-- A read of accumulator words of a core repairs those of them with a single-bit error (R419). -/
def State.repairAcc (s : State) (core : Nat) (p : Nat → Bool) : State :=
  if (errSingle (s.core core).errAcc p).isEmpty then s else s.modCore core fun k => k.repairAcc p

/-- A read of weight-store words of a core repairs those of them with a single-bit error (R419). -/
def State.repairW (s : State) (core : Nat) (p : Nat → Bool) : State :=
  if (errSingle (s.core core).errW p).isEmpty then s else s.modCore core fun k => k.repairW p

/-- A read of elements of the accumulator file: single-bit errors are repaired, uncorrectable ones are consumed (R419,
R421). -/
def Eng.consumeAcc (ixs : Nat → Bool) : Eng Unit := do
  let c ← Eng.cmd
  Eng.mod fun s => s.repairAcc c.core ixs
  let k ← Eng.core
  if errBad k.errAcc ixs then
    Eng.mod fun s => s.engineConsume c 0

/-- Rounds into a format and accumulates the flags, the conversion of a signalling NaN included (R103, R105). -/
def Eng.conv (f : Fmt) (x : FVal) (rm : Rm) (ov : Bool) : Eng Nat := do
  let r := f.convert x rm ov
  Eng.flag r.2
  return r.1

/-! ### The tile fetch unit -/

/-- The elements of `n` from `k0` on in row `i` that lie within the limits (R268). -/
def liveElems (i k0 n rlimit climit : Nat) : Nat := if i < rlimit then min n (climit - k0) else 0

/-- Where the bytes of elements `k0` to `k0 + n - 1` of row `i` of an operand lie (R268, R269). -/
def elemSpan (p : Word) (stride i k0 n rlimit climit : Nat) : Nat × Nat :=
  let b := memBits (ptrCode p)
  ((va p + i * stride * 16 + k0 * b / 8) % 2 ^ 56, ceilDiv (liveElems i k0 n rlimit climit * b) 8)

/-- Elements `k0` to `k0 + n - 1` of row `i` of an operand: +0 beyond the limits (R268, R269); code 15 converts (R95). -/
def Eng.elems (p : Word) (stride i k0 n rlimit climit : Nat) (rm : Rm) (ov : Bool) : Eng (List Nat) := do
  let b := memBits (ptrCode p)
  let m := liveElems i k0 n rlimit climit
  let x := elemSpan p stride i k0 n rlimit climit
  let bs ← Eng.read x.1 x.2
  let x := natOfBytes bs
  let es := (List.range m).map fun q => bitsOf x (b * q + b - 1) (b * q)
  let es ← if ptrCode p = 15 then es.mapM fun e => Eng.conv .bf16 (Fmt.fp32.value e) rm ov else pure es
  return es ++ List.replicate (n - m) 0

/-- The elements of one stride (R269). -/
def strideElems (p : Word) (stride : Nat) : Nat := stride * 128 / memBits (ptrCode p)

/-- The scale bytes of elements `k0` to `k0 + n - 1` of row `i`, the reduction running along rows (R268, R269). -/
def Eng.scaleRow (p : Word) (bl sofs stride i k0 n rlimit climit : Nat) : Eng (List Nat) := do
  if bl = 0 then return List.replicate n 127
  let base := va p + sofs * 4096 + i * (strideElems p stride / bl)
  let blocks := List.range ((k0 + n - 1) / bl + 1 - k0 / bl)
  let bs ← blocks.mapM fun q => do
    let b := k0 / bl + q
    if i < rlimit ∧ b * bl < climit then
      let x ← Eng.read ((base + b) % 2 ^ 56) 1
      pure (natOfBytes x)
    else pure 127
  return (List.range n).map fun q => bs.getD ((k0 + q) / bl - k0 / bl) 127

/-- Where the elements of the rows of a step lie, and their scale bytes where they are block-scaled. -/
def rowSpans (p : Word) (bl sofs stride rows k0 n rlimit climit : Nat) : List (Nat × Nat) :=
  (List.range rows).flatMap fun i =>
    elemSpan p stride i k0 n rlimit climit ::
      if bl = 0 || decide (rlimit ≤ i) then []
      else [((va p + sofs * 4096 + i * (strideElems p stride / bl) + k0 / bl) % 2 ^ 56,
        min ((k0 + n - 1) / bl + 1) (ceilDiv climit bl) - k0 / bl)]

/-- The scale bytes of block `b` in `n` columns from `j0` on, the reduction running along columns (R268, R269). -/
def Eng.scaleCol (p : Word) (bl sofs stride b j0 n rlimit climit : Nat) : Eng (List Nat) := do
  let m := if b * bl < rlimit then min n (climit - j0) else 0
  let bs ← Eng.read ((va p + sofs * 4096 + b * strideElems p stride + j0) % 2 ^ 56) m
  return bs.map (·.toNat) ++ List.replicate (n - m) 127

/-! ### Block record headers -/

/-- Whether a block record's header is malformed: its live count, or a reserved field (R335, R340). -/
def headerBad (h : List Word) : Bool :=
  let w := fun i => h.getD i 0
  let live := wbits (w 0) 62 54
  live = 0 || decide (256 < live) || wbit (w 0) 63 || wbits (w 1) 31 25 ≠ 0 || wbits (w 1) 15 9 ≠ 0 || w 3 ≠ 0
  || ((List.range 8).any fun t => wbits (w (4 + 2 * t)) 63 18 ≠ 0) || (List.range 12).any fun i => w (20 + i) ≠ 0

/-! ### Tiles -/

/-- A tile as it is read: the operand bits of its rows, 64 columns each, and the scale bytes of its block rows. -/
structure TileData where
  rows   : List (List Nat)
  scales : List (List Nat)

/-- The operand that a tile holds (R272). -/
def TileRec.opnd (r : TileRec) : Option Opnd :=
  if r.cvt = 1 then some { fmt := .fp .bf16, bl := 0 }
  else if r.cvt = 2 then some { fmt := .fp .fp16, bl := 0 }
  else opndOf r.ptr

/-- The block rows of a tile (R272). -/
def blockRows (o : Opnd) : Nat := if o.bl = 0 then 0 else max 1 (o.fmt.kd / o.bl)

/-- The size of a packed tile (R272). -/
def packedSize (p : Word) (o : Opnd) : Nat :=
  (if ptrCode p = 1 ∨ ptrCode p = 15 then 16384 else 8192) + ceilDiv (blockRows o * 64) 256 * 256

/-- The block records that a governed tile reads, consecutive ones (R277). -/
def TileRec.blocks (r : TileRec) : List Nat :=
  (List.range (ceilDiv (r.rows * 64) 256)).map fun b => (va r.ptr + 5376 * b) % 2 ^ 56

/-- Where the weights of the phase lie that a governed read takes of the block at an address, from the header's first word:
the phase that it names, or, with prev, the other (R277). -/
def TileRec.weights (r : TileRec) (a : Nat) (h0 : Word) : Nat :=
  (a + 256 + ((if wbit h0 51 then 1 else 0) + (if r.prev then 1 else 0)) % 2 * 1024) % 2 ^ 56

/-- One block of a governed read is fetched whole, or not at all, so that it is read atomically with respect to its updates
(R309); with prev = 1 it is pinned from then on (R277). -/
def fetchBlock (e : EngSt) (r : TileRec) (x : Fetched) (a : Nat) : Fetched :=
  let lost := fun (l : List (Nat × Nat)) => (l.map (·.1)).filter (lacks e)
  if (e.cmd.fetchedAt a 1).isSome then x
  else
    let hs := sectors a 256
    if !(lost hs).isEmpty then { x with missing := x.missing ++ lost hs }
    else
      let h := hs.foldl (fetchSector e) []
      let ws := sectors (r.weights a (wordOfNat (natOfBytes ((List.range 8).map fun i => sget 0 h (a + i))))) 1024
      if !(lost ws).isEmpty then { x with missing := x.missing ++ lost ws }
      else
        let got := (hs ++ ws).foldl (fetchSector e) []
        let all := got.foldl (fun m b => sset m b.1 b.2) x.got
        if got.length < 1280 || decide (64 < (sectorsOf all).length) then x
        else
          let pin := if r.prev then ((e.cmd.held e.st a).map fun t => (a, t)).toList else []
          { x with got := all, pins := x.pins ++ pin }

/-- The requests of a governed read, made at once (R309, R315). -/
def Eng.fetchBlocks (r : TileRec) : Eng Unit := fun e =>
  let x := r.blocks.foldl (fetchBlock e r) { missing := [], got := e.cmd.fetched, pins := e.cmd.pins }
  if x.missing.isEmpty then .ok ((), e) else .error (.retry x false)

/-- A governed tile: weights of consecutive block records (R277). -/
def Eng.governedTile (r : TileRec) (f : Fmt) : Eng TileData := do
  Eng.fetchBlocks r
  let blocks ← r.blocks.zipIdx.mapM fun x => do
    let h ← Eng.read x.1 256
    let hs := wordsOf 32 h
    Eng.failIf (x.2 = 0 && headerBad hs) 4
    let want := if r.prev then r.steptag + 1 else r.steptag
    Eng.failIf (r.stepchk && (hs.getD 0 0).extractLsb' 0 32 ≠ want) 7
    Eng.read (r.weights x.1 (hs.getD 0 0)) 1024
  let bytes := blocks.flatten
  let rows ← (List.range r.rows).mapM fun k => (List.range 64).mapM fun j =>
    Eng.conv f (Fmt.fp32.value (natOfBytes ((bytes.drop (4 * (64 * k + j))).take 4))) r.rm r.ov
  return { rows := rows ++ List.replicate (64 - r.rows) (List.replicate 64 0), scales := [] }

/-- Where the elements of a tile lie that is not governed, and its scale bytes (R269, R272, R275, R277). -/
def TileRec.spans (r : TileRec) (o : Opnd) : List (Nat × Nat) :=
  let kd := o.fmt.kd
  match r.kind with
  | 0 => (List.range kd).map (fun k => elemSpan r.ptr r.stride k 0 64 r.rows r.cols)
    ++ (List.range (blockRows o)).map fun b =>
      ((va r.ptr + r.sofs * 4096 + b * strideElems r.ptr r.stride) % 2 ^ 56, if b * o.bl < r.rows then min 64 r.cols else 0)
  | 1 => [((va r.ptr + (r.index - 1) * packedSize r.ptr o) % 2 ^ 56, packedSize r.ptr o)]
  | _ => (List.range kd).map (fun k => elemSpan r.ptr r.stride (r.index * kd + k) 0 64 r.rlimit r.climit)
    ++ (List.range (blockRows o)).map fun b =>
      ((va r.ptr + r.sofs * 4096 + (r.index * kd / o.bl + b) * strideElems r.ptr r.stride) % 2 ^ 56,
        if (r.index * kd / o.bl + b) * o.bl < r.rlimit then min 64 r.climit else 0)

/-- Reads the tile that a record names (R255, R272, R275, R277). -/
def Eng.readTile (r : TileRec) (o : Opnd) : Eng TileData := do
  let kd := o.fmt.kd
  match r.kind with
  | 0 =>
    let t ← Eng.page (va r.ptr) .read fun _ => true
    if leafClass t.leaf = 4 then Eng.governedTile r (if r.cvt = 2 then .fp16 else .bf16)
    else
      Eng.fetch (r.spans o)
      let rows ← (List.range kd).mapM fun k => do
        let es ← Eng.elems r.ptr r.stride k 0 64 r.rows r.cols r.rm r.ov
        if r.cvt = 1 then es.mapM fun e => Eng.conv .bf16 (Fmt.fp32.value e) r.rm r.ov
        else if r.cvt = 2 then es.mapM fun e => Eng.conv .fp16 (Fmt.fp32.value e) r.rm r.ov
        else pure es
      let scales ← (List.range (blockRows o)).mapM fun b => Eng.scaleCol r.ptr o.bl r.sofs r.stride b 0 64 r.rows r.cols
      return { rows, scales }
  | 1 =>
    Eng.fetch (r.spans o)
    let base := r.ptr + wordOfNat ((r.index - 1) * packedSize r.ptr o)
    let rows ← (List.range kd).mapM fun k =>
      Eng.elems (padd r.ptr (base - r.ptr)) (64 * memBits (ptrCode r.ptr) / 128) k 0 64 kd 64 r.rm r.ov
    let scales ← (List.range (blockRows o)).mapM fun b => do
      let bs ← Eng.read ((va base + 8192 + 64 * b) % 2 ^ 56) 64
      pure (bs.map (·.toNat))
    return { rows, scales }
  | _ =>
    Eng.fetch (r.spans o)
    let k0 := r.index * kd
    let rows ← (List.range kd).mapM fun k => Eng.elems r.ptr r.stride (k0 + k) 0 64 r.rlimit r.climit r.rm r.ov
    let scales ← (List.range (blockRows o)).mapM fun b =>
      Eng.scaleCol r.ptr o.bl r.sofs r.stride (k0 / o.bl + b) 0 64 r.rlimit r.climit
    return { rows, scales }

/-- The 32-bit words of `n` bits of packed elements. -/
def packWords (bits : Nat) (es : List Nat) : List (BitVec 32) :=
  let x := es.reverse.foldl (fun a e => a * 2 ^ bits + e % 2 ^ bits) 0
  (List.range (ceilDiv (es.length * bits) 32)).map fun i => BitVec.ofNat 32 (x / 2 ^ (32 * i))

/-- A map with the keys from `lo` on, `n` of them, holding the values of a list, in canonical form. -/
def putRange {α : Type} [DecidableEq α] (d : α) (m : Sparse α) (lo n : Nat) (vs : List α) : Sparse α :=
  (m.filter fun e => decide (e.1 < lo))
    ++ ((List.range n).zip vs).filterMap (fun e => if e.2 = d then none else some (lo + e.1, e.2))
    ++ m.filter fun e => decide (lo + n ≤ e.1)

/-- Puts a tile into the half of the weight store not in use; an FP64 tile fills both (R277, log 19). -/
def Core.placeTile (k : Core) (r : TileRec) (o : Opnd) (t : TileData) : Nat × Core :=
  let wide := o.fmt = .fp .fp64
  let half := if wide then 2 else 1 - k.whalf
  let lo := if wide then 0 else half * 2048
  let n := if wide then 4096 else 2048
  let held := if wide then [(2, r)] else sset (sdel k.wheld 2) half r
  let sc := t.scales.flatten.map (BitVec.ofNat 8)
  (half, { k with
    wstore := putRange 0 k.wstore lo n (packWords o.fmt.bits t.rows.flatten)
    wscale := putRange 0 k.wscale lo n sc
    wheld := held
    whalf := if wide then 1 else half
    errW := k.errW.filter fun e => decide (e.1 < lo ∨ lo + n ≤ e.1) })

/-- Where a loaded tile stands: the half that holds it, if one does. Its record tells the load, so that a tile of equal fields
that was loaded before or after is another tile (R255). -/
def Core.tileHalf (k : Core) (r : TileRec) : Option Nat := (k.wheld.find? fun e => e.2 == r).map (·.1)

/-- Loads a tile from memory into the weight store (R272, R275, R277): the record that names this load, and the half. -/
def Eng.loadTile (r : TileRec) (o : Opnd) : Eng (TileRec × Nat) := do
  let t ← Eng.readTile r o
  let k ← Eng.core
  let r := { r with load := k.loads }
  let (h, k) := { k with loads := k.loads + 1 }.placeTile r o t
  Eng.modCore fun _ => k
  return (r, h)

/-- The half that holds the tile of a record, loaded first where no half does (R255). -/
def Eng.needTile (r : TileRec) (o : Opnd) : Eng Nat := do
  let k ← Eng.core
  match k.tileHalf r with
  | some h => return h
  | none =>
    let t ← Eng.readTile r o
    let k ← Eng.core
    let (h, k) := k.placeTile r o t
    Eng.modCore fun _ => k
    return h

/-- The first word of a half. -/
def halfBase (h : Nat) : Nat := if h = 1 then 2048 else 0

/-- Operand element (row, column) of the tile in a half. -/
def Core.tileElem (k : Core) (h : Nat) (o : Opnd) (row col : Nat) : Nat :=
  let b := o.fmt.bits
  let at_ := (64 * row + col) * b
  let w := fun i => (sget 0 k.wstore (halfBase h + i)).toNat
  if b = 64 then w (at_ / 32) + w (at_ / 32 + 1) * 2 ^ 32
  else bitsOf (w (at_ / 32)) (at_ % 32 + b - 1) (at_ % 32)

/-- The scale byte of block row `b`, column `j` of the tile in a half. -/
def Core.tileScale (k : Core) (h b j : Nat) : Nat := (sget 0 k.wscale (halfBase h + 64 * b + j)).toNat

/-- A read of the words of a half of the weight store: single-bit errors are repaired, uncorrectable ones are consumed (R419,
R421). -/
def Eng.consumeTile (h : Nat) : Eng Unit := do
  let inHalf := fun (b : Nat) => h = 2 || b / 2048 == h
  let c ← Eng.cmd
  Eng.mod fun s => s.repairW c.core inHalf
  let k ← Eng.core
  if errBad k.errW inHalf then
    Eng.mod fun s => s.engineConsume c 0

/-- The tile record of the command's issuer (R255): NOWEIGHT where it has none, or, for a local slot, where an earlier
firing left it. -/
def Eng.resident : Eng TileRec := do
  let k ← Eng.core
  let c ← Eng.cmd
  match k.records.find? fun r => r.1 == c.issuer with
  | some (.loc _, fid, r) => if fid = c.fid then return r else Eng.status 11
  | some (.rem _, _, r) => return r
  | none => Eng.status 11

/-- Names the tile that the command leaves resident (R255): there has been room for its record since it started. -/
def Core.setRecord (k : Core) (c : Cmd) (r : TileRec) : Core :=
  { k with records := k.records.filter (fun x => x.1 != c.issuer) ++ [(c.issuer, c.fid, r)] }

/-- Clears the issuer's record. -/
def Core.clearRecord (k : Core) (c : Cmd) : Core := { k with records := k.records.filter fun x => x.1 != c.issuer }

/-! ### MWLOAD -/

/-- MWLOAD (R276, R277): the checks, then the tile is loaded and becomes the issuer's resident tile. The rules give its checks no
order: since the class of w's page decides which formats and shapes are admitted, w is translated, and its rights are checked, before
FORMAT and SHAPE (log 32). -/
def stepMwload (h : TcwHdr) (f : MwloadF) : Eng (Option Nat) := do
  Eng.tag f.w
  let t ← Eng.page (va f.w) .read fun _ => true
  let gov := leafClass t.leaf = 4
  let code := ptrCode f.w
  Eng.failIf (f.cvt = 3) 4
  let r : TileRec :=
    { ptr := f.w, kind := 0, index := 0, rows := f.rows.toNat, cols := f.cols.toNat, stride := f.wstride.toNat,
      cvt := f.cvt.toNat, sofs := f.sofs.toNat, rm := h.rm, ov := h.ov, prev := gov && f.prev, stepchk := gov && f.stepchk,
      steptag := f.steptag, rlimit := 0, climit := 0, load := 0 }
  match r.opnd with
  | none => Eng.status 3
  | some o =>
    Eng.failIf (if gov then !((code = 2 && f.cvt ≠ 0) || (code = 15 && f.cvt = 0)) else f.cvt ≠ 0 && code ≠ 2) 3
    Eng.failIf (f.rows = 0 || decide (o.fmt.kd < f.rows.toNat) || f.cols = 0 || decide (64 < f.cols.toNat)) 4
    Eng.failIf (gov && (va f.w % 256 ≠ 0 || f.cols ≠ 64)) 4
    let (r, _) ← Eng.loadTile r o
    let c ← Eng.cmd
    Eng.modCore fun k => k.setRecord c r
    return some 0

/-- MWLOAD (R276). -/
def execMwload (h : TcwHdr) (f : MwloadF) (s : State) := runCmd (stepMwload h f) s

/-! ### Products -/

/-- An operand list: each element its bits and its scale byte. -/
abbrev OpList := List (Nat × Nat)

/-- The shape rules of a product (R271). -/
def productShapeBad (f : ProductF) (steps wide : Bool) : Bool :=
  f.m = 0 || decide (128 < f.m.toNat) || (decide (64 < f.m.toNat) && !f.pair) || (f.pair && f.acc.toNat % 2 = 1)
  || (steps && (f.steps = 0 || decide (16 < f.steps.toNat))) || (wide && (!f.pair || decide (64 < f.m.toNat)))

/-- The target of a product: the index of element (i, j), its size, and the tiles and rows it writes. -/
structure Target where
  ix    : Nat → Nat → Nat
  rows  : Nat
  cols  : Nat
  wide  : Bool
  tiles : List Nat
  resid : List Nat

/-- A target of 32-bit or FP64 elements in rows from acc on (R254). -/
def targetOf (acc rows cols : Nat) (wide : Bool) : Target :=
  { ix := fun i j => if wide then accIx acc i j else accIx (acc + i / 64) (i % 64) j
    rows, cols, wide
    tiles := if wide || decide (64 < rows) then [acc, acc + 1] else [acc]
    resid := (List.range rows).flatMap fun i => if wide then [acc * 64 + i, acc * 64 + 64 + i] else [acc * 64 + i] }

/-- The tiles that a product's fields name as its target (R270): both of a pair, also where m is 64 or less. -/
def targetTiles (f : ProductF) : List Nat := if f.pair then [f.acc.toNat, f.acc.toNat + 1] else [f.acc.toNat]

/-- What zf and chk do before step 0 (R270, R271, R283): `sums` are the tiles whose checksums start anew under zf and chk; without chk
those that are written lose theirs. -/
def Core.beginTarget (k : Core) (t : Target) (zf chk : Bool) (sums : List Nat := t.tiles) : Core :=
  let k := if zf then
      let k := (List.range t.rows).foldl (fun k i => (List.range t.cols).foldl (fun k j => k.accPut t.wide (t.ix i j) 0) k) k
      k.clearResid t.resid
    else k
  if chk then (if zf then k.resetSums sums else k) else k.voidSums t.tiles

/-- The new elements of a target under a function of (row, column, old value). -/
def Eng.updateTarget (t : Target) (f : Nat → Nat → Nat → Nat × Flags) : Eng Unit := do
  Eng.consumeAcc fun b => (List.range t.rows).any fun i => (List.range t.cols).any fun j => b = t.ix i j || (t.wide && b = t.ix i j + 4096)
  let k ← Eng.core
  let new := (List.range t.rows).flatMap fun i => (List.range t.cols).map fun j =>
    let r := f i j (k.accGet t.wide (t.ix i j))
    (t.ix i j, r.1, r.2)
  Eng.flag (new.foldl (fun a x => a ||| x.2.2) 0)
  Eng.modCore fun k => new.foldl (fun k x => k.accPut t.wide x.1 x.2.1) k

/-- The residue check of block `b`, whose exact sums are `d` (R117, R118): a block whose channels disagree with the checking
channel is computed again; it counts as corrected where they then agree, else the command ends with RESIDUE at that block.
The sums are those that the channels give. -/
def Eng.checkBlock (t : Target) (b : Nat) (d : Nat → Nat → Int) : Eng (Nat → Nat → Int) := do
  let k ← Eng.core
  let mine := k.upsets.filter fun u => decide (u.row < t.rows) && decide (u.col < t.cols)
  if mine.isEmpty then return d
  Eng.modCore fun k => { k with upsets := k.upsets.filter fun u => !mine.contains u }
  let block := fun (u : Upset) (n : Nat) =>
    let r := residueOf b (d u.row u.col)
    if n < u.times then r.struck u else r
  Eng.failIf (mine.any fun u => !(block u 0).agrees && !(block u 1).agrees) 6
  Eng.modCore fun k => { k with corrected := k.corrected + (mine.filter fun u => !(block u 0).agrees).length }
  return fun i j => match mine.find? fun u => u.row == i && u.col == j with
    | some u => if (block u 0).agrees then (block u 0).dot else d i j
    | none => d i j

/-- One residue block added to every element of a target (R117, R118, R282): its number, its sums, the scale bytes of the rows
and columns, and where the record's column 63 lies. -/
def Eng.addResidue (t : Target) (rm : Rm) (ov : Bool) (b : Nat) (d : Nat → Nat → Int) (ea eb : Nat → Nat) (rec : Nat → Nat × Nat) :
    Eng Unit := do
  let d ← Eng.checkBlock t b d
  Eng.updateTarget t fun i j acc => addBlock rm ov acc (d i j) (ea i) (eb j)
  Eng.modCore fun k =>
    { k with resid := t.resid.zipIdx.foldl (fun m x => sset m x.1 (residueOf b (d (rec x.2).1 (rec x.2).2))) k.resid }

/-- The scale byte of the first element of a list. -/
def OpList.scale (l : List (Nat × Nat)) : Nat := (l.head?.map (·.2)).getD 127

/-- A residue step on a block that is longer than a tile (R117, R272): the exact sums so far are kept with the command,
and block `b` is added where it ends. -/
def Eng.longBlock (t : Target) (fa fw : OpFmt) (rm : Rm) (ov ends : Bool) (b : Nat) (a : Nat → OpList) (w : Nat → OpList) : Eng Unit := do
  let c ← Eng.cmd
  let sum := fun i j => sget 0 c.part (64 * i + j) + blockDot fa fw ((a i).zip (w j))
  if ends then
    Eng.addResidue t rm ov b sum (fun i => OpList.scale (a i)) (fun j => OpList.scale (w j)) fun i => (i, 63)
    Eng.modCmd fun c => { c with part := [] }
  else
    let sums := (List.range t.rows).flatMap fun i => (List.range t.cols).map fun j => (64 * i + j, sum i j)
    Eng.modCmd fun c => { c with part := sums }

/-- Residue blocks of length `bl` added one at a time, in ascending order, from number `first` on (R117). -/
def Eng.shortBlocks (t : Target) (fa fw : OpFmt) (bl : Nat) (rm : Rm) (ov : Bool) (first n : Nat) (a : Nat → OpList) (w : Nat → OpList)
    (rec : Nat → Nat × Nat) : Eng Unit :=
  (List.range n).forM fun q =>
    let part := fun (l : OpList) => (l.drop (q * bl)).take bl
    Eng.addResidue t rm ov (first + q) (fun i j => blockDot fa fw ((part (a i)).zip (part (w j))))
      (fun i => OpList.scale (part (a i))) (fun j => OpList.scale (part (w j))) rec

/-- The FP32 value of an operand with its scale (R283). -/
def Eng.scaled (f : OpFmt) (x : Nat × Nat) : Eng FVal := do
  if x.2 = 255 then return .nan false
  let b ← Eng.conv .fp32 ((f.val x.1).shift ((x.2 : Int) - 127)) .rne false
  return Fmt.fp32.value b

/-- An exact sum rounded once to FP32 with RNE (R283, R284). -/
def Eng.sumRound (l : List FVal) : Eng Nat := do
  let r := Fmt.fp32.finish (exactSum .rne l) .rne false
  Eng.flag r.2
  return r.1

/-- An FP32 fused multiply-add with RNE (R283). -/
def Eng.fma32 (a b : FVal) (c : Nat) : Eng Nat := do
  let r := Fmt.fp32.finish (FVal.fma .rne (Fmt.fp32.value c) a b) .rne false
  Eng.flag r.2
  return r.1

/-- The checksums of one k-step (R283): for each tile, u(k) and q(k), then the row and column sums in ascending k. -/
def Eng.checksums (t : Target) (fa fw : OpFmt) (a : Nat → OpList) (w : Nat → OpList) (n : Nat) : Eng Unit := do
  let av ← (List.range t.rows).mapM fun i => (a i).mapM (Eng.scaled fa)
  let wv ← (List.range 64).mapM fun j => (w j).mapM (Eng.scaled fw)
  let at_ := fun (m : List (List FVal)) i k => (m.getD i []).getD k (.fin false 0 0)
  let us ← (List.range n).mapM fun k => Eng.sumRound ((List.range 64).map fun j => at_ wv j k)
  t.tiles.forM fun tile => do
    let rows := (List.range t.rows).filter fun i => t.ix i 0 / 4096 = tile
    (List.range n).forM fun k => do
      let q ← Eng.sumRound (rows.map fun i => at_ av i k)
      rows.forM fun i => do
        let c ← Eng.core
        let key := t.ix i 0 / 64
        let r ← Eng.fma32 (at_ av i k) (Fmt.fp32.value (us.getD k 0)) (sget 0 c.rsum key).toNat
        Eng.modCore fun c => { c with rsum := sput 0 c.rsum key (BitVec.ofNat 32 r) }
      (List.range 64).forM fun j => do
        let c ← Eng.core
        let key := tile * 64 + j
        let r ← Eng.fma32 (Fmt.fp32.value q) (at_ wv j k) (sget 0 c.csum key).toNat
        Eng.modCore fun c => { c with csum := sput 0 c.csum key (BitVec.ofNat 32 r) }

/-- The operand lists of the tile in a half, by column: scales of a block longer than the tile come from the tile where the
block starts (R272). -/
def Core.tileCols (k : Core) (c : Cmd) (h : Nat) (o : Opnd) (step : Nat) (j : Nat) : OpList :=
  let kd := o.fmt.kd
  (List.range kd).map fun r =>
    let sc := if o.bl = 0 then 127
      else if o.bl ≤ kd then k.tileScale h (r / o.bl) j
      else if step * kd % o.bl = 0 then k.tileScale h 0 j
      else (sget 0 c.pscale j).toNat
    (k.tileElem h o r j, sc)

/-- One k-step of MMUL.F or MMUL.G on the tile in a half (R272, R275). A residue block longer than a tile that the command's last
step leaves incomplete is closed there and added; the rules do not say (log 20). -/
def Eng.kStep (f : ProductF) (rm : Rm) (ov : Bool) (p : Path) (oa ow : Opnd) (h step : Nat) (last : Bool) : Eng Unit := do
  let kd := ow.fmt.kd
  let t := targetOf f.acc.toNat f.m.toNat 64 p.is64
  let k0 := step * kd
  Eng.fetch (rowSpans f.p1 oa.bl f.sofs.toNat f.stride1.toNat t.rows k0 kd f.rlimit.toNat f.climit.toNat)
  let rows ← (List.range t.rows).mapM fun i => do
    let es ← Eng.elems f.p1 f.stride1.toNat i k0 kd f.rlimit.toNat f.climit.toNat rm ov
    let sc ← Eng.scaleRow f.p1 oa.bl f.sofs.toNat f.stride1.toNat i k0 kd f.rlimit.toNat f.climit.toNat
    pure (es.zip sc)
  Eng.consumeTile h
  if step = 0 then Eng.modCore fun k => k.beginTarget t f.zf f.chk (targetTiles f)
  let k ← Eng.core
  let c ← Eng.cmd
  let cols := (List.range 64).map fun j => k.tileCols c h ow step j
  let a := fun i => rows.getD i []
  let w := fun j => cols.getD j []
  let long := decide (kd < ow.bl)
  if long && step * kd % ow.bl = 0 then
    Eng.modCmd fun c => { c with pscale := (List.range 64).map fun j => (j, BitVec.ofNat 8 (k.tileScale h 0 j)) }
  if p = .res then
    if long then
      Eng.longBlock t oa.fmt ow.fmt rm ov (last || decide ((step + 1) * kd % ow.bl = 0)) (k0 / ow.bl) a w
    else Eng.shortBlocks t oa.fmt ow.fmt ow.bl rm ov (k0 / ow.bl) (kd / ow.bl) a w fun i => (i, 63)
  else Eng.updateTarget t fun i j acc => accumulate p oa.fmt ow.fmt ow.bl rm ov acc (a i) (w j)
  if f.chk then Eng.checksums t oa.fmt ow.fmt a w kd

/-- The checks that MMUL.F and MMUL.G share once the tile's operand is known (R271): the path of the operand pair. -/
def Eng.productPath (f : ProductF) (oa ow : Opnd) : Eng Path := do
  match pathOf oa ow with
  | none => Eng.status 3
  | some p =>
    Eng.failIf (f.chk && (p = .res || p = .int || p.is64)) 3
    Eng.failIf (productShapeBad f true p.is64) 4
    Eng.failIf (oa.bl ≠ 0 && strideElems f.p1 f.stride1.toNat % oa.bl ≠ 0) 4
    return p

/-- Ends a k-step: the last one names the tile as the issuer's resident tile. -/
def Eng.endStep (f : ProductF) (step : Nat) (r : TileRec) : Eng (Option Nat) := do
  if step + 1 < f.steps.toNat then
    Eng.modCmd fun c => { c with prog := step + 1 }
    return none
  let c ← Eng.cmd
  Eng.modCore fun k => k.setRecord c r
  return some 0

/-- Whether a packed-tile pointer gives the resident tile's operand format with the same block length (R272). -/
def packedOk (r : TileRec) (o : Opnd) (wpk : Word) : Bool :=
  match o.fmt with
  | .fp .bf16 => ptrCode wpk = 3 || ptrCode wpk = 15
  | .fp .fp16 => ptrCode wpk = 4
  | _ => ptrCode wpk = ptrCode r.ptr && ptrBl wpk = ptrBl r.ptr

/-- MMUL.F (R272): one k-step. -/
def stepMmulF (h : TcwHdr) (f : ProductF) : Eng (Option Nat) := do
  Eng.tag f.p1
  Eng.tag f.p3
  let r ← Eng.resident
  match r.opnd, opndOf f.p1 with
  | some ow, some oa =>
    Eng.failIf (!packedOk r ow f.p3) 3
    let p ← Eng.productPath f oa ow
    let c ← Eng.cmd
    let step := c.prog
    let packed : TileRec :=
      { ptr := f.p3, kind := 1, index := step, rows := 0, cols := 0, stride := 0, cvt := 0, sofs := 0, rm := h.rm,
        ov := h.ov, prev := false, stepchk := false, steptag := 0, rlimit := 0, climit := 0, load := 0 }
    let (tile, half) ← if step = 0 then do let x ← Eng.needTile r ow; pure (r, x) else Eng.loadTile packed ow
    Eng.kStep f h.rm h.ov p oa ow half step (step + 1 = f.steps.toNat)
    Eng.endStep f step tile
  | _, _ => Eng.status 3

/-- MMUL.F (R272). -/
def execMmulF (h : TcwHdr) (f : ProductF) (s : State) := runCmd (stepMmulF h f) s

/-- MMUL.G (R275): one k-step, on a tile read from B. -/
def stepMmulG (h : TcwHdr) (f : ProductF) : Eng (Option Nat) := do
  Eng.tag f.p1
  Eng.tag f.p3
  match opndOf f.p3, opndOf f.p1 with
  | some ow, some oa =>
    let p ← Eng.productPath f oa ow
    let c ← Eng.cmd
    let step := c.prog
    let tile : TileRec :=
      { ptr := f.p3, kind := 2, index := step, rows := 0, cols := 0, stride := f.stride2.toNat, cvt := 0, sofs := f.sofs.toNat,
        rm := h.rm, ov := h.ov, prev := false, stepchk := false, steptag := 0, rlimit := f.climit.toNat, climit := f.ncols.toNat,
        load := 0 }
    let (tile, half) ← Eng.loadTile tile ow
    Eng.kStep f h.rm h.ov p oa ow half step (step + 1 = f.steps.toNat)
    Eng.endStep f step tile
  | _, _ => Eng.status 3

/-- MMUL.G (R275). -/
def execMmulG (h : TcwHdr) (f : ProductF) (s : State) := runCmd (stepMmulG h f) s

/-- Whether MMUL.T and MOUTER accept an operand pair (R273, R274, R293). -/
def plainPair (p : Path) (a w : Opnd) : Bool := a.bl = 0 && w.bl = 0 && p ≠ .res && p ≠ .int

/-- MMUL.T (R273): the gradients times the transposed resident tile. -/
def execMmulT (h : TcwHdr) (f : ProductF) (s : State) :=
  runCmd (do
    Eng.tag f.p1
    let r ← Eng.resident
    match r.opnd, opndOf f.p1 with
    | some ow, some oa =>
      match pathOf oa ow with
      | none => Eng.status 3
      | some p =>
        Eng.failIf (!plainPair p oa ow) 3
        Eng.failIf (productShapeBad f false p.is64) 4
        Eng.failIf (p = .g32 && (!f.pair || decide (64 < f.m.toNat))) 4
        let half ← Eng.needTile r ow
        let m := f.m.toNat
        let acc := f.acc.toNat
        Eng.fetch (rowSpans f.p1 0 0 f.stride1.toNat m 0 64 f.rlimit.toNat f.climit.toNat)
        let rows ← (List.range m).mapM fun i =>
          Eng.elems f.p1 f.stride1.toNat i 0 64 f.rlimit.toNat f.climit.toNat h.rm h.ov
        Eng.consumeTile half
        let kd := ow.fmt.kd
        let t : Target := if p = .g32 then
            { ix := fun i j => accIx (acc + j / 64) i (j % 64), rows := m, cols := 128, wide := false, tiles := [acc, acc + 1],
              resid := (List.range m).flatMap fun i => [acc * 64 + i, acc * 64 + 64 + i] }
          else targetOf acc m kd p.is64
        Eng.modCore fun k => k.beginTarget t f.zf false
        let k ← Eng.core
        let wrow := fun n => (List.range 64).map fun j => (k.tileElem half ow n j, 127)
        let ws := (List.range t.cols).map wrow
        Eng.updateTarget t fun i n a =>
          accumulate p oa.fmt ow.fmt 0 h.rm h.ov a ((rows.getD i []).map fun x => (x, 127)) (ws.getD n [])
        return some 0
    | _, _ => Eng.status 3) s

/-- MOUTER (R274): A transposed times G, the sum over the rows. -/
def execMouter (h : TcwHdr) (f : ProductF) (s : State) :=
  runCmd (do
    Eng.tag f.p1
    Eng.tag f.p3
    match opndOf f.p1, opndOf f.p3 with
    | some oa, some og =>
      match pathOf oa og with
      | none => Eng.status 3
      | some p =>
        Eng.failIf (!plainPair p oa og) 3
        Eng.failIf (productShapeBad f false p.is64) 4
        let m := f.m.toNat
        let hgt := if p.is64 then 64 else if f.pair then 128 else 64
        Eng.fetch (rowSpans f.p1 0 0 f.stride1.toNat m 0 hgt f.rlimit.toNat f.climit.toNat
          ++ rowSpans f.p3 0 0 f.stride2.toNat m 0 64 f.rlimit.toNat f.ncols.toNat)
        let as ← (List.range m).mapM fun i => Eng.elems f.p1 f.stride1.toNat i 0 hgt f.rlimit.toNat f.climit.toNat h.rm h.ov
        let gs ← (List.range m).mapM fun i => Eng.elems f.p3 f.stride2.toNat i 0 64 f.rlimit.toNat f.ncols.toNat h.rm h.ov
        let col := fun (x : List (List Nat)) j => (List.range m).map fun i => ((x.getD i []).getD j 0, 127)
        let t := targetOf f.acc.toNat hgt 64 p.is64
        Eng.modCore fun k => k.beginTarget t f.zf false
        let ac := (List.range hgt).map (col as)
        let gc := (List.range 64).map (col gs)
        Eng.updateTarget t fun k j a => accumulate p oa.fmt og.fmt 0 h.rm h.ov a (ac.getD k []) (gc.getD j [])
        return some 0
    | _, _ => Eng.status 3) s

/-! ### Accumulator commands -/

/-- MZERO (R279). -/
def execMzero (_h : TcwHdr) (accmask : BitVec 4) (s : State) :=
  runCmd (do
    let ts := (List.range 4).filter fun t => accmask.toNat.testBit t
    Eng.modCore fun k =>
      ({ k with acc := k.acc.filter fun e => !ts.contains (e.1 / 4096), resid := k.resid.filter fun e => !ts.contains (e.1 / 64),
                errAcc := k.errAcc.filter fun e => !ts.contains (e.1 / 4096) }).resetSums ts
    return some 0) s

/-- The shape rule of R278. -/
def accShapeBad (rows acc top : Nat) (pair : Bool) : Bool :=
  rows = 0 || decide (top < rows) || ((decide (64 < rows) || pair) && acc % 2 = 1)

/-- The format of an accumulator move by code (R280); none where the code gives FORMAT. -/
def moveFmt (code : Nat) (load : Bool) : Option Fmt :=
  match code with
  | 1 => some .fp64
  | 2 | 7 => some .fp32
  | 3 => some .bf16
  | 4 => some .fp16
  | 5 => if load then none else some .e4m3
  | 6 => if load then none else some .e5m2
  | _ => none

/-- The checks of MSTORE and MACCLD (R278, R280): the element format. -/
def Eng.moveCheck (f : AccMoveF) (load : Bool) : Eng Fmt := do
  Eng.tag f.ptr
  match moveFmt (ptrCode f.ptr) load with
  | none => Eng.status 3
  | some g =>
    Eng.failIf (f.cols = 0 || decide (64 < f.cols.toNat)) 4
    Eng.failIf (accShapeBad f.rows.toNat f.acc.toNat (if g = .fp64 then 64 else 128) f.pair) 4
    Eng.failIf (g = .fp64 && !f.pair) 4
    return g

/-- Whether a code's elements are converted from or to FP32 (R280). -/
def moveConverts (g : Fmt) : Bool := g ≠ .fp64 && g ≠ .fp32

/-- MSTORE (R280): row by row, each sector a request of its own (R315). -/
def execMstore (h : TcwHdr) (f : AccMoveF) (s : State) :=
  runCmd (do
    let g ← Eng.moveCheck f false
    let t := targetOf f.acc.toNat f.rows.toNat f.cols.toNat (g = .fp64)
    Eng.consumeAcc fun b => (List.range t.rows).any fun i => (List.range t.cols).any fun j => b = t.ix i j || (t.wide && b = t.ix i j + 4096)
    let k ← Eng.core
    let rows ← (List.range t.rows).mapM fun i => do
      let bs ← (List.range t.cols).mapM fun j => do
        let x := k.accGet t.wide (t.ix i j)
        let y ← if moveConverts g then Eng.conv g (Fmt.fp32.value x) h.rm h.ov else pure x
        pure (bytesOfNat (g.bits / 8) y)
      pure ((va f.ptr + i * f.stride.toNat * 16) % 2 ^ 56, bs.flatten)
    Eng.writeAll rows
    return some 0) s

/-- MACCLD (R280). -/
def execMaccld (_h : TcwHdr) (f : AccMoveF) (s : State) :=
  runCmd (do
    let g ← Eng.moveCheck f true
    let t := targetOf f.acc.toNat f.rows.toNat f.cols.toNat (g = .fp64)
    let n := g.bits / 8
    Eng.fetch ((List.range t.rows).map fun i => ((va f.ptr + i * f.stride.toNat * 16) % 2 ^ 56, t.cols * n))
    let rows ← (List.range t.rows).mapM fun i =>
      Eng.read ((va f.ptr + i * f.stride.toNat * 16) % 2 ^ 56) (t.cols * n)
    let vals ← rows.mapM fun r => (List.range t.cols).mapM fun j => do
      let x := natOfBytes ((r.drop (n * j)).take n)
      if moveConverts g then Eng.conv .fp32 (g.value x) .rne false else pure x
    Eng.modCore fun k =>
      let k := (List.range t.rows).foldl (fun k i =>
        (List.range t.cols).foldl (fun k j => k.accPut t.wide (t.ix i j) ((vals.getD i []).getD j 0)) k) k
      (k.clearResid t.resid).voidSums t.tiles
    return some 0) s

/-- MSCALE (R281). -/
def execMscale (h : TcwHdr) (scales : Word) (acc : BitVec 2) (rows : BitVec 8) (s : State) :=
  runCmd (do
    Eng.tag scales
    Eng.failIf (ptrCode scales ≠ 0 && ptrCode scales ≠ 2) 3
    Eng.failIf (accShapeBad rows.toNat acc.toNat 128 false) 4
    Eng.fetch [(va scales, 4 * rows.toNat)]
    let bs ← Eng.read (va scales) (4 * rows.toNat)
    let t := targetOf acc.toNat rows.toNat 64 false
    Eng.modCore fun k => k.voidSums t.tiles
    Eng.updateTarget t fun i _ a =>
      Fmt.fp32.finish ((Fmt.fp32.value a).mul (Fmt.fp32.value (natOfBytes ((bs.drop (4 * i)).take 4)))) h.rm h.ov
    return some 0) s

/-- The word of a residue record (R282). -/
def Residue.word (r : Residue) : Word :=
  wordOfNat (2 ^ 63 + r.block * 2 ^ 40 + r.c251 * 2 ^ 32 + r.c257 * 2 ^ 16 + r.c256 * 2 ^ 8 + r.c255)

/-- MRES (R282). -/
def execMres (_h : TcwHdr) (dst : Word) (acc : BitVec 2) (rows : BitVec 8) (s : State) :=
  runCmd (do
    Eng.tag dst
    Eng.failIf (accShapeBad rows.toNat acc.toNat 128 false) 4
    let k ← Eng.core
    let ws := (List.range rows.toNat).map fun i => ((sfind k.resid (acc.toNat * 64 + i)).map Residue.word).getD 0
    Eng.writeAll [(va dst, ws.flatMap fun w => bytesOfNat 8 w.toNat)]
    return some 0) s

/-- MPATCH (R285). -/
def execMpatch (_h : TcwHdr) (acc : BitVec 2) (row col : BitVec 6) (value : BitVec 32) (s : State) :=
  runCmd (do
    Eng.modCore fun k => k.accPut false (accIx acc.toNat row.toNat col.toNat) value.toNat
    return some 0) s

/-- A value's magnitude. -/
def FVal.abs (x : FVal) : FVal := if x.neg then x.negate else x

/-- A prediction compared with its elements (R284): the residual, and whether it is flagged. -/
def Eng.residual (pred : Nat) (xs : List FVal) (tol : Int) : Eng (Nat × Bool) := do
  let sum ← Eng.sumRound xs
  let r := Fmt.fp32.finish (FVal.add .rne (Fmt.fp32.value pred) (Fmt.fp32.value sum).negate) .rne false
  Eng.flag r.2
  let bound := ((exactSum .rne (xs.map FVal.abs)).1).shift tol
  return (r.1, bound.lt (Fmt.fp32.value r.1).abs)

/-- A bitmap of flags, bit i for element i. -/
def bitmap (l : List Bool) : Nat := (l.zipIdx.map fun x => if x.1 then 2 ^ x.2 else 0).sum

/-- MCHK (R284). -/
def execMchk (_h : TcwHdr) (report : Word) (acc : BitVec 2) (pair : Bool) (tol : BitVec 8) (s : State) :=
  runCmd (do
    Eng.tag report
    Eng.failIf (ptrCode report ≠ 0 && ptrCode report ≠ 2) 3
    Eng.failIf (pair && acc.toNat % 2 = 1) 4
    Eng.failIf (va report % 32 ≠ 0) 4
    let ts := if pair then [acc.toNat, acc.toNat + 1] else [acc.toNat]
    let k ← Eng.core
    Eng.failIf (ts.any fun t => k.chkBad.contains t) 8
    Eng.consumeAcc fun b => ts.contains (b / 4096)
    let k ← Eng.core
    let el := ts.flatMap fun t => (List.range 64).map fun i => (List.range 64).map fun j => Fmt.fp32.value (k.accGet false (accIx t i j))
    let e := tol.toInt
    let rows ← (List.range el.length).mapM fun i => Eng.residual (sget 0 k.rsum (acc.toNat * 64 + i)).toNat (el.getD i []) e
    let cols ← (List.range 64).mapM fun j => do
      let low := (sget 0 k.csum (acc.toNat * 64 + j)).toNat
      let pred ← if pair then Eng.sumRound [Fmt.fp32.value low, Fmt.fp32.value (sget 0 k.csum (acc.toNat * 64 + 64 + j)).toNat]
        else pure low
      Eng.residual pred (el.map fun r => r.getD j (.fin false 0 0)) e
    let nr := (rows.filter (·.2)).length
    let nc := (cols.filter (·.2)).length
    let rhos := rows.map (·.1) ++ List.replicate (128 - rows.length) 0
    Eng.writeAll [(va report, bytesOfNat 8 (nr + nc * 2 ^ 16) ++ bytesOfNat 16 (bitmap (rows.map (·.2)))
      ++ bytesOfNat 8 (bitmap (cols.map (·.2))) ++ (rhos ++ cols.map (·.1)).flatMap (bytesOfNat 4))]
    return some (if nr = 0 ∧ nc = 0 then 0 else 9)) s

/-! ### Gangs -/

/-- The rectangle of a gang descriptor's d0 (R286): top row, left column, height and width minus 1, core. -/
def gangTiles (d0 : Word) : List (Nat × Nat) :=
  (List.range (wbits d0 10 8 + 1)).flatMap fun p => (List.range (wbits d0 13 11 + 1)).map fun q => (wbits d0 3 0 + p, wbits d0 7 4 + q)

/-- The member cores of a gang on a die (R286, R287). -/
def gangCores (d0 : Word) (die : Nat) : List Nat := (gangTiles d0).map fun x => die * 2048 + x.1 * 128 + x.2 * 8 + wbits d0 16 14

/-- Whether a gang descriptor is refused with SHAPE for a member core (R287). -/
def gangBad (d : List Word) (core : Nat) : Bool :=
  let w := fun i => d.getD i 0
  let d0 := w 0
  wbits d0 63 29 ≠ 0 || wbits (w 3) 63 32 ≠ 0 || wbits (w 4) 63 33 ≠ 0 || wbits (w 5) 63 32 ≠ 0 || w 6 ≠ 0 || w 7 ≠ 0
  || decide (15 < wbits d0 3 0 + wbits d0 10 8) || decide (15 < wbits d0 7 4 + wbits d0 13 11)
  || decide (128 * (wbits d0 10 8 + 1) < wbits (w 4) 9 0 + 1) || decide (128 * (wbits d0 13 11 + 1) < wbits (w 4) 19 10 + 1)
  || !(gangCores d0 (dieOf core)).contains core

/-- The started MGANG of an arrived member. -/
def State.gangCmd (s : State) (w : GangWait) : Option Cmd :=
  ((s.core w.core).started 0).find? fun c => c.tcw.eop == 0x0B && c.issuer == w.issuer

/-- Every arrived member of a descriptor's gang completes with NOGANG (R287). -/
def State.noGang (s : State) (desc : Nat) : State :=
  let ws := s.gangs.filter fun w => w.desc = desc
  let s := { s with gangs := s.gangs.filter fun w => w.desc ≠ desc }
  ws.foldl (fun s w => match s.gangCmd w with
    | some c => s.finish { core := w.core, engine := 0, issuer := c.issuer, bulk := none } c 10
    | none => s) s

/-- The gang forms if all its members have arrived (R287): their commands go on, each to its own part, with the descriptor as
it read it. One member of each core forms it; another of the same core belongs to the next formation. -/
def State.formGang (s : State) (desc : Nat) (d0 : Word) (die : Nat) : State :=
  let ws := s.gangs.filter fun w => w.desc = desc
  if ws.any fun w => ws.any fun v => w.words.take 5 != v.words.take 5 then s.noGang desc
  else
    let members := (gangCores d0 die).filterMap fun c => ws.find? fun w => w.core == c
    if members.length < (gangCores d0 die).length then s
    else
      let s := { s with gangs := s.gangs.filter fun w => !members.contains w }
      members.foldl (fun s w => match s.gangCmd w with
        | some c => s.setCmd { core := w.core, engine := 0, issuer := c.issuer, bulk := none } { c with prog := 1, desc := w.words }
        | none => s) s

/-- The sums of one gang member (R287): the whole K, for its 128 x 128 sub-block. -/
def Eng.gangSums (h : TcwHdr) (d : List Word) (core : Nat) : Eng Unit := do
  let w := fun i => d.getD i 0
  let d0 := w 0
  let p := core / 128 % 16 - wbits d0 3 0
  let q := core / 8 % 16 - wbits d0 7 4
  let mm := wbits (w 4) 9 0 + 1
  let nn := wbits (w 4) 19 10 + 1
  let kk := wbits (w 4) 32 20 + 1
  let sa := wbits (w 3) 15 0
  let sb := wbits (w 3) 31 16
  let sofs := wbits d0 28 18
  match opndOf (w 1), opndOf (w 2) with
  | some oa, some ob =>
    match pathOf oa ob with
    | some path =>
      Eng.fetch ((List.range 128).flatMap (fun i => [elemSpan (w 1) sa (128 * p + i) 0 kk mm kk])
        ++ (List.range kk).map fun k => elemSpan (w 2) sb k (128 * q) 128 kk nn)
      let rows ← (List.range 128).mapM fun i => do
        let es ← Eng.elems (w 1) sa (128 * p + i) 0 kk mm kk h.rm h.ov
        let sc ← Eng.scaleRow (w 1) oa.bl sofs sa (128 * p + i) 0 kk mm kk
        pure (es.zip sc)
      let brows ← (List.range kk).mapM fun k => Eng.elems (w 2) sb k (128 * q) 128 kk nn h.rm h.ov
      let bscs ← (List.range (if ob.bl = 0 then 0 else ceilDiv kk ob.bl)).mapM fun b =>
        Eng.scaleCol (w 2) ob.bl sofs sb b (128 * q) 128 kk nn
      let col := fun j => (List.range kk).map fun k =>
        ((brows.getD k []).getD j 0, if ob.bl = 0 then 127 else (bscs.getD (k / ob.bl) []).getD j 127)
      let cols := (List.range 128).map col
      let t : Target :=
        { ix := fun i j => accIx (2 * (i / 64) + j / 64) (i % 64) (j % 64), rows := 128, cols := 128, wide := false,
          tiles := [0, 1, 2, 3], resid := List.range 256 }
      Eng.modCore fun k => k.beginTarget t (wbit d0 17) false
      let a := fun i => rows.getD i []
      let b := fun j => cols.getD j []
      if path = .res then
        Eng.shortBlocks t oa.fmt ob.fmt ob.bl h.rm h.ov 0 (ceilDiv kk ob.bl) a b
          fun x => (64 * (x / 128) + x % 64, 64 * (x / 64 % 2) + 63)
      else Eng.updateTarget t fun i j acc => accumulate path oa.fmt ob.fmt ob.bl h.rm h.ov acc (a i) (b j)
    | none => Eng.status 3
  | _, _ => Eng.status 3

/-- The gang of a core's MGANG is looked at once its member has arrived (R287). -/
def State.gangArrived (s : State) (core : Nat) (gangdesc : Word) : State :=
  match (s.gangs.filter fun w => w.core == core && w.desc == va gangdesc).getLast? with
  | some w => s.formGang w.desc (w.words.getD 0 0) (dieOf core)
  | none => s

/-- The step of MGANG (R286, R287): a member arrives and waits; once the gang has formed it computes its part. R286 wants q1 aligned
to 64 bytes and names no status: here SHAPE (log 41). -/
def Eng.gang (h : TcwHdr) (gangdesc : Word) : Eng (Option Nat) := do
  let c ← Eng.cmd
  if c.prog = 1 then
    Eng.gangSums h c.desc c.core
    return some 0
  Eng.tag gangdesc
  Eng.failIf (va gangdesc % 64 ≠ 0) 4
  let bs ← Eng.read (va gangdesc) 64
  let d := wordsOf 8 bs
  Eng.failIf (gangBad d c.core) 4
  Eng.tag (d.getD 1 0)
  Eng.tag (d.getD 2 0)
  match opndOf (d.getD 1 0), opndOf (d.getD 2 0) with
  | some oa, some ob =>
    match pathOf oa ob with
    | none => Eng.status 3
    | some p =>
      Eng.failIf p.is64 3
      Eng.failIf (oa.bl ≠ 0 && (strideElems (d.getD 1 0) (wbits (d.getD 3 0) 15 0) % oa.bl ≠ 0)) 4
      Eng.modCore fun k => k.clearRecord c
      let w : GangWait := { desc := va gangdesc, core := c.core, issuer := c.issuer, words := d, at_ := 0, limit := wbits (d.getD 5 0) 31 0 }
      Eng.mod fun s => { s with gangs := s.gangs ++ [{ w with at_ := s.coreCycle c.core }] }
      return none
  | _, _ => Eng.status 3

/-- MGANG (R286, R287). -/
def execMgang (h : TcwHdr) (gangdesc : Word) (s : State) : Host.Outcome State Fault Refusal :=
  match runCmd (Eng.gang h gangdesc) s with
  | .next t => .next ((s.eng.map fun g => t.gangArrived g.core gangdesc).getD t)
  | o => o

/-- The formation limit of a gang passes (R287). -/
def execGangFormationTimeout (desc : Nat) (s : State) : Host.Outcome State Fault Refusal :=
  .next (if s.gangs.any fun w => w.desc == desc && w.limit != 0 && decide (w.at_ + w.limit ≤ s.coreCycle w.core) then s.noGang desc else s)

end Sys2Proof.Machine
end

