-- ==== Sys2Proof/Machine/Rule.lean ====
section
/-!
DEFINITION. The update-rule engines (chapter 15): region descriptors and block records (R333 to R336), rule
contexts (R337, R338), the update of a block (R339 to R344), UPD and UPD.T with their report (R345 to R348),
META.BWD (R349, R350), QUAR.CLR, RULE.Q, and RULE.INST and RULE.ACT (R353 to R355).
-/

namespace Sys2Proof.Machine

/-! ### FP32 arithmetic with accumulated flags (R103, R340) -/

/-- A computation that accumulates flags. -/
abbrev Fl (α : Type) := StateM Flags α

/-- `Rd` of R340: rounds to FP32 with RNE. -/
def Fl.rd (x : FVal × Flags) : Fl Nat := fun f =>
  let r := Fmt.fp32.finish x .rne false
  (r.1, f ||| r.2)

/-- The value of FP32 bits. -/
def v32 (b : Nat) : FVal := Fmt.fp32.value b

/-- Rd(a + b). -/
def fadd (a b : Nat) : Fl Nat := Fl.rd (FVal.add .rne (v32 a) (v32 b))
/-- Rd(a - b). -/
def fsub (a b : Nat) : Fl Nat := Fl.rd (FVal.add .rne (v32 a) (v32 b).negate)
/-- Rd(a x b). -/
def fmul (a b : Nat) : Fl Nat := Fl.rd (FVal.mul (v32 a) (v32 b))
/-- Rd(a / b). -/
def fdiv (a b : Nat) : Fl Nat := Fl.rd (FVal.div (v32 a) (v32 b))
/-- FMA(a, b, c) of R340. -/
def ffma (a b c : Nat) : Fl Nat := Fl.rd (FVal.fma .rne (v32 c) (v32 a) (v32 b))
/-- The correctly rounded square root (R109, R341). -/
def fsqrt (a : Nat) : Fl Nat := Fl.rd (sfApply .sqrt (v32 a))
/-- The correctly rounded base-2 logarithm (R109, R341). -/
def flog2 (a : Nat) : Fl Nat := Fl.rd (sfApply .log2 (v32 a))
/-- minimumNumber. -/
def fmin (a b : Nat) : Fl Nat := Fl.rd (FVal.minNum (v32 a) (v32 b))
/-- maximumNumber. -/
def fmax (a b : Nat) : Fl Nat := Fl.rd (FVal.maxNum (v32 a) (v32 b))
/-- The magnitude of FP32 bits. -/
def fabs (a : Nat) : Nat := a % 2 ^ 31
/-- FP32 bits with the sign changed. -/
def fneg (a : Nat) : Nat := if a < 2 ^ 31 then a + 2 ^ 31 else a - 2 ^ 31
/-- Whether FP32 bits are finite. -/
def isFin32 (a : Nat) : Bool := a / 2 ^ 23 % 256 ≠ 255
/-- Whether FP32 bits are greater than zero. -/
def isPos (a : Nat) : Bool := (FVal.fin false 0 0).lt (v32 a)
/-- FP32 1. -/
def one32 : Nat := 0x3F800000
/-- FP32 32. -/
def thirtyTwo32 : Nat := 0x42000000
/-- FP32 -1. -/
def minusOne32 : Nat := 0xBF800000

/-- ReLU of R342. -/
def relu (x : Nat) : Nat := if isPos x then x else if (v32 x).isNan then Fmt.fp32.nan else 0

/-- sign(x) of R341, as FP32: -1, 1, or 0 for a zero or a NaN. -/
def signOf (x : Nat) : Int := if (v32 x).isNan || (v32 x).isZero then 0 else if (v32 x).neg then -1 else 1

/-- The exact FP32 bits of -1, 0 and 1. -/
def smallInt (i : Int) : Nat := if i = 0 then 0 else if i < 0 then minusOne32 else one32

/-- RMS of R340: an exact sum of squares, rounded, divided, rooted. -/
def rms (x : List Nat) : Fl Nat := do
  let sq := x.map fun a => FVal.mul (v32 a) (v32 a)
  let fl := sq.foldl (fun f y => f ||| y.2) 0
  let t := exactSum .rne (sq.map (·.1))
  let s ← Fl.rd (t.1, t.2 ||| fl)
  let n ← Fl.rd (.ofInt x.length 0, 0)
  fsqrt (← fdiv s n)

/-! ### Descriptors, headers and rule contexts -/

/-- The fields of a region descriptor, d0 to d9 (R333). -/
structure RuleDesc where
  base   : Nat
  rc     : Nat
  nblk   : Nat
  ttrap  : Nat
  policy : Bool
  tclamp : Nat
  beta1  : Nat
  beta2  : Nat
  epsg   : Nat
  eps    : Nat
  epsw   : Nat
  eta    : Nat
  kabs   : Nat
  krel   : Nat
  etafb  : Nat
  s0     : Nat
  s1     : Nat
  s2     : Nat
  trace  : Nat

/-- The descriptor that ten words hold (R333). -/
def ruleDesc (d : List Word) : RuleDesc :=
  let w := fun i => d.getD i 0
  let lo := fun i => wbits (w i) 31 0
  let hi := fun i => wbits (w i) 63 32
  { base := va (w 0), rc := wbits (w 1) 34 32, nblk := wbits (w 1) 24 0, ttrap := wbits (w 2) 56 32, policy := wbit (w 2) 9,
    tclamp := wbits (w 2) 8 0, beta1 := lo 3, beta2 := hi 3, epsg := lo 4, eps := hi 4, epsw := lo 5, eta := hi 5,
    kabs := lo 6, krel := hi 6, etafb := lo 7, s0 := hi 7, s1 := lo 8, s2 := hi 8, trace := va (w 9) }

/-- Whether a descriptor has a reserved bit set (R333, R345). -/
def ruleDescReserved (d : List Word) : Bool :=
  wbits (d.getD 1 0) 63 35 ≠ 0 || wbits (d.getD 1 0) 31 25 ≠ 0 || wbits (d.getD 2 0) 63 57 ≠ 0 || wbits (d.getD 2 0) 31 10 ≠ 0

/-- Whether a field of a descriptor lies outside its range (R333, R346). -/
def RuleDesc.outOfRange (d : RuleDesc) : Bool :=
  d.nblk = 0 || decide (2 ^ 24 < d.nblk) || decide (2 ^ 24 < d.ttrap) || decide (256 < d.tclamp)

/-- The address of block record `b` (R333). -/
def RuleDesc.block (d : RuleDesc) (b : Nat) : Nat := (d.base + 5376 * b) % 2 ^ 56

/-- Rule context `k` (R337). -/
def State.ruleCtx (s : State) (k : Nat) : RuleCtx := sget .reset s.rules k

/-- The state with a rule context changed. -/
def State.modRule (s : State) (k : Nat) (f : RuleCtx → RuleCtx) : State := { s with rules := sset s.rules k (f (s.ruleCtx k)) }

/-- The active slot (true) or the standby slot of a rule context in a slice (R337, R355). -/
def RuleCtx.slotAt (r : RuleCtx) (slice : Nat) (active : Bool) : RSlot :=
  let which := active != r.late.contains slice
  if r.emptied.contains (slice, which) then .empty else if which then r.active else r.standby

/-- The classes that a descriptor may lie on (R333). -/
def descClass (c : Nat) : Bool := c = 0 || c = 4

/-- The access of a rule engine to a block record: E, R, W and G (R336). -/
def EngAcc.gov (write : Bool) : EngAcc := { write, needG := true, needC := false }

/-- The class of a block record's page (R336). -/
def govClass (c : Nat) : Bool := c = 4

/-- Reads bytes of a block record. -/
def Eng.govRead (a n : Nat) : Eng (List Byte) := Eng.readAs (.gov false) govClass a n

/-- Writes bytes of a block record. -/
def Eng.govWrite (a : Nat) (bs : List Byte) : Eng Unit := Eng.writeAs (.gov true) govClass a bs

/-- The rights of a whole range, checked before any of it is written, so that an action on it is whole (R340, R358); the requests for
its sectors are made at once (R315). -/
def Eng.checkRange (k : EngAcc) (cls : Nat → Bool) (a n : Nat) : Eng Unit := do
  Eng.request [{ acc := k, cls, a, n }]
  (sectors a n).forM fun x => do
    let _ ← Eng.page x.1 k cls

/-- The descriptor of a command, read once, and its checks (R333, R345). -/
def Eng.descriptor (region : Word) (first count : Nat) (trace : Bool) : Eng (List Word) := do
  Eng.failIf (va region % 128 ≠ 0) 4
  let bs ← Eng.readAs .read descClass (va region) 80
  let d := wordsOf 10 bs
  let r := ruleDesc d
  let s ← Eng.st
  let c ← Eng.cmd
  Eng.failIf (ruleDescReserved d || r.outOfRange || r.base % 256 ≠ 0 || (trace && r.trace % 4096 ≠ 0) || (s.ruleCtx r.rc).owner ≠ some c.ctx
    || decide (r.nblk < first + count)) 4
  return d

/-- Accumulates the flags of a computation into the command (R103). -/
def Eng.fl {α : Type} (m : Fl α) : Eng α := do
  let c ← Eng.cmd
  let r := m.run c.flags
  Eng.modCmd fun c => { c with flags := r.2 }
  return r.1

/-- The FP32 or BF16 words of a list of bytes, as numbers. -/
def elemsOf (z n : Nat) (bs : List Byte) : List Nat := (List.range n).map fun i => natOfBytes ((bs.drop (z * i)).take z)

/-! ### One block's update -/

/-- The weight and value word `i` of the commons cell at an address, read as one cell operation (R339): E, R and C, class 3
(R336). -/
def Eng.gradCell (a i : Nat) : Eng (Word × Word) := do
  let k ← Eng.core
  Eng.failIf (!((k.plbFind a).any fun p => wbit p 0)) 5
  let t ← Eng.page a .cell fun _ => true
  let w ← Eng.sector a 8 t
  let v ← Eng.sector (a + 8 * (2 + i)) 8 t
  return (wordOfNat (natOfBytes w), wordOfNat (natOfBytes v))

/-- The requests for the gradients of block `b` (R315, R339). -/
def gradRequests (grad : Word) (b n nval : Nat) : List Request :=
  let read := fun (a n : Nat) => ({ acc := .read, cls := fun _ => true, a := a % 2 ^ 56, n } : Request)
  match ptrCode grad with
  | 2 => [read (va grad + 1024 * b) (4 * n)]
  | 3 => [read (va grad + 512 * b) (2 * n)]
  | _ => ((List.range n).map fun e => (256 * b + e) / nval).dedup.map fun i =>
      { acc := .cell, cls := fun _ => true, a := (va grad + 256 * i) % 2 ^ 56, n := 1 }

/-- The gradients of the first `n` elements of block `b` (R339); `nval` and `q` are those of the commons region. -/
def Eng.gradients (grad : Word) (b n nval q : Nat) : Eng (List Nat) := do
  match ptrCode grad with
  | 2 => return elemsOf 4 n (← Eng.read ((va grad + 1024 * b) % 2 ^ 56) (4 * n))
  | 3 => return (elemsOf 2 n (← Eng.read ((va grad + 512 * b) % 2 ^ 56) (2 * n))).map (· * 65536)
  | _ =>
    (List.range n).mapM fun e => do
      let i := 256 * b + e
      let (wt, v) ← Eng.gradCell ((va grad + 256 * (i / nval)) % 2 ^ 56) (i % nval)
      let x := estimate q wt v
      Eng.flag x.2
      Eng.conv .fp32 (Fmt.fp64.value x.1) .rne false

/-- A weight of an image, widened exactly (R342). -/
def imageWeight (w : List (BitVec 16)) (i : Nat) : Nat := (w.getD i 0).toNat * 65536

/-- Net of R342: z1, z2 and y. -/
def net (w : List (BitVec 16)) (f : List Nat) : Fl (List Nat × List Nat × Nat) := do
  let wt := imageWeight w
  let z1 ← (List.range 32).mapM fun i =>
    (List.range 12).foldlM (fun z k => ffma (wt (12 * i + k)) (f.getD k 0) z) (wt (384 + i))
  let z2 ← (List.range 32).mapM fun j =>
    (List.range 32).foldlM (fun z i => ffma (wt (416 + 32 * j + i)) (relu (z1.getD i 0)) z) (wt (1440 + j))
  let y ← (List.range 32).foldlM (fun y j => ffma (wt (1472 + j)) (relu (z2.getD j 0)) y) (wt 1504)
  return (z1, z2, y)

/-- What a block's elements share (R340). -/
structure BlockVals where
  dg : Nat
  dw : Nat
  t  : Nat

/-- Features of R341. -/
def features (d : RuleDesc) (v : BlockVals) (g w m1 m2 gprev dprev : Nat) : Fl (List Nat) := do
  let f0 ← fdiv g v.dg
  let f1 ← fdiv m1 (← fadd (← fsqrt m2) d.eps)
  let f2 ← fdiv m1 v.dg
  let f4 ← fdiv w v.dw
  let f5 ← fdiv dprev v.dw
  let t1 ← Fl.rd (.ofInt (v.t + 1) 0, 0)
  let f6 ← fdiv (← fmin (← flog2 t1) thirtyTwo32) thirtyTwo32
  let f7 ← fdiv (← flog2 v.dg) thirtyTwo32
  let f8 ← fdiv (← flog2 v.dw) thirtyTwo32
  return [f0, f1, f2, smallInt (signOf g * signOf gprev), f4, f5, f6, f7, f8, d.s0, d.s1, d.s2]

/-- Step of R343: the step, whether it was clamped, whether it was not finite. Sign(d) is taken as the sign(x) of R341, 0 for a
zero (DEDUCED, log 78). -/
def stepOf (d : RuleDesc) (dw w y : Nat) : Fl (Nat × Bool × Bool) := do
  if !isFin32 y then return (0, false, true)
  let x ← fmul (← fmul y dw) d.eta
  let b ← fmax d.kabs (← fmul d.krel (fabs w))
  if (v32 b).lt (v32 (fabs x)) then return (← fmul (smallInt (signOf x)) b, true, false)
  if !isFin32 (← fadd w x) then return (0, false, true)
  return (x, false, false)

/-- Policy of R343. -/
def policyOf (d : RuleDesc) (dw f1 : Nat) : Fl Nat := do
  if !d.policy then return 0
  let q := if (v32 f1).isNan then 0 else f1
  let q ← fmin (← fmax q minusOne32) one32
  fmul (← fmul (fneg d.etafb) q) dw

/-- What the update of one element gives: the moments, features, layers, output, step, clamped and non-finite marks. -/
structure ElemOut where
  m1 : Nat
  m2 : Nat
  f  : List Nat
  z1 : List Nat
  z2 : List Nat
  y  : Nat
  d  : Nat
  cl : Bool
  nf : Bool

/-- One element of the update loop of R340. -/
def elemUpdate (d : RuleDesc) (v : BlockVals) (quar : Bool) (wts : List (BitVec 16)) (g w m1 m2 gprev dprev : Nat) : Fl ElemOut := do
  let m1' ← ffma (← fsub one32 d.beta1) g (← fmul d.beta1 m1)
  let m2' ← ffma (← fsub one32 d.beta2) (← fmul g g) (← fmul d.beta2 m2)
  let f ← features d v g w m1' m2' gprev dprev
  if quar then
    return { m1 := m1', m2 := m2', f, z1 := [], z2 := [], y := Fmt.fp32.nan, d := 0, cl := false, nf := !isFin32 g }
  let (z1, z2, y) ← net wts f
  let (x, cl, nf) ← stepOf d v.dw w y
  return { m1 := m1', m2 := m2', f, z1, z2, y, d := x, cl, nf := nf || !isFin32 g }

/-- The 320-byte trace record of an element (R348); the layers of a rule that was not evaluated are free values (log 12). -/
def traceRecord (free : Nat) (o : ElemOut) : List Byte :=
  let w4 := fun x => bytesOfNat 4 x
  let layers := if o.z1.isEmpty then (List.range 256).map fun i => Config.freeByte (free + i) else (o.z1 ++ o.z2).flatMap w4
  o.f.flatMap w4 ++ layers ++ w4 o.y ++ w4 ((if o.cl then 1 else 0) + if o.nf then 2 else 0) ++ List.replicate 8 0

/-- Words with a range of bits replaced at one index. -/
def setField (h : List Word) (i hi lo v : Nat) : List Word := h.set i (setBits (h.getD i 0) hi lo v)

/-- The header after an update (R340, R348). -/
def headerAfter (h : List Word) (d : RuleDesc) (v : Nat) (quar : Bool) (cl nf rg rw : Nat) : List Word :=
  let h := setField h 0 51 51 (if wbit (h.getD 0 0) 51 then 0 else 1)
  let h := setField h 0 31 0 (wbits (h.getD 0 0) 31 0 + 1)
  let h := setField h 0 47 32 v
  let h := setField h 0 50 48 d.rc
  let h := setField h 0 52 52 (if quar then 1 else 0)
  let h := setField h 1 8 0 cl
  let h := setField h 1 24 16 nf
  h.set 2 (wordOfNat (rg + rw * 2 ^ 32))

/-- The trace slot's header words (R348). -/
def headerTrace (h : List Word) (t v dw c : Nat) (quar : Bool) : List Word :=
  let h := if t = 0 then (List.range 7).foldl (fun h i => setField h (6 + 2 * i) 16 16 0) h else h
  let h := h.set (4 + 2 * t) (wordOfNat (v + 2 ^ 16 + if quar then 2 ^ 17 else 0))
  h.set (5 + 2 * t) (wordOfNat (dw + c * 2 ^ 32))

/-- The run with a block done. -/
def RuleRun.did (r : RuleRun) (b : Nat) : RuleRun :=
  { r with todo := r.todo.filter (fun x => x ≠ b), waits := sdel r.waits b, homes := sdel r.homes b, updated := true }

/-- The update of block `b` at slice `slice` (R340, R348), as one action on the record: the run's new tallies. A pinned block is
left for later (R357). -/
def Eng.blockUpdate (run : RuleRun) (f : UpdF) (traced : Bool) (b slice : Nat) : Eng RuleRun := do
  let d := ruleDesc run.desc
  let a := d.block b
  let r := run.did b
  Eng.checkRange (.gov true) govClass a 5376
  let h := wordsOf 32 (← Eng.govRead a 256)
  let h0 := h.getD 0 0
  if wbits (h.getD 1 0) 47 32 ≠ 0 then return run
  if headerBad h then return { r with badhdr := r.badhdr + 1 }
  if wbits h0 31 0 ≠ f.steptag.toNat then return { r with stale := r.stale + 1 }
  let s ← Eng.st
  let act := (s.ruleCtx d.rc).slotAt slice true
  let v := act.version
  if v = 0 then return { r with norule := r.norule + 1 }
  if act.held then return { r with held := r.held + 1 }
  let n := wbits h0 62 54
  let p := if wbit h0 51 then 1 else 0
  let quar0 := wbit h0 52
  let trace := traced && wbit h0 53
  let area := (d.trace + (wbits (h.getD 1 0) 63 48 * 8 + f.slot.toNat) * 81920) % 2 ^ 56
  Eng.request (gradRequests f.grad b n (r.desc.getD 10 0).toNat
    ++ if trace then [{ acc := .wr, cls := fun c => c = 0, a := area, n := 320 * n }] else [])
  let g ← Eng.gradients f.grad b n (r.desc.getD 10 0).toNat (r.desc.getD 11 0).toNat
  let wAll ← Eng.govRead ((a + 256 + 1024 * p) % 2 ^ 56) 1024
  let w := elemsOf 4 n wAll
  let m1 := elemsOf 4 n (← Eng.govRead ((a + 2304) % 2 ^ 56) (4 * n))
  let m2 := elemsOf 4 n (← Eng.govRead ((a + 3328) % 2 ^ 56) (4 * n))
  let gp := (elemsOf 2 n (← Eng.govRead ((a + 4352) % 2 ^ 56) (2 * n))).map (· * 65536)
  let dp := (elemsOf 2 n (← Eng.govRead ((a + 4864) % 2 ^ 56) (2 * n))).map (· * 65536)
  let fin := g.all isFin32
  let rg ← Eng.fl (rms g)
  let rw ← Eng.fl (rms w)
  let dg ← Eng.fl (fadd rg d.epsg)
  let dw ← Eng.fl (fadd rw d.epsw)
  let vals : BlockVals := { dg, dw, t := wbits h0 31 0 }
  let at_ := fun (l : List Nat) e => l.getD e 0
  let es ← Eng.fl ((List.range n).mapM fun e =>
    elemUpdate d vals quar0 act.weights (at_ g e) (at_ w e) (at_ m1 e) (at_ m2 e) (at_ gp e) (at_ dp e))
  let cl := (es.filter (·.cl)).length
  let nf := (es.filter (·.nf)).length
  let new := !quar0 && (decide (0 < nf) || decide (d.tclamp < cl))
  let quar := quar0 || new
  let es ← if quar then Eng.fl (es.mapM fun o => do
      let x ← policyOf d dw (o.f.getD 1 0)
      return { o with d := x }) else pure es
  let w' ← Eng.fl ((List.range n).mapM fun e => fadd (at_ w e) ((es.map (·.d)).getD e 0))
  let dp' ← es.mapM fun o => Eng.conv .bf16 (v32 o.d) .rne false
  let gp' ← if fin then g.mapM fun x => Eng.conv .bf16 (v32 x) .rne false else pure []
  let c ← if trace then Eng.fl (fmul dw d.eta) else pure 0
  let h' := headerAfter h d v quar cl nf rg rw
  let h' := if trace then headerTrace h' f.slot.toNat v dw c quar else h'
  if trace then Eng.checkRange .wr (fun c => c = 0) area (320 * n)
  Eng.govWrite a (h'.flatMap fun x => bytesOfNat 8 x.toNat)
  Eng.govWrite ((a + 256 + 1024 * (1 - p)) % 2 ^ 56) (w'.flatMap (bytesOfNat 4) ++ wAll.drop (4 * n))
  Eng.govWrite ((a + 4864) % 2 ^ 56) (dp'.flatMap (bytesOfNat 2))
  if fin then
    Eng.govWrite ((a + 2304) % 2 ^ 56) (es.flatMap fun o => bytesOfNat 4 o.m1)
    Eng.govWrite ((a + 3328) % 2 ^ 56) (es.flatMap fun o => bytesOfNat 4 o.m2)
    Eng.govWrite ((a + 4352) % 2 ^ 56) (gp'.flatMap (bytesOfNat 2))
  if trace then
    let s ← Eng.st
    Eng.writeAs .wr (fun c => c = 0) area (((List.range n).zip es).flatMap fun x => traceRecord (s.free + 256 * x.1) x.2)
    Eng.mod fun s => { s with free := s.free + if quar0 then 256 * n else 0 }
  return { r with
    versions := sput 0 r.versions v (sget 0 r.versions v + 1)
    newQuar := r.newQuar + if new then 1 else 0
    oldQuar := r.oldQuar + if quar0 then 1 else 0
    clamped := r.clamped + cl
    nonfin := r.nonfin + nf
    diverge := if new && !r.diverge.contains v then r.diverge ++ [v] else r.diverge }

/-! ### UPD and UPD.T -/

/-- The check of a gradient in commons cells (R339): the region's nval and q. -/
def Eng.gradRegion (grad : Word) (first count : Nat) : Eng (List Word) := do
  if ptrCode grad ≠ 14 then return []
  let s ← Eng.st
  let c ← Eng.cmd
  match s.regionAt c.ctx (va grad) with
  | none => Eng.status 4
  | some (_, g) =>
    let off := va grad - g.base
    Eng.failIf (off % 256 ≠ 0 || decide (g.ncell ≤ off / 256 + (256 * (first + count) - 1) / g.nval)) 4
    return [wordOfNat g.nval, wordOfNat g.q]

/-- A rule command's blocks are delivered to their engines, and the command waits for their reports (R347, R358). -/
def Eng.startRun (desc : List Word) (first n : Nat) : Eng (Option Nat) := do
  let c ← Eng.cmd
  let r : RuleRun :=
    { cmd := c, desc, todo := (List.range n).map (first + ·), waits := [], homes := [], versions := [], newQuar := 0, oldQuar := 0,
      stale := 0, held := 0, norule := 0, badhdr := 0, clamped := 0, nonfin := 0, diverge := [], code := 0, updated := false }
  Eng.mod fun s => { s with ruleRuns := s.ruleRuns ++ [r] }
  return none

/-- The start of an update command (R339, R345, R347): its checks; then its blocks are delivered. -/
def Eng.startUpd (f : UpdF) (traced : Bool) : Eng (Option Nat) := do
  Eng.tag f.region
  Eng.tag f.grad
  let code := ptrCode f.grad
  Eng.failIf (code ≠ 2 && code ≠ 3 && code ≠ 14) 3
  let n := f.count.toNat
  Eng.failIf (n = 0 || decide (2 ^ 24 < n)) 4
  let d ← Eng.descriptor f.region f.first.toNat n traced
  let g ← Eng.gradRegion f.grad f.first.toNat n
  Eng.startRun (d ++ g) f.first.toNat n

/-- UPD (R347): its start. -/
def execUpd (_h : TcwHdr) (f : UpdF) (s : State) := runCmd (Eng.startUpd f false) s
/-- UPD.T (R348): its start. -/
def execUpdT (_h : TcwHdr) (f : UpdF) (s : State) := runCmd (Eng.startUpd f true) s

/-- The fields of an update command, and whether it records traces. -/
def Cmd.updFields (c : Cmd) : Option (UpdF × Bool) :=
  match decodeTcw c.tcw with
  | some (.upd _ f) => some (f, false)
  | some (.updT _ f) => some (f, true)
  | _ => none

/-- The selection and the started command of an update that waits for its blocks. -/
def State.runCmdOf (s : State) (r : RuleRun) : Option (EngSel × Cmd) :=
  let g : EngSel := { core := r.cmd.core, engine := 2, issuer := r.cmd.issuer, bulk := none }
  (s.selCmd g).map fun c => (g, c)

/-- The state with an update's progress changed. -/
def State.setRun (s : State) (r : RuleRun) : State :=
  { s with ruleRuns := s.ruleRuns.map fun x => if x.cmd.core == r.cmd.core && x.cmd.issuer == r.cmd.issuer then r else x }

/-- The words d10 to d15 of an update's report (R333, R347). Where the command has updated no block there is no lowest version that was
used, and version and count of d10 are 0 (DESIGN CHOICE, log 78). Each count has 32 bits there; that a count of clamped or of
non-finite elements of 2^32 (2^24 blocks of 256 elements) is taken modulo 2^32 is the model's choice (DESIGN CHOICE, log 78). -/
def RuleRun.report (r : RuleRun) : List Word :=
  let pair := fun (k : Nat) => (r.versions.drop k).head?.getD (0, 0)
  let others := ((r.versions.drop 2).map (·.2)).sum
  let two := fun lo hi => wordOfNat (lo % 2 ^ 32 + hi % 2 ^ 32 * 2 ^ 32)
  [two (pair 0).2 (pair 0).1, two (pair 1).2 (pair 1).1, two r.newQuar r.oldQuar, two r.stale r.held, two r.clamped r.nonfin,
   two (r.norule + r.badhdr) others]

/-- Whether an update diverged (R344). -/
def RuleRun.diverged (r : RuleRun) : Bool := decide ((ruleDesc r.desc).ttrap < r.newQuar)

/-- The status of an update (R346), or of another rule command over blocks. -/
def RuleRun.status (r : RuleRun) : Nat :=
  if r.code ≠ 0 then r.code
  else if r.diverged then 40
  else if r.held ≠ 0 then 41
  else if r.norule ≠ 0 then 42
  else if r.badhdr ≠ 0 then 43
  else if r.stale ≠ 0 then 7 else 0

/-- The held bit of the versions that a diverged update's newly quarantined blocks used, in every slice (R344). -/
def RuleCtx.hold (vs : List Nat) (k : RuleCtx) : RuleCtx :=
  let h := fun (x : RSlot) => if vs.contains x.version && x.version ≠ 0 then { x with held := true } else x
  { k with active := h k.active, standby := h k.standby }

/-! ### META.BWD -/

/-- The state of the element loop of R350: the gradient of the rule, the adjoints of weight and previous step. -/
structure BwdState where
  g  : List Nat
  aw : Nat
  ad : Nat

/-- Backprop of R350: the new gradient, and gf[0..11]. -/
def backprop (w : List (BitVec 16)) (f z1 z2 : List Nat) (gy : Nat) (g : List Nat) : Fl (List Nat × List Nat) := do
  let wt := imageWeight w
  let gz2 ← (List.range 32).mapM fun j => if isPos (z2.getD j 0) then fmul gy (wt (1472 + j)) else pure 0
  let gz1 ← (List.range 32).mapM fun i => do
    let gh ← (List.range 32).foldlM (fun a j => ffma (gz2.getD j 0) (wt (416 + 32 * j + i)) a) 0
    return if isPos (z1.getD i 0) then gh else 0
  let g' ← (List.range 1505).mapM fun x => do
    let old := g.getD x 0
    if x < 384 then ffma (gz1.getD (x / 12) 0) (f.getD (x % 12) 0) old
    else if x < 416 then fadd old (gz1.getD (x - 384) 0)
    else if x < 1440 then ffma (gz2.getD ((x - 416) / 32) 0) (relu (z1.getD ((x - 416) % 32) 0)) old
    else if x < 1472 then fadd old (gz2.getD (x - 1440) 0)
    else if x < 1504 then ffma gy (relu (z2.getD (x - 1472) 0)) old
    else fadd old gy
  let gf ← (List.range 12).mapM fun k =>
    (List.range 32).foldlM (fun a i => ffma (gz1.getD i 0) (wt (12 * i + k)) a) 0
  return (g', gf)

/-- One trace slot of one element (R350): `rec` are the 320 bytes of its trace. -/
def bwdSlot (w : List (BitVec 16)) (rec : List Byte) (dw c : Nat) (tq : Bool) (x : BwdState) : Fl BwdState := do
  let es := elemsOf 4 78 rec
  let flags := es.getD 77 0
  let gd ← fadd x.aw x.ad
  let gy ← if tq || flags % 4 ≠ 0 then pure 0 else fmul gd c
  let (g, gf) ← backprop w (es.take 12) ((es.drop 12).take 32) ((es.drop 44).take 32) gy x.g
  let ad ← fdiv (gf.getD 5 0) dw
  let aw ← fadd x.aw (← fdiv (gf.getD 4 0) dw)
  return { g, aw, ad }

/-- The addition of a block to its slice's record, or why it is excluded (R350): the new record. That a count of blocks there, an
I32, is taken modulo 2^32 is the model's choice (DESIGN CHOICE, log 78). -/
def Eng.bwdBlock (d : RuleDesc) (adjoint : Word) (b kk slice : Nat) (h : List Word) (rec : List Byte) : Eng (List Byte) := do
  let word := fun (o : Nat) => natOfBytes ((rec.drop o).take 4)
  let bump := fun (o : Nat) => rec.take o ++ bytesOfNat 4 (word o + 1) ++ rec.drop (o + 4)
  let slots := (List.range kk).map fun t => h.getD (4 + 2 * t) 0
  if headerBad h || slots.any (fun w => !wbit w 16) then return bump 8
  let v := wbits (slots.headD 0) 15 0
  if slots.any fun w => wbits w 15 0 ≠ v then return bump 4
  let s ← Eng.st
  let rc := s.ruleCtx d.rc
  let image := [rc.slotAt slice true, rc.slotAt slice false].find? fun x => x.version == v && v ≠ 0
  let old := word 12 % 65536
  match image with
  | none => return bump 8
  | some im =>
    if old ≠ 0 ∧ old ≠ v then return bump 8
    let n := wbits (h.getD 0 0) 62 54
    let adj := elemsOf 4 n (← Eng.readAs .read (fun c => c = 0) ((va adjoint + 1024 * b) % 2 ^ 56) (4 * n))
    let tidx := wbits (h.getD 1 0) 63 48
    let g ← (List.range n).foldlM (fun (g : List Nat) e => do
      let x ← (List.range kk).reverse.foldlM (fun (x : BwdState) t => do
        let area := (d.trace + (tidx * 8 + t) * 81920 + 320 * e) % 2 ^ 56
        let r ← Eng.readAs .read (fun c => c = 0) area 320
        let sc := h.getD (5 + 2 * t) 0
        Eng.fl (bwdSlot im.weights r (wbits sc 31 0) (wbits sc 63 32) (wbit (h.getD (4 + 2 * t) 0) 17) x))
        { g, aw := adj.getD e 0, ad := 0 }
      return x.g) (elemsOf 4 1505 (rec.drop 64))
    return bytesOfNat 4 (word 0 + 1) ++ (rec.take 12).drop 4 ++ bytesOfNat 2 v ++ (rec.take 64).drop 14
      ++ g.flatMap (bytesOfNat 4) ++ rec.drop 6084

/-- The start of META.BWD (R349): its checks; then its blocks are delivered. -/
def Eng.startBwd (region adjoint rgrad : Word) (first n : Nat) : Eng (Option Nat) := do
  Eng.tag region
  Eng.tag adjoint
  Eng.tag rgrad
  Eng.failIf (ptrCode adjoint ≠ 2) 3
  let d ← Eng.descriptor region first n true
  Eng.startRun d first n

/-- META.BWD (R349, R350): its start. -/
def execMetaBwd (_h : TcwHdr) (region adjoint rgrad : Word) (first : BitVec 17) (count : BitVec 12) (_kk : BitVec 3) (s : State) :=
  runCmd (Eng.startBwd region adjoint rgrad first.toNat (count.toNat + 1)) s

/-- META.BWD of block `b` at slice `slice` (R350): one action on the slice's record. -/
def Eng.blockBwd (r : RuleRun) (adjoint rgrad : Word) (kk b slice : Nat) : Eng RuleRun := do
  let d := ruleDesc r.desc
  let a := d.block b
  Eng.checkRange (.gov true) govClass a 256
  let h := wordsOf 32 (← Eng.govRead a 256)
  if wbit (h.getD 0 0) 53 then
    let at_ := (va rgrad + 8192 * slice) % 2 ^ 56
    Eng.checkRange .wr (fun c => c = 0) at_ 6084
    let rec ← Eng.readAs .read (fun c => c = 0) at_ 6084
    let rec' ← Eng.bwdBlock d adjoint b kk slice h rec
    Eng.writeAs .wr (fun c => c = 0) at_ rec'
  return r.did b

/-! ### QUAR.CLR and RULE.Q -/

/-- The start of QUAR.CLR (R351): its checks; then its blocks are delivered. -/
def Eng.startQuar (region : Word) (first n : Nat) : Eng (Option Nat) := do
  Eng.tag region
  Eng.failIf (n = 0 || decide (2 ^ 24 < n)) 4
  let d ← Eng.descriptor region first n false
  Eng.startRun d first n

/-- QUAR.CLR (R351): its start. -/
def execQuarClr (_h : TcwHdr) (region : Word) (first : BitVec 24) (count : BitVec 25) (s : State) :=
  runCmd (Eng.startQuar region first.toNat count.toNat) s

/-- QUAR.CLR of block `b` (R351): quar is cleared, and nothing else changes. -/
def Eng.blockClear (r : RuleRun) (b : Nat) : Eng RuleRun := do
  let a := (ruleDesc r.desc).block b
  Eng.checkRange (.gov true) govClass a 8
  let h0 := wordOfNat (natOfBytes (← Eng.govRead a 8))
  Eng.govWrite a (bytesOfNat 8 (setBits h0 52 52 0).toNat)
  return r.did b

/-- The snapshot that RULE.Q writes (R352). -/
def RuleCtx.snapshot (k : RuleCtx) (slice : Nat) : Word :=
  let a := k.slotAt slice true
  let b := k.slotAt slice false
  let bit := fun (x : Bool) => if x then 1 else 0
  wordOfNat (a.version + b.version * 2 ^ 16 + bit a.held * 2 ^ 39 + bit b.held * 2 ^ 40 + bit (!k.late.isEmpty) * 2 ^ 41
    + k.owner.getD 0 * 2 ^ 48)

/-- RULE.Q (R352). -/
def execRuleQ (_h : TcwHdr) (dst : Word) (rulectx : BitVec 3) (s : State) :=
  runCmd (do
    Eng.tag dst
    Eng.failIf (ptrCode dst ≠ 0) 3
    let s ← Eng.st
    let c ← Eng.cmd
    let k := s.ruleCtx rulectx.toNat
    Eng.failIf (va dst % 64 ≠ 0 || k.owner ≠ some c.ctx) 4
    let t ← Eng.page (va dst) .wr fun c => c = 0
    let s ← Eng.st
    let w := k.snapshot (s.homeSlice t (dieOf c.core) (va dst))
    Eng.writeAs .wr (fun c => c = 0) (va dst) (bytesOfNat 64 w.toNat)
    return some 0) s

/-! ### The choice of blocks, and reports -/

/-- What a rule command does with block `b` at slice `slice` (R340, R348, R350, R351). -/
def Cmd.blockStep (c : Cmd) (r : RuleRun) (b slice : Nat) : Eng RuleRun :=
  match decodeTcw c.tcw with
  | some (.upd _ f) => Eng.blockUpdate r f false b slice
  | some (.updT _ f) => Eng.blockUpdate r f true b slice
  | some (.metaBwd _ _ adjoint rgrad _ _ kk) => Eng.blockBwd r adjoint rgrad (kk.toNat + 1) b slice
  | some (.quarClr _ _ _ _) => Eng.blockClear r b
  | _ => return r.did b

/-- The slice of the engine that takes block `b` (R336, R347): the one that had it when a slice passed it, else its home, where its page
can be translated and has one. A page placed by its first touch has none before that (R176). -/
def State.blockHome (s : State) (r : RuleRun) (b : Nat) : Option Nat :=
  let a := (ruleDesc r.desc).block b
  match sfind r.homes b with
  | some k => some k
  | none =>
  match s.translate (sliceOf r.cmd.core) a true with
  | .ok (t, _) =>
    if leafPlace t.leaf = 2 && !shas s.firstTouch (t.base / 65536) then none else some (s.homeSlice t (dieOf r.cmd.core) a)
  | .error _ => none

/-- The block that a slice takes next of those left to a command, in ascending order (R362): where the home of a block is not
known yet, no slice passes it, and the slice of the issuing core tries it (log 78). -/
def State.sliceBlock (s : State) (r : RuleRun) (slice : Nat) : List Nat → Option Nat
  | [] => none
  | b :: bs =>
    match s.blockHome r b with
    | some k => if k = slice then some b else s.sliceBlock r slice bs
    | none => if sliceOf r.cmd.core = slice then some b else none

/-- The run as a slice starts block `b`: that block is the slice's, and those before it that it has passed stay with the engines that
have them now, whatever becomes of their homes: so no slice starts a block after a later one (R362, log 78). -/
def State.passed (s : State) (r : RuleRun) (b slice : Nat) : RuleRun :=
  let homes := (r.todo.takeWhile (· < b)).foldl (fun m x => match s.blockHome r x with
    | some k => sset m x k
    | none => m) r.homes
  { r with homes := sset homes b slice }

/-- Whether a block's update waits for its pins (R340, R357): where the command may access the record, its count is not 0. -/
def State.blockPinned (s : State) (c : Cmd) (r : RuleRun) (b : Nat) : Bool :=
  let a := (ruleDesc r.desc).block b
  let look : Eng Bool := do
    Eng.checkRange (.gov true) govClass a 5376
    Eng.checkRange (.gov false) govClass a 5376
    let t ← Eng.page a (.gov false) govClass
    let s ← Eng.st
    let w := wordOfNat (natOfBytes (s.homeRead t (dieOf c.core) (a + 8) 8))
    return !s.badAt t (dieOf c.core) a 16 && wbits w 47 32 ≠ 0
  c.updFields.isSome && match look { st := s, cmd := c } with
  | .ok (p, _) => p
  | .error _ => false

/-- Whether the engine of block `b` can go on with it: no request of it is still to be sent again (R315), it is not pinned, and
the issuing context is not stopped (R358). -/
def State.blockReady (s : State) (c : Cmd) (r : RuleRun) (b : Nat) : Bool :=
  !((sget [] r.waits b).any fun n => shas c.retries n) && !s.stopped c.core && !s.blockPinned c r b

/-- The command, its run and its block that the engine of a slice takes next (R265, R347, R358). -/
def State.nextBlock (s : State) (slice : Nat) : Option (RuleRun × EngSel × Cmd × Nat) :=
  let cands := s.ruleRuns.filterMap fun r =>
    match s.sliceBlock r slice r.todo, s.runCmdOf r with
    | some b, some (g, c) => if s.blockReady c r b then some (r, g, c, b) else none
    | _, _ => none
  cands.foldl (fun best x => match best with
    | none => some x
    | some y =>
      let p := s.cmdPrio x.2.2.1
      let q := s.cmdPrio y.2.2.1
      if q < p ∨ (p = q ∧ x.2.2.1.before y.2.2.1) then some x else some y) none

/-- The engine of a slice takes its next block (R340, R347, R350, R351, R358). A refused access ends the command part-way
(R336). -/
def execRuleBlockUpdate (slice : Nat) (s : State) : Host.Outcome State Fault Refusal :=
  .next (match s.nextBlock slice with
    | none => s
    | some (r, g, c, b) =>
      let r := s.passed r b slice
      match c.blockStep r b slice { st := s, cmd := c } with
      | .ok (r', e) => (e.st.setCmd g e.cmd.stepped).setRun r'
      | .error (.status code e) => (e.st.setCmd g e.cmd).setRun { r with todo := [], code }
      | .error (.retry f w) =>
        (s.refuseRemote g c f w).setRun { r with waits := sset r.waits b ((f.missing ++ f.stores).map (· / 64)) }
      | .error x => s.stopStep g c x)

/-- The report of a rule command over blocks: an update's engine writes d10 to d15, unless the command ended before any block
was done (R347). The slice of the reporting engine. -/
def Eng.reportRun (c : Cmd) (r : RuleRun) : Eng Nat := do
  match c.updFields with
  | none => return sliceOf c.core
  | some (f, _) =>
    let t ← Eng.page (va f.region) .wr descClass
    if r.code = 0 || r.updated then
      Eng.writeAs .wr descClass ((va f.region + 80) % 2 ^ 56) (r.report.flatMap fun w => bytesOfNat 8 w.toNat)
    let s ← Eng.st
    return s.homeSlice t (dieOf c.core) (va f.region)

/-- Whether the `k`th rule command can report: its blocks are done and its context is not stopped (R358). -/
def State.reportReady (s : State) (k : Nat) : Option (RuleRun × EngSel × Cmd) :=
  match s.ruleRuns[k]? with
  | none => none
  | some r =>
    match s.runCmdOf r with
    | some (g, c) => if r.todo.isEmpty && c.retries.isEmpty && !s.stopped c.core then some (r, g, c) else none
    | none => none

/-- The reporting engine of the `k`th rule command over blocks reports, and completes the command; where an update diverged
the holds are set first (R344, R347). -/
def execRuleReport (k : Nat) (s : State) : Host.Outcome State Fault Refusal :=
  .next (match s.reportReady k with
    | none => s
    | some (r, g, c) =>
      let done := fun (s : State) (code slice : Nat) =>
        let s := if r.diverged then s.modRule (ruleDesc r.desc).rc (RuleCtx.hold r.diverge) else s
        let s := { s with ruleRuns := s.ruleRuns.eraseIdx k }
        (s.dropCmd g c).report c 2 (8 * slice) code
      match Eng.reportRun c r { st := s, cmd := c } with
      | .ok (slice, e) => done e.st r.status slice
      | .error (.status code e) => done e.st code (sliceOf c.core)
      | .error x => s.stopStep g c x)

/-! ### RULE.INST and RULE.ACT -/

/-- The rule context that a register names, assigned to the executing context, else cause 30 with stval 16 (R353). -/
def Act.ruleContext (rs1 : Reg) : Act Nat := do
  let k := (← Act.x rs1).toNat
  let s ← get
  if 7 < k || (s.ruleCtx k).owner ≠ some (s.ctxOf s.cur) then Act.trap 30 16
  return k

/-- Whether an image is malformed: version 0 or a reserved byte set (R338, R353). -/
def imageBad (bs : List Byte) : Bool :=
  natOfBytes (bs.take 2) = 0 || ((bs.take 64).drop 2).any (· ≠ 0) || (bs.drop 3074).any (· ≠ 0)

/-- The slot that an image fills, not held (R338, R354). -/
def imageSlot (bs : List Byte) : RSlot :=
  { version := natOfBytes (bs.take 2), held := false, weights := (elemsOf 2 1505 (bs.drop 64)).map (BitVec.ofNat 16) }

/-- An extension of measurement register `n` with a hash (R456). -/
def State.extendMr (s : State) (n : Nat) (x : BitVec 384) : State :=
  let old := sget 0 s.mrs n
  { s with mrs := sset s.mrs n (sha384 (beBytes 48 old.toNat ++ beBytes 48 x.toNat)) }

/-- RULE.INST (R353, R354); the image is measured (R456). -/
def execRuleInst (rs1 rs2 : Reg) (s : State) :=
  runSlot (do
    Act.privileged (.ruleInst rs1 rs2)
    let k ← Act.ruleContext rs1
    let a := va (← Act.x rs2)
    if a % 64 ≠ 0 then Act.trap 30 17
    Act.released .package do
      let s ← get
      if !(s.ruleCtx k).late.isEmpty then Act.wait
      let bs ← Act.loadRecord a 4096
      Act.kept s a 4096 do
        if imageBad bs then Act.trap 30 17
        let im := imageSlot bs
        let r := s.ruleCtx k
        if (List.range 1024).any fun i => (r.slotAt i true).version == im.version then Act.trap 30 18
        Act.mod fun s => (s.modRule k fun r => { r with standby := im, emptied := r.emptied.filter fun e => e.2 }).extendMr (3 + k / 2) (sha384 bs)
        Act.next) s

/-- RULE.ACT (R353, R355): it waits for an earlier one; then every slice has still to make the exchange. -/
def execRuleAct (rd rs1 : Reg) (s : State) :=
  runSlot (do
    Act.privileged (.ruleAct rd rs1)
    let k ← Act.ruleContext rs1
    let s ← get
    let r := s.ruleCtx k
    if !r.late.isEmpty then Act.wait
    if (List.range 1024).any fun i => (r.slotAt i false).version == 0 then Act.trap 30 19
    let result := wordOfNat (r.standby.version + r.active.version * 2 ^ 16)
    Act.mod fun s => s.modRule k fun r =>
      { r with active := r.standby, standby := r.active, late := List.range 1024, emptied := r.emptied.map fun e => (e.1, !e.2) }
    Act.modSlot fun sl => { sl with wait := .exchange k rd.toNat result }) s

/-- The slots whose RULE.ACT of a rule context waits complete (R355), under the checker (R418, R420). -/
def State.exchangeDone (s : State) (rc : Nat) : State :=
  s.slots.foldl (fun s e => match e.2.wait with
    | .exchange k rd w =>
      if k ≠ rc then s
      else if e.2.mismatch = 2 then s.fenceCore e.1
      else (s.modSlot e.1 fun sl => sl.setX rd w).retire e.1
    | _ => s) s

/-- A slice exchanges the slots of a rule context at a block boundary; with the last slice RULE.ACT completes (R355). -/
def execRuleActExchange (rulectx slice : Nat) (s : State) : Host.Outcome State Fault Refusal :=
  .next (
    if (s.ruleCtx rulectx).late.contains slice then
      let s := s.modRule rulectx fun r => { r with late := r.late.filter fun x => x ≠ slice }
      if (s.ruleCtx rulectx).late.isEmpty then s.exchangeDone rulectx else s
    else s)

/-- An uncorrectable error of a rule store (R354): it empties the active or the standby slot of a rule context in one slice, and an
ERROR event goes to the rule context's owner (R464). -/
def State.ruleStoreError (s : State) (rc slice : Nat) (active : Bool) : State :=
  let k := s.ruleCtx rc
  let which := active != k.late.contains slice
  let v := (k.slotAt slice active).version
  let s := s.modRule rc fun r =>
    { r with emptied := if r.emptied.contains (slice, which) then r.emptied else r.emptied ++ [(slice, which)] }
  match k.owner with
  | some x => s.event x { kind := 5, pos := 8 * slice } 7 0 2 0 (wordOfNat rc) 0 (wordOfNat v) 0
  | none => s

end Sys2Proof.Machine
end

