-- ==== Sys2Proof/Machine/Training.lean ====
section
/-!
DEFINITION. Row statistics and dropout masks (R295 to R302).
-/

namespace Sys2Proof.Machine

/-- The matrix command that runs on a core: started, neither paused nor waiting outside the engine (R297). -/
def State.matrixRunning (s : State) (core : Nat) : Option Cmd :=
  ((s.core core).started 0).find? fun c => !s.parkedCmd c && !c.paused

/-- Whether a command only reads the tiles that it names: MSTORE, MCHK and MRES (R310). -/
def Cmd.onlyReads (c : Cmd) : Bool :=
  match decodeTcw c.tcw with
  | some (.mstore _ _) | some (.mchk _ _ _ _ _) | some (.mres _ _ _ _) => true
  | _ => false

/-- The exact sum of products, rounded once (R247, R296). -/
def dotRound (rm : Rm) (l : List (FVal × FVal)) : Nat × Flags :=
  let ps := l.map fun x => x.1.mul x.2
  let s := exactSum rm (ps.map (·.1))
  Fmt.fp32.finish (s.1, ps.foldl (fun f p => f ||| p.2) s.2) rm false

/-- The sum of exponentials of mode 1, in ascending column (R296). -/
def expSum (rm : Rm) (m : FVal) (xs : List FVal) : Nat × Flags :=
  xs.foldl (fun acc x => thenFlags acc fun s =>
    let d := FVal.add .rne x m.negate
    let e := sfApply .exp d.1
    let e := Fmt.fp32.finish (e.1, e.2 ||| d.2) rm false
    let t := FVal.add rm (Fmt.fp32.value s) (Fmt.fp32.value e.1)
    let t := Fmt.fp32.finish t rm false
    (t.1, t.2 ||| e.2)) (0, 0)

/-- The values that one row gives to the three registers; none leaves a register unchanged (R296). -/
def rowStats (mode : RowMode) (rm : Rm) (m : Nat) (x y : List FVal) : List (Option (Nat × Flags)) :=
  match mode with
  | .stats => [some (Fmt.fp32.finish (foldNum FVal.maxNum x) rm false), some (Fmt.fp32.finish (exactSum rm x) rm false),
               some (dotRound rm (x.zip x))]
  | .expSum => [none, some (expSum rm (Fmt.fp32.value m) x), none]
  | .dots => [some (dotRound rm (x.zip y)), some (Fmt.fp32.finish (exactSum rm y) rm false),
              some (Fmt.fp32.finish (exactSum rm x) rm false)]

/-- The tiles that VROWST reads (R296). -/
def rowTiles (acc : Nat) (mode : RowMode) : List Nat := if mode = .dots then [acc, acc ^^^ 2] else [acc]

/-- VROWST (R295 to R297). -/
def execVrowst (vd : VReg) (acc : BitVec 2) (group : BitVec 4) (mode : RowMode) (s : State) :=
  runSlot (do
    let i : Instr := .vrowst vd acc group mode
    Act.writable i vd.toNat
    Act.writable i (vd.toNat + 1)
    Act.writable i (vd.toNat + 2)
    let s ← get
    let c := coreOf s.cur
    let ts := rowTiles acc.toNat mode
    match s.matrixRunning c with
    | some m => if !m.onlyReads && m.tiles.any fun t => ts.contains t then Act.wait
    | none => pure ()
    let row := fun t r => (List.range 64).map fun j => accIx t (4 * group.toNat + r) j
    let reads := fun (b : Nat) => ts.any fun t => (List.range 4).any fun r => (row t r).contains b
    if errBad (s.core c).errAcc reads then
      fun _ => .error (.kill 52 0)
    Act.mod fun s => s.repairAcc c reads
    let s ← get
    let k := s.core c
    let vals := fun t r => (row t r).map fun ix => Fmt.fp32.value (k.accGet false ix)
    let sl := s.slot s.cur
    let rm := rmOf sl.vctl
    let rs := (List.range 4).map fun r =>
      rowStats mode rm (laneOf 4 (sl.vr vd.toNat) r) (vals acc.toNat r) (vals (acc.toNat ^^^ 2) r)
    Act.modSlot fun sl => (List.range 3).foldl (fun sl n =>
      let col := rs.filterMap fun r => (r.getD n none)
      if col.isEmpty then sl
      else
        let (v, fl) := collect 4 col
        (sl.setV (vd.toNat + n) v).addFlags fl) sl
    Act.next) s

/-- The SplitMix64 finaliser (R301). -/
def mix64 (z : Word) : Word :=
  let z := (z ^^^ (z >>> 30)) * 0xBF58476D1CE4E5B9
  let z := (z ^^^ (z >>> 27)) * 0x94D049BB133111EB
  z ^^^ (z >>> 31)

/-- Whether a column is kept (R301). -/
def keepBit (key : Word) (row col t : Nat) : Bool :=
  decide (t ≤ wbits (mix64 (key ^^^ wordOfNat (row * 2 ^ 32 + col))) 63 32)

/-- The 128 keep bits of VDMASK (R301). -/
def keepBits (seed : Word) (layer row col0 t : Nat) : VWord :=
  let key := mix64 (seed + wordOfNat (layer * 0x9E3779B97F4A7C15))
  BitVec.ofNat 128 (((List.range 128).map fun b => if keepBit key row ((col0 + b) % 2 ^ 32) t then 2 ^ b else 0).sum)

/-- VDMASK (R299 to R302). -/
def execVdmask (vd vs1 : VReg) (s : State) :=
  runSlot (do
    let sl ← Act.slot
    Act.vec (.vdmask vd vs1) vd [vs1] fun _ _ vs =>
      let l := lanesOf 4 (vs.getD 0 0)
      (keepBits sl.dseed (l.getD 0 0) (l.getD 1 0) (l.getD 2 0) (l.getD 3 0), 0)) s

end Sys2Proof.Machine
end

