-- ==== Sys2Proof/Machine/Privileged.lean ====
section
/-!
DEFINITION. The privileged instructions of chapter 19: SLOT.RESUME and SLOT.KILL (R405), PLB.FILL, PLB.INV,
PG.FLUSH and WAYS.CFG (R414 to R416), MINJ (R422), pre-emption, CTX.SAVE, CTX.REST and TSLICE (R407 to R413),
the package fault service (R402, R403), HBM retraining (R413), and the creation of a context (R223).
-/

namespace Sys2Proof.Machine

/-! ### SLOT.RESUME and SLOT.KILL -/

/-- Whether a register is a slot word with an op of at most `top` (R405). -/
def slotWordOk (w : Word) (top : Nat) : Bool := wbits w 63 29 = 0 && wbits w 15 4 = 0 && decide (wbits w 3 2 ≤ top)

/-- The slot that a slot word names (R405). -/
def slotOfWord (w : Word) : Nat := 4 * wbits w 28 16 + wbits w 1 0

/-- Whether a slot belongs to the executing context (R401). -/
def State.ownSlot (s : State) (k : Nat) : Bool := (s.core (coreOf k)).ctx == (s.core (coreOf s.cur)).ctx

/-- A parked slot goes on at its instruction as a stray (R402, R405): its fault is no longer pending, and the instruction
is the first after the resumption (R129). -/
def State.resumeSlot (s : State) (k : Nat) : State :=
  match (s.slot k).run with
  | .parked _ =>
    let s := { s with faults := s.faults.filter fun f => f.slot ≠ k }
    s.modSlot k fun sl => { sl with run := .stray, gfault := setBits sl.gfault 63 63 0, fresh := true }
  | _ => s

/-- SLOT.RESUME (R401, R405). -/
def Act.slotResume (i : Instr) (rs1 : Reg) : Act Unit := do
  Act.privileged i
  let w ← Act.x rs1
  if !slotWordOk w 1 then Act.trap 2 w
  let s ← get
  let k := slotOfWord w
  if !(s.ownSlot k || (s.core (coreOf s.cur)).mgr) then Act.refuse i
  if wbits w 3 2 = 0 then Act.mod fun s => s.resumeSlot k
  else Act.mod fun s => s.modSlot k fun sl => { sl with sip := setBits sl.sip 1 1 1 }
  Act.next

/-- SLOT.RESUME with op 0, which resumes a parked slot (R405). -/
def execSlotResume (rs1 : Reg) (s : State) := runSlot (Act.slotResume (.slotResume rs1) rs1) s
/-- SLOT.RESUME with op 1, which sets sip.SSIP (R400, R405): the slot word names the operation. -/
def execSlotResumeSsip (rs1 : Reg) (s : State) := runSlot (Act.slotResume (.slotResumeSsip rs1) rs1) s

/-- SLOT.KILL (R401, R405). -/
def execSlotKill (rs1 : Reg) (s : State) :=
  runSlot (do
    Act.privileged (.slotKill rs1)
    let w ← Act.x rs1
    if !slotWordOk w 0 then Act.trap 2 w
    let s ← get
    let k := slotOfWord w
    if !(s.ownSlot k || (s.core (coreOf s.cur)).mgr) then Act.refuse (.slotKill rs1)
    Act.mod fun s => s.killFiring k 0 0
    if k ≠ s.cur then Act.next) s

/-! ### PLB.FILL and PLB.INV -/

/-- Whether PLB.FILL refuses an entry (R170). -/
def plbBad (e : Word) : Bool :=
  let n := wbits e 13 8
  wbits e 62 56 ≠ 0 || wbits e 15 14 ≠ 0 || wbits e 7 6 ≠ 0 || decide (n < 16) || decide (40 < n)
  || wbits e 55 16 * 65536 % 2 ^ n ≠ 0

/-- The PLB entry that a register names (R414). -/
def Act.plbIndex (rs1 : Reg) : Act Nat := do
  let w ← Act.x rs1
  if 63 < w.toNat then Act.trap 2 w
  return w.toNat

/-- PLB.FILL (R170, R414). -/
def execPlbFill (rs1 rs2 : Reg) (s : State) :=
  runSlot (do
    Act.privileged (.plbFill rs1 rs2)
    Act.manager (.plbFill rs1 rs2)
    let n ← Act.plbIndex rs1
    let a := va (← Act.x rs2)
    let before ← get
    let e := wordOfNat (← Act.loadNat a 8)
    if plbBad e then Act.kept before a 8 (Act.trap 2 e)
    Act.mod fun s => s.modCore (coreOf s.cur) fun k => { k with plb := sput 0 k.plb n e }
    Act.next) s

/-- PLB.INV (R414). -/
def execPlbInv (rs1 : Reg) (s : State) :=
  runSlot (do
    Act.privileged (.plbInv rs1)
    Act.manager (.plbInv rs1)
    let n ← Act.plbIndex rs1
    Act.mod fun s => s.modCore (coreOf s.cur) fun k => { k with plb := sput 0 k.plb n (setBits (sget 0 k.plb n) 63 63 0) }
    Act.next) s

/-! ### PG.FLUSH and WAYS.CFG -/

/-- The page that contains an address as its leaf gives it; none where it is not present (R415). -/
def State.pageOf (s : State) (a : Nat) : Option TEntry :=
  match s.leafKey a with
  | .ok k => if wbit (s.leafAt k) 0 && (leafFault (s.leafAt k)).isNone then some (pageAt (s.leafAt k) a) else none
  | .error _ => none

/-- The pages that a flush of an address meets: the page that its leaf gives, and those that the slices still hold by an older
leaf (R171, R180, R415, log 49). -/
def State.flushed (s : State) (a : Nat) : List TEntry :=
  (s.pageOf a).toList ++ (s.trans.map (·.2)).filter (·.covers a) ++ ((sget [] s.l2 (a / 256)).map (·.page)).filter (·.covers a)

/-- Whether an address lies in one of some pages. -/
def inPages (ps : List TEntry) (a : Nat) : Bool := ps.any (·.covers a)

/-- Whether a command holds a pinned sector of some pages, or a block record there (R267, R277). -/
def Cmd.pinsIn (ps : List TEntry) (c : Cmd) : Bool := (c.fetched.any fun b => inPages ps b.1) || c.pins.any fun x => inPages ps x.1

/-- Whether a sector of the page of an address is pinned, so that its flush waits (R267, R415). -/
def State.flushWaits (s : State) (a : Nat) : Bool :=
  let ps := s.flushed a
  s.cores.any fun k => k.2.running.any fun e => e.2.any (Cmd.pinsIn ps)

/-- The flush of the page of an address (R415): every L1 writes its dirty words of it through; dirty L2 sectors are written to
memory; then every L1 word, L2 superblock, instruction word (R448) and translation of it goes, and a first-touch home is no
longer fixed (R176). A dirty word that cannot be translated stays (R184). -/
def State.pgFlush (s : State) (a : Nat) : State :=
  let ps := s.flushed a
  if ps.isEmpty then s.nonResident a
  else
    let s := s.cores.foldl (fun s c =>
      c.2.l1.foldl (fun s w => if inPages ps (4 * w.1) then (s.wtWord c.1 (4 * w.1)).toOption.getD s else s) s) s
    let s := s.evictBlocks fun n _ => inPages ps (256 * n)
    { s with
      cores := smap (fun _ k => { k with l1 := k.l1.filter fun w => w.2.dirty || !inPages ps (4 * w.1) }) s.cores
      cars := smap (fun _ c => { c with ic := c.ic.filter fun w => !inPages ps (4 * w.1) }) s.cars
      trans := s.trans.filter fun u => !ps.any fun p => p.meets u.2
      firstTouch := ps.foldl (fun m p => sdel m (p.base / 65536)) s.firstTouch }

/-- PG.FLUSH (R415). -/
def execPgFlush (rs1 : Reg) (s : State) :=
  runSlot (do
    Act.privileged (.pgFlush rs1)
    Act.manager (.pgFlush rs1)
    let a := va (← Act.x rs1)
    let s ← get
    if s.flushWaits a then Act.wait
    Act.mod fun s => s.pgFlush a
    Act.next) s

/-- The number of set bits of a way mask. -/
def waysSet (m : BitVec 16) : Nat := ((List.range 16).filter fun i => m.toNat.testBit i).length

/-- The ways of a slice whose setting a mask changes (R416). -/
def State.changedWays (s : State) (slice : Nat) (m : BitVec 16) : List Nat :=
  (List.range 16).filter fun w => m.toNat.testBit w != (sget 0 s.ways slice).toNat.testBit w

/-- Whether a way that a mask changes holds a pinned sector, so that its switch waits (R267, R416). -/
def State.waysWait (s : State) (slice : Nat) (m : BitVec 16) : Bool :=
  s.l2.any fun e => e.2.any fun b => b.slice == slice && (s.changedWays slice m).contains b.way && s.pinned e.1 b

/-- A slice's scratch ways set to a mask (R416): a way that changes writes its superblocks back and gives them up, no L1 keeps a
word of it (R175, R180), and its contents are free values (R179, log 12). -/
def State.setWays (s : State) (slice : Nat) (m : BitVec 16) : State :=
  let changed := s.changedWays slice m
  let s := s.evictBlocks fun _ b => b.slice == slice && changed.contains b.way
  let gone := fun (w : L1Word) => w.cls == 5 && w.way / 16 == slice && changed.contains (w.way % 16)
  let s := { s with cores := smap (fun _ k => { k with l1 := k.l1.filter fun w => !gone w.2 }) s.cores }
  let s := changed.foldl (fun s w =>
    let bs := (List.range 65536).map fun i => Config.freeByte (s.free + i)
    { s.putKey (memKey 4 (slice * 1048576 + w * 65536)) bs with free := s.free + 65536 }) s
  { s with ways := sput 0 s.ways slice m }

/-- WAYS.CFG (R416). -/
def execWaysCfg (rs1 rs2 : Reg) (s : State) :=
  runSlot (do
    Act.privileged (.waysCfg rs1 rs2)
    Act.manager (.waysCfg rs1 rs2)
    let w ← Act.x rs1
    let m ← Act.x rs2
    if wbits w 63 29 ≠ 0 || wbits w 18 0 ≠ 0 then Act.trap 2 w
    if wbits m 63 16 ≠ 0 || decide (12 < waysSet (m.setWidth 16)) then Act.trap 2 m
    let s ← get
    if s.waysWait (wbits w 28 19) (m.setWidth 16) then Act.wait
    Act.mod fun s => s.setWays (wbits w 28 19) (m.setWidth 16)
    Act.next) s

/-! ### MINJ -/

/-- Whether an injection word breaks its layout (R422). -/
def injectBad (w : Word) : Bool :=
  let unit := wbits w 63 60
  let mode := wbits w 59 58
  decide (4 < unit) || mode = 3 || wbits w 57 50 ≠ 0 || wbits w 35 13 ≠ 0 || wbits w 7 5 ≠ 0
  || (mode = 2 && wbits w 12 8 = wbits w 4 0)
  || (match unit with
      | 1 => wbits w 49 42 ≠ 0
      | 2 => wbits w 49 44 ≠ 0
      | 3 => wbits w 49 48 ≠ 0
      | 4 => wbits w 49 38 ≠ 0 || wbits w 37 36 = 0 || wbits w 37 36 = 3
      | _ => false)

/-- MINJ (R401, R422): the injection is accepted, and the slot waits until the flip is made. -/
def execMinj (rs1 rs2 : Reg) (s : State) :=
  runSlot (do
    Act.privileged (.minj rs1 rs2)
    let s ← get
    if !(s.core (coreOf s.cur)).test then Act.refuse (.minj rs1 rs2)
    let t ← Act.x rs1
    let w ← Act.x rs2
    if !slotWordOk t 0 || !s.ownSlot (slotOfWord t) then Act.trap 2 t
    if injectBad w then Act.trap 2 w
    Act.mod fun s => { s with injects := s.injects ++ [{ slot := s.cur, target := slotOfWord t, word := w }] }
    Act.modSlot fun sl => { sl with wait := .flip }) s

/-- The bits that an injection flips in a 32-bit word (R422). -/
def flipMask (w : Word) : BitVec 32 :=
  let b := 1#32 <<< wbits w 4 0
  if wbits w 59 58 = 2 then b ^^^ (1#32 <<< wbits w 12 8) else b

/-- The error patterns of a store after an injection into word `n`: mode 1 writes the check bits to match the flipped data, so that the
word is consistent, whatever it was before (R331, R422; log 17). -/
def flipErr (w : Word) (e : Sparse (BitVec 32)) (n : Nat) : Sparse (BitVec 32) :=
  if wbits w 59 58 = 1 then sdel e n else sput 0 e n (sget 0 e n ^^^ flipMask w)

/-- The index of an accumulator element that an injection names (R422). -/
def injectAcc (w : Word) : Nat := accIx (wbits w 49 48) (wbits w 47 42) (wbits w 41 36)

/-- Whether a slot stands at an instruction boundary: it is in no RULE.ACT that has begun (R355). -/
def Slot.between (sl : Slot) : Bool :=
  match sl.wait with
  | .exchange _ _ _ => false
  | .none | .event | .barrier _ | .released | .escrow _ _ | .flip => true

/-- Whether a flip can be made now (R422): no running command names the tile; the matrix engine stands between commands; the
target slot stands at an instruction boundary. -/
def State.flipReady (s : State) (i : Inject) : Bool :=
  let c := coreOf i.target
  match wbits i.word 63 60 with
  | 0 => !((s.matrixRunning c).any fun m => m.tiles.contains (wbits i.word 49 48))
  | 3 => (s.matrixRunning c).isNone
  | _ => (s.slot i.target).between

/-- The flip of an injection (R419, R421, R422): the bits change, and in modes 0 and 2 disagree with their check bits until
a read corrects or consumes them, or a write of the word replaces them. -/
def State.flip (s : State) (i : Inject) : State :=
  let w := i.word
  let c := coreOf i.target
  let m := flipMask w
  let at_ := wbits w 41 36
  match wbits w 63 60 with
  | 0 => s.modCore c fun k =>
      { k with acc := sput 0 k.acc (injectAcc w) (sget 0 k.acc (injectAcc w) ^^^ m), errAcc := flipErr w k.errAcc (injectAcc w) }
  | 1 =>
    let r := wbits w 40 36
    if r = 0 then s else s.modSlot i.target fun sl =>
      { sl with x := sput 0 sl.x r (sl.xr r ^^^ (m.setWidth 64 <<< (32 * wbits w 41 41))),
                errX := flipErr w sl.errX (2 * r + wbits w 41 41) }
  | 2 => s.modSlot i.target fun sl =>
      { sl with v := sput 0 sl.v at_ (sl.vr at_ ^^^ (m.setWidth 128 <<< (32 * wbits w 43 42))),
                errV := flipErr w sl.errV (4 * at_ + wbits w 43 42) }
  | 3 => s.modCore c fun k =>
      { k with wstore := sput 0 k.wstore (wbits w 47 36) (sget 0 k.wstore (wbits w 47 36) ^^^ m), errW := flipErr w k.errW (wbits w 47 36) }
  | _ => s.modSlot i.target fun sl => { sl with mismatch := wbits w 37 36 }

/-- The `k`th injection's flip is made when its unit allows it, and its MINJ completes (R422), under the checker like any other
instruction (R418). -/
def execMinjFlip (k : Nat) (s : State) : Host.Outcome State Fault Refusal :=
  .next (match s.injects[k]? with
    | none => s
    | some i =>
      if !s.flipReady i then s
      else
        let s := { s with injects := s.injects.eraseIdx k }.flip i
        if (s.slot i.slot).wait = .flip then s.retire i.slot else s)

/-! ### The image of a context -/

/-- The chunk count of an image, 1 to 2^24 - 1 (R408). -/
def Snap.chunks (n : Snap) : Nat := imageSize n % (2 ^ 24 - 1) + 1

/-- The bytes of an image of `n` chunks (R408). -/
def imageLen (n : Nat) : Nat := 4096 * (n + 1) + 16 * n

/-- The header words of an image (R408). -/
def imageHeader (ctx counter n : Nat) : List Word := [1, wordOfNat ctx, wordOfNat counter, wordOfNat n]

/-- The 256 bytes of the header, the additional authenticated data of every chunk (R408). -/
def headerBytes (ctx counter n : Nat) : List Byte :=
  (imageHeader ctx counter n).flatMap (fun w => bytesOfNat 8 w.toNat) ++ List.replicate 224 0

/-- The nonce of chunk `i` (R408): context, chunk, counter, most significant first. -/
def chunkNonce (ctx i counter : Nat) : List Byte := beBytes 1 ctx ++ beBytes 3 i ++ beBytes 8 counter

/-- A context's image key (R408). -/
def State.imageKey (s : State) (ctx : Nat) : List Byte := beBytes 32 (sget 0 s.ctxKeys ctx).toNat

/-- Chunk `i` of an image, encrypted, and its tag (R408). -/
def State.imageChunk (s : State) (n : Snap) (i : Nat) : List Byte × List Byte :=
  let key := s.imageKey n.ctx
  let nonce := chunkNonce n.ctx i n.counter
  let ct := gcmCrypt key nonce ((List.range 4096).map fun j => imagePlain n (4096 * i + j))
  (ct, gcmTag key nonce (headerBytes n.ctx n.counter n.chunks) ct)

/-- The checks of the stores of an image against a core's PLB (R409): a page of another class than 0, or the local window,
refuses them as a store. -/
def State.checkImage (s : State) (core a n : Nat) : Except Stop State :=
  inTurn (fun i => [((a + 4096 * i) % 2 ^ 56, true)]) (fun s i =>
    let b := (a + 4096 * i) % 2 ^ 56
    if inWindow b then .error (.trap 7 (wordOfNat b))
    else match s.checkHome core b .store with
      | .error e => .error e
      | .ok (t, s) => if leafClass t.leaf = 0 then .ok s else .error (.after b true (.trap 7 (wordOfNat b))))
    (List.range (ceilDiv (imageLen n) 4096)) s

/-- Writes bytes of an image from address `a` on, 64 at a time. -/
def State.writePieces (s : State) (core a : Nat) (bs : List Byte) : Except Stop State :=
  inTurn (fun i => [((a + 64 * i) % 2 ^ 56, true)]) (fun s i =>
    s.writeHome core ((a + 64 * i) % 2 ^ 56) ((bs.drop (64 * i)).take 64) .store) (List.range (ceilDiv bs.length 64)) s

/-- The walks of the pieces in which `n` bytes of an image are read. -/
def pieceWalks (a n : Nat) : List (Nat × Bool) := (List.range (ceilDiv n 64)).map fun i => ((a + 64 * i) % 2 ^ 56, false)

/-- Reads `n` bytes of an image from address `a` on, 64 at a time. -/
def State.readPieces (s : State) (core a n : Nat) : Except Stop (List Byte × State) :=
  inTurn (fun i => [((a + 64 * i) % 2 ^ 56, false)]) (fun (x : List Byte × State) i => do
    let (bs, t) ← x.2.readHome core ((a + 64 * i) % 2 ^ 56) (min 64 (n - 64 * i)) .load
    return (x.1 ++ bs, t)) (List.range (ceilDiv n 64)) ([], s)

/-- Writes an image (R408, R409): the header, then each chunk and its tag. -/
def State.writeImage (s : State) (core a : Nat) (n : Snap) : Except Stop State := do
  let s ← s.writePieces core a (headerBytes n.ctx n.counter n.chunks ++ List.replicate 3840 0)
  (List.range n.chunks).foldlM (fun s i => do
    let (ct, tag) := s.imageChunk n i
    let s ← s.writePieces core (a + 4096 * (i + 1)) ct
    s.writePieces core (a + 4096 * (n.chunks + 1) + 16 * i) tag) s

/-- Whether every chunk of the image in memory passes its tag, under the header that stands there (R408, R410). -/
def State.imageIntact (s : State) (core a ctx counter chunks : Nat) (header : List Byte) : Except Stop (Bool × State) :=
  let chunk := fun (i : Nat) => pieceWalks (a + 4096 * (i + 1)) 4096
  inTurn (fun i => chunk i ++ pieceWalks (a + 4096 * (chunks + 1) + 16 * i) 16) (fun (x : Bool × State) i => do
    let (ct, t) ← x.2.readPieces core (a + 4096 * (i + 1)) 4096
    let (tag, t) ← (t.readPieces core (a + 4096 * (chunks + 1) + 16 * i) 16).mapError (Stop.afterAll (chunk i))
    return (x.1 && gcmTag (s.imageKey ctx) (chunkNonce ctx i counter) header ct == tag, t)) (List.range chunks) (true, s)

/-! ### Pre-emption -/

/-- The cores of a list of caravans. -/
def coresOf (cars : List Nat) : List Nat := cars.flatMap fun v => (List.range 8).map fun i => 8 * v + i
/-- The slots of a list of caravans. -/
def slotsOf (cars : List Nat) : List Nat := cars.flatMap fun v => (List.range 32).map fun i => 32 * v + i

/-- Slot `k`'s place in its convoy goes back by `n` instructions. -/
def State.stepBack (s : State) (k n : Nat) : State :=
  match s.laneOf k with
  | some (i, l, _) =>
    s.modCar (carOf k) fun c =>
      { c with lanes := sset c.lanes i { l with members := l.members.map fun x => if x.slot = k then { x with seq := x.seq - n, iter := 0, sync := none } else x } }
  | none => s

/-- A member that waits at a CVSYNC is saved before it (R162); of a repeated one it issues the last iteration again, from the
prefix on (R129). -/
def State.beforeSync (s : State) (k : Nat) : State :=
  match s.laneOf k with
  | some (_, _, m) =>
    match m.sync, (s.slot k).rep with
    | none, _ => s
    | some _, some r => s.modSlot k fun sl => { sl with rep := some { r with iter := r.iter - 1 } }
    | some 0, none => (s.stepBack k 1).modSlot k fun sl => { sl with pc := sl.pc - 4 }
    | some (n + 1), none => (s.stepBack k 2).modSlot k fun sl =>
      { sl with pc := sl.pc - 8, repst := wordOfNat (2 ^ 63 + (n + 1) * 4096 + n), fresh := true }
  | none => s

/-- A slot stops at an instruction boundary, or at an iteration boundary of a repetition (R129, R380, R407). Inside a repetition
it goes back before the prefix, in its convoy too (R132, R165), and its next instruction is the one that consumes repst. A GXCH past its
commit point completes first, under the checker (R418, R420). -/
def State.stopSlot (s : State) (k : Nat) : State :=
  let s := match (s.slot k).wait with
    | .escrow _ _ => s.retire k
    | _ => s
  let s := s.beforeSync k
  if (s.slot k).rep.isSome then
    (s.stepBack k 1).modSlot k fun sl => { sl.stopRep with wait := .none, fresh := true }
  else s.modSlot k fun sl => { sl with wait := .none }

/-- What a core can write through of its dirty words and non-temporal buffer (R183, R407); the rest stays. -/
def State.releaseBest (s : State) (c : Nat) : State :=
  let s := (s.core c).l1.foldl (fun s e => (s.wtWord c (4 * e.1)).toOption.getD s) s
  (s.core c).nt.foldl (fun s e => (s.drainNt c e).toOption.getD s) s

/-- Whether a slot of a context is inside an instruction that has begun and must complete first (R355, R422). -/
def State.midInstruction (s : State) (ctx : Nat) : Bool :=
  (slotsOf (s.ctx ctx).caravans).any fun k => match (s.slot k).wait with
    | .exchange _ _ _ | .flip => true
    | _ => false

/-- Steps 1 to 4 of a pre-emption (R407): the context's save counter goes up (R409), its slots stop, its cores release. -/
def State.stopCtx (s : State) (ctx : Nat) (sv : Saving) : State :=
  let cars := (s.ctx ctx).caravans
  let s := (slotsOf cars).foldl (fun s k => if (s.slot k).running then s.stopSlot k else s) s
  let s := (coresOf cars).foldl State.releaseBest s
  s.modCtx ctx fun c => { c with saving := some sv, counter := c.counter + 1 }

/-- A save that is refused after all: the context goes on, its counter as it was. -/
def State.unstopCtx (s : State) (ctx : Nat) : State :=
  s.modCtx ctx fun c => { c with saving := none, counter := if c.saving.isSome then c.counter - 1 else c.counter }

/-- The landings of a context's commands are performed (R323). -/
def State.settleLandings (s : State) (cores : List Nat) : State :=
  let mine := s.landings.filter fun l => cores.contains l.core
  mine.foldl State.performLanding { s with landings := s.landings.filter fun l => !cores.contains l.core }

/-- Whether a started command stands where a pre-emption lets it stop (R266, R407): at a step boundary; a CPYS that cannot
deliver stops where it stands, and so does a command whose page the fault service cannot make present (log 49). -/
def State.mayStop (s : State) (c : Cmd) : Bool :=
  s.parkedCmd c || c.paused || c.atBoundary || c.waiting
  || match decodeTcw c.tcw with
    | some (.cpys _ _ _ _ st) => (s.canDeliver c.core st.toNat).isNone
    | _ => false

/-- Whether the engines of a context's cores have stopped, and no bytes of theirs are on their way to another package (R407). -/
def State.enginesStopped (s : State) (ctx : Nat) : Bool :=
  let cores := coresOf (s.ctx ctx).caravans
  cores.all (fun c => (List.range 4).all fun e => ((s.core c).started e).all fun d => s.mayStop d)
  && s.bulks.all (fun b => b.2.all fun d => !cores.contains d.core || !d.started || s.mayStop d)
  && s.landings.all fun l => !cores.contains l.core || l.peer.isNone

/-- The messages of a slot at the sequencer are resolved, oldest first (R205, R208). -/
def State.resolveOf (s : State) (k : Nat) : State :=
  s.toSeq.foldl (fun s _ => match s.toSeq.findIdx? fun g => g.msg.src == k with
    | some i => s.resolveAt i
    | none => s) s

/-- The released messages of a slot continue to their destinations (R407), each after those before it (R208); a command that finds no
remote entry free waits on its way (R288). -/
def State.departAll (s : State) (k : Nat) : State :=
  let out := (s.slot k).buf.filter (·.released)
  out.foldl (fun s f => (s.emit (coreOf k) f).resolveOf k)
    ((s.resolveOf k).modSlot k fun sl => { sl with buf := sl.buf.filter fun f => !f.released })

/-- What is settled before the image of a context is written (R323, R407). -/
def State.settle (s : State) (ctx : Nat) : State :=
  let cars := (s.ctx ctx).caravans
  ((slotsOf cars).foldl State.departAll s).settleLandings (coresOf cars)

/-- What the image of a context holds (R407). -/
def State.snapshot (s : State) (ctx : Nat) : Snap :=
  let c := s.ctx ctx
  let cores := coresOf c.caravans
  { ctx, counter := c.counter, caravans := c.caravans,
    slots := (slotsOf c.caravans).map fun k => (k, s.slot k)
    cores := cores.map fun k => (k, s.core k)
    cars := c.caravans.map fun v => (v, s.car v)
    bulks := smap (fun _ cs => cs.filter fun d => cores.contains d.core) s.bulks
    runs := s.ruleRuns.filter fun r => cores.contains r.cmd.core
    gangs := s.gangs.filter fun g => cores.contains g.core
    faults := s.faults.filter fun f => cores.contains (coreOf f.slot)
    sig := c.sig, queues := c.queues, stageMap := c.stageMap, nextId := c.nextId, launches := c.launches
    at_ := s.cycle, lost := s.lost }

/-- A core that a context leaves: what belongs to the core itself stays. -/
def Core.vacate (k : Core) : Core :=
  { Core.reset with fid := k.fid, l1 := k.l1, nt := k.nt, fenced := k.fenced, corrected := k.corrected, upsets := k.upsets }

/-- A slot that a context leaves: what belongs to the slot itself stays. -/
def Slot.vacate (sl : Slot) : Slot := { Slot.reset with rticket := sl.rticket, tickets := sl.tickets, instret := sl.instret }

/-- The L1s of those of some caravans that a list names are flushed, before or after they are fused (R179, R227). -/
def State.flushCars (s : State) (cars : List Nat) : State := s.flushL1s (coresOf cars)

/-- The caravans of a context are given free, as nothing of it is left there (R407), and are fused no longer (R227). -/
def State.vacate (s : State) (cars : List Nat) : State :=
  let cores := coresOf cars
  let s := s.flushCars (cars.filter fun v => (s.car v).fused)
  let s := (slotsOf cars).foldl (fun s k => s.modSlot k Slot.vacate) s
  let s := cores.foldl (fun s c => s.modCore c Core.vacate) s
  let s := cars.foldl (fun s v => s.modCar v fun _ => Caravan.reset) s
  { s with
    bulks := smap (fun _ cs => cs.filter fun d => !cores.contains d.core) s.bulks
    ruleRuns := s.ruleRuns.filter fun r => !cores.contains r.cmd.core
    gangs := s.gangs.filter fun g => !cores.contains g.core
    faults := s.faults.filter fun f => !cores.contains (coreOf f.slot)
    resv := s.resv.filter fun r => !cores.contains (coreOf r.1) }

/-- Whether a save's deadline has passed (R413). -/
def State.late (s : State) (sv : Saving) : Bool :=
  decide (sv.deadline ≠ 0) && decide (sv.deadline * Config.cyclesPerMicro < s.now - sv.start)

/-- The DEADLINE event of a save that ends after its deadline (R413, R464). -/
def State.deadline (s : State) (ctx : Nat) (sv : Saving) : State :=
  if s.late sv then
    s.event sv.exec { kind := 3, pos := 0 } 8 0 0 (wordOfNat ctx) sv.image 0 (wordOfNat (micros sv.start s.now)) (wordOfNat sv.deadline)
  else s

/-- The stacks of HBM that hold a line of the image of a save (R413, R174). -/
def State.imageStacks (s : State) (ctx : Nat) (sv : Saving) : List Nat :=
  ((List.range (ceilDiv (imageLen (s.snapshot ctx).chunks) 64)).filterMap fun i =>
    let a := (va sv.image + 64 * i) % 2 ^ 56
    match s.pageOf a with
    | some t =>
      let k := t.key 0 a
      if leafTier t.leaf = 0 then some (2 * (k / Config.hbmDieBytes) + Config.hbmStack (k / 64) % 2) else none
    | none => none).dedup

/-- Whether the save of a context pauses for a retraining of a stack that it streams to (R413). -/
def State.savePauses (s : State) (ctx : Nat) (sv : Saving) : Bool :=
  !s.training.isEmpty && (s.imageStacks ctx sv).any fun n => s.training.contains n

/-- Step 5 of a pre-emption (R407 to R409): the image's stores are checked, it is written, and the context is resident no
longer. -/
def State.completeSave (s : State) (core ctx : Nat) (sv : Saving) : Except Stop State := do
  let s := s.settle ctx
  let snap := s.snapshot ctx
  let s ← s.checkImage core (va sv.image) snap.chunks
  let s ← s.writeImage core (va sv.image) snap
  let s := { s with snaps := s.snaps.filter (fun (x : Snap) => x.ctx ≠ ctx) ++ [snap] }
  let s := s.vacate snap.caravans
  let s := s.modCtx ctx fun c => { c with resident := false, saving := none }
  return s.deadline ctx sv

/-- CTX.SAVE begins (R407, R409): where the image's stores are possible, or wait for a page, the context stops. -/
def Act.beginSave (x : Nat) (sv : Saving) : Act Unit := do
  let s ← get
  let t := s.stopCtx x sv
  match t.checkImage (coreOf s.cur) (va sv.image) (t.snapshot x).chunks with
  | .ok _ => Act.mod fun _ => t
  | .error e => match e.last with
    | .park _ => Act.mod fun _ => e.apply t
    | _ => Act.mod fun s => e.apply s

/-- CTX.SAVE (R401, R407, R409): the context stops, then its engines; when the image's stores are possible it is written. A page
fault parks the executing slot, and the context stays stopped. -/
def execCtxSave (rs1 rs2 : Reg) (s : State) :=
  runSlot (do
    Act.privileged (.ctxSave rs1 rs2)
    Act.manager (.ctxSave rs1 rs2)
    let x := (← Act.x rs1).toNat
    let p ← Act.x rs2
    let s ← get
    let me := s.ctxOf s.cur
    let c := s.ctx x
    if decide (63 < x) || !c.resident || decide (x = me) || va p % 4096 ≠ 0 then Act.refuse (.ctxSave rs1 rs2)
    let sv : Saving := c.saving.getD { start := s.now, deadline := 0, exec := me, image := p, slice := false }
    if sv.slice || s.midInstruction x then Act.wait
    if c.saving.isNone then Act.beginSave x sv
    else if !s.enginesStopped x || s.savePauses x sv then Act.wait
    else match s.completeSave (coreOf s.cur) x { sv with image := p } with
      | .ok t =>
        Act.mod fun _ => t
        Act.next
      | .error e => match e.last with
        | .park _ | .wait => Act.mod fun s => e.apply s
        | _ => Act.mod fun s => e.apply (s.unstopCtx x)) s

/-! ### Restoring -/

/-- A command's ages go on where they stood (R266, R407); one that had started is a paused candidate (R290). -/
def Cmd.later (d : Nat) (c : Cmd) : Cmd :=
  { c with accepted := c.accepted + d, oldest := c.oldest + d, paused := c.started, retries := smap (fun _ t => t + d) c.retries }

/-- A core as it is restored: the saved state, with what belongs to the core itself. -/
def Core.restore (d : Nat) (old saved : Core) : Core :=
  { saved with
    fid := old.fid, l1 := old.l1, nt := old.nt, fenced := old.fenced, corrected := old.corrected, upsets := old.upsets
    queues := smap (fun _ cs => cs.map (Cmd.later d)) saved.queues
    remotes := smap (fun _ cs => cs.map (Cmd.later d)) saved.remotes
    running := smap (fun _ cs => cs.map (Cmd.later d)) saved.running }

/-- A lane as it is restored (R165): what was delivered is fetched again. -/
def Lane.restore (d : Nat) (l : Lane) : Lane :=
  { l with opened := l.opened + d, stream := smap (fun _ x => { x with word := none }) l.stream }

/-- The messages that arrived while a context was away stand in its spill areas (R207). -/
def State.bringBack (s : State) (ctx : Nat) : State :=
  ((s.ctx ctx).away.foldl (fun s e => s.modCore (e.1 / 8) fun k =>
    { k with spill := sset k.spill (e.1 % 8) (sget [] k.spill (e.1 % 8) ++ e.2) }) s).modCtx ctx fun c => { c with away := [] }

/-- The state of a saved context installed on its caravans (R165, R410): each slot's first instruction follows a
package-scope acquire, its convoys are as they were, its engines resume, and a caravan stays fused while it serves a fused launch
(R227). What the sequencer holds of the context went on while it was away: its signals, launches and stage map are those of now
(log 53). The time that it was away counts for the limit of a gang that waits (R287, DESIGN CHOICE, log 53). -/
def State.install (s : State) (n : Snap) : State :=
  let d := fun (die : Nat) => s.cycles die - dieCycles n.at_ n.lost die
  let s := s.flushCars ((n.cars.filter (·.2.fused)).map (·.1))
  let s := n.slots.foldl (fun s e => s.setSlot e.1 { e.2 with fresh := e.2.running, wait := .none }) s
  let s := n.cores.foldl (fun s e => s.modCore e.1 fun k => k.restore (d (dieOf e.1)) e.2) s
  let s := n.cars.foldl (fun s e => s.modCar e.1 fun _ => { e.2 with ic := [], lanes := smap (fun _ l => l.restore (d (dieOf (8 * e.1)))) e.2.lanes }) s
  let s := (coresOf n.caravans).foldl (fun s c => s.acquire c .package) s
  let s := n.bulks.foldl (fun s e => { s with bulks := sset s.bulks e.1 (s.bulk e.1 ++ e.2.map (Cmd.later (d (e.1 / 4)))) }) s
  let again := fun (f : FaultRec) => { f with stalled := none }
  let s := { s with ruleRuns := s.ruleRuns ++ n.runs, gangs := s.gangs ++ n.gangs, faults := s.faults ++ n.faults.map again,
                    snaps := s.snaps.filter fun x => x.ctx ≠ n.ctx }
  let s := (s.modCtx n.ctx fun c =>
    { c with resident := true, caravans := n.caravans, counter := c.counter + 1,
             slice := c.slice.map fun t => { t with start := s.now, waits := false } }).bringBack n.ctx
  n.caravans.foldl (fun s v => s.unfuse n.ctx v) s

/-- Whether a header is malformed for a context (R408, R410). -/
def headerMalformed (h : List Word) (ctx : Nat) : Bool :=
  h.getD 0 0 ≠ 1 || h.getD 1 0 ≠ wordOfNat ctx || wbits (h.getD 3 0) 63 24 ≠ 0 || wbits (h.getD 3 0) 23 0 = 0
  || (h.drop 4).any (· ≠ 0)

/-- The restore of a context from the image at an address, read with a core's rights (R410): the status and the state. -/
def State.restoreImage (s : State) (core ctx a : Nat) : Except Stop (Nat × State) := do
  if (s.ctx ctx).failed then return (5, s)
  if a % 4096 ≠ 0 then return (4, s)
  let (hs, s1) ← s.readPieces core a 256
  let h := wordsOf 32 hs
  if headerMalformed h ctx then return (4, s1)
  if h.getD 2 0 ≠ wordOfNat (s1.ctx ctx).counter then return (1, s1)
  let failed := s1.modCtx ctx fun c => { c with failed := true }
  match s1.snaps.find? fun n => n.ctx == ctx && n.counter == (s1.ctx ctx).counter with
  | none => return (2, failed)
  | some n =>
    if n.caravans.any fun v => ((s1.car v).ctx).isSome then return (3, s1)
    let (ok, s2) ← (s1.imageIntact core a ctx n.counter (wbits (h.getD 3 0) 23 0) hs).mapError (Stop.afterAll (pieceWalks a 256))
    if ok then return (0, s2.install n) else return (2, s2.modCtx ctx fun c => { c with failed := true })

/-- CTX.REST (R401, R410). -/
def execCtxRest (rd rs1 rs2 : Reg) (s : State) :=
  runSlot (do
    Act.privileged (.ctxRest rd rs1 rs2)
    Act.manager (.ctxRest rd rs1 rs2)
    let x := (← Act.x rs1).toNat
    let a := va (← Act.x rs2)
    if 63 < x then Act.refuse (.ctxRest rd rs1 rs2)
    let s ← get
    match s.restoreImage (coreOf s.cur) x a with
    | .error e => (fun _ => .error e : Act Unit)
    | .ok (st, t) =>
      Act.mod fun _ => t
      Act.setX rd (wordOfNat st)
      Act.next) s

/-! ### Time slices -/

/-- TSLICE (R401, R411). -/
def execTslice (rs1 rs2 : Reg) (s : State) :=
  runSlot (do
    Act.privileged (.tslice rs1 rs2)
    Act.manager (.tslice rs1 rs2)
    let x := (← Act.x rs1).toNat
    let a := va (← Act.x rs2)
    if 63 < x then Act.refuse (.tslice rs1 rs2)
    if a % 64 ≠ 0 then Act.trap 4 (wordOfNat a)
    let before ← get
    let d := wordsOf 8 (← Act.loadRecord a 64)
    let d0 := d.getD 0 0
    if wbits d0 63 55 ≠ 0 || (d.drop 3).any (· ≠ 0) then Act.kept before a 64 (Act.refuse (.tslice rs1 rs2))
    let s ← get
    let sl : Slice :=
      { length := wbits d0 31 0, waits := false, start := s.now, deadline := wbits d0 47 32, image := d.getD 1 0, simage := d.getD 2 0,
        sv := wbit d0 54, succ := wbits d0 53 48, exec := s.ctxOf s.cur, plb := coreOf s.cur }
    Act.mod fun s => s.modCtx x fun c => { c with slice := if sl.length = 0 then none else some sl }
    Act.next) s

/-- The restore of a context by the device, which reads the image with the PLB that the core of a slice had (R410, R411): the core
keeps its own, unless the context is installed there. -/
def State.restoreBy (s : State) (core ctx a : Nat) (plb : Sparse Word) : Except Stop (Nat × State) := do
  let (st, t) ← (s.modCore core fun k => { k with plb }).restoreImage core ctx a
  return (st, if (t.core core).ctx == (s.core core).ctx then t.modCore core fun k => { k with plb := (s.core core).plb } else t)

/-- What follows the save at a slice's expiry (R411): the charge, and the successor's restore, whose failure is an ERROR
event with the status of R410; an image that cannot be read counts as malformed. The PLB is that with which the save was made. -/
def State.afterSlice (s : State) (ctx : Nat) (t : Slice) (plb : Sparse Word) : State :=
  let s := s.modCtx ctx fun c => { c with charged := c.charged + 1 }
  if !t.sv then s
  else
    let r := match s.restoreBy t.plb t.succ (va t.simage) plb with
      | .ok x => x
      | .error e => (4, e.walks t.plb s)
    if r.1 = 0 then r.2
    else r.2.event t.exec { kind := 3, pos := 0 } 7 0 5 0 t.simage 0 (wordOfNat r.1) (wordOfNat t.succ)

/-- The save that a slice's expiry asked for goes on (R411, R413): it waits for the engines, for a retraining and for a page that
the fault service can make present, and is given up where the image is refused. -/
def State.finishSlice (s : State) (ctx : Nat) (t : Slice) (sv : Saving) : State :=
  if !s.enginesStopped ctx || s.savePauses ctx sv then s
  else match s.completeSave t.plb ctx sv with
    | .ok s' => s'.afterSlice ctx t (s.core t.plb).plb
    | .error e =>
      let s := e.walks t.plb s
      match e.last with
      | .park i => s.serviced (16 + ctx) t.exec t.plb (va i.addr) { reason := i.reason, level := i.level }
      | .wait => s
      | _ => (s.unstopCtx ctx).modCtx ctx fun c => { c with slice := some { t with start := s.now } }

/-- The time at which a slice expires (R411). -/
def Slice.expiry (t : Slice) : Nat := t.start + t.length * Config.cyclesPerMicro

/-- Whether a slice has expired: in the cycle of its expiry the retirement of the context's last firing still wins (R231,
R412). -/
def State.sliceOver (s : State) (ctx : Nat) (t : Slice) : Bool :=
  !t.waits && decide (t.expiry ≤ s.now) && !s.fallsNow ctx t.expiry

/-- A time slice expires (R411): the context is stopped; then saved to the slice's image, and the successor restored. -/
def execTsliceExpiry (ctx : Nat) (s : State) : Host.Outcome State Fault Refusal :=
  .next (
    let c := s.ctx ctx
    match c.slice, c.saving with
    | some t, some sv => if sv.slice then s.finishSlice ctx t sv else s
    | some t, none =>
      if !c.resident || !s.sliceOver ctx t || s.midInstruction ctx then s
      else if va t.image % 4096 ≠ 0 then s.modCtx ctx fun c => { c with slice := some { t with start := s.now } }
      else s.stopCtx ctx { start := t.expiry, deadline := t.deadline, exec := t.exec, image := t.image, slice := true }
    | none, some sv => if sv.slice then s.unstopCtx ctx else s
    | none, none => s)

/-- A save passes its deadline (R413): it goes on to its end, which raises the DEADLINE event. -/
def execSaveDeadlineExpiry (ctx : Nat) (s : State) : Host.Outcome State Fault Refusal :=
  .next (
    let c := s.ctx ctx
    match c.slice, c.saving with
    | some t, some sv => if sv.slice && s.late sv then s.finishSlice ctx t sv else s
    | _, _ => s)

/-- Whether a save with a deadline streams to a stack of HBM (R413). -/
def State.savesTo (s : State) (stack : Nat) : Bool :=
  s.ctxs.any fun e => match e.2.saving with
    | some sv => decide (sv.deadline ≠ 0) && (s.imageStacks e.1 sv).contains stack
    | none => false

/-- A retraining of a stack runs (R413), until its end comes as a move of its own. -/
def State.train (s : State) (stack : Nat) : State :=
  { s with retrain := sdel s.retrain stack, training := if s.training.contains stack then s.training else s.training ++ [stack] }

/-- A retraining of an HBM stack is requested (R413): it is deferred while a save with a deadline streams to the stack;
else it runs. -/
def execHbmRetrainRequest (stack : Nat) (s : State) : Host.Outcome State Fault Refusal :=
  .next (if s.savesTo stack then (if shas s.retrain stack then s else { s with retrain := sset s.retrain stack s.now })
    else s.train stack)

/-- A deferred retraining runs when the save is done, or after 500 microseconds, when the save pauses for it (R413). -/
def execHbmRetrainRun (stack : Nat) (s : State) : Host.Outcome State Fault Refusal :=
  .next (match sfind s.retrain stack with
    | some t => if !s.savesTo stack || decide (500 * Config.cyclesPerMicro ≤ s.now - t) then s.train stack else s
    | none => s)

/-! ### The package fault service -/

/-- The FAULT event of a parked slot (R402, R464). -/
def State.faultEvent (s : State) (f : FaultRec) : State :=
  let sl := s.slot f.slot
  s.event (s.ctxOf f.slot) { kind := 2, pos := serviceOf (coreOf f.slot) } 5 f.info.cause 0 (wordOfNat (wbits sl.firing 63 32))
    f.info.addr (s.coord f.slot) f.info.gfault 0

/-- The instruction of a fault record: its slot and PC. -/
def State.recordOf (s : State) (f : FaultRec) : Nat × Word := (f.slot, (s.slot f.slot).pc)

/-- The parked instruction that may use the progress reserve of its context (R403): the one that uses it already and is parked
again, else the oldest, of all that are parked (log 77). -/
def State.reserveUser (s : State) (ctx : Nat) : Option (Nat × Word) :=
  let mine := (s.faults.filter fun f => (s.core (coreOf f.slot)).ctx == some ctx).map s.recordOf
  match (s.ctx ctx).reserveFor with
  | some o => if mine.contains o then some o else mine.head?
  | none => mine.head?

/-- The fault service takes the `k`th fault record (R402): a page that it can make present, or that is present by now, resumes
the slot, and where it finds no frame the slot stays parked (R403); a page of the host is a MIGRATION event (R434); any other
fault is a FAULT event for the supervisor. A record that has been reported stands until its slot is resumed or killed, and is taken no
more. -/
def execFaultRecord (k : Nat) (s : State) : Host.Outcome State Fault Refusal :=
  .next (match s.faults[k]? with
    | none => s
    | some f =>
      let s' := { s with faults := s.faults.set k { f with told := true, stalled := none } }
      let ctx := s.ctxOf f.slot
      let a := va f.info.addr
      if f.told then s
      else if s.hostOwned a then s'.hostOnly ctx { kind := 2, pos := serviceOf (coreOf f.slot) } 12 0 f.info.addr 0 0
      else
        let user := if s.reserveUser ctx = some (s.recordOf f) then some (s.recordOf f) else none
        match if f.info.reason = 0 then s.servePage ctx a user else .fails with
        | .done t => t.resumeSlot f.slot
        | .stalls t => { t with faults := t.faults.map fun g => if g.slot = f.slot then { g with stalled := some (g.stalled.getD s.now) } else g }
        | .fails => s'.faultEvent f)

/-- The stalls of a context for want of a frame (R207, R403): since when, the core, and the address: its parked slots for whose page
the fault service has found none, and its messages for whose spill area it has found none. -/
def State.stalls (s : State) (ctx : Nat) : List (Nat × Nat × Word) :=
  (s.faults.filterMap fun f =>
    if (s.core (coreOf f.slot)).ctx == some ctx then f.stalled.map fun t => (t, coreOf f.slot, f.info.addr) else none)
  ++ ((s.ctx ctx).spillWait.filter fun x => s.spillFull ctx x.1 && s.mustSpill ctx x.1).map fun x => (x.2, x.1, (0 : Word))

/-- The stall of a context that has lasted longest (R403). -/
def State.stall (s : State) (ctx : Nat) : Option (Nat × Nat × Word) :=
  (s.stalls ctx).foldl (fun best x => match best with
    | none => some x
    | some y => if x.1 < y.1 then some x else some y) none

/-- A stall reaches its context's stall limit (R403): a CONTEXT_STALL event goes to the host, once for a stall. -/
def execStallLimitExpiry (ctx : Nat) (s : State) : Host.Outcome State Fault Refusal :=
  .next (match s.stall ctx with
    | none => s
    | some (at_, core, addr) =>
      let t := micros at_ s.now
      if decide (t < (s.ctx ctx).stallLimit) || (s.ctx ctx).stalledAt == some at_ then s
      else (s.hostOnly ctx { kind := 2, pos := serviceOf core } 10 0 addr 0 (wordOfNat t)).modCtx ctx
        fun c => { c with stalledAt := some at_ })

/-! ### The creation of a context -/

/-- Whether the steward core can create a context (R223, R452): it does not exist, its caravans are free. -/
def State.canCreate (s : State) (c : CtxSpec) : Bool :=
  s.boot.stage = 3 && !(s.ctx c.ctx).live && !c.caravans.isEmpty && decide c.caravans.Nodup
  && c.caravans.all fun v => ((s.car v).ctx).isNone

/-- The PLB that a core of a new context begins with (R170, log 64): an entry that PLB.FILL would refuse is left out. -/
def firstPlb (es : List Word) : Sparse Word :=
  forRange 64 (fun i m => let e := es.getD i 0; if plbBad e then m else sput 0 m i e) []

/-- The bindings that a core of a new context begins with (R209, log 64): a record that HBIND would refuse binds nothing. -/
def firstBinds (rs : List (List Byte)) : Sparse QAttr :=
  forRange 8 (fun q m => match bindRecord (rs.getD q []) with
    | .ok r => sset m q r
    | .error _ => m) []

/-- The steward core creates a context and places it on its caravans (R223, R254, R394, R395). -/
def execContextCreate (c : CtxSpec) (s : State) : Host.Outcome State Fault Refusal :=
  .next (
    if !s.canCreate c then s
    else
      let s := s.vacate c.caravans
      let s := (coresOf c.caravans).foldl (fun s k => s.modCore k fun d =>
        { d with ctx := some c.ctx, mgr := c.mgr, test := c.test, plb := firstPlb c.plb, qattr := firstBinds c.binds }) s
      let s := c.caravans.foldl (fun s v => s.modCar v fun d => { d with ctx := some c.ctx }) s
      s.modCtx c.ctx fun old =>
        { Ctx.none with live := true, resident := true, caravans := c.caravans, counter := old.counter,
                        sevd := if sevdOk c.sevd then c.sevd else 0, sevh := wordOfNat (va c.sevh) })

end Sys2Proof.Machine
end

