-- ==== Sys2Proof/Machine/Host.lean ====
section
/-!
DEFINITION. The host service lanes (R424 to R433, R457), page-exclusive sharing (R434), the Serlan ports as
the package sees them (R372, R373, R387, R435, R436), the UCIe modules (R423), the CXL ports (R437) and the
temperature rules (R460, R461).
-/

namespace Sys2Proof.Machine

/-! ### Lanes -/

/-- Whether the lanes accept requests: stage 2 has completed, and the package has not stopped (R452, R457, R460). -/
def State.lanesUp (s : State) : Bool := decide (2 ≤ s.boot.done) && s.boot.fail = 0

/-- A response on the lane of a request (R425). -/
def State.respond (s : State) (r : HostReq) (status : Nat) (result : Word) (data : List Byte) : State :=
  s.modLane r.lane fun l => { l with resp := l.resp ++ [{ seq := r.seq, status, result, data }] }

/-- The outcome of an attempt to perform an accepted request (R425): it is performed and answered, or the lane holds it. -/
inductive Served where
  | done (status : Nat) (result : Word) (data : List Byte) (s : State)
  | hold (s : State)

/-- A request answered by its status alone. -/
def Served.status (code : Nat) (s : State) : Served := .done code 0 [] s

/-- The oldest accepted request of a lane is performed if it can be (R427). -/
def State.attempt (s : State) (lane : Nat) (perform : State → Held → Served) : State :=
  match (s.lane lane).held with
  | [] => s
  | h :: rest =>
    match perform s h with
    | .hold s => s
    | .done st res data s => (s.modLane lane fun l => { l with held := rest }).respond h.req st res data

/-- A request is accepted (R425): it joins the requests of its lane that are not performed yet. -/
def State.accept (s : State) (kind : Nat) (r : HostReq) : State :=
  (State.modLane { s with order := s.order + 1 } r.lane fun l =>
    { l with last := r.seq, held := l.held ++ [{ kind, req := r, order := s.order }] })

/-- A request of a kind arrives at its lane (R425, R457): no answer before stage 2 completes; SEQ for a number that is not
the next; MALFORMED for a reserved field; else it is accepted, and performed at once where the lane holds no other. In
the step that tries a held request again, the same meaning performs it. -/
def State.serve (s : State) (kind : Nat) (r : HostReq) (perform : State → Held → Served) : State :=
  if !s.lanesUp then s
  else if s.serving = some r.lane then s.attempt r.lane perform
  else if r.seq ≠ (s.lane r.lane).last + 1 then s.respond r 1 0 []
  else if !r.clean then (s.modLane r.lane fun l => { l with last := r.seq }).respond r 2 0 []
  else if (s.lane r.lane).held.isEmpty then (s.accept kind r).attempt r.lane perform
  else s.accept kind r

/-! ### Memory requests -/

/-- The die of a lane's service core (R15, R423). -/
def laneDie (lane : Nat) : Nat := lane / 4 % 4

/-- The tile at the corner of a lane's quadrant (R14, R15). -/
def laneSlice (lane : Nat) : Nat := laneDie lane * 256 + lane % 4 / 2 * 128 + lane % 2 * 8

/-- The translation of a host request at its die (R426): what the slices hold, else the walk of its quadrant's service core, which
fixes no first-touch home; page-exclusive mode does not hide a page of the host (R434). -/
def State.hostWalk (s : State) (lane a : Nat) (write : Bool) : Except WalkFault (TEntry × State) :=
  match State.translate { s with pxmode := false } (laneSlice lane) a write with
  | .error f => .error f
  | .ok (t, u) => .ok (t, { u with pxmode := s.pxmode, firstTouch := s.firstTouch })

/-- The translation of a host request, the fault service having made its page present where it can, a page of the host too (R402,
R425, R434). -/
def State.hostTranslate (s : State) (lane a : Nat) (write : Bool) : Except WalkFault (TEntry × State) :=
  match s.hostWalk lane a write with
  | .ok x => .ok x
  | .error f =>
    match (if f.reason = 0 then { s with pxmode := false }.makePresent a else none) with
    | some u => { u with pxmode := s.pxmode }.hostWalk lane a write
    | none => .error f

/-- The page of a host access, or the status that refuses it (R425, R426, R434). -/
def State.hostPage (s : State) (lane a : Nat) (write : Bool) : Except Nat (TEntry × State) :=
  if inWindow a then .error 4
  else match s.hostTranslate lane a write with
    | .error _ => .error 3
    | .ok (t, u) =>
      let c := leafClass t.leaf
      if c = 3 ∨ c = 5 ∨ (c = 1 ∧ write) then .error 4
      else if s.pxmode && !leafHo t.leaf then .error 5
      else .ok (t, u)

/-- Whether the length and alignment of a memory request are right (R426). -/
def hostAligned (a len : Nat) : Bool :=
  a / 4096 = (a + len - 1) / 4096
  && (if len = 1 ∨ len = 2 ∨ len = 4 ∨ len = 8 then a % len = 0 else len % 16 = 0 && a % 16 = 0)

/-- The data of a write request, as many bytes as its length. -/
def hostData (r : HostReq) : List Byte := (List.range r.len).map fun i => r.data.getD i 0

/-- The 64-byte lines that a request covers. -/
def hostLines (a len : Nat) : List Nat := (List.range ((a % 64 + len + 63) / 64)).map fun i => a / 64 + i

/-- A read buffer that holds 256 lines at most (R427): one that would hold more is emptied. -/
def trimBuffer (b : Sparse Byte) : Sparse Byte := if 256 * 64 < b.length then [] else b

/-- The read buffer filled with the lines of a read (R427). -/
def State.fillBuffer (s : State) (lane : Nat) (t : TEntry) (a len : Nat) : State :=
  s.modLane lane fun l =>
    { l with buffer := trimBuffer ((hostLines a len).foldl (fun b n =>
        forRange 64 (fun i b => sset b (64 * n + i) (s.homeByte t (laneDie lane) (64 * n + i))) b) l.buffer) }

/-- A read of the host at the home: uncorrectable data, and what lies behind a failed CXL port, reads as free values (R421, R437,
log 12). -/
def State.hostRead (s : State) (ctx lane : Nat) (t : TEntry) (a n : Nat) : Bool × List Byte × State :=
  let die := laneDie lane
  if s.badAt t die a n then
    (true, (List.range n).map fun i => Config.freeByte (s.free + i),
      State.cxlAccess { s with free := s.free + n } ctx t a n)
  else (false, s.homeRead t die a n, s.fillRange t die a n)

/-- READ (R426, R427): with acq = 0 from the read buffer where it holds every byte; else at the home, which fills the
buffer, or empties it with acq = 1. -/
def performRead (s : State) (h : Held) : Served :=
  let r := h.req
  let a := va r.addr
  if !hostAligned a r.len then .status 2 s
  else match s.hostPage r.lane a false with
    | .error st => .status st s
    | .ok (t, s) =>
      let buf := (s.lane r.lane).buffer
      if !r.acq && (List.range r.len).all fun i => shas buf (a + i) then
        .done 0 0 ((List.range r.len).map fun i => sget 0 buf (a + i)) s
      else
        let (bad, bs, s) := s.hostRead r.ctx r.lane t a r.len
        .done 0 0 bs (if r.acq then s.modLane r.lane fun l => { l with buffer := [] }
          else if bad then s else s.fillBuffer r.lane t a r.len)

/-- READ (R424, R426, R427). -/
def execRead (r : HostReq) (s : State) : Host.Outcome State Fault Refusal := .next (s.serve 0 r performRead)

/-- The write of a host request at its home (R426, R429): the lane's read buffer follows it (R427). -/
def State.hostWrite (s : State) (r : HostReq) (t : TEntry) : State :=
  let a := va r.addr
  (s.writeFor r.ctx t a (hostData r)).modLane r.lane fun l =>
    { l with buffer := forRange r.len (fun i b => if shas b (a + i) then sset b (a + i) ((hostData r).getD i 0) else b) l.buffer }

/-- WRITE (R426, R427). -/
def performWrite (s : State) (h : Held) : Served :=
  let r := h.req
  let a := va r.addr
  if !hostAligned a r.len then .status 2 s
  else match s.hostPage r.lane a true with
    | .error st => .status st s
    | .ok (t, s) => .status 0 (s.hostWrite r t)

/-- WRITE (R424, R426, R427). -/
def execWrite (r : HostReq) (s : State) : Host.Outcome State Fault Refusal := .next (s.serve 16 r performWrite)

/-- The kind of WRITE_WC among the held requests. -/
def wcKind : Nat := 32

/-- WRITE_WC (R427): checked and answered on acceptance; its data is performed later. -/
def execWriteWc (r : HostReq) (s : State) : Host.Outcome State Fault Refusal :=
  .next (
    if !s.lanesUp then s
    else if r.seq ≠ (s.lane r.lane).last + 1 then s.respond r 1 0 []
    else
      let refuse := fun (st : Nat) => (s.modLane r.lane fun l => { l with last := r.seq }).respond r st 0 []
      if !r.clean || !hostAligned (va r.addr) r.len then refuse 2
      else match s.hostPage r.lane (va r.addr) true with
        | .error st => refuse st
        | .ok (_, s) => (s.accept wcKind r).respond r 0 0 [])

/-- The `k`th held request of a lane, a WRITE_WC behind nothing but WRITE_WCs, is performed (R427). -/
def execWriteWcPerform (lane k : Nat) (s : State) : Host.Outcome State Fault Refusal :=
  .next (
    let held := (s.lane lane).held
    match held[k]? with
    | none => s
    | some h =>
      if !s.lanesUp || !((held.take (k + 1)).all fun x => x.kind == wcKind) then s
      else
        let drop := fun (s : State) => s.modLane lane fun l => { l with held := l.held.eraseIdx k }
        match s.hostPage lane (va h.req.addr) true with
        | .error _ => drop s
        | .ok (t, s) => drop (s.hostWrite h.req t))

/-! ### LAUNCH and HFENCE -/

/-- LAUNCH of the host (R430): the record is read at w1, as a READ reads it; while the queue is full the lane holds the request. -/
def performLaunch (s : State) (h : Held) : Served :=
  let r := h.req
  let a := va r.addr
  if 7 < r.w2.toNat ∨ a % 128 ≠ 0 then .status 2 s
  else match s.hostPage r.lane a false with
    | .error st => .status st s
    | .ok (t, s) =>
      let (_, bs, s) := s.hostRead r.ctx r.lane t a 128
      let ws := wordsOf 16 bs
      if recordBad ws || !s.assigned r.ctx (placementOf (ws.getD 1 0)) then .status 2 s
      else if 64 ≤ (sget [] (s.ctx r.ctx).queues r.w2.toNat).length then .hold s
      else
        let (id, s) := s.enqueueLaunch r.ctx r.w2.toNat ws 0 none r.lane 0
        .done 0 (wordOfNat id) [] s

/-- LAUNCH of the host (R424, R430). -/
def execHostLaunch (r : HostReq) (s : State) : Host.Outcome State Fault Refusal := .next (s.serve 48 r performLaunch)

/-- HFENCE (R428): it waits for every request that a masked lane accepted before it, then empties its lane's read buffer. -/
def performHfence (s : State) (h : Held) : Served :=
  if wbits h.req.w2 63 16 ≠ 0 then .status 2 s
  else
    let waits := (List.range 16).any fun n => wbit h.req.w2 n && (s.lane n).held.any fun x => decide (x.order < h.order)
    if waits then .hold s else .status 0 (s.modLane h.req.lane fun l => { l with buffer := [] })

/-- HFENCE (R424, R428). -/
def execHfence (r : HostReq) (s : State) : Host.Outcome State Fault Refusal := .next (s.serve 64 r performHfence)

/-! ### Ports and fences -/

/-- A port goes Down (R372, R386, R387): its escrows are in doubt, and the packets that it has not processed yet are dropped, since
the resynchronisation says so to the peer; a fenced port stays fenced. -/
def State.portDown (s : State) (port : Nat) : State :=
  s.modPort port fun p =>
    match p.state with
    | .up | .resync =>
      { p with
        state := .down, downAt := s.now + 1, resends := [], arrived := []
        escrows := p.escrows.map fun e => match e.state with
          | .sent | .waiting _ => { e with state := .inDoubt }
          | .inDoubt | .returning _ => e }
    | .down => if p.downAt = 0 then { p with downAt := s.now + 1 } else p
    | .fenced => { p with downAt := s.now + 1 }

/-- A flit's acknowledgement is 2 microseconds overdue (R435): it is re-sent; after the eighth re-send the port goes Down. -/
def execLinkResendTimeout (port : Nat) (flit : BitVec 32) (s : State) : Host.Outcome State Fault Refusal :=
  .next (
    let n := sget 0 (s.port port).resends flit.toNat + 1
    let s := s.modPort port fun p => { p with resends := sset p.resends flit.toNat n }
    if 9 ≤ n then s.portDown port else s)

/-- A flit is acknowledged (R435). -/
def State.flitAcked (s : State) (port : Nat) (flit : BitVec 32) : State :=
  s.modPort port fun p => { p with resends := sdel p.resends flit.toNat }

/-- A receiver has been without lane lock for 1 microsecond (R435). -/
def execLaneLockTimeout (port : Nat) (s : State) : Host.Outcome State Fault Refusal := .next (s.portDown port)

/-- A port's link is back (R372, R387): the peers resynchronise. A fenced port waits for ADMIT (R375). -/
def execLinkRestored (port : Nat) (s : State) : Host.Outcome State Fault Refusal :=
  .next (s.modPort port fun p =>
    match p.state with
    | .down => { p with state := .resync, downAt := 0 }
    | .fenced => { p with downAt := 0 }
    | .up | .resync => p)

/-- Whether the peer's map says that it applied a packet (R372): bit `n` stands for sequence number `last - n`. -/
def appliedIn (last : BitVec 32) (map : BitVec 64) (seq : BitVec 32) : Bool :=
  let d := (last - seq).toNat
  decide (d < 64) && map.toNat.testBit d

/-- Whether a sequence number is at most another, in their modular order (R372). -/
def seqAtMost (seq last : BitVec 32) : Bool := decide ((last - seq).toNat < 2 ^ 31)

/-- An escrow meets the peer's map (R372, R386): dropped if applied, else it returns home. -/
def State.resyncEscrow (s : State) (port : Nat) (last : BitVec 32) (map : BitVec 64) (e : Escrow) : State :=
  match e.state with
  | .returning _ => s
  | .sent | .waiting _ | .inDoubt =>
    if seqAtMost e.pkt.seq last && appliedIn last map e.pkt.seq then s.dropEscrow port e.pkt.seq
    else s.modEscrow port e.pkt.seq fun e => { e with state := .returning 0 }

/-- The peers of a resynchronising port have exchanged their maps (R372, R387): the peer's last sequence number and map
settle every escrow, and the port is Up. -/
def execResyncComplete (port : Nat) (last : BitVec 32) (map : BitVec 64) (s : State) : Host.Outcome State Fault Refusal :=
  .next (
    if (s.port port).state ≠ .resync then s
    else
      ((s.port port).escrows.foldl (fun s e => s.resyncEscrow port last map e) s).modPort port fun p =>
        { p with state := .up, resends := [] })

/-- The escrows of a port that a fence returns in doubt (R373, R386). -/
def inDoubtBy (p : Port) : List Escrow :=
  p.escrows.filter fun e => match e.state with
    | .returning _ => false
    | .sent | .waiting _ | .inDoubt => true

/-- The error event of a fenced port for a region (R373, R464). -/
def State.doubtEvent (s : State) (port pkg rn n : Nat) : State :=
  if n = 0 then s
  else s.event ((sfind s.regions rn).map (·.ctx) |>.getD 0) { kind := 4, pos := port } 7 0 3 0 (wordOfNat rn) 0 (wordOfNat n)
    (wordOfNat pkg)

/-- A port towards a fenced peer (R373, R387): it is fenced, and its escrows return in doubt. -/
def State.fencePort (s : State) (pkg port : Nat) : State :=
  let doubt := inDoubtBy (s.port port)
  let s := s.modPort port fun p =>
    { p with state := .fenced, arrived := [], escrows := p.escrows.map fun e => match e.state with
        | .returning _ => e
        | .sent | .waiting _ | .inDoubt => { e with state := .returning 1 } }
  (List.range 16).foldl (fun s rn => s.doubtEvent port pkg rn (doubt.filter fun e => e.pkt.region == rn).length) s

/-- A host event of a source that belongs to no context (R432). -/
def State.packageEvent (s : State) (src : Source) (code : Nat) (w3 w6 : Word) : State :=
  let key := src.kind * 2 ^ 28 + src.pos
  let n := sget 0 s.evSeq key
  { s with evSeq := sset s.evSeq key ((n + 1) % 2 ^ 32) }.hostEvent src
    [0, wordOfNat (n * 2 ^ 32 + key), wordOfNat code, w3, 0, 0, w6, 0]

/-- Whether a message comes from package `pkg`. -/
def Flight.comesFrom (pkg : Nat) (f : Flight) : Bool := decide (2 ^ 20 ≤ f.msg.src) && decide (f.msg.src / 2 ^ 20 = pkg + 1)

/-- What was under way to or from a package as it is fenced (R436): its messages that are not delivered yet are discarded, those
sent to it and not acknowledged raise BOUNDS FENCED for their senders, and no landing there counts any more. -/
def State.fenceTraffic (s : State) (pkg : Nat) : State :=
  let lost := s.outbox.filter fun f => !destOwn f.dest && destPkg f.dest == pkg
  let s := { s with
    toDest := s.toDest.filter fun f => !f.comesFrom pkg
    landings := s.landings.filter fun l => l.peer ≠ some pkg
    outbox := s.outbox.filter fun f => destOwn f.dest || destPkg f.dest != pkg }
  lost.foldl (fun s f => s.refuse f { kind := 0, pos := senderCore f.msg.src } 4 0) s

/-- A peer is fenced (R436): every port to it, what is under way, and a PEER_FENCED host event. -/
def State.fencePeer (s : State) (pkg : Nat) : State :=
  if s.fencedPkgs.contains pkg then s
  else
    let ports := s.portsTo pkg
    let s := ports.foldl (fun s n => s.fencePort pkg n) { s with fencedPkgs := s.fencedPkgs ++ [pkg] }
    let s := s.fenceTraffic pkg
    s.packageEvent { kind := 4, pos := ports.headD 0 } 11 0 (wordOfNat pkg)

/-- Whether every port to a peer has been Down for the fence interval (R436). -/
def State.fenceDue (s : State) (pkg : Nat) : Bool :=
  let long := fun (n : Nat) =>
    let p := s.port n
    p.state = .down && decide (p.downAt ≠ 0) && decide (s.fenceInterval ≤ micros (p.downAt - 1) s.now)
  !(s.portsTo pkg).isEmpty && (s.portsTo pkg).all long && !s.fencedPkgs.contains pkg

/-- Every port to a peer has been Down for the fence interval (R436). -/
def execFenceIntervalExpiry (pkg : Nat) (s : State) : Host.Outcome State Fault Refusal :=
  .next (if s.fenceDue pkg then s.fencePeer pkg else s)

/-- The links come up after SETID (R452): each port that is wired reaches its peer. -/
def State.linksUp (s : State) : State :=
  (List.range 16).foldl (fun s n => s.modPort n fun p =>
    if p.peer.isNone then
      { p with peer := Config.portPeer n, state := if (Config.portPeer n).isSome then .up else .down }
    else p) s

/-! ### Service requests -/

/-- SETID (R431, R435, R452): 0xFFF, and what is no package id, is malformed; with a live context every peer is fenced. -/
def performSetid (s : State) (h : Held) : Served :=
  if 0xFFF ≤ h.req.w2.toNat then .status 2 s
  else
    let peers := ((List.range 16).filterMap fun n => (s.port n).peer).dedup
    let s := if s.ctxs.any fun c => c.2.live then peers.foldl State.fencePeer s else s
    .status 0 { s with pkg := h.req.w2.toNat, boot := { s.boot with stage := 3, done := 3 } }.linksUp

/-- SETID (R431). -/
def execSetid (r : HostReq) (s : State) : Host.Outcome State Fault Refusal := .next (s.serve 80 r performSetid)

/-- FENCE (R431, R436). -/
def performFence (s : State) (h : Held) : Served :=
  if 0xFFF ≤ h.req.w2.toNat then .status 2 s else .status 0 (s.fencePeer h.req.w2.toNat)

/-- FENCE (R431, R436). -/
def execServiceFence (r : HostReq) (s : State) : Host.Outcome State Fault Refusal := .next (s.serve 81 r performFence)

/-- ADMIT (R431, R436): the fence is lifted once a port to the peer is up; a peer that is not fenced needs none. -/
def performAdmit (s : State) (h : Held) : Served :=
  let pkg := h.req.w2.toNat
  if 0xFFF ≤ pkg then .status 2 s
  else if !s.fencedPkgs.contains pkg then .status 0 s
  else if (s.portsTo pkg).all fun n => decide ((s.port n).downAt ≠ 0) then .hold s
  else
    let s := (s.portsTo pkg).foldl (fun s n => s.modPort n fun p =>
      { p with state := if p.downAt = 0 then .up else .down }) s
    .status 0 { s with fencedPkgs := s.fencedPkgs.filter (· ≠ pkg) }

/-- ADMIT (R431, R436). -/
def execAdmitPeer (r : HostReq) (s : State) : Host.Outcome State Fault Refusal := .next (s.serve 82 r performAdmit)

/-- LIMITS (R403, R431, R436). -/
def performLimits (s : State) (h : Held) : Served :=
  if !(s.ctx h.req.ctx).live then .status 7 s
  else .status 0 ({ s with fenceInterval := h.req.w3.toNat }.modCtx h.req.ctx fun c => { c with stallLimit := h.req.w2.toNat })

/-- LIMITS (R431). -/
def execLimits (r : HostReq) (s : State) : Host.Outcome State Fault Refusal := .next (s.serve 83 r performLimits)

/-- The leaf entry of a page that GIVE or TAKE names: its key and its word (R434). -/
def State.leafOf (s : State) (a : Nat) : Option (Nat × Word) :=
  match s.leafKey a with
  | .error _ => none
  | .ok k => some (k, s.leafAt k)

/-- Log2 of the bytes that the leaves of a page describe together; a leaf of no size stands alone (R172, R174). -/
def pageLog (leaf : Word) : Nat := if leafSize leaf = 3 then 16 else leafLog leaf

/-- The ho bit of a page set to `v`, in each of the page's leaves: 1, 32 or 16,384 (R172, R174, R434). -/
def State.setHo (s : State) (a : Nat) (leaf : Word) (v : Nat) : State :=
  forRange (2 ^ pageLog leaf / 65536) (fun i s =>
    match s.leafOf (a / 2 ^ pageLog leaf * 2 ^ pageLog leaf + 65536 * i) with
    | some (k, w) => s.physWrite k (bytesOfNat 8 (setBits w 26 26 v).toNat)
    | none => s) s

/-- The flush that TAKE and GIVE execute: the mode bars the device from no copy of the page (R434). -/
def State.hostFlush (s : State) (a : Nat) : State := { ({ s with pxmode := false }.pgFlush a) with pxmode := s.pxmode }

/-- A command that waits for a page tries again at once (R434). -/
def Cmd.release (c : Cmd) : Cmd := if c.waiting then { c with waiting := false, retries := [] } else c

/-- Every engine command that waits for the fault service is released (R434). -/
def State.releaseEngines (s : State) : State :=
  { s with
    cores := smap (fun _ k => { k with running := smap (fun _ cs => cs.map Cmd.release) k.running }) s.cores
    bulks := smap (fun _ cs => cs.map Cmd.release) s.bulks }

/-- Every slot parked on the page of an address goes on (R434). -/
def State.resumePage (s : State) (a : Nat) (leaf : Word) : State :=
  s.slots.foldl (fun s e => match e.2.run with
    | .parked p => if va p.addr / 2 ^ leafLog leaf = a / 2 ^ leafLog leaf then s.resumeSlot e.1 else s
    | .idle | .attached _ | .stray | .joinWait _ => s) s

/-- GIVE (R434): the page goes to the device, and what waited on it goes on. The flush waits for pinned sectors (R415). -/
def performGive (s : State) (h : Held) : Served :=
  let a := va h.req.addr
  match s.leafOf a with
  | none => .status 3 s
  | some (_, leaf) =>
    if s.flushWaits a then .hold s
    else .status 0 ((((s.setHo a leaf 0).hostFlush a).resumePage a leaf).releaseEngines)

/-- GIVE (R431, R434). -/
def execGive (r : HostReq) (s : State) : Host.Outcome State Fault Refusal := .next (s.serve 84 r performGive)

/-- TAKE (R434): the page goes to the host, and the device's copies of it are written to memory and dropped. -/
def performTake (s : State) (h : Held) : Served :=
  let a := va h.req.addr
  match s.leafOf a with
  | none => .status 3 s
  | some (_, leaf) => if s.flushWaits a then .hold s else .status 0 ((s.setHo a leaf 1).hostFlush a)

/-- TAKE (R431, R434). -/
def execTake (r : HostReq) (s : State) : Host.Outcome State Fault Refusal := .next (s.serve 85 r performTake)

/-- PXMODE (R431, R434): in the mode no held translation of a page of the host serves the device. -/
def performPxmode (s : State) (h : Held) : Served :=
  if wbits h.req.w2 63 1 ≠ 0 then .status 2 s
  else if wbit h.req.w2 0 then
    .status 0 { s with pxmode := true }
  else .status 0 { s with pxmode := false }

/-- PXMODE (R431, R434). -/
def execPxmode (r : HostReq) (s : State) : Host.Outcome State Fault Refusal := .next (s.serve 86 r performPxmode)

/-- MINT (R220, R431): the capability's fields stand in bits [63:16] of w2. -/
def performMint (s : State) (h : Held) : Served :=
  let w := h.req.w2
  if wbits w 15 0 ≠ 0 ∨ wbits w 47 45 ≠ 0 ∨ wbits w 39 29 ≠ 0 then .status 2 s
  else if !(s.ctx (wbits w 63 48)).live then .status 7 s
  else .done 0 (w ||| (Config.checkCode (wbits w 63 48) (wbits w 63 16)).setWidth 64) [] s

/-- MINT (R431). -/
def execMint (r : HostReq) (s : State) : Host.Outcome State Fault Refusal := .next (s.serve 87 r performMint)

/-- RULECTX (R337, R431): a rule context that another context holds is denied. -/
def performRulectx (s : State) (h : Held) : Served :=
  let k := h.req.w2.toNat
  if 7 < k then .status 2 s
  else
    let o := (s.ruleCtx k).owner
    if !(s.ctx h.req.ctx).live || (o.isSome && o ≠ some h.req.ctx) then .status 7 s
    else .status 0 (s.modRule k fun c => { c with owner := some h.req.ctx })

/-- RULECTX (R431). -/
def execRulectx (r : HostReq) (s : State) : Host.Outcome State Fault Refusal := .next (s.serve 88 r performRulectx)

/-- CLEARFAIL (R410, R431). -/
def performClearfail (s : State) (h : Held) : Served :=
  if !(s.ctx h.req.ctx).live then .status 7 s
  else .status 0 (s.modCtx h.req.ctx fun c => { c with failed := false })

/-- CLEARFAIL (R431). -/
def execClearfail (r : HostReq) (s : State) : Host.Outcome State Fault Refusal := .next (s.serve 89 r performClearfail)

/-- UNFENCECORE (R420, R431): the core stands in bits [14:2] of w2; one that is not fenced is denied. -/
def performUnfencecore (s : State) (h : Held) : Served :=
  let w := h.req.w2
  if wbits w 63 15 ≠ 0 ∨ wbits w 1 0 ≠ 0 then .status 2 s
  else if !(s.core (wbits w 14 2)).fenced then .status 7 s
  else .status 0 (s.modCore (wbits w 14 2) fun c => { c with fenced := false })

/-- UNFENCECORE (R431). -/
def execUnfencecore (r : HostReq) (s : State) : Host.Outcome State Fault Refusal := .next (s.serve 90 r performUnfencecore)

/-! ### STATE requests -/

/-- A STATE request (R425, R433, R457): answered from reset, whatever its seq, which does not advance the count. -/
def State.stateReq (s : State) (r : HostReq) (answer : Nat × Word × List Byte) : State :=
  if !r.clean then s.respond r 2 0 []
  else s.respond r answer.1 answer.2.1 answer.2.2

/-- STATE 0 (R433): the lane's last accepted seq. -/
def execStateLastSeq (r : HostReq) (s : State) : Host.Outcome State Fault Refusal :=
  .next (s.stateReq r (0, (s.lane r.lane).last.setWidth 64, []))

/-- STATE 1 (R433): the next event seq of the source that w2 names. -/
def execStateNextEventSeq (r : HostReq) (s : State) : Host.Outcome State Fault Refusal :=
  .next (s.stateReq r (if wbits r.w2 63 32 ≠ 0 then (2, 0, []) else (0, wordOfNat (sget 0 s.evSeq r.w2.toNat), [])))

/-- The events of a source in a list, in order. -/
def ofSource (src : Word) (es : List Event) : List Event := es.filter fun e => wbits (e.words.getD 1 0) 31 0 = src.toNat

/-- The events of a list from the one with a sequence number on; none where it is not there. -/
def fromSeq (first : Nat) (es : List Event) : List Event := es.dropWhile fun e => wbits (e.words.getD 1 0) 63 32 ≠ first

/-- STATE 2 (R433): the source's held events from seq w3 on are sent again, in order; GONE where that seq is no longer held. One
that is still to be sent, or to be raised next, is not gone. -/
def State.replay (s : State) (r : HostReq) : Nat × State :=
  let first := r.w3.toNat
  if wbits r.w2 63 32 ≠ 0 ∨ 2 ^ 32 ≤ first then (2, s)
  else
    let l := s.lane (Source.ofWord r.w2).lane
    let es := fromSeq first (ofSource r.w2 l.sent)
    let later := !(fromSeq first (ofSource r.w2 (l.unsent ++ l.waiting))).isEmpty || first == sget 0 s.evSeq r.w2.toNat
    if es.isEmpty then (if later then 0 else 6, s)
    else (0, s.modLane (Source.ofWord r.w2).lane fun l => { l with out := l.out ++ es })

/-- STATE 2 (R433). -/
def execStateReplay (r : HostReq) (s : State) : Host.Outcome State Fault Refusal :=
  .next (if !r.clean then s.respond r 2 0 [] else let x := s.replay r; x.2.respond r x.1 0 [])

/-- The boot status (R457). -/
def State.bootStatus (s : State) : Word := wordOfNat (s.boot.fail * 256 + s.boot.stage)

/-- STATE 3 (R457): the boot status, from reset, whatever the seq, on every lane. -/
def execStateBootStatus (r : HostReq) (s : State) : Host.Outcome State Fault Refusal :=
  .next (if r.clean then s.respond r 0 s.bootStatus [] else s.respond r 2 0 [])

/-! ### Requests as they arrive -/

/-- A request that is MALFORMED whatever its arguments: a reserved kind, or a SERVICE or STATE code that names nothing (R424,
R425, R431). -/
def performMalformed (s : State) (_h : Held) : Served := .status 2 s

/-- The words that a kind of request uses, of w2 to w7 (R424, R430, R431, R433): the others must be zero. -/
def argsUsed (kind : Nat) : List Nat :=
  match kind with
  | 48 | 64 | 80 | 81 | 82 | 86 | 87 | 88 | 90 | 97 => [2]
  | 83 | 98 => [2, 3]
  | _ => []

/-- The code of a request's kind: 16 x kind, and the sub code of SERVICE and STATE (R424). -/
def requestKind (w0 : Word) : Nat := 16 * wbits w0 31 28 + if wbits w0 31 28 = 5 ∨ wbits w0 31 28 = 6 then wbits w0 15 12 else 0

/-- The fields of a request's flit (R424). -/
def requestOf (lane : Nat) (ws : List Word) (data : List Byte) : HostReq :=
  let w0 := ws.getD 0 0
  { lane, seq := w0.extractLsb' 32 32, ctx := wbits w0 27 22, acq := wbit w0 21, addr := ws.getD 1 0, len := wbits w0 11 0 + 1,
    w2 := ws.getD 2 0, w3 := ws.getD 3 0, data,
    clean := wbits w0 20 16 = 0
      && [2, 3, 4, 5, 6, 7].all fun i => (argsUsed (requestKind w0)).contains i || ws.getD i 0 == 0 }

/-- What a request does, by the code of its kind (R424, R431, R433). -/
def requestMeaning (kind : Nat) (r : HostReq) (s : State) : Host.Outcome State Fault Refusal :=
  match kind with
  | 0 => execRead r s
  | 16 => execWrite r s
  | 32 => execWriteWc r s
  | 48 => execHostLaunch r s
  | 64 => execHfence r s
  | 80 => execSetid r s
  | 81 => execServiceFence r s
  | 82 => execAdmitPeer r s
  | 83 => execLimits r s
  | 84 => execGive r s
  | 85 => execTake r s
  | 86 => execPxmode r s
  | 87 => execMint r s
  | 88 => execRulectx r s
  | 89 => execClearfail r s
  | 90 => execUnfencecore r s
  | 96 => execStateLastSeq r s
  | 97 => execStateNextEventSeq r s
  | 98 => execStateReplay r s
  | 99 => execStateBootStatus r s
  | _ => .next (if kind / 16 = 6 then s.respond r 2 0 [] else s.serve kind r performMalformed)

/-- A request arrives on a lane as its flit and its data (R424). -/
def hostRequest (lane : Nat) (ws : List Word) (data : List Byte) (s : State) : Host.Outcome State Fault Refusal :=
  requestMeaning (requestKind (ws.getD 0 0)) (requestOf lane ws data) s

/-! ### Modules, tiers, temperature -/

/-- A UCIe module that cannot retrain: its lanes move to the die's other module (R423). -/
def execUcieModuleFailover (die module : Nat) (s : State) : Host.Outcome State Fault Refusal :=
  .next ((List.range 4).foldl (fun s n =>
    s.modLane (4 * die + n) fun l => if l.module = module then { l with module := 1 - module } else l) s)

/-- A CXL port's link fails (R437): from now on its accesses complete with poison. -/
def execCxlLinkFailure (die : Nat) (s : State) : Host.Outcome State Fault Refusal :=
  .next (if s.cxlDown.contains die then s else { s with cxlDown := s.cxlDown ++ [die] })

/-- Whether a save with a deadline is in progress (R413, R461). -/
def State.deadlineSave (s : State) : Bool :=
  s.ctxs.any fun e => match e.2.saving with
    | some sv => decide (sv.deadline ≠ 0)
    | none => false

/-- The hottest sensor of a die (R460). -/
def State.hottest (s : State) (die : Nat) : Nat := (List.range 4).foldl (fun m q => max m (sget 0 s.temps (4 * die + q))) 0

/-- At 115 degrees the steward core stops the package (R460). -/
def State.stopAt (s : State) (celsius : Nat) : State :=
  if 115 ≤ celsius then { s with boot := { s.boot with fail := 7 } } else s

/-- The clock of a die after a reading of one of its sensors (R460, R461): once a sensor has exceeded 105 degrees, and until every
sensor of the die is below 100, it goes down by one step at each reading, to 8 at the lowest; not while a save with a deadline
streams, unless a sensor exceeds 110. -/
def State.throttle (s : State) (q : Sensor) (celsius : Nat) : State :=
  let die := q.die
  let s := { s with temps := sset s.temps (4 * die + q.quadrant) celsius }
  let top := s.hottest die
  let hot := decide (105 < top) || (s.hot.contains die && decide (100 ≤ top))
  let s := { s with hot := if hot then (if s.hot.contains die then s.hot else s.hot ++ [die]) else s.hot.filter (· ≠ die) }
  let c := s.clockOf die
  if hot && decide (8 < c) && (!s.deadlineSave || decide (110 < top)) then
    { s with clock := sset s.clock die (c - 1) }.packageEvent { kind := 2, pos := 4 * die } 13 (wordOfNat (c - 1)) (wordOfNat die)
  else s

/-- The steward core reads a quadrant's sensor (R460, R461): the die's clock follows it, and at 115 degrees the package stops. -/
def execThermalThrottle (q : Sensor) (celsius : Nat) (s : State) : Host.Outcome State Fault Refusal :=
  .next ((s.throttle q celsius).stopAt celsius)

/-- A sensor, whichever it is, reaches 115 degrees: the steward core stops the package (R460). -/
def execThermalStop (celsius : Nat) (s : State) : Host.Outcome State Fault Refusal := .next (s.stopAt celsius)

end Sys2Proof.Machine
end

