-- ==== Sys2Proof/Machine/Boot.lean ====
section
/-!
DEFINITION. The boot chain (R452 to R456) and measurements over SPDM (R458, R459). What an image contains, and what
training and enumeration find, comes from outside the package with the event (log 18).
-/

namespace Sys2Proof.Machine

/-! ### The boot chain -/

/-- The bytes of a list of words (R4). -/
def bytesOfWords (ws : List Word) : List Byte := ws.flatMap fun w => bytesOfNat 8 w.toNat

/-- The bytes that the signatures of an image cover: the header and the code (R455). -/
def imageSigned (img : FwImage) : List Byte := bytesOfWords img.header ++ img.code

/-- The security version number of an image (R453). -/
def imageSvn (img : FwImage) : Nat := wbits (img.header.getD 1 0) 63 32

/-- Whether the header of an image is the one R453 states, for the stage expected. -/
def headerOk (img : FwImage) (stage : Nat) : Bool :=
  let h0 := img.header.getD 0 0
  let len := wbits (img.header.getD 1 0) 31 0
  img.header.length = 64 && wbits h0 63 32 = 0x4B534730 && wbits h0 31 24 = stage && wbits h0 23 1 = 0
  && len % 64 = 0 && decide (len ≤ 0x200000) && img.code.length = len && (img.header.drop 2).all (· = 0)
  && img.rsa.length = 384 && img.slh.length = 7856

/-- Whether the RSA signature of an image verifies (R455): RSASSA-PSS over the SHA-384 hash of header and code, under a key whose
hash the fuses hold. The layout of the key is the model's (log 18). -/
def rsaPasses (img : FwImage) : Bool :=
  sha384 img.rsaKey = Config.rsaFuse
  && rsaPssVerify (beNat (img.rsaKey.take 384)) (beNat (img.rsaKey.drop 384)) (sha384Bytes (imageSigned img)) img.rsa

/-- Whether the SLH-DSA signature of an image verifies (R455). -/
def slhPasses (img : FwImage) : Bool :=
  sha384 img.slhKey = Config.slhFuse && slhDsaVerify img.slhKey (sha384Bytes (imageSigned img)) img.slh

/-- The check of an image (R455): the fail code of R457, 0 where it passes. -/
def State.imageFail (s : State) (img : FwImage) (stage : Nat) : Nat :=
  if !headerOk img stage then 1
  else if imageSvn img < sget 0 s.minSvn stage then 2
  else if !rsaPasses img then 3
  else if !slhPasses img then 4
  else 0

/-- The bytes of an image, its signatures included (R453). -/
def imageBytes (img : FwImage) : List Byte := imageSigned img ++ img.rsa ++ img.slh

/-- The SHA-384 hash of an image as a whole (R456). -/
def imageHash (img : FwImage) : BitVec 384 := sha384 (imageBytes img)

/-- The fused minimum of a stage advanced to an image's svn, when the image asks for it (R455). -/
def State.advanceSvn (s : State) (img : FwImage) (stage : Nat) : State :=
  if wbit (img.header.getD 0 0) 0 then { s with minSvn := sset s.minSvn stage (imageSvn img) } else s

/-- A boot stage fails (R455, R457): the boot stops there. -/
def State.bootFail (s : State) (code : Nat) : State := { s with boot := { s.boot with fail := code } }

/-- Stage 0 reads the stage 1 image into the steward's SRAM of 4 MiB, above the lowest 256 KiB (R454). -/
def State.loadSram (s : State) (img : FwImage) : State :=
  { s with sram := putBytes s.sram 0x40000 ((imageBytes img).take 0x3C0000) }

/-- The steward core runs firmware in M-mode from an address (R13, R452). -/
def State.runSteward (s : State) (pc : Nat) : State :=
  s.modSlot stewardSlot fun sl => { sl with run := .stray, priv := .m, pc := wordOfNat pc, rep := none, fresh := false, wait := .none }

/-- Stage 0 (R452, R454): the stage 1 image is read, checked and measured into MR0, and the steward core jumps to its code. -/
def execBootStage0 (img : FwImage) (s : State) : Host.Outcome State Fault Refusal :=
  .next (
    if s.boot.stage ≠ 0 ∨ s.boot.fail ≠ 0 then s
    else
      let s := s.loadSram img
      let f := s.imageFail img 1
      if f ≠ 0 then s.bootFail f
      else
        let s := (s.extendMr 0 (imageHash img)).advanceSvn img 1
        { s with boot := { s.boot with stage := 1, done := 0 } }.runSteward 0x40200)

/-- The CXL record (R456): for each die the serial number and the capacity of its device, or zeros where there is none. -/
def cxlRecord (serials : List Word) : List Byte :=
  (List.range 4).flatMap fun d =>
    if Config.cxlSize d = 0 then List.replicate 16 0 else bytesOfNat 8 (serials.getD d 0).toNat ++ bytesOfNat 8 (Config.cxlSize d)

/-- Fresh keys for the numbers 0 to 63. -/
def freshKeys (free : Nat) : Sparse (BitVec 256) := forRange 64 (fun i m => sput 0 m i (Config.freshKey (free + i))) []

/-- Stage 1 installs the keys of sealed pages and of context images (R181, R408, R452). -/
def State.installKeys (s : State) : State :=
  { s with keys := freshKeys s.free, ctxKeys := freshKeys (s.free + 64), free := s.free + 128 }

/-- A table entry of the package page table written to point at the next table (R172). -/
def State.setTable (s : State) (table index next : Nat) : State := s.physWrite (memKey 0 (table + 8 * index)) (bytesOfNat 8 (next + 1))

/-- The leaf of the mailbox page (R174, R459): present, 64 KiB, class 0, tier 0, pinned to tile (0, 0), at a frame of die 0. -/
def mailLeaf (mail : Nat) : Word := setBits (setBits 1 63 27 (mail / 65536)) 7 6 1

/-- Stage 1 sets the page-table root, and maps the mailbox page through three tables that stand behind the root (R452, R459, log
18). -/
def State.layTables (s : State) (root mail : Nat) : State :=
  let a := Config.mailbox
  let s := (({ s with ptRoot := root }.setTable root (bitsOf a 55 46) (root + 8192)).setTable (root + 8192) (bitsOf a 45 36)
    (root + 16384)).setTable (root + 16384) (bitsOf a 35 26) (root + 24576)
  s.physWrite (memKey 0 (root + 24576 + 8 * bitsOf a 25 16)) (bytesOfNat 8 (mailLeaf mail).toNat)

/-- The virtual address at which stage 1 maps the stage 2 image, in the 4 MiB behind those of the mailbox page (R454, log 18). -/
def fwAt : Nat := Config.mailbox + 0x400000

/-- The pages of the stage 2 image: its leaves lie in the table of the mailbox's, of class 0 until the image has been verified, then
read-only (R454, log 18). -/
def State.mapFw (s : State) (root region size cls : Nat) : State :=
  (List.range (min 64 (ceilDiv size 65536))).foldl (fun s i =>
    s.physWrite (memKey 0 (root + 24576 + 8 * (bitsOf fwAt 25 16 + i)))
      (bytesOfNat 8 (setBits (setBits 1 63 27 (region / 65536 + i)) 5 3 cls).toNat)) s

/-- The PLB entry for the pages of the stage 2 image, with rights: R 1, W 2, X 4 (R170, R454). -/
def fwEntry (rights : Nat) : Word := wordOfNat (2 ^ 63 + fwAt + 22 * 256 + rights)

/-- The service cores, which follow the steward's number: core 4 x die + quadrant after it (R15, log 18). -/
def serviceCores : List Nat := (List.range 16).map (stewardCore + 1 + ·)

/-- Stage 1 reads the stage 2 image into a region of die 0's HBM that it maps for itself alone (R454). -/
def State.loadHbm (s : State) (img : FwImage) (plan : BootPlan) : State :=
  let bs := imageBytes img
  { ((s.physWrite (memKey 0 plan.region) bs).mapFw plan.root plan.region bs.length 0).modCore stewardCore fun k =>
      { k with plb := sput 0 k.plb 0 (fwEntry 3) }
    with fw := some { base := plan.region, size := bs.length, exec := false } }

/-- The pages of the stage 2 image are mapped read-only and executable for the service cores, and no longer for the steward (R454). -/
def State.shareFw (s : State) (plan : BootPlan) (size : Nat) : State :=
  let s := (s.mapFw plan.root plan.region size 1).modCore stewardCore fun k => { k with plb := sput 0 k.plb 0 0 }
  { serviceCores.foldl (fun s c => s.modCore c fun k => { k with plb := sput 0 k.plb 0 (fwEntry 5) }) s
    with fw := s.fw.map fun x => { x with exec := true } }

/-- Stage 1 (R452, R454, R456, R459): training, enumeration, the page-table root, the keys; then the stage 2 image is read,
checked, measured into MR1 and mapped read-only and executable for the service cores, and the fuse and strap configuration is
measured into MR2. -/
def execBootStage1 (img : FwImage) (hbmOk cxlOk : Bool) (serials : List Word) (plan : BootPlan) (s : State) :
    Host.Outcome State Fault Refusal :=
  .next (
    if s.boot.stage ≠ 1 ∨ s.boot.fail ≠ 0 then s
    else if !hbmOk then s.bootFail 5
    else if !cxlOk then s.bootFail 6
    else
      let s := (((s.extendMr 7 (sha384 (cxlRecord serials))).layTables plan.root plan.mail).installKeys).loadHbm img plan
      let f := s.imageFail img 2
      if f ≠ 0 then s.bootFail f
      else
        let s := (((s.extendMr 1 (imageHash img)).extendMr 2 (sha384 Config.fuseConfig)).advanceSvn img 2).shareFw plan (imageBytes img).length
        { s with boot := { s.boot with stage := 2, done := 1 } })

/-- Stage 2 (R452): the fault service and the host lanes start. -/
def execBootStage2 (s : State) : Host.Outcome State Fault Refusal :=
  .next (if s.boot.stage = 2 ∧ s.boot.done = 1 ∧ s.boot.fail = 0 then { s with boot := { s.boot with done := 2 } } else s)

/-! ### SPDM -/

/-- The steward core's translation of the mailbox page (R459). -/
def State.mailboxPage (s : State) : Option (TEntry × State) :=
  match s.translate 0 Config.mailbox true with
  | .ok x => some x
  | .error _ => none

/-- A number of 4 bytes in the mailbox. -/
def State.mail32 (s : State) (t : TEntry) (off : Nat) : Nat := natOfBytes (s.homeRead t 0 (Config.mailbox + off) 4)

/-- The version byte of an SPDM request and of its response: 0x10 for GET_VERSION, 0x13 for the others (R458, log 9). -/
def spdmVersion (code : Byte) : Byte := if code = 0x84 then 0x10 else 0x13

/-- The packet of an SPDM request: the bytes of transport and message type, then the SPDM header and body (R459, log 9). -/
def requestPacket (transport : List Byte) (code : Byte) (q : SpdmReq) : List Byte :=
  transport ++ [spdmVersion code, code, q.param1, q.param2] ++ q.body

/-- The transport bytes of a response (R459, log 9): those of its request, with the endpoint ids of MCTP exchanged and its tag marked
as another's. -/
def mctpReply (request : List Byte) : List Byte :=
  let b := fun i => request.getD i 0
  [b 0, b 2, b 1, b 3 &&& 0xF7, b 4]

/-- The mailbox's answer (R459): the request length is cleared, the response written, then its length with a system-scope release of
the steward core (R183). A word that cannot be written through then stays where it is (log 49). -/
def State.postMail (s : State) (t : TEntry) (a : List Byte) : State :=
  let s := s.homeWrite t Config.mailbox (bytesOfNat 4 0)
  let s := s.homeWrite t (Config.mailbox + 2056) a
  (s.releaseBest stewardCore).homeWrite t (Config.mailbox + 2048) (bytesOfNat 4 a.length)

/-- The packet in the mailbox (R459), taken only while the response length is 0; none where there is none. -/
def State.takeMail (s : State) : Option (TEntry × State × List Byte) :=
  if !s.lanesUp then none
  else match s.mailboxPage with
  | none => none
  | some (t, s) =>
    let n := s.mail32 t 0
    if n = 0 ∨ 2040 < n ∨ s.mail32 t 2048 ≠ 0 then none else some (t, s, s.homeRead t 0 (Config.mailbox + 8) n)

/-- The bytes of an ASCII text. -/
def asciiBytes (x : String) : List Byte := x.toList.map fun c => BitVec.ofNat 8 c.toNat

/-- What SPDM signs in place of a transcript's hash: the version four times, the name of the signature in 36 bytes, the hash (R458,
log 9). -/
def spdmSigned (name : String) (transcript : List Byte) : List Byte :=
  let v := asciiBytes "dmtf-spdm-v1.3.*"
  v ++ v ++ v ++ v ++ List.replicate (36 - name.length) 0 ++ asciiBytes name ++ sha384Bytes transcript

/-- What the part is asked about, of the requests that a transcript tells apart (R458, log 9). -/
inductive SpdmKind where
  | negotiate | certificate | challenge | measurements
  deriving DecidableEq, Repr

/-- The kind of an SPDM request (R458). -/
def spdmKind (code : Byte) : SpdmKind :=
  if code = 0x81 ∨ code = 0x82 then .certificate else if code = 0x83 then .challenge
  else if code = 0xE0 then .measurements else .negotiate

/-- The state as a request finds it: GET_VERSION begins every transcript anew; that of the measurements ends with any other request,
and that of digests and certificates with one for measurements (R458, log 9). -/
def State.spdmBegin (s : State) (code : Byte) : State :=
  let s := if code = 0x84 then { s with transcript := [], certMsgs := [], measMsgs := [] } else s
  if spdmKind code = .measurements then { s with certMsgs := [] } else { s with measMsgs := [] }

/-- The messages that a signature of the part covers, before the request that asks for it (R458, log 9). -/
def State.spdmCovered (s : State) (code : Byte) : List Byte :=
  s.transcript ++ if spdmKind code = .measurements then s.measMsgs else s.certMsgs

/-- The name of a signature (R458, log 9). -/
def spdmName (code : Byte) : String :=
  if spdmKind code = .measurements then "responder-measurements signing" else "responder-challenge_auth signing"

/-- The message of an SPDM response with what signs it (R458): a signature covers the messages of its transcript, the request and the
response up to it (log 9). -/
def State.signed (s : State) (code : Byte) (sign : Bool) (request response : List Byte) : List Byte :=
  if sign then
    response ++ ecdsaSign Config.ecdsaKey (Config.ecdsaNonce s.free) (sha384 (spdmSigned (spdmName code) (s.spdmCovered code ++ request ++ response)))
  else response

/-- The state with the messages of an exchange added to their transcript; a signature ends it (R458, log 9). -/
def State.spdmEnd (s : State) (code : Byte) (sign : Bool) (messages : List Byte) : State :=
  match spdmKind code with
  | .negotiate => { s with transcript := s.transcript ++ messages }
  | .certificate => { s with certMsgs := s.certMsgs ++ messages }
  | .challenge => { s with certMsgs := [] }
  | .measurements => { s with measMsgs := if sign then [] else s.measMsgs ++ messages }

/-- An SPDM request is taken from the mailbox and answered (R458, R459): the response's message, at most 2,035 bytes beyond the
transport's five. The response has drawn as many free values as `draws` says. -/
def State.spdm (s : State) (code : Byte) (q : SpdmReq) (sign : Bool) (draws : Nat) (response : List Byte) : State :=
  match s.takeMail with
  | none => s
  | some (t, s', packet) =>
    if packet ≠ requestPacket (packet.take 5) code q then s
    else
      let before := s'.spdmBegin code
      let m := (before.signed code sign (packet.drop 5) response).take 2035
      let s' := { before.spdmEnd code sign (packet.drop 5 ++ m) with free := before.free + draws }
      s'.postMail t (mctpReply (packet.take 5) ++ m)

/-- The header of an SPDM response (R458, log 9). -/
def spdmHead (code p1 p2 : Byte) : List Byte := [0x13, code, p1, p2]

/-- Free bytes of a response: a nonce (log 12). -/
def State.nonce (s : State) : List Byte := (List.range 32).map fun i => Config.freeByte (s.free + i)

/-- GET_VERSION (R458): one version, 1.3. -/
def execGetVersion (q : SpdmReq) (s : State) : Host.Outcome State Fault Refusal :=
  .next (s.spdm 0x84 q false 0 [0x10, 0x04, 0, 0, 0, 1, 0x00, 0x13])
/-- GET_CAPABILITIES (R458). -/
def execGetCapabilities (q : SpdmReq) (s : State) : Host.Outcome State Fault Refusal :=
  .next (s.spdm 0xE1 q false 0 (spdmHead 0x61 0 0 ++ Config.spdmCaps))
/-- The ALGORITHMS response (R458): measurements by SHA-384, signatures by ECDSA P-384, hashes by SHA-384 (log 9). -/
def spdmAlgorithms : List Byte :=
  spdmHead 0x63 0 0 ++ bytesOfNat 2 36 ++ [1, 0] ++ bytesOfNat 4 4 ++ bytesOfNat 4 0x80 ++ bytesOfNat 4 2 ++ List.replicate 16 0
/-- NEGOTIATE_ALGORITHMS (R458). -/
def execNegotiateAlgorithms (q : SpdmReq) (s : State) : Host.Outcome State Fault Refusal := .next (s.spdm 0xE3 q false 0 spdmAlgorithms)
/-- GET_DIGESTS (R458): the SHA-384 hash of the certificate chain in slot 0. -/
def execGetDigests (q : SpdmReq) (s : State) : Host.Outcome State Fault Refusal :=
  .next (s.spdm 0x81 q false 0 (spdmHead 0x01 1 1 ++ sha384Bytes Config.certChain))
/-- The CERTIFICATE response (R458): the portion of the chain that the request's offset and length name, and what is left. -/
def spdmCertificate (q : SpdmReq) : List Byte :=
  let off := natOfBytes (q.body.take 2)
  let n := min (min (natOfBytes ((q.body.drop 2).take 2)) 2027) (Config.certChain.length - off)
  spdmHead 0x02 q.param1 0 ++ bytesOfNat 2 n ++ bytesOfNat 2 (Config.certChain.length - off - n) ++ (Config.certChain.drop off).take n
/-- GET_CERTIFICATE (R458). -/
def execGetCertificate (q : SpdmReq) (s : State) : Host.Outcome State Fault Refusal := .next (s.spdm 0x82 q false 0 (spdmCertificate q))

/-- Measurement block `n`, 1 to 8, which holds MR(n - 1) (R458): index, specification, size, value type and size, value. -/
def State.measurement (s : State) (n : Nat) : List Byte :=
  [BitVec.ofNat 8 n, 0x01] ++ bytesOfNat 2 51 ++ [0x01] ++ bytesOfNat 2 48 ++ beBytes 48 (sget 0 s.mrs (n - 1)).toNat

/-- The CHALLENGE_AUTH response up to its signature (R458): the hash of the chain, a nonce, the hash of every measurement where
the request asks for it, no opaque data, the requester's context. -/
def State.challengeAuth (s : State) (q : SpdmReq) : List Byte :=
  spdmHead 0x03 q.param1 1 ++ sha384Bytes Config.certChain ++ s.nonce
    ++ (if q.param2 = 0 then [] else sha384Bytes (((List.range 8).map (· + 1)).flatMap s.measurement))
    ++ bytesOfNat 2 0 ++ (q.body.drop 32).take 8
/-- CHALLENGE (R458). -/
def execChallenge (q : SpdmReq) (s : State) : Host.Outcome State Fault Refusal :=
  .next (s.spdm 0x83 q true 32 (s.challengeAuth q))

/-- The requester's context in a request for measurements, which its response gives back (R458, log 9): it follows the nonce and the
slot of a request that asks for a signature. -/
def requesterContext (q : SpdmReq) : List Byte :=
  (List.range 8).map fun i => q.body.getD ((if q.param1.getLsbD 0 then 33 else 0) + i) 0

/-- The MEASUREMENTS response up to its signature (R458): operation 0 asks for the number of blocks, 0xFF for every block, `n` for
block `n`; any other is an SPDM error. -/
def State.measurementsHead (s : State) (q : SpdmReq) : List Byte :=
  let blocks := fun (ns : List Nat) =>
    let rec_ := ns.flatMap s.measurement
    spdmHead 0x60 0 0 ++ [BitVec.ofNat 8 ns.length] ++ bytesOfNat 3 rec_.length ++ rec_
  let op := q.param2.toNat
  let rest := s.nonce ++ bytesOfNat 2 0 ++ requesterContext q
  if op = 0 then spdmHead 0x60 8 0 ++ [0, 0, 0, 0] ++ rest
  else if op = 0xFF then blocks ((List.range 8).map (· + 1)) ++ rest
  else if op ≤ 8 then blocks [op] ++ rest
  else spdmHead 0x7F 0x01 0

/-- GET_MEASUREMENTS (R458): signed where bit 0 of the first parameter asks for it. -/
def execGetMeasurements (q : SpdmReq) (s : State) : Host.Outcome State Fault Refusal :=
  .next (s.spdm 0xE0 q (q.param1.getLsbD 0 && (q.param2.toNat ≤ 8 || q.param2 = 0xFF)) 32 (s.measurementsHead q))

/-- The meaning of the request that a packet carries (R458); any other packet is taken too, and answered as unsupported (R459, log
9). -/
def State.mail (s : State) : Host.Outcome State Fault Refusal :=
  match s.takeMail with
  | none => .next s
  | some (t, s', packet) =>
    let q : SpdmReq := { param1 := packet.getD 7 0, param2 := packet.getD 8 0, body := packet.drop 9 }
    let code := packet.getD 6 0
    let other := Host.Outcome.next (s'.postMail t (mctpReply (packet.take 5) ++ [0x13, 0x7F, 0x07, code]))
    if packet.length < 9 || packet.getD 5 0 ≠ spdmVersion code then other
    else match code.toNat with
      | 0x84 => execGetVersion q s
      | 0xE1 => execGetCapabilities q s
      | 0xE3 => execNegotiateAlgorithms q s
      | 0x81 => execGetDigests q s
      | 0x82 => execGetCertificate q s
      | 0x83 => execChallenge q s
      | 0xE0 => execGetMeasurements q s
      | _ => other

end Sys2Proof.Machine
end

