-- ==== Sys2Proof/Machine/Choose.lean ====
section
/-!
DEFINITION. The choice of the command that an engine runs next (R265, R266, R311, R312), with the resident-tile records of
remote issuers (R255).
-/

namespace Sys2Proof.Machine

/-- Whether a command leaves a resident-tile record (R255). -/
def Cmd.placesTile (c : Cmd) : Bool := c.tcw.engine = 0 && (c.tcw.eop = 1 || c.tcw.eop = 2 || c.tcw.eop = 5)

/-- The remote issuers that have a resident-tile record of a core, or whose command has started that will leave one (R255). -/
def Core.holders (k : Core) : List Issuer :=
  ((k.records.map (·.1) ++ ((k.started 0).filter Cmd.placesTile).map (·.issuer)).filter Issuer.isRem).dedup

/-- Whether an issuer has a command in a core's matrix engine (R255). -/
def Core.busy (k : Core) (i : Issuer) : Bool := (k.started 0 ++ k.remote 0).any fun d => d.issuer == i

/-- A remote command that will leave a record starts (R255): where four other remote issuers have one, that of an issuer which has no
command in the engine is freed. Where several have none it is the record that was left first (DESIGN CHOICE, log 34). -/
def Core.recordRoom (k : Core) (c : Cmd) : Core :=
  if c.placesTile && c.issuer.isRem && !k.holders.contains c.issuer && decide (4 ≤ k.holders.length) then
    match k.records.find? fun r => r.1.isRem && !k.busy r.1 with
    | some y => { k with records := k.records.filter fun r => r.1 != y.1 }
    | none => k
  else k

/-- Whether the first step of a command passes the checks that end it (R84, R263). -/
def goesOn (step : Eng (Option Nat)) (e : EngSt) : Bool :=
  match step e with
  | .error (.status _ _) => false
  | _ => true

/-- The state in which the page of an address has been looked up for a core, if it can be. -/
def State.looked (s : State) (core a : Nat) : State :=
  match s.translate (sliceOf core) a false with
  | .ok (_, t) => t
  | .error _ => s

/-- Whether a remote issuer's command needs a resident-tile record, its issuer having none, while four others have one (R255): it is
one that leaves a record, and is refused neither at its decoding nor by its checks, by which it would end without effect (R84,
R263). The class of w's page, on which MWLOAD's checks depend, is that of its leaf; a page that cannot be translated yet refuses
nothing. -/
def State.needsRecord (s : State) (core : Nat) (c : Cmd) : Bool :=
  let k := s.core core
  c.placesTile && c.issuer.isRem && !k.holders.contains c.issuer && decide (4 ≤ k.holders.length) &&
  match decodeTcw c.tcw with
  | some (.mwload h f) => goesOn (stepMwload h f) { st := s.looked core (va f.w), cmd := c }
  | some (.mmulF h f) => goesOn (stepMmulF h f) { st := s, cmd := c }
  | some (.mmulG h f) => goesOn (stepMmulG h f) { st := s, cmd := c }
  | _ => false

/-- Whether a remote issuer's command must wait for one of the four remote records (R255). -/
def State.recordsFull (s : State) (core : Nat) (c : Cmd) : Bool := s.needsRecord core c && (s.core core).holders.all (s.core core).busy

/-- The selected command is the one that runs: it leaves its queue entry if it had not started (R258), and stands first; any
other that has started is paused (R266); a remote one that needs a record has room for it (R255). -/
def State.startCmd (s : State) (g : EngSel) (c : Cmd) : State :=
  let c := { c with started := true, paused := false }
  let pause := fun (cs : List Cmd) => cs.map fun d => if d.started then { d with paused := true } else d
  match g.bulk with
  | some b =>
    let rest := (s.bulk b).filter fun d => !(d.issuer == g.issuer && d.ticket == c.ticket)
    { s with bulks := sset s.bulks b (c :: pause rest) }
  | none =>
    let needs := s.needsRecord g.core c
    s.modCore g.core fun k =>
    let same := fun (d : Cmd) => d.issuer == g.issuer && d.ticket == c.ticket
    let k := if needs then k.recordRoom c else k
    { k with
      running := sset k.running g.engine (c :: pause ((k.started g.engine).filter fun d => d.issuer != g.issuer))
      queues := sset k.queues g.engine ((k.queue g.engine).filter fun d => !same d)
      remotes := sset k.remotes g.engine ((k.remote g.engine).filter fun d => !same d) }

/-- Whether a candidate can run (R255, R266, R311). A CPYS that has not started can: it leaves its queue entry and checks what it is
given (R258, R319), and waits for its port afterwards. -/
def State.canRun (s : State) (core : Nat) (run : List Cmd) (c : Cmd) : Bool :=
  !s.parkedCmd c && !c.blocked &&
  (match c.tcw.engine with
   | 0 =>
     let busy := (run.filter fun d => d.issuer != c.issuer && s.holdsTiles d).flatMap Cmd.tiles
     !(c.tiles.any fun t => busy.contains t) && !s.recordsFull core c
   | 1 => match decodeTcw c.tcw with
     | some (.cpys _ _ _ n st) => !c.started || decide (n.toNat ≤ c.prog) || (s.canDeliver core st.toNat).isSome
     | _ => true
   | _ => true)

/-- The first of a list that is not outdone: higher effective priority, then earlier acceptance (R265). -/
def State.bestCmd (s : State) (cs : List Cmd) : Option Cmd :=
  cs.foldl (fun b c => match b with
    | none => some c
    | some d => if s.cmdPrio d < s.cmdPrio c ∨ (s.cmdPrio d = s.cmdPrio c ∧ c.before d) then some c else some d) none

/-- The oldest command of each issuer, in a list that holds each issuer's commands in order; a remote sender is one issuer through
whichever cores of a die its bulk commands came (R259). -/
def oldestEach : List Cmd → List Cmd
  | [] => []
  | c :: cs => c :: (oldestEach cs).filter fun d => d.issuer != c.issuer

/-- The choice of an engine (R265, R266): the running command goes on unless it stands at a step boundary and a candidate
of another issuer that can run has a strictly higher effective priority; an idle engine takes the best candidate, and a
paused command is a candidate like any other. -/
def State.chooseCmd (s : State) (core : Nat) (run wait : List Cmd) : Option Cmd :=
  let cands := (oldestEach (run ++ wait)).filter (s.canRun core run)
  match run.find? fun c => !s.parkedCmd c && !c.paused with
  | none => s.bestCmd cands
  | some c =>
    if c.blocked then none
    else if !c.atBoundary then some c
    else if s.canRun core [] c then
      match s.bestCmd (cands.filter fun d => d.issuer != c.issuer && decide (s.cmdPrio c < s.cmdPrio d)) with
      | some d => some d
      | none => some c
    else s.bestCmd cands

/-- The command that engine `e` of a core, or bulk engine `e - 4` of its die, runs next; started, with its selection. -/
def State.selectEngine (s : State) (core e : Nat) : Option (EngSel × Cmd × State) :=
  let k := s.core core
  let wait := k.queue e ++ k.remote e
  (s.chooseCmd core (k.started e) wait).map fun c =>
    let g : EngSel := { core, engine := e, issuer := c.issuer, bulk := none }
    let s := { s with eng := some g }.startCmd g c
    (g, { c with started := true, paused := false }, s)

/-- The command that bulk engine `b` runs next, started, with its selection (R312): none of a context that is being saved (R328,
R407). -/
def State.selectBulk (s : State) (b : Nat) : Option (EngSel × Cmd × State) :=
  let all := (s.bulk b).filter fun c => !s.stopped c.core
  (s.chooseCmd 0 (all.filter (·.started)) (all.filter fun c => !c.started)).map fun c =>
    let g : EngSel := { core := c.core, engine := 4, issuer := c.issuer, bulk := some b }
    let s := { s with eng := some g }.startCmd g c
    (g, { c with started := true, paused := false }, s)

end Sys2Proof.Machine
end

