-- ==== Sys2Proof/Machine/Issue.lean ====
section
/-!
DEFINITION. What one step of the package is: the instruction a slot issues (R23, R59, R60, R122, R127) with the
checker and the error marks of its operands (R418 to R421), the command an engine runs (R265), the event that comes
next, and the order in which the model lets them happen where nothing outside puts one (log 3).
-/

namespace Sys2Proof.Machine

/-- What happens among others in one cycle: a slot issues, or a core starts a firing on a slot. -/
inductive CycleAct where
  | issue (slot : Nat)
  | start (core slot : Nat)
  deriving DecidableEq, Repr

/-- The slot that it concerns. -/
def CycleAct.slot : CycleAct → Nat
  | .issue k => k
  | .start _ k => k

/-- What a step does: it runs an instruction, command or event at a state through `exec`; or it answers what the meaning of
an event of the package's own answers, or a state in which nothing more has to be done. -/
inductive Plan where
  | run (i : Instr) (s : State)
  /-- The instruction runs under a checker that is to mismatch (R418, R420, R422). -/
  | check (i : Instr) (s : State)
  /-- Slots issue in one cycle, and cores start firings, in the order of the list. -/
  | cycle (acts : List CycleAct) (s : State)
  | out (o : Host.Outcome State Fault Refusal)

/-- Acts of one cycle, one after the other; a fault or refusal of one ends them. -/
def oneByOne {α : Type} (f : α → State → Host.Outcome State Fault Refusal) : List α → State → Host.Outcome State Fault Refusal
  | [], s => .next s
  | a :: as, s => match f a s with
    | .next t => oneByOne f as t
    | o => o

/-- A step that has no more to do. -/
def Plan.done (s : State) : Plan := .out (.next s)

/-! ### A slot's instruction -/

/-- Whether a slot's state lets it issue (R23, R66, R325, R355, R380, R402, R407, R422): it runs a firing, or firmware, and
waits for nothing, at no CVSYNC either (R162); its context is not being saved; a cycle of its die begins (R461). -/
def State.slotReady (s : State) (k : Nat) : Bool :=
  let sl := s.slot k
  (match sl.run with
    | .attached _ | .stray => true
    | .idle | .joinWait _ | .parked _ => false)
  && !s.stopped (coreOf k) && !s.syncHeld k && s.dieRuns (dieOf (coreOf k))
  && (match sl.wait with
    | .none | .released => true
    | .event => sl.pending
    | .barrier _ | .escrow _ _ | .exchange _ _ _ | .flip => false)

/-- The x registers that a word reads. -/
def xSources (w : BitVec 32) : List Nat :=
  let rd := (rdOf w).toNat
  let rs1 := (rs1Of w).toNat
  let rs2 := (rs2Of w).toNat
  let f := fieldsOf w
  let ofFields := [f.src1, f.src2].filterMap fun x => match x with
    | some r => if r.isV then none else some (r.num w)
    | none => none
  match w.toNat % 128 with
  | 0x67 => [rs1]
  | 0x63 => [rs1, rs2]
  | 0x73 => if f3Of w = 1 ∨ f3Of w = 2 ∨ f3Of w = 3 then [rs1] else []
  | 0x0B => if f3Of w = 4 then [rs1] else if f3Of w = 0 ∧ f7Of w = 25 then [rs1, rd] else ofFields
  | 0x7B => if f3Of w = 6 then [rs1, rs2] else ofFields
  | _ => ofFields

/-- The v registers that a word reads: its sources, a destination whose old value it uses (R242, R246, R252, R253), the
group of SEND (R219), the pair of ENQ (R257), the register of a vector store (R192). -/
def vSources (w : BitVec 32) : List Nat :=
  let f := fieldsOf w
  let ofFields := [f.src1, f.src2].filterMap fun x => match x with
    | some r => if r.isV then some (r.num w) else none
    | none => none
  let vop := w.toNat / 2 ^ 28
  match w.toNat % 128 with
  | 0x0B =>
    if f3Of w = 0 ∧ (f7Of w = 24 ∨ f7Of w = 25) then (List.range 4).map fun i => 4 * (w.toNat / 2 ^ 20 % 16) + i else []
  | 0x2B => if vop = 3 ∨ vop = 4 then (vdOf w).toNat :: ofFields else ofFields
  | 0x5B =>
    if vop = 12 then if vs2Of w = RowMode.expSum.toBits then [(vdOf w).toNat] else []
    else if vop = 0 ∨ vop = 8 ∨ vop = 9 then (vdOf w).toNat :: ofFields else ofFields
  | 0x7B =>
    if f3Of w = 0 ∧ f7Of w = 0 then [2 * (rs2Of w).toNat, 2 * (rs2Of w).toNat + 1]
    else if f3Of w = 5 ∧ (w.toNat / 2 ^ 9 % 8 = 1 ∨ w.toNat / 2 ^ 9 % 8 = 2) then [w.toNat / 2 ^ 26 % 64]
    else ofFields
  | _ => ofFields

/-- The 32-bit words of the x registers that a word reads, and of the v registers; a bound stream port is no register (R236). -/
def Slot.readsX (_sl : Slot) (w : BitVec 32) (b : Nat) : Bool := (xSources w).contains (b / 2)
/-- The 32-bit words of the v registers that a word reads; a bound stream port is no register (R236). -/
def Slot.readsV (sl : Slot) (w : BitVec 32) (b : Nat) : Bool := (vSources w).contains (b / 4) && !sl.bound (b / 4)

/-- Whether a word's operands carry an uncorrectable error (R419, R421). -/
def Slot.readsBad (sl : Slot) (w : BitVec 32) : Bool := errBad sl.errX (sl.readsX w) || errBad sl.errV (sl.readsV w)

/-- The registers of a slot with the single-bit errors of a word's operands repaired (R419). -/
def Slot.repaired (sl : Slot) (w : BitVec 32) : Slot :=
  let sl := (errSingle sl.errX (sl.readsX w)).foldl (fun sl e =>
    { sl with x := sput 0 sl.x (e.1 / 2) (sl.xr (e.1 / 2) ^^^ (e.2.setWidth 64 <<< (32 * (e.1 % 2)))), errX := sdel sl.errX e.1 }) sl
  (errSingle sl.errV (sl.readsV w)).foldl (fun sl e =>
    { sl with v := sput (0 : VWord) sl.v (e.1 / 4) (sl.vr (e.1 / 4) ^^^ BitVec.shiftLeft (e.2.setWidth 128) (32 * (e.1 % 4))), errV := sdel sl.errV e.1 }) sl

/-- The reading instruction is cancelled, each single-bit error of its operands is repaired and counted, and it is replayed
(R419). -/
def State.repair (s : State) (k : Nat) (w : BitVec 32) : State :=
  let sl := s.slot k
  let n := (errSingle sl.errX (sl.readsX w)).length + (errSingle sl.errV (sl.readsV w)).length
  if n = 0 then s
  else (s.modSlot k fun sl => sl.repaired w).modCore (coreOf k) fun c => { c with corrected := c.corrected + n }

/-- Whether an instruction of slot `k` traps by R60 before any operand is read: an illegal CSR access (R67), an S-mode word in
U-mode (R66, R78), a word that needs ctxid.mgr or ctxid.test without it (R401), a prefix by its following word (R80). -/
def State.illegalNow (s : State) (k : Nat) (i : Instr) : Bool :=
  let sl := s.slot k
  let co := s.core (coreOf k)
  match i with
  | .csrrw _ _ csr => s.csrIllegal k csr.toNat true
  | .csrrs _ rs1 csr | .csrrc _ rs1 csr => s.csrIllegal k csr.toNat (rs1 ≠ 0)
  | .plbFill _ _ | .plbInv _ | .pgFlush _ | .waysCfg _ _ | .ctxSave _ _ | .ctxRest _ _ _ | .tslice _ _ =>
    sl.priv = .u || !co.mgr
  | .minj _ _ => sl.priv = .u || !co.test
  | .slotResume _ | .slotResumeSsip _ | .slotKill _ | .ruleInst _ _ | .ruleAct _ _ | .commonsCfgDefine _
  | .commonsCfgRemove _ | .commonsCfgReport _ => sl.priv = .u
  | .rep _ _ fields => match s.fetchFor k (sl.pc + 4) with
    | .ok (w, _) => (prefixTrap w fields).isSome
    | .error _ => true
  | _ => false

/-- Whether an instruction is a repeat prefix. -/
def isPrefix : Instr → Bool
  | .repi _ _ _ | .rep _ _ _ => true
  | _ => false

/-- A slot as an instruction begins: one that is no prefix drops a repetition saved for the first instruction after a
return (R129, R131). An instruction that then traps has consumed repst.v; a word that is no instruction, and a prefix that
traps, have not (log 80). -/
def Slot.begin (sl : Slot) (i : Instr) : Slot :=
  if sl.fresh && !isPrefix i then { sl with fresh := false, repst := setBits sl.repst 63 63 0 } else sl

/-- What a mismatch does once the instruction of slot `k` would retire (R418, R420, R422): it is cancelled and replayed, which has no
other effect; a second mismatch fences the core. An instruction that does not retire leaves the mismatches to come. -/
def State.checked (s : State) (k : Nat) (o : Host.Outcome State Fault Refusal) : Host.Outcome State Fault Refusal :=
  match o with
  | .next t =>
    if (t.slot k).instret = (s.slot k).instret then .next t
    else if (s.slot k).mismatch = 2 then .next (s.fenceCore k)
    else .next (t.modSlot k fun sl => { sl with mismatch := 0 })
  | o => o

/-- A word with its register fields raised for the current iteration of a repetition (R127). -/
def Slot.raised (sl : Slot) (w : BitVec 32) : BitVec 32 :=
  match sl.rep with
  | some r => raiseWord w r.fields (r.stride * r.iter)
  | none => w

/-- The word that slot `k` has fetched is decoded (R60), its register fields raised during a repetition (R127), and runs;
before that its operands are checked for errors (R419, R421), unless it traps before it reads them, and its result by the
checker (R420). -/
def State.issueWord (s : State) (k : Nat) (w : BitVec 32) : Plan :=
  let sl := s.slot k
  let raised := sl.raised w
  match decodeWord raised with
  | none => .run (.illegalInstruction w) s
  | some i =>
    if !i.wf then .run (.illegalInstruction w) s
    else if sl.readsBad raised && !s.illegalNow k i then .done (s.kill k 52 0)
    else
      let s := if (sl.errX.isEmpty && sl.errV.isEmpty) || s.illegalNow k i then s else s.repair k raised
      let s := if sl.fresh then s.modSlot k fun sl => sl.begin i else s
      if sl.mismatch ≠ 0 then .check i s else .run i s

/-- The v registers that a word reads through Act.v: a bound one yields a stream element (R236). A vd whose old value an instruction
uses besides (VFMA, VFNMA, VSEL, VCVT8, VINS) is none: where it is a bound port the instruction is refused for its destination
at once (R237), whether the port has an element or not (DESIGN CHOICE, log 67). -/
def portSources (w : BitVec 32) : List Nat :=
  if w.toNat % 128 = 0x2B ∨ w.toNat % 128 = 0x5B then
    [(fieldsOf w).src1, (fieldsOf w).src2].filterMap fun x => match x with
      | some r => if r.isV then some (r.num w) else none
      | none => none
  else vSources w

/-- Whether slot `k` has an element for each bound port that its next instruction reads (R236). -/
def State.portsFilled (s : State) (k : Nat) : Bool :=
  let sl := s.slot k
  sl.sbind &&& 0x8888 = 0 || match s.fetchFor k sl.at_ with
    | .error _ => true
    | .ok (w, _) =>
      let w := sl.raised w
      !(decodeWord w).any Instr.wf || (portSources w).all fun n => (sl.vsrc n).isSome

/-- Whether a slot has something to issue (R18): it takes an interrupt, or its lane has delivered to it (R148) and no port that its
next instruction reads is empty (R236). -/
def State.mayIssue (s : State) (k : Nat) : Bool :=
  s.slotReady k && (((s.slot k).interruptible && (s.slot k).atBoundary) || ((s.feed k).fed k && (s.feed k).portsFilled k))

/-- The engine of the ENQ or ENQM that slot `k` issues next, if it does. -/
def State.enqEngine (s : State) (k : Nat) : Option Nat :=
  match s.fetchFor k (s.slot k).at_ with
  | .error _ => none
  | .ok (w, _) => match decodeWord ((s.slot k).raised w) with
    | some (.enq _ e _) | some (.enqm _ e _) => some (engineNum e)
    | _ => none

/-- Whether slot `k` waits with its ENQ for a lower slot of its core that has one for the same engine in this cycle, as one entry of
the queue is free (R258). -/
def State.enqWaits (s : State) (k : Nat) : Bool :=
  let queues := (s.core (coreOf k)).queues
  queues.any (fun q => q.2.length == 1) && match (s.feed k).enqEngine k with
    | none => false
    | some e => (sget [] queues e).length == 1 && (List.range (k % 4)).any fun i =>
      let j := 4 * coreOf k + i
      s.mayIssue j && !((s.slot j).interruptible && (s.slot j).atBoundary) && (s.feed j).enqEngine j == some e

/-- Whether a slot is ready (R18, R258). -/
def State.canIssue (s : State) (k : Nat) : Bool := s.mayIssue k && !s.enqWaits k

/-- The slot of a core that issues next: the first ready one after the slot that issued last, in turn (R18). -/
def State.nextSlot (s : State) (c : Nat) : Option Nat :=
  ((List.range 4).map fun i => 4 * c + ((s.core c).turn + 1 + i) % 4).find? fun k => s.canIssue k

/-- Slot `k`, chosen by its core, issues the next instruction that its lane has delivered (R148); an enabled interrupt is taken at
this instruction boundary instead (R400). A fetch that fails takes its fault (R61). A stray's word is fetched anew for each
iteration of a repetition, and R80's check of it, made with the prefix, is not made again (DESIGN CHOICE, log 68). -/
def State.issueNow (s : State) (k : Nat) : Plan :=
  if !s.slotReady k then .done s
  else
    let s := { s with cur := k }.modCore (coreOf k) fun c => { c with turn := k % 4 }
    if (s.slot k).interruptible && (s.slot k).atBoundary then .out (execSoftwareInterrupt k s)
    else if !s.fed k then .done s
    else
      let s := s.goes k
      match s.fetchFor k (s.slot k).at_ with
      | .error _ => .run .instructionFetchFault s
      | .ok (w, s) => s.issueWord k w

/-- The slot of a list that core `c` chooses in a cycle in which members must issue together: the first ready one in turn (R18,
R162). -/
def State.firstOf (s : State) (ks : List Nat) (c : Nat) : Option Nat :=
  ((List.range 4).map fun i => 4 * c + ((s.core c).turn + 1 + i) % 4).find? fun k => ks.contains k && s.canIssue k

/-- The slots that issue in a cycle, one of each core: those of the list that their cores choose (R18), and with a member that a
CVSYNC has let go on all that it let go (R162). Two of these that share a core issue one after the other (DESIGN CHOICE, log 80). -/
def State.issuers (s : State) (ks : List Nat) : List Nat :=
  let ks := ks.filter fun k => s.nextSlot (coreOf k) == some k
  let group := ks.flatMap s.together
  (((ks ++ group).map coreOf).dedup).filterMap fun c =>
    match s.firstOf group c with
    | some k => some k
    | none => ks.find? fun k => coreOf k == c

/-- A cycle in which each of some slots issues and each of some cores starts a firing (R145, R146, R158): what each needs is delivered
and each core's choice made as the cycle begins; then they act in ascending (core, slot) order. Which of a JOIN and a firing start
takes the last free lane is thereby their order too (DESIGN CHOICE, log 3). -/
def State.inCycle (s : State) (ks cs : List Nat) : Plan :=
  let s := (ks ++ ks.flatMap s.together).foldl (fun s k => s.feed k) s
  let issues := (s.issuers ks).map CycleAct.issue
  let starts := cs.dedup.filterMap fun c => if c < numCores then (s.idleSlot c).map (CycleAct.start c) else none
  .cycle ((issues ++ starts).insertionSort fun a b => a.slot ≤ b.slot) { s with before := some s.cars }

/-- Slot `k` issues its next instruction, if it is its core's choice among the ready slots (R18, R23); a member that a CVSYNC has let
go on issues together with the others (R162). -/
def State.issue (s : State) (k : Nat) : Plan :=
  if s.nextSlot (coreOf k) ≠ some k then .done s
  else if 1 < (s.together k).length then s.inCycle [k] []
  else (s.feed k).issueNow k

/-! ### An engine's command -/

/-- A command word that no engine knows completes as ILLEGAL (R84, R263). -/
def State.refuseCmd (s : State) (g : EngSel) (c : Cmd) : State := s.finish g c 1

/-- The command that an engine has chosen runs its next step (R265). -/
def planCmd (x : Option (EngSel × Cmd × State)) (s : State) : Plan :=
  match x with
  | none => .done s
  | some (g, c, s) => match decodeTcw c.tcw with
    | some i => .run i s
    | none => .done (s.refuseCmd g c)

/-- The command of a stopped context that an engine still brings to its next step boundary (R328, R407). -/
def State.stopping (s : State) (cs : List Cmd) : Option Cmd :=
  cs.find? fun c => c.started && s.stopped c.core && !s.mayStop c && !c.blocked

/-- Engine `e` of a core runs a step (R265); of a stopped context, only up to a step boundary (R407). -/
def State.planEngine (c e : Nat) (s : State) : Plan :=
  if 4 ≤ e then .done s
  else if s.stopped c then
    planCmd ((s.stopping ((s.core c).started e)).map fun x =>
      let g : EngSel := { core := c, engine := e, issuer := x.issuer, bulk := none }
      (g, x, { s with eng := some g })) s
  else planCmd (s.selectEngine c e) s

/-- Bulk engine `b` runs a step (R312): first it brings a command of a stopped context to its step boundary, and it starts none
of such a context (R328, R407). -/
def State.planBulk (b : Nat) (s : State) : Plan :=
  match s.stopping (s.bulk b) with
  | some x =>
    let g : EngSel := { core := x.core, engine := 4, issuer := x.issuer, bulk := some b }
    planCmd (some (g, x, { s with eng := some g })) s
  | none => planCmd (s.selectBulk b) s

/-! ### Moves -/

/-- Whether a row of the opcode table is an event: neither an instruction of a slot nor a tile command. -/
def isEvent (i : Instr) : Bool :=
  match i with
  | .illegalInstruction _ | .instructionFetchFault => false
  | _ => (encodeWord i).isNone && (encodeTcw i).isNone

/-- The meaning of a held request, by its kind (R424, R431). -/
def heldMeaning (h : Held) (s : State) : Host.Outcome State Fault Refusal :=
  match h.kind with
  | 0 => execRead h.req s
  | 16 => execWrite h.req s
  | 48 => execHostLaunch h.req s
  | 64 => execHfence h.req s
  | 80 => execSetid h.req s
  | 81 => execServiceFence h.req s
  | 82 => execAdmitPeer h.req s
  | 83 => execLimits h.req s
  | 84 => execGive h.req s
  | 85 => execTake h.req s
  | 86 => execPxmode h.req s
  | 87 => execMint h.req s
  | 88 => execRulectx h.req s
  | 89 => execClearfail h.req s
  | 90 => execUnfencecore h.req s
  | 32 => execWriteWcPerform h.req.lane 0 s
  | kind => .next (s.serve kind h.req performMalformed)

/-- A lane tries its oldest held request again (R427). -/
def State.serveHeld (s : State) (lane : Nat) : Plan :=
  match (s.lane lane).held with
  | h :: _ => .out (heldMeaning h { s with serving := some lane })
  | [] => .done s

/-- A line leaves the L1 of a core (R179): its dirty words are written through first; where one cannot be translated the line
stays (R184). -/
def State.evict (s : State) (c line : Nat) : State := (s.evictLine c (line / 32)).toOption.getD s

/-- A message of another package arrives (R206, R435, R436): one from a fenced package is discarded, and none reaches a package
that has no id or another one (R21). -/
def State.inbound (s : State) (pkg : Nat) (f : Flight) : State :=
  if s.pkg = 0xFFF || destOwn f.dest || destPkg f.dest ≠ s.pkg || s.fencedPkgs.contains pkg || f.msg.src / 2 ^ 20 ≠ pkg + 1 || destMode f.dest = 1 || f.msg.launch.isSome then s
  else { s with toDest := s.toDest ++ [{ f with released := true, target := destCore f.dest }] }

/-- What a move does. A package that has stopped (R457, R460) answers STATE requests only. -/
def State.plan (s : State) (m : Move) : Plan :=
  if s.boot.fail ≠ 0 then
    match m with
    | .event (.stateLastSeq r) => .run (.stateLastSeq r) s
    | .event (.stateNextEventSeq r) => .run (.stateNextEventSeq r) s
    | .event (.stateReplay r) => .run (.stateReplay r) s
    | .event (.stateBootStatus r) => .run (.stateBootStatus r) s
    | .request l ws data => if requestKind (ws.getD 0 0) / 16 = 6 then .out (hostRequest l ws data s) else .done s
    | _ => .done s
  else match m with
    | .event i => if i.wf && isEvent i then .run i s else .done s
    | .issue k => s.issue k
    | .cycle ks cs => s.inCycle ks cs
    | .engine c e => State.planEngine c e s
    | .bulk d n => State.planBulk (4 * d + n) s
    | .elapse n => .done (s.pass n)
    | .evict c line => .done (s.evict c line)
    | .inbound pkg f => .done (s.inbound pkg f)
    | .deliver c l => .done ((s.deliver c l).getD s)
    | .serve l => s.serveHeld l
    | .request l ws data => .out (hostRequest l ws data s)
    | .sendEvent l => .done (s.modLane l HLane.send)
    | .flitAcked p flit => .done (s.flitAcked p flit)
    | .acked k => .done { s with outbox := s.outbox.eraseIdx k }
    | .retrained n => .done { s with training := s.training.filter (· ≠ n) }
    | .mail => .out s.mail
    | .upset c u => .done (s.modCore c fun k => { k with upsets := k.upsets ++ [u] })
    | .drover p => .done (s.nextPacket p)
    | .shipped k => .done (s.shipped k)
    | .ruleStore rc slice active => .done (s.ruleStoreError rc slice active)
    | .forget slice a => .done { s with trans := s.trans.filter fun e => !(e.1 == slice && e.2.covers a) }
    | .evictL2 slice a => .done (s.evictBlocks fun n b => n == a / 256 && b.slice == slice && !s.pinned n b)
    | .evictCode car a => .done (s.modCar car fun c => { c with ic := sdel c.ic (a / 4) })

/-! ### The moves that the package makes by itself -/

/-- A move of the package's own, as what it does. -/
abbrev Auto := State → Plan

/-- A move that is an event, by the meaning that `exec` gives it. -/
def autoEvent (f : State → Host.Outcome State Fault Refusal) : Auto := fun s => .out (f s)

/-- The sequencer's moves (R226 to R228). -/
def State.launchMoves (s : State) : List Auto :=
  (if s.dispAt ≤ s.cycle && s.ctxs.any (fun c => (s.chosenHead c.1).isSome) then [autoEvent execLaunchDispatch] else [])
  ++ s.ctxs.flatMap fun c => (c.2.launches.filter fun r => r.pending == 0 && r.running == 0).map fun r =>
    autoEvent (execLaunchEnd c.1 r.record.id)

/-- The moves of messages on their way (R205, R206, R288). -/
def State.messageMoves (s : State) : List Auto :=
  (List.range s.toSeq.length).map (fun k => autoEvent (execStageResolve k))
  ++ (List.range s.toDest.length).map (fun k =>
    if (s.toDest[k]?.map fun f => destMode f.dest) = some 2 then autoEvent (execRemoteCommandArrive k) else autoEvent (execMessageArrive k))
  ++ (s.slots.filter fun e => (e.2.buf.head?.map (·.released)).getD false).map fun e => autoEvent (execMessageDepart e.1)

/-- The moves of cores (R190, R207, R214, R312). -/
def State.coreMoves (s : State) : List Auto :=
  s.cores.flatMap fun e =>
    let c := e.1
    let k := e.2
    (if !k.fenced && (s.nextQueue c).isSome && (s.idleSlot c).isSome then [autoEvent (execFiringStart c)] else [])
    ++ ((k.spill.filter fun q => !k.fenced && !q.2.isEmpty).map fun q => autoEvent (execSpillReturn c q.1))
    ++ ((k.nt.filter fun n => decide (n.last + 256 ≤ s.coreCycle c)).map fun n => autoEvent (execNtIdleDrain c n.line))
    ++ ((List.range 4).filter fun e => if s.stopped c then (s.stopping (k.started e)).isSome else (s.selectEngine c e).isSome).map
        (fun e => State.planEngine c e)
    ++ if (k.queue 4 ++ k.remote 4).isEmpty then [] else [autoEvent (execBulkForward c)]

/-- The moves of the bulk engines, of landings, gangs and re-sent requests (R287, R312, R315, R323). -/
def State.engineMoves (s : State) : List Auto :=
  ((s.bulks.filter fun b => (s.stopping b.2).isSome || (s.selectBulk b.1).isSome).map fun b => State.planBulk b.1)
  ++ ((List.range s.landings.length).filter fun k => (s.landings[k]?.map fun l => l.peer.isNone).getD false).map
      (fun k => autoEvent (execLanding k))
  ++ ((s.gangs.filter fun w => w.limit != 0 && decide (w.at_ + w.limit ≤ s.coreCycle w.core)).map fun w => autoEvent (execGangFormationTimeout w.desc))
  ++ ((List.range s.resends.length).filter fun k => match s.resends[k]? with
      | some (g, _, _, t) => decide (t ≤ s.coreCycle g.core)
      | none => false).map (fun k => autoEvent (execRetryAfterResend k))
  ++ (List.range s.injects.length).map (fun k => autoEvent (execMinjFlip k))

/-- The moves of caravans (R147, R150, R159). -/
def State.caravanMoves (s : State) : List Auto :=
  s.cars.flatMap fun e =>
    (e.2.lanes.flatMap fun l =>
      (if l.2.gather && decide (l.2.opened + 16 ≤ s.coreCycle (8 * e.1)) then [autoEvent (execConvoyGatherEnd e.1 l.1)] else [])
      ++ if l.2.resolved.isSome then [autoEvent (execLaneResolve e.1 l.1)] else [])
    ++ if (s.joiners e.1).isEmpty then [] else [autoEvent (execJoinWaitAttach e.1)]

/-- The moves of rule engines (R340, R347, R355). -/
def State.ruleMoves (s : State) : List Auto :=
  (((s.ruleRuns.flatMap fun r => (r.todo.map fun b => (s.blockHome r b).getD (sliceOf r.cmd.core)).dedup).dedup.filter fun n =>
    (s.nextBlock n).isSome).map fun n => autoEvent (execRuleBlockUpdate n))
  ++ ((List.range s.ruleRuns.length).filter fun k => (s.reportReady k).isSome).map
      (fun k => autoEvent (execRuleReport k))
  ++ s.rules.flatMap fun r => r.2.late.map fun n => autoEvent (execRuleActExchange r.1 n)

/-- The moves of escrows (R371). -/
def State.escrowMoves (s : State) : List Auto :=
  s.allEscrows.filterMap fun e => match e.2.state with
    | .returning _ => if shas s.regions e.2.pkt.region then some (autoEvent (execEscrowReturn e.1 e.2.pkt.seq)) else none
    | .waiting due => if due ≤ s.cycle then some (autoEvent (execEscrowEarlyResend e.1 e.2.pkt.seq)) else none
    | .sent | .inDoubt => none

/-- The moves of contexts, slots and the fault service (R400, R402, R403, R411, R413). -/
def State.ctxMoves (s : State) : List Auto :=
  ((List.range s.faults.length).filter fun k => (s.faults[k]?.map fun f => !f.told).getD false).map (fun k => autoEvent (execFaultRecord k))
  ++ ((s.slots.filter fun e => e.2.interruptible && e.2.atBoundary).map fun e => autoEvent (execSoftwareInterrupt e.1))
  ++ s.ctxs.flatMap (fun e =>
    (match e.2.slice with
      | some t => if (e.2.saving.map (·.slice)).getD (e.2.resident && s.sliceOver e.1 t)
        then [autoEvent (execTsliceExpiry e.1)] else []
      | none => if (e.2.saving.map (·.slice)).getD false then [autoEvent (execTsliceExpiry e.1)] else [])
    ++ match s.stall e.1 with
      | some (t, _, _) => if decide (e.2.stallLimit ≤ micros t s.now) && e.2.stalledAt != some t
        then [autoEvent (execStallLimitExpiry e.1)] else []
      | none => [])
  ++ s.retrain.map (fun e => autoEvent (execHbmRetrainRun e.1))
  ++ s.training.map fun n => fun (s : State) => Plan.done { s with training := s.training.filter (· ≠ n) }

/-- The moves of the host lanes and the ports (R427, R436). -/
def State.hostMoves (s : State) : List Auto :=
  (s.lanes.filterMap fun e => match e.2.held with
    | h :: _ => some (if h.kind = wcKind then autoEvent (execWriteWcPerform e.1 0) else fun s => s.serveHeld e.1)
    | [] => none)
  ++ ((s.lanes.filter fun e => !e.2.unsent.isEmpty).map fun e => fun (s : State) => Plan.done (s.modLane e.1 HLane.send))
  ++ ((s.ports.filter fun p => !p.2.arrived.isEmpty).map fun p => fun (s : State) => Plan.done (s.nextPacket p.1))
  ++ ((s.ports.filterMap fun p => p.2.peer).dedup.filter s.fenceDue).map fun n => autoEvent (execFenceIntervalExpiry n)

/-- What the package can do by itself next, slots apart (log 3). -/
def State.autoMoves (s : State) : List Auto :=
  s.launchMoves ++ s.messageMoves ++ s.coreMoves ++ s.engineMoves ++ s.caravanMoves ++ s.ruleMoves ++ s.escrowMoves
    ++ s.ctxMoves ++ s.hostMoves

/-- The slots that their cores choose now (R18). -/
def State.issueMoves (s : State) : List Auto :=
  ((s.slots.map fun e => coreOf e.1).dedup.filterMap fun c => s.nextSlot c).map fun k => fun s => s.issue k

/-- The move of a list whose turn it is. -/
def State.pick (s : State) (l : List Auto) : Option Auto := l[s.cycle / 2 % l.length]?

/-- The move that comes next where nothing outside puts one (log 3): events in even cycles and slots in odd ones, each kind
in rotation, and the other kind where there is none. -/
def State.autoMove (s : State) : Option Auto :=
  if s.cycle % 2 = 0 then (s.pick s.autoMoves).orElse fun _ => s.pick s.issueMoves
  else (s.pick s.issueMoves).orElse fun _ => s.pick s.autoMoves

/-- What every step begins with: a cycle passes; the walkers forget the homes of pages that are not resident (R176), and the units the
pages of the host that are its own no longer (R434); waits for room in spill areas end (R207); the front ends free lanes and end CVSYNCs (R151, R155), and serve join-waiting
strays before anything else (R159). -/
def State.tick (s : State) : State :=
  ({ s.pass 1 with eng := none, serving := none }).settleLanes.dropHomes.forgetTold.settleSpills.serveAll

/-- One step's plan: the next move is the first of the schedule, or the package's own. -/
def State.turn (s : State) : Plan :=
  let s := s.tick
  match s.sched with
  | m :: rest => State.plan { s with sched := rest } m
  | [] =>
    if s.boot.fail ≠ 0 then .done s
    else match s.autoMove with
      | some m => m s
      | none => .done s

/-! ### An instruction placed for the next step -/

/-- The address at which `placeWord` puts an instruction. -/
def placeAt : Nat := 0x400000

/-- Slot 0 runs as a stray at `placeAt`, its core may fetch there, the instruction cache of its caravan holds the word, its die's
clock is not lowered, and the slot's move is next (log 13). -/
def State.placeWord (s : State) (w : BitVec 32) : State :=
  let s := (s.leave 0).modSlot 0 fun sl =>
    { sl with run := .stray, priv := .u, pc := wordOfNat placeAt, rep := none, fresh := false, wait := .none, mismatch := 0,
              errX := [], errV := [] }
  let s := s.modCore 0 fun k => { k with turn := 3, plb := sset k.plb 0 (wordOfNat (2 ^ 63 + placeAt + 16 * 256 + 4)) }
  let s := s.modCar 0 fun c => { c with ic := sset c.ic (placeAt / 4) w }
  { s with clock := sdel s.clock 0, sched := .issue 0 :: s.sched }

/-- A command in the queue of its engine of core 0, or of bulk engine 0, with the engine's move next (log 13). -/
def State.placeCmd (s : State) (t : Tcw) : State :=
  let c := newCmd t 0 (.loc 0) 0 0 0 0 0 (s.ctxOf 0) (s.coreCycle 0)
  if t.engine = 4 then { s with bulks := sset s.bulks 0 [c], sched := .bulk 0 0 :: s.sched }
  else
    let e := t.engine % 4
    let s := s.modCore 0 fun k => { k with queues := sset k.queues e [c], running := sdel k.running e, remotes := sdel k.remotes e }
    { s with sched := .engine 0 e :: s.sched }

end Sys2Proof.Machine
end

