-- ==== Sys2Proof/Machine/Scalar.lean ====
section
/-!
DEFINITION. The meanings of the scalar base instructions that touch registers and the PC only (R64):
arithmetic, logic, shifts, multiplication, division, jumps and branches.
-/

namespace Sys2Proof.Machine

/-! ### Shared forms -/

/-- An instruction of two register operands. -/
def Act.op2 (f : Word → Word → Word) (rd rs1 rs2 : Reg) : Act Unit := do
  let a ← Act.x rs1
  let b ← Act.x rs2
  Act.setX rd (f a b)
  Act.next

/-- An instruction of one register operand. -/
def Act.op1 (f : Word → Word) (rd rs1 : Reg) : Act Unit := do
  let a ← Act.x rs1
  Act.setX rd (f a)
  Act.next

/-- A conditional branch (R64): to the target where the relation holds. -/
def Act.branch (r : Word → Word → Bool) (rs1 rs2 : Reg) (imm : BitVec 12) : Act Unit := do
  let a ← Act.x rs1
  let b ← Act.x rs2
  let pc ← Act.pc
  if r a b then Act.jump (branchTarget pc imm) else Act.next

/-! ### Arithmetic -/

/-- The low 32 bits of a word, sign-extended: the result form of the W instructions (R64). -/
def sextW (w : Word) : Word := (w.setWidth 32).signExtend 64

/-- 1 where a relation holds, else 0. -/
def boolWord (b : Bool) : Word := if b then 1 else 0

/-- The signed 32-bit value of the low half of a word. -/
def intW (w : Word) : Int := (w.setWidth 32).toInt

/-- Signed quotient of n-bit operands: -1 for a zero divisor; the overflow case wraps to the dividend (R64). -/
def divS (a b : Int) : Int := if b = 0 then -1 else a.tdiv b

/-- Signed remainder: the dividend for a zero divisor, 0 in the overflow case (R64). -/
def remS (a b : Int) : Int := if b = 0 then a else a.tmod b

/-- Unsigned quotient of n-bit operands: 2^n - 1 for a zero divisor (R64). -/
def divU (n a b : Nat) : Nat := if b = 0 then 2 ^ n - 1 else a / b

/-- Unsigned remainder: the dividend for a zero divisor (R64). -/
def remU (a b : Nat) : Nat := if b = 0 then a else a % b

/-- The shift amount of a 64-bit shift: the low six bits of the operand (R64). -/
def sh6 (w : Word) : Nat := w.toNat % 64

/-- The shift amount of a 32-bit shift: the low five bits of the operand (R64). -/
def sh5 (w : Word) : Nat := w.toNat % 32

/-- Logical right shift of the low half, sign-extended (R64). -/
def srlW (w : Word) (n : Nat) : Word := (w.setWidth 32 >>> n).signExtend 64

/-- Arithmetic right shift of the low half, sign-extended (R64). -/
def sraW (w : Word) (n : Nat) : Word := ((w.setWidth 32).sshiftRight n).signExtend 64

/-! ### Meanings -/

/-- LUI (R64). -/
def execLui (rd : Reg) (imm : BitVec 20) (s : State) := runSlot (do Act.setX rd (imm20 imm); Act.next) s

/-- AUIPC (R64). -/
def execAuipc (rd : Reg) (imm : BitVec 20) (s : State) :=
  runSlot (do let pc ← Act.pc; Act.setX rd (pc + imm20 imm); Act.next) s

/-- JAL (R61, R64): a target that is no multiple of 4 raises cause 0. -/
def execJal (rd : Reg) (imm : BitVec 20) (s : State) :=
  runSlot (do let pc ← Act.pc; Act.setX rd (pc + 4); Act.jump (jalTarget pc imm)) s

/-- JALR (R61, R64): bit 0 of the target is cleared. -/
def execJalr (rd rs1 : Reg) (imm : BitVec 12) (s : State) :=
  runSlot (do
    let pc ← Act.pc
    let a ← Act.x rs1
    Act.setX rd (pc + 4)
    Act.jump ((a + imm12 imm) &&& ~~~1)) s

/-- BEQ (R64). -/
def execBeq (rs1 rs2 : Reg) (imm : BitVec 12) (s : State) := runSlot (Act.branch (fun a b => a == b) rs1 rs2 imm) s
/-- BNE (R64). -/
def execBne (rs1 rs2 : Reg) (imm : BitVec 12) (s : State) := runSlot (Act.branch (fun a b => a != b) rs1 rs2 imm) s
/-- BLT (R64). -/
def execBlt (rs1 rs2 : Reg) (imm : BitVec 12) (s : State) := runSlot (Act.branch (fun a b => a.slt b) rs1 rs2 imm) s
/-- BGE (R64). -/
def execBge (rs1 rs2 : Reg) (imm : BitVec 12) (s : State) := runSlot (Act.branch (fun a b => !a.slt b) rs1 rs2 imm) s
/-- BLTU (R64). -/
def execBltu (rs1 rs2 : Reg) (imm : BitVec 12) (s : State) := runSlot (Act.branch (fun a b => a.ult b) rs1 rs2 imm) s
/-- BGEU (R64). -/
def execBgeu (rs1 rs2 : Reg) (imm : BitVec 12) (s : State) := runSlot (Act.branch (fun a b => !a.ult b) rs1 rs2 imm) s

/-- ADDI (R64). -/
def execAddi (rd rs1 : Reg) (imm : BitVec 12) (s : State) := runSlot (Act.op1 (fun a => a + imm12 imm) rd rs1) s
/-- SLTI (R64). -/
def execSlti (rd rs1 : Reg) (imm : BitVec 12) (s : State) := runSlot (Act.op1 (fun a => boolWord (a.slt (imm12 imm))) rd rs1) s
/-- SLTIU (R64). -/
def execSltiu (rd rs1 : Reg) (imm : BitVec 12) (s : State) := runSlot (Act.op1 (fun a => boolWord (a.ult (imm12 imm))) rd rs1) s
/-- XORI (R64). -/
def execXori (rd rs1 : Reg) (imm : BitVec 12) (s : State) := runSlot (Act.op1 (fun a => a ^^^ imm12 imm) rd rs1) s
/-- ORI (R64). -/
def execOri (rd rs1 : Reg) (imm : BitVec 12) (s : State) := runSlot (Act.op1 (fun a => a ||| imm12 imm) rd rs1) s
/-- ANDI (R64). -/
def execAndi (rd rs1 : Reg) (imm : BitVec 12) (s : State) := runSlot (Act.op1 (fun a => a &&& imm12 imm) rd rs1) s
/-- SLLI (R64). -/
def execSlli (rd rs1 : Reg) (sh : BitVec 6) (s : State) := runSlot (Act.op1 (fun a => a <<< sh.toNat) rd rs1) s
/-- SRLI (R64). -/
def execSrli (rd rs1 : Reg) (sh : BitVec 6) (s : State) := runSlot (Act.op1 (fun a => a >>> sh.toNat) rd rs1) s
/-- SRAI (R64). -/
def execSrai (rd rs1 : Reg) (sh : BitVec 6) (s : State) := runSlot (Act.op1 (fun a => a.sshiftRight sh.toNat) rd rs1) s
/-- ADDIW (R64). -/
def execAddiw (rd rs1 : Reg) (imm : BitVec 12) (s : State) := runSlot (Act.op1 (fun a => sextW (a + imm12 imm)) rd rs1) s
/-- SLLIW (R64). -/
def execSlliw (rd rs1 : Reg) (sh : BitVec 5) (s : State) := runSlot (Act.op1 (fun a => sextW (a <<< sh.toNat)) rd rs1) s
/-- SRLIW (R64). -/
def execSrliw (rd rs1 : Reg) (sh : BitVec 5) (s : State) := runSlot (Act.op1 (fun a => srlW a sh.toNat) rd rs1) s
/-- SRAIW (R64). -/
def execSraiw (rd rs1 : Reg) (sh : BitVec 5) (s : State) := runSlot (Act.op1 (fun a => sraW a sh.toNat) rd rs1) s
/-- ADD (R64). -/
def execAdd (rd rs1 rs2 : Reg) (s : State) := runSlot (Act.op2 (fun a b => a + b) rd rs1 rs2) s
/-- SLL (R64). -/
def execSll (rd rs1 rs2 : Reg) (s : State) := runSlot (Act.op2 (fun a b => a <<< sh6 b) rd rs1 rs2) s
/-- SLT (R64). -/
def execSlt (rd rs1 rs2 : Reg) (s : State) := runSlot (Act.op2 (fun a b => boolWord (a.slt b)) rd rs1 rs2) s
/-- SLTU (R64). -/
def execSltu (rd rs1 rs2 : Reg) (s : State) := runSlot (Act.op2 (fun a b => boolWord (a.ult b)) rd rs1 rs2) s
/-- XOR (R64). -/
def execXor (rd rs1 rs2 : Reg) (s : State) := runSlot (Act.op2 (fun a b => a ^^^ b) rd rs1 rs2) s
/-- SRL (R64). -/
def execSrl (rd rs1 rs2 : Reg) (s : State) := runSlot (Act.op2 (fun a b => a >>> sh6 b) rd rs1 rs2) s
/-- OR (R64). -/
def execOr (rd rs1 rs2 : Reg) (s : State) := runSlot (Act.op2 (fun a b => a ||| b) rd rs1 rs2) s
/-- AND (R64). -/
def execAnd (rd rs1 rs2 : Reg) (s : State) := runSlot (Act.op2 (fun a b => a &&& b) rd rs1 rs2) s
/-- SUB (R64). -/
def execSub (rd rs1 rs2 : Reg) (s : State) := runSlot (Act.op2 (fun a b => a - b) rd rs1 rs2) s
/-- SRA (R64). -/
def execSra (rd rs1 rs2 : Reg) (s : State) := runSlot (Act.op2 (fun a b => a.sshiftRight (sh6 b)) rd rs1 rs2) s
/-- MUL (R64). -/
def execMul (rd rs1 rs2 : Reg) (s : State) := runSlot (Act.op2 (fun a b => a * b) rd rs1 rs2) s
/-- MULH (R64). -/
def execMulh (rd rs1 rs2 : Reg) (s : State) := runSlot (Act.op2 (fun a b => wordOfInt (a.toInt * b.toInt / 2 ^ 64)) rd rs1 rs2) s
/-- MULHSU (R64). -/
def execMulhsu (rd rs1 rs2 : Reg) (s : State) := runSlot (Act.op2 (fun a b => wordOfInt (a.toInt * b.toNat / 2 ^ 64)) rd rs1 rs2) s
/-- MULHU (R64). -/
def execMulhu (rd rs1 rs2 : Reg) (s : State) := runSlot (Act.op2 (fun a b => wordOfNat (a.toNat * b.toNat / 2 ^ 64)) rd rs1 rs2) s
/-- DIV (R64). -/
def execDiv (rd rs1 rs2 : Reg) (s : State) := runSlot (Act.op2 (fun a b => wordOfInt (divS a.toInt b.toInt)) rd rs1 rs2) s
/-- DIVU (R64). -/
def execDivu (rd rs1 rs2 : Reg) (s : State) := runSlot (Act.op2 (fun a b => wordOfNat (divU 64 a.toNat b.toNat)) rd rs1 rs2) s
/-- REM (R64). -/
def execRem (rd rs1 rs2 : Reg) (s : State) := runSlot (Act.op2 (fun a b => wordOfInt (remS a.toInt b.toInt)) rd rs1 rs2) s
/-- REMU (R64). -/
def execRemu (rd rs1 rs2 : Reg) (s : State) := runSlot (Act.op2 (fun a b => wordOfNat (remU a.toNat b.toNat)) rd rs1 rs2) s
/-- ADDW (R64). -/
def execAddw (rd rs1 rs2 : Reg) (s : State) := runSlot (Act.op2 (fun a b => sextW (a + b)) rd rs1 rs2) s
/-- SLLW (R64). -/
def execSllw (rd rs1 rs2 : Reg) (s : State) := runSlot (Act.op2 (fun a b => sextW (a <<< sh5 b)) rd rs1 rs2) s
/-- SRLW (R64). -/
def execSrlw (rd rs1 rs2 : Reg) (s : State) := runSlot (Act.op2 (fun a b => srlW a (sh5 b)) rd rs1 rs2) s
/-- SUBW (R64). -/
def execSubw (rd rs1 rs2 : Reg) (s : State) := runSlot (Act.op2 (fun a b => sextW (a - b)) rd rs1 rs2) s
/-- SRAW (R64). -/
def execSraw (rd rs1 rs2 : Reg) (s : State) := runSlot (Act.op2 (fun a b => sraW a (sh5 b)) rd rs1 rs2) s
/-- MULW (R64). -/
def execMulw (rd rs1 rs2 : Reg) (s : State) := runSlot (Act.op2 (fun a b => sextW (a * b)) rd rs1 rs2) s
/-- DIVW (R64). -/
def execDivw (rd rs1 rs2 : Reg) (s : State) := runSlot (Act.op2 (fun a b => sextW (wordOfInt (divS (intW a) (intW b)))) rd rs1 rs2) s
/-- DIVUW (R64). -/
def execDivuw (rd rs1 rs2 : Reg) (s : State) := runSlot (Act.op2 (fun a b => sextW (wordOfNat (divU 32 (a.toNat % 2 ^ 32) (b.toNat % 2 ^ 32)))) rd rs1 rs2) s
/-- REMW (R64). -/
def execRemw (rd rs1 rs2 : Reg) (s : State) := runSlot (Act.op2 (fun a b => sextW (wordOfInt (remS (intW a) (intW b)))) rd rs1 rs2) s
/-- REMUW (R64). -/
def execRemuw (rd rs1 rs2 : Reg) (s : State) := runSlot (Act.op2 (fun a b => sextW (wordOfNat (remU (a.toNat % 2 ^ 32) (b.toNat % 2 ^ 32)))) rd rs1 rs2) s

end Sys2Proof.Machine
end

