-- ==== Sys2Proof/Machine/Dispatch.lean ====
section
/-!
DEFINITION. The meaning of every row of the opcode table: one arm per constructor of `Instr`.
-/

namespace Sys2Proof.Machine

def exec (i : Instr) (s : State) : Host.Outcome State Fault Refusal :=
  match i with
  | .lui rd imm => Sys2Proof.Machine.execLui rd imm s
  | .auipc rd imm => Sys2Proof.Machine.execAuipc rd imm s
  | .jal rd imm => Sys2Proof.Machine.execJal rd imm s
  | .jalr rd rs1 imm => Sys2Proof.Machine.execJalr rd rs1 imm s
  | .beq rs1 rs2 imm => Sys2Proof.Machine.execBeq rs1 rs2 imm s
  | .bne rs1 rs2 imm => Sys2Proof.Machine.execBne rs1 rs2 imm s
  | .blt rs1 rs2 imm => Sys2Proof.Machine.execBlt rs1 rs2 imm s
  | .bge rs1 rs2 imm => Sys2Proof.Machine.execBge rs1 rs2 imm s
  | .bltu rs1 rs2 imm => Sys2Proof.Machine.execBltu rs1 rs2 imm s
  | .bgeu rs1 rs2 imm => Sys2Proof.Machine.execBgeu rs1 rs2 imm s
  | .lb rd rs1 imm => Sys2Proof.Machine.execLb rd rs1 imm s
  | .lh rd rs1 imm => Sys2Proof.Machine.execLh rd rs1 imm s
  | .lw rd rs1 imm => Sys2Proof.Machine.execLw rd rs1 imm s
  | .ld rd rs1 imm => Sys2Proof.Machine.execLd rd rs1 imm s
  | .lbu rd rs1 imm => Sys2Proof.Machine.execLbu rd rs1 imm s
  | .lhu rd rs1 imm => Sys2Proof.Machine.execLhu rd rs1 imm s
  | .lwu rd rs1 imm => Sys2Proof.Machine.execLwu rd rs1 imm s
  | .sb rs1 rs2 imm => Sys2Proof.Machine.execSb rs1 rs2 imm s
  | .sh rs1 rs2 imm => Sys2Proof.Machine.execSh rs1 rs2 imm s
  | .sw rs1 rs2 imm => Sys2Proof.Machine.execSw rs1 rs2 imm s
  | .sd rs1 rs2 imm => Sys2Proof.Machine.execSd rs1 rs2 imm s
  | .addi rd rs1 imm => Sys2Proof.Machine.execAddi rd rs1 imm s
  | .slti rd rs1 imm => Sys2Proof.Machine.execSlti rd rs1 imm s
  | .sltiu rd rs1 imm => Sys2Proof.Machine.execSltiu rd rs1 imm s
  | .xori rd rs1 imm => Sys2Proof.Machine.execXori rd rs1 imm s
  | .ori rd rs1 imm => Sys2Proof.Machine.execOri rd rs1 imm s
  | .andi rd rs1 imm => Sys2Proof.Machine.execAndi rd rs1 imm s
  | .slli rd rs1 sh => Sys2Proof.Machine.execSlli rd rs1 sh s
  | .srli rd rs1 sh => Sys2Proof.Machine.execSrli rd rs1 sh s
  | .srai rd rs1 sh => Sys2Proof.Machine.execSrai rd rs1 sh s
  | .addiw rd rs1 imm => Sys2Proof.Machine.execAddiw rd rs1 imm s
  | .slliw rd rs1 sh => Sys2Proof.Machine.execSlliw rd rs1 sh s
  | .srliw rd rs1 sh => Sys2Proof.Machine.execSrliw rd rs1 sh s
  | .sraiw rd rs1 sh => Sys2Proof.Machine.execSraiw rd rs1 sh s
  | .add rd rs1 rs2 => Sys2Proof.Machine.execAdd rd rs1 rs2 s
  | .sll rd rs1 rs2 => Sys2Proof.Machine.execSll rd rs1 rs2 s
  | .slt rd rs1 rs2 => Sys2Proof.Machine.execSlt rd rs1 rs2 s
  | .sltu rd rs1 rs2 => Sys2Proof.Machine.execSltu rd rs1 rs2 s
  | .xor rd rs1 rs2 => Sys2Proof.Machine.execXor rd rs1 rs2 s
  | .srl rd rs1 rs2 => Sys2Proof.Machine.execSrl rd rs1 rs2 s
  | .or rd rs1 rs2 => Sys2Proof.Machine.execOr rd rs1 rs2 s
  | .and rd rs1 rs2 => Sys2Proof.Machine.execAnd rd rs1 rs2 s
  | .sub rd rs1 rs2 => Sys2Proof.Machine.execSub rd rs1 rs2 s
  | .sra rd rs1 rs2 => Sys2Proof.Machine.execSra rd rs1 rs2 s
  | .mul rd rs1 rs2 => Sys2Proof.Machine.execMul rd rs1 rs2 s
  | .mulh rd rs1 rs2 => Sys2Proof.Machine.execMulh rd rs1 rs2 s
  | .mulhsu rd rs1 rs2 => Sys2Proof.Machine.execMulhsu rd rs1 rs2 s
  | .mulhu rd rs1 rs2 => Sys2Proof.Machine.execMulhu rd rs1 rs2 s
  | .div rd rs1 rs2 => Sys2Proof.Machine.execDiv rd rs1 rs2 s
  | .divu rd rs1 rs2 => Sys2Proof.Machine.execDivu rd rs1 rs2 s
  | .rem rd rs1 rs2 => Sys2Proof.Machine.execRem rd rs1 rs2 s
  | .remu rd rs1 rs2 => Sys2Proof.Machine.execRemu rd rs1 rs2 s
  | .addw rd rs1 rs2 => Sys2Proof.Machine.execAddw rd rs1 rs2 s
  | .sllw rd rs1 rs2 => Sys2Proof.Machine.execSllw rd rs1 rs2 s
  | .srlw rd rs1 rs2 => Sys2Proof.Machine.execSrlw rd rs1 rs2 s
  | .subw rd rs1 rs2 => Sys2Proof.Machine.execSubw rd rs1 rs2 s
  | .sraw rd rs1 rs2 => Sys2Proof.Machine.execSraw rd rs1 rs2 s
  | .mulw rd rs1 rs2 => Sys2Proof.Machine.execMulw rd rs1 rs2 s
  | .divw rd rs1 rs2 => Sys2Proof.Machine.execDivw rd rs1 rs2 s
  | .divuw rd rs1 rs2 => Sys2Proof.Machine.execDivuw rd rs1 rs2 s
  | .remw rd rs1 rs2 => Sys2Proof.Machine.execRemw rd rs1 rs2 s
  | .remuw rd rs1 rs2 => Sys2Proof.Machine.execRemuw rd rs1 rs2 s
  | .fence rd rs1 imm => Sys2Proof.Machine.execFence rd rs1 imm s
  | .fenceI rd rs1 imm => Sys2Proof.Machine.execFenceI rd rs1 imm s
  | .lrW rd rs1 aq rl => Sys2Proof.Machine.execLrW rd rs1 aq rl s
  | .scW rd rs1 rs2 aq rl => Sys2Proof.Machine.execScW rd rs1 rs2 aq rl s
  | .amoswapW rd rs1 rs2 aq rl => Sys2Proof.Machine.execAmoswapW rd rs1 rs2 aq rl s
  | .amoaddW rd rs1 rs2 aq rl => Sys2Proof.Machine.execAmoaddW rd rs1 rs2 aq rl s
  | .amoxorW rd rs1 rs2 aq rl => Sys2Proof.Machine.execAmoxorW rd rs1 rs2 aq rl s
  | .amoandW rd rs1 rs2 aq rl => Sys2Proof.Machine.execAmoandW rd rs1 rs2 aq rl s
  | .amoorW rd rs1 rs2 aq rl => Sys2Proof.Machine.execAmoorW rd rs1 rs2 aq rl s
  | .amominW rd rs1 rs2 aq rl => Sys2Proof.Machine.execAmominW rd rs1 rs2 aq rl s
  | .amomaxW rd rs1 rs2 aq rl => Sys2Proof.Machine.execAmomaxW rd rs1 rs2 aq rl s
  | .amominuW rd rs1 rs2 aq rl => Sys2Proof.Machine.execAmominuW rd rs1 rs2 aq rl s
  | .amomaxuW rd rs1 rs2 aq rl => Sys2Proof.Machine.execAmomaxuW rd rs1 rs2 aq rl s
  | .lrD rd rs1 aq rl => Sys2Proof.Machine.execLrD rd rs1 aq rl s
  | .scD rd rs1 rs2 aq rl => Sys2Proof.Machine.execScD rd rs1 rs2 aq rl s
  | .amoswapD rd rs1 rs2 aq rl => Sys2Proof.Machine.execAmoswapD rd rs1 rs2 aq rl s
  | .amoaddD rd rs1 rs2 aq rl => Sys2Proof.Machine.execAmoaddD rd rs1 rs2 aq rl s
  | .amoxorD rd rs1 rs2 aq rl => Sys2Proof.Machine.execAmoxorD rd rs1 rs2 aq rl s
  | .amoandD rd rs1 rs2 aq rl => Sys2Proof.Machine.execAmoandD rd rs1 rs2 aq rl s
  | .amoorD rd rs1 rs2 aq rl => Sys2Proof.Machine.execAmoorD rd rs1 rs2 aq rl s
  | .amominD rd rs1 rs2 aq rl => Sys2Proof.Machine.execAmominD rd rs1 rs2 aq rl s
  | .amomaxD rd rs1 rs2 aq rl => Sys2Proof.Machine.execAmomaxD rd rs1 rs2 aq rl s
  | .amominuD rd rs1 rs2 aq rl => Sys2Proof.Machine.execAmominuD rd rs1 rs2 aq rl s
  | .amomaxuD rd rs1 rs2 aq rl => Sys2Proof.Machine.execAmomaxuD rd rs1 rs2 aq rl s
  | .csrrw rd rs1 csr => Sys2Proof.Machine.execCsrrw rd rs1 csr s
  | .csrrs rd rs1 csr => Sys2Proof.Machine.execCsrrs rd rs1 csr s
  | .csrrc rd rs1 csr => Sys2Proof.Machine.execCsrrc rd rs1 csr s
  | .csrrwi rd uimm csr => Sys2Proof.Machine.execCsrrwi rd uimm csr s
  | .csrrsi rd uimm csr => Sys2Proof.Machine.execCsrrsi rd uimm csr s
  | .csrrci rd uimm csr => Sys2Proof.Machine.execCsrrci rd uimm csr s
  | .padd rd rs1 rs2 => Sys2Proof.Machine.execPadd rd rs1 rs2 s
  | .ptag rd rs1 rs2 => Sys2Proof.Machine.execPtag rd rs1 rs2 s
  | .pget rd rs1 => Sys2Proof.Machine.execPget rd rs1 s
  | .pbase rd rs1 => Sys2Proof.Machine.execPbase rd rs1 s
  | .paddi rd rs1 imm => Sys2Proof.Machine.execPaddi rd rs1 imm s
  | .ptagi rd rs1 tag => Sys2Proof.Machine.execPtagi rd rs1 tag s
  | .repi n stride fields => Sys2Proof.Machine.execRepi n stride fields s
  | .rep rs1 stride fields => Sys2Proof.Machine.execRep rs1 stride fields s
  | .nestSet rs1 => Sys2Proof.Machine.execNestSet rs1 s
  | .nestStat rd => Sys2Proof.Machine.execNestStat rd s
  | .nestNext rd off => Sys2Proof.Machine.execNestNext rd off s
  | .join off => Sys2Proof.Machine.execJoin off s
  | .joinT off => Sys2Proof.Machine.execJoinT off s
  | .cvstat rd => Sys2Proof.Machine.execCvstat rd s
  | .send rs1 g => Sys2Proof.Machine.execSend rs1 g s
  | .sendC rs1 g cap => Sys2Proof.Machine.execSendC rs1 g cap s
  | .hbind rs1 rs2 => Sys2Proof.Machine.execHbind rs1 rs2 s
  | .qctl rs1 rs2 => Sys2Proof.Machine.execQctl rs1 rs2 s
  | .qstat rd rs1 => Sys2Proof.Machine.execQstat rd rs1 s
  | .launch rd rs1 rs2 => Sys2Proof.Machine.execLaunch rd rs1 rs2 s
  | .sigset rs1 rs2 => Sys2Proof.Machine.execSigset rs1 rs2 s
  | .sigclr rs1 rs2 => Sys2Proof.Machine.execSigclr rs1 rs2 s
  | .sigtest rd rs1 rs2 => Sys2Proof.Machine.execSigtest rd rs1 rs2 s
  | .stashAlloc rd rs1 => Sys2Proof.Machine.execStashAlloc rd rs1 s
  | .stashFree rs1 => Sys2Proof.Machine.execStashFree rs1 s
  | .vadd et vd vs1 vs2 => Sys2Proof.Machine.execVadd et vd vs1 vs2 s
  | .vsub et vd vs1 vs2 => Sys2Proof.Machine.execVsub et vd vs1 vs2 s
  | .vmul et vd vs1 vs2 => Sys2Proof.Machine.execVmul et vd vs1 vs2 s
  | .vfma et vd vs1 vs2 => Sys2Proof.Machine.execVfma et vd vs1 vs2 s
  | .vfnma et vd vs1 vs2 => Sys2Proof.Machine.execVfnma et vd vs1 vs2 s
  | .vmin et vd vs1 vs2 => Sys2Proof.Machine.execVmin et vd vs1 vs2 s
  | .vmax et vd vs1 vs2 => Sys2Proof.Machine.execVmax et vd vs1 vs2 s
  | .vcmple et vd vs1 vs2 => Sys2Proof.Machine.execVcmple et vd vs1 vs2 s
  | .vand vd vs1 vs2 => Sys2Proof.Machine.execVand vd vs1 vs2 s
  | .vor vd vs1 vs2 => Sys2Proof.Machine.execVor vd vs1 vs2 s
  | .vxor vd vs1 vs2 => Sys2Proof.Machine.execVxor vd vs1 vs2 s
  | .vshl et vd vs1 vs2 => Sys2Proof.Machine.execVshl et vd vs1 vs2 s
  | .vshr et vd vs1 vs2 => Sys2Proof.Machine.execVshr et vd vs1 vs2 s
  | .vshra et vd vs1 vs2 => Sys2Proof.Machine.execVshra et vd vs1 vs2 s
  | .vcmplt et vd vs1 vs2 => Sys2Proof.Machine.execVcmplt et vd vs1 vs2 s
  | .vcmpeq et vd vs1 vs2 => Sys2Proof.Machine.execVcmpeq et vd vs1 vs2 s
  | .vsel et vd vs1 vs2 => Sys2Proof.Machine.execVsel et vd vs1 vs2 s
  | .vshuf et vd vs1 vs2 => Sys2Proof.Machine.execVshuf et vd vs1 vs2 s
  | .vzip et vd vs1 vs2 => Sys2Proof.Machine.execVzip et vd vs1 vs2 s
  | .vunzip et vd vs1 vs2 => Sys2Proof.Machine.execVunzip et vd vs1 vs2 s
  | .vred et vd vs1 kind => Sys2Proof.Machine.execVred et vd vs1 kind s
  | .vdiv et vd vs1 vs2 => Sys2Proof.Machine.execVdiv et vd vs1 vs2 s
  | .vsf et vd vs1 kind => Sys2Proof.Machine.execVsf et vd vs1 kind s
  | .vcvt dst src vd vs1 rm ov => Sys2Proof.Machine.execVcvt dst src vd vs1 rm ov s
  | .vcvt8ToFp8 k w vd vs1 group rm ov => Sys2Proof.Machine.execVcvt8ToFp8 k w vd vs1 group rm ov s
  | .vcvt8FromFp8 k w vd vs1 group => Sys2Proof.Machine.execVcvt8FromFp8 k w vd vs1 group s
  | .vins et vd xs lane => Sys2Proof.Machine.execVins et vd xs lane s
  | .vext et xd vs1 lane => Sys2Proof.Machine.execVext et xd vs1 lane s
  | .vbcast et vd xs => Sys2Proof.Machine.execVbcast et vd xs s
  | .vrowst vd acc group mode => Sys2Proof.Machine.execVrowst vd acc group mode s
  | .vdmask vd vs1 => Sys2Proof.Machine.execVdmask vd vs1 s
  | .enq rd e p => Sys2Proof.Machine.execEnq rd e p s
  | .enqm rd e rs2 => Sys2Proof.Machine.execEnqm rd e rs2 s
  | .eqwait e => Sys2Proof.Machine.execEqwait e s
  | .eqstat rd e => Sys2Proof.Machine.execEqstat rd e s
  | .barInit rs1 rs2 => Sys2Proof.Machine.execBarInit rs1 rs2 s
  | .barExpect rs1 rs2 => Sys2Proof.Machine.execBarExpect rs1 rs2 s
  | .barArrive rd rs1 => Sys2Proof.Machine.execBarArrive rd rs1 s
  | .barWait rs1 rs2 scope => Sys2Proof.Machine.execBarWait rs1 rs2 scope s
  | .barTest rd rs1 rs2 => Sys2Proof.Machine.execBarTest rd rs1 rs2 s
  | .ldaq rd rs1 scope => Sys2Proof.Machine.execLdaq rd rs1 scope s
  | .strl rs1 rs2 scope => Sys2Proof.Machine.execStrl rs1 rs2 scope s
  | .fenceAq scope => Sys2Proof.Machine.execFenceAq scope s
  | .fenceRl scope => Sys2Proof.Machine.execFenceRl scope s
  | .fenceAr scope => Sys2Proof.Machine.execFenceAr scope s
  | .invl rs1 => Sys2Proof.Machine.execInvl rs1 s
  | .wbk rs1 => Sys2Proof.Machine.execWbk rs1 s
  | .stNt rs1 rs2 => Sys2Proof.Machine.execStNt rs1 rs2 s
  | .pref rs1 => Sys2Proof.Machine.execPref rs1 s
  | .amofaddS rd rs1 rs2 => Sys2Proof.Machine.execAmofaddS rd rs1 rs2 s
  | .amofaddD rd rs1 rs2 => Sys2Proof.Machine.execAmofaddD rd rs1 rs2 s
  | .amofmaxS rd rs1 rs2 => Sys2Proof.Machine.execAmofmaxS rd rs1 rs2 s
  | .gdepx rs1 rs2 => Sys2Proof.Machine.execGdepx rs1 rs2 s
  | .gdepw rs1 rs2 => Sys2Proof.Machine.execGdepw rs1 rs2 s
  | .gest rd rs1 => Sys2Proof.Machine.execGest rd rs1 s
  | .gspread rd rs1 => Sys2Proof.Machine.execGspread rd rs1 s
  | .gxch rs1 rs2 => Sys2Proof.Machine.execGxch rs1 rs2 s
  | .gmass rd rs1 => Sys2Proof.Machine.execGmass rd rs1 s
  | .vld vd rs1 imm => Sys2Proof.Machine.execVld vd rs1 imm s
  | .vst vs rs1 imm => Sys2Proof.Machine.execVst vs rs1 imm s
  | .vstNt vs rs1 imm => Sys2Proof.Machine.execVstNt vs rs1 imm s
  | .vldRo vd rs1 imm => Sys2Proof.Machine.execVldRo vd rs1 imm s
  | .vldb vd rs1 imm => Sys2Proof.Machine.execVldb vd rs1 imm s
  | .ctxSave rs1 rs2 => Sys2Proof.Machine.execCtxSave rs1 rs2 s
  | .ctxRest rd rs1 rs2 => Sys2Proof.Machine.execCtxRest rd rs1 rs2 s
  | .plbFill rs1 rs2 => Sys2Proof.Machine.execPlbFill rs1 rs2 s
  | .plbInv rs1 => Sys2Proof.Machine.execPlbInv rs1 s
  | .tslice rs1 rs2 => Sys2Proof.Machine.execTslice rs1 rs2 s
  | .ruleInst rs1 rs2 => Sys2Proof.Machine.execRuleInst rs1 rs2 s
  | .ruleAct rd rs1 => Sys2Proof.Machine.execRuleAct rd rs1 s
  | .minj rs1 rs2 => Sys2Proof.Machine.execMinj rs1 rs2 s
  | .slotResume rs1 => Sys2Proof.Machine.execSlotResume rs1 s
  | .slotResumeSsip rs1 => Sys2Proof.Machine.execSlotResumeSsip rs1 s
  | .slotKill rs1 => Sys2Proof.Machine.execSlotKill rs1 s
  | .commonsCfgDefine rs1 => Sys2Proof.Machine.execCommonsCfgDefine rs1 s
  | .commonsCfgRemove rs1 => Sys2Proof.Machine.execCommonsCfgRemove rs1 s
  | .commonsCfgReport rs1 => Sys2Proof.Machine.execCommonsCfgReport rs1 s
  | .pgFlush rs1 => Sys2Proof.Machine.execPgFlush rs1 s
  | .waysCfg rs1 rs2 => Sys2Proof.Machine.execWaysCfg rs1 rs2 s
  | .mwload h f => Sys2Proof.Machine.execMwload h f s
  | .mmulF h f => Sys2Proof.Machine.execMmulF h f s
  | .mmulT h f => Sys2Proof.Machine.execMmulT h f s
  | .mouter h f => Sys2Proof.Machine.execMouter h f s
  | .mmulG h f => Sys2Proof.Machine.execMmulG h f s
  | .mzero h accmask => Sys2Proof.Machine.execMzero h accmask s
  | .mstore h f => Sys2Proof.Machine.execMstore h f s
  | .maccld h f => Sys2Proof.Machine.execMaccld h f s
  | .mchk h report acc pair tol => Sys2Proof.Machine.execMchk h report acc pair tol s
  | .mpatch h acc row col value => Sys2Proof.Machine.execMpatch h acc row col value s
  | .mgang h gangdesc => Sys2Proof.Machine.execMgang h gangdesc s
  | .mres h dst acc rows => Sys2Proof.Machine.execMres h dst acc rows s
  | .mscale h scales acc rows => Sys2Proof.Machine.execMscale h scales acc rows s
  | .cpy h b src dst bytes => Sys2Proof.Machine.execCpy h b src dst bytes s
  | .cpy2d h b f => Sys2Proof.Machine.execCpy2d h b f s
  | .cpyt h b f => Sys2Proof.Machine.execCpyt h b f s
  | .cpys h b src bytes stream => Sys2Proof.Machine.execCpys h b src bytes stream s
  | .cpyg h b index src dst count elembytes => Sys2Proof.Machine.execCpyg h b index src dst count elembytes s
  | .fill h b dst pattern bytes => Sys2Proof.Machine.execFill h b dst pattern bytes s
  | .bcpy h b src dst bytes dpkg remote => Sys2Proof.Machine.execBcpy h b src dst bytes dpkg remote s
  | .bfill h b dst pattern bytes => Sys2Proof.Machine.execBfill h b dst pattern bytes s
  | .upd h f => Sys2Proof.Machine.execUpd h f s
  | .updT h f => Sys2Proof.Machine.execUpdT h f s
  | .metaBwd h region adjoint rgrad first count kk => Sys2Proof.Machine.execMetaBwd h region adjoint rgrad first count kk s
  | .quarClr h region first count => Sys2Proof.Machine.execQuarClr h region first count s
  | .ruleQ h dst rulectx => Sys2Proof.Machine.execRuleQ h dst rulectx s
  | .gseed h cells src ncells steptag w0 => Sys2Proof.Machine.execGseed h cells src ncells steptag w0 s
  | .gdepR h cells src ncells dw => Sys2Proof.Machine.execGdepR h cells src ncells dw s
  | .gread h cells dst ncells => Sys2Proof.Machine.execGread h cells dst ncells s
  | .gpace h region mode share => Sys2Proof.Machine.execGpace h region mode share s
  | .illegalInstruction word => Sys2Proof.Machine.execIllegalInstruction word s
  | .read r => Sys2Proof.Machine.execRead r s
  | .write r => Sys2Proof.Machine.execWrite r s
  | .writeWc r => Sys2Proof.Machine.execWriteWc r s
  | .hostLaunch r => Sys2Proof.Machine.execHostLaunch r s
  | .hfence r => Sys2Proof.Machine.execHfence r s
  | .setid r => Sys2Proof.Machine.execSetid r s
  | .mint r => Sys2Proof.Machine.execMint r s
  | .rulectx r => Sys2Proof.Machine.execRulectx r s
  | .give r => Sys2Proof.Machine.execGive r s
  | .take r => Sys2Proof.Machine.execTake r s
  | .pxmode r => Sys2Proof.Machine.execPxmode r s
  | .stateBootStatus r => Sys2Proof.Machine.execStateBootStatus r s
  | .bootStage0 img => Sys2Proof.Machine.execBootStage0 img s
  | .bootStage1 img hbmOk cxlOk serials plan => Sys2Proof.Machine.execBootStage1 img hbmOk cxlOk serials plan s
  | .contextCreate c => Sys2Proof.Machine.execContextCreate c s
  | .droverPacketReceive port p => Sys2Proof.Machine.execDroverPacketReceive port p s
  | .escrowResolve port seq r => Sys2Proof.Machine.execEscrowResolve port seq r s
  | .messageArrive k => Sys2Proof.Machine.execMessageArrive k s
  | .ntIdleDrain core line => Sys2Proof.Machine.execNtIdleDrain core line s
  | .minjFlip k => Sys2Proof.Machine.execMinjFlip k s
  | .gangFormationTimeout desc => Sys2Proof.Machine.execGangFormationTimeout desc s
  | .bulkForward core => Sys2Proof.Machine.execBulkForward core s
  | .landing k => Sys2Proof.Machine.execLanding k s
  | .retryAfterResend k => Sys2Proof.Machine.execRetryAfterResend k s
  | .ruleBlockUpdate slice => Sys2Proof.Machine.execRuleBlockUpdate slice s
  | .ruleReport k => Sys2Proof.Machine.execRuleReport k s
  | .ruleActExchange rulectx slice => Sys2Proof.Machine.execRuleActExchange rulectx slice s
  | .droverExchange port region => Sys2Proof.Machine.execDroverExchange port region s
  | .escrowReturn port seq => Sys2Proof.Machine.execEscrowReturn port seq s
  | .escrowEarlyResend port seq => Sys2Proof.Machine.execEscrowEarlyResend port seq s
  | .messageDepart slot => Sys2Proof.Machine.execMessageDepart slot s
  | .stageResolve k => Sys2Proof.Machine.execStageResolve k s
  | .remoteCommandArrive k => Sys2Proof.Machine.execRemoteCommandArrive k s
  | .spillReturn core queue => Sys2Proof.Machine.execSpillReturn core queue s
  | .firingStart core => Sys2Proof.Machine.execFiringStart core s
  | .convoyGatherEnd caravan lane => Sys2Proof.Machine.execConvoyGatherEnd caravan lane s
  | .laneResolve caravan lane => Sys2Proof.Machine.execLaneResolve caravan lane s
  | .joinWaitAttach caravan => Sys2Proof.Machine.execJoinWaitAttach caravan s
  | .launchEnd ctx id => Sys2Proof.Machine.execLaunchEnd ctx id s
  | .faultRecord k => Sys2Proof.Machine.execFaultRecord k s
  | .softwareInterrupt slot => Sys2Proof.Machine.execSoftwareInterrupt slot s
  | .stallLimitExpiry ctx => Sys2Proof.Machine.execStallLimitExpiry ctx s
  | .tsliceExpiry ctx => Sys2Proof.Machine.execTsliceExpiry ctx s
  | .saveDeadlineExpiry ctx => Sys2Proof.Machine.execSaveDeadlineExpiry ctx s
  | .hbmRetrainRequest stack => Sys2Proof.Machine.execHbmRetrainRequest stack s
  | .hbmRetrainRun stack => Sys2Proof.Machine.execHbmRetrainRun stack s
  | .writeWcPerform lane k => Sys2Proof.Machine.execWriteWcPerform lane k s
  | .serviceFence r => Sys2Proof.Machine.execServiceFence r s
  | .admitPeer r => Sys2Proof.Machine.execAdmitPeer r s
  | .limits r => Sys2Proof.Machine.execLimits r s
  | .clearfail r => Sys2Proof.Machine.execClearfail r s
  | .unfencecore r => Sys2Proof.Machine.execUnfencecore r s
  | .stateLastSeq r => Sys2Proof.Machine.execStateLastSeq r s
  | .stateNextEventSeq r => Sys2Proof.Machine.execStateNextEventSeq r s
  | .stateReplay r => Sys2Proof.Machine.execStateReplay r s
  | .ucieModuleFailover die module => Sys2Proof.Machine.execUcieModuleFailover die module s
  | .linkResendTimeout port flit => Sys2Proof.Machine.execLinkResendTimeout port flit s
  | .laneLockTimeout port => Sys2Proof.Machine.execLaneLockTimeout port s
  | .linkRestored port => Sys2Proof.Machine.execLinkRestored port s
  | .resyncComplete port last map => Sys2Proof.Machine.execResyncComplete port last map s
  | .fenceIntervalExpiry pkg => Sys2Proof.Machine.execFenceIntervalExpiry pkg s
  | .cxlLinkFailure die => Sys2Proof.Machine.execCxlLinkFailure die s
  | .thermalThrottle sensor celsius => Sys2Proof.Machine.execThermalThrottle sensor celsius s
  | .thermalStop celsius => Sys2Proof.Machine.execThermalStop celsius s
  | .getVersion q => Sys2Proof.Machine.execGetVersion q s
  | .getCapabilities q => Sys2Proof.Machine.execGetCapabilities q s
  | .negotiateAlgorithms q => Sys2Proof.Machine.execNegotiateAlgorithms q s
  | .getDigests q => Sys2Proof.Machine.execGetDigests q s
  | .getCertificate q => Sys2Proof.Machine.execGetCertificate q s
  | .challenge q => Sys2Proof.Machine.execChallenge q s
  | .getMeasurements q => Sys2Proof.Machine.execGetMeasurements q s
  | .ecall => Sys2Proof.Machine.execEcall s
  | .ebreak => Sys2Proof.Machine.execEbreak s
  | .sret => Sys2Proof.Machine.execSret s
  | .wfi => Sys2Proof.Machine.execWfi s
  | .mret => Sys2Proof.Machine.execMret s
  | .leave => Sys2Proof.Machine.execLeave s
  | .cvsync => Sys2Proof.Machine.execCvsync s
  | .done => Sys2Proof.Machine.execDone s
  | .sealF => Sys2Proof.Machine.execSealF s
  | .launchDispatch => Sys2Proof.Machine.execLaunchDispatch s
  | .bootStage2 => Sys2Proof.Machine.execBootStage2 s
  | .instructionFetchFault => Sys2Proof.Machine.execInstructionFetchFault s

end Sys2Proof.Machine
end

