-- ==== Sys2Proof/Machine/Step.lean ====
section
/-!
DEFINITION. One step of the package, and an instruction placed where the next step fetches it (log 13).
-/

namespace Sys2Proof.Machine

/-- What a plan of one instruction, command or event answers; in a cycle of many, nothing more than the cycle. -/
def Plan.one (p : Plan) : Host.Outcome State Fault Refusal :=
  match p with
  | .run i s => exec i s
  | .check i s => s.checked s.cur (exec i s)
  | .cycle _ s => .next s
  | .out o => o

/-- What happens in a cycle among others: a slot issues; a core starts a firing on the slot that was idle as the cycle began, unless
another is idle by now. -/
def CycleAct.run (a : CycleAct) (s : State) : Host.Outcome State Fault Refusal :=
  match a with
  | .issue k => (s.issueNow k).one
  | .start c k => if s.idleSlot c = some k then execFiringStart c s else .next s

/-- One step: what the turn names is run (R23, R265; log 3). In a cycle of many, one after the other
acts (R145, R146). -/
def step (s : State) : Host.Outcome State Fault Refusal :=
  match s.turn with
  | .cycle as s => oneByOne CycleAct.run as s
  | p => p.one

/-- The state with an instruction placed where the next step fetches it (log 13): a 32-bit word in the instruction cache
of caravan 0 at the PC of slot 0, or a tile command word in the queue of its engine. -/
def State.withFetchWord (s : State) (nbits w : Nat) : State :=
  if nbits ≤ 32 then s.placeWord (BitVec.ofNat 32 w)
  else s.placeCmd { q0 := BitVec.ofNat 64 w, q1 := BitVec.ofNat 64 (w >>> 64),
                    q2 := BitVec.ofNat 64 (w >>> 128), q3 := BitVec.ofNat 64 (w >>> 192) }

end Sys2Proof.Machine
end

