-- ==== Sys2Proof/Safety.lean ====
section
/-!
DEFINITION. What a safe state is: the invariants that every step of the machine keeps. The physical memory stays in its
canonical form, so that equal memories are equal data; and no slot but the steward core's is ever in M-mode (R393).
-/

namespace Sys2Proof.Machine

/-- The memory of the package is in its canonical form: addresses strictly rising, no entry equal to what an unlisted byte
reads as (log 2). -/
def State.MemInv (s : State) : Prop := Memory.wf s.mem = true

/-- M-mode exists only on the steward core (R393): no other slot is in it, and no saved image holds one that is. -/
def State.ModeInv (s : State) : Prop :=
  (∀ k, k ≠ stewardSlot → (s.slot k).priv ≠ .m) ∧
  ∀ n ∈ s.snaps, ∀ e ∈ n.slots, e.1 ≠ stewardSlot → e.2.priv ≠ .m

/-- A state is safe where both hold. -/
def State.Safe (s : State) : Prop := s.MemInv ∧ s.ModeInv

end Sys2Proof.Machine
end

