-- ==== Sys2Proof/Certificates/Slice0/Obligations.lean ====
section
/-!
DEFINITION. The statements for the provers. A statement with several parts is their conjunction; what one quantifies over is
written out in each part. `Claims` holds the vocabulary the statements share.
-/

section

open Sys2Proof Sys2Proof.Machine

/-! ### Vocabulary of the statements -/

/-- The value of x register `r` of the executing slot. -/
def Sys2Proof.Claims.xs (s : State) (r : Reg) : Word := (s.slot s.cur).xr r.toNat

/-- The core of the executing slot. -/
def Sys2Proof.Claims.cc (s : State) : Nat := s.cur / 4

/-- The executing slot is changed by `f`, its instruction commits, and the PC goes on. -/
def Sys2Proof.Claims.done (s : State) (f : Slot → Slot) : Host.Outcome State Fault Refusal :=
  .next ((s.modSlot s.cur f).commit s.cur none)

/-- The executing slot's instruction writes `v` to x register `rd` and commits. -/
def Sys2Proof.Claims.result (s : State) (rd : Reg) (v : Word) : Host.Outcome State Fault Refusal :=
  Claims.done s fun sl => sl.setX rd.toNat v

/-- The executing slot takes the synchronous trap `cause`. -/
def Sys2Proof.Claims.traps (s : State) (cause : Nat) (tval : Word) : Host.Outcome State Fault Refusal :=
  .next (s.takeTrap s.cur cause tval)

/-- The executing slot takes the synchronous trap `cause` after an access at `a` whose walk stays done (R173, R178). -/
def Sys2Proof.Claims.trapsAt (s : State) (a : Nat) (write : Bool) (cause : Nat) (tval : Word) : Host.Outcome State Fault Refusal :=
  Claims.traps (s.walked a write) cause tval

/-- The state after the walks for some accesses, by address and whether they write, which stay whatever ends the instruction that made
them (R173). -/
def Sys2Proof.Claims.walks (s : State) (ws : List (Nat × Bool)) : State := ws.foldl (fun s w => s.walked w.1 w.2) s

/-- The state after the walks of a release at scope `sc` (R183). -/
def Sys2Proof.Claims.relWalks (s : State) (sc : Scope) : State :=
  Claims.walks s ((s.releaseWalks (Claims.cc s) sc).map fun a => (a, true))

/-- The executing slot takes the synchronous trap `cause` after a plain read of `[a, a + n)` in state `before`: what the walks of its
pieces did stays (R173), but a piece that finds every word in the L1 walks nothing (R180). -/
def Sys2Proof.Claims.trapsRead (s before : State) (a n cause : Nat) (tval : Word) : Host.Outcome State Fault Refusal :=
  Claims.traps (Claims.walks s (before.missed (Claims.cc before) a n)) cause tval

/-- What a branch does: to `t` where the relation holds, which must be a multiple of 4, else on. -/
def Sys2Proof.Claims.branches (s : State) (c : Bool) (t : Word) : Host.Outcome State Fault Refusal :=
  if c then (if t.toNat % 4 = 0 then .next (s.commit s.cur (some t)) else Claims.traps s 0 t)
  else .next (s.commit s.cur none)

/-! ### Registers and the commit -/

/-- R9: register 0 of x reads zero and a write to it is discarded; every other register reads what was written last, and no
other register changes. R10, R127, R148: what a commit changes. The committing slot outside a repetition goes to its
target, or to PC + 4; within one, to the next iteration, or to p + 8 after the last. Nothing changes but that slot and
the lanes of its convoy, with the note of a lane that its last member has left in this cycle (R151). -/
def Obligations.RegistersAndCommit : Prop :=
  (∀ (sl : Slot) (n m : Nat) (w : Word) (v : VWord),
     sl.xr 0 = 0 ∧ sl.setX 0 w = sl ∧
     (n ≠ 0 → (sl.setX n w).xr n = w) ∧ (m ≠ n → (sl.setX n w).xr m = sl.xr m) ∧
     (sl.setV n v).vr n = v ∧ (m ≠ n → (sl.setV n v).vr m = sl.vr m) ∧
     sl.setX n w = { sl with x := (sl.setX n w).x, errX := (sl.setX n w).errX } ∧
     sl.setV n v = { sl with v := (sl.setV n v).v, errV := (sl.setV n v).errV }) ∧
  (∀ (s : State) (k : Nat) (target : Option Word),
     let t := s.commit k target
     t = { s with slots := t.slots, cars := t.cars, freed := t.freed } ∧
     (∀ j, j ≠ k → t.slot j = s.slot j) ∧
     (∀ c, t.car c = { s.car c with lanes := (t.car c).lanes }) ∧
     ((s.slot k).rep = none →
       t.slot k = { s.slot k with pc := target.getD ((s.slot k).pc + 4), instret := (s.slot k).instret + 1,
                                  wait := .none, run := (t.slot k).run }) ∧
     (∀ r, (s.slot k).rep = some r → r.iter + 1 < r.count →
       t = s.modSlot k fun sl => { sl with instret := sl.instret + 1, wait := .none, rep := some { r with iter := r.iter + 1 } }) ∧
     (∀ r, (s.slot k).rep = some r → ¬ r.iter + 1 < r.count →
       t.slot k = { s.slot k with pc := (s.slot k).pc + 8, instret := (s.slot k).instret + 1,
                                  wait := .none, rep := none, run := (t.slot k).run }) ∧
     (s.laneOf k = none → (t.slot k).run = (s.slot k).run))

/-! ### Scalar arithmetic -/

/-- R64: the register and immediate instructions of RV64I, each with the result the base specification gives it. R64:
multiplication and division as the M extension gives them, a zero divisor and the signed overflow included; no division
traps. R61, R64: jumps and branches. A target that is no multiple of 4 raises cause 0 at the jump, with none of its
effects. -/
def Obligations.ScalarResults : Prop :=
  (∀ (s : State) (rd rs1 rs2 : Reg) (imm : BitVec 12) (up : BitVec 20) (sh : BitVec 6) (shw : BitVec 5),
     let a := Claims.xs s rs1
     let b := Claims.xs s rs2
     let i := imm.signExtend 64
     let aw := a.setWidth 32
     let bw := b.setWidth 32
     let out := Claims.result s rd
     exec (.lui rd up) s = out (((up.setWidth 32) <<< 12).signExtend 64) ∧
     exec (.auipc rd up) s = out ((s.slot s.cur).at_ + ((up.setWidth 32) <<< 12).signExtend 64) ∧
     exec (.addi rd rs1 imm) s = out (a + i) ∧
     exec (.slti rd rs1 imm) s = out (if a.toInt < i.toInt then 1 else 0) ∧
     exec (.sltiu rd rs1 imm) s = out (if a.toNat < i.toNat then 1 else 0) ∧
     exec (.xori rd rs1 imm) s = out (a ^^^ i) ∧
     exec (.ori rd rs1 imm) s = out (a ||| i) ∧
     exec (.andi rd rs1 imm) s = out (a &&& i) ∧
     exec (.slli rd rs1 sh) s = out (a <<< sh.toNat) ∧
     exec (.srli rd rs1 sh) s = out (a >>> sh.toNat) ∧
     exec (.srai rd rs1 sh) s = out (a.sshiftRight sh.toNat) ∧
     exec (.addiw rd rs1 imm) s = out ((aw + imm.signExtend 32).signExtend 64) ∧
     exec (.slliw rd rs1 shw) s = out ((aw <<< shw.toNat).signExtend 64) ∧
     exec (.srliw rd rs1 shw) s = out ((aw >>> shw.toNat).signExtend 64) ∧
     exec (.sraiw rd rs1 shw) s = out ((aw.sshiftRight shw.toNat).signExtend 64) ∧
     exec (.add rd rs1 rs2) s = out (a + b) ∧
     exec (.sub rd rs1 rs2) s = out (a - b) ∧
     exec (.sll rd rs1 rs2) s = out (a <<< (b.toNat % 64)) ∧
     exec (.slt rd rs1 rs2) s = out (if a.toInt < b.toInt then 1 else 0) ∧
     exec (.sltu rd rs1 rs2) s = out (if a.toNat < b.toNat then 1 else 0) ∧
     exec (.xor rd rs1 rs2) s = out (a ^^^ b) ∧
     exec (.srl rd rs1 rs2) s = out (a >>> (b.toNat % 64)) ∧
     exec (.sra rd rs1 rs2) s = out (a.sshiftRight (b.toNat % 64)) ∧
     exec (.or rd rs1 rs2) s = out (a ||| b) ∧
     exec (.and rd rs1 rs2) s = out (a &&& b) ∧
     exec (.addw rd rs1 rs2) s = out ((aw + bw).signExtend 64) ∧
     exec (.subw rd rs1 rs2) s = out ((aw - bw).signExtend 64) ∧
     exec (.sllw rd rs1 rs2) s = out ((aw <<< (b.toNat % 32)).signExtend 64) ∧
     exec (.srlw rd rs1 rs2) s = out ((aw >>> (b.toNat % 32)).signExtend 64) ∧
     exec (.sraw rd rs1 rs2) s = out ((aw.sshiftRight (b.toNat % 32)).signExtend 64)) ∧
  (∀ (s : State) (rd rs1 rs2 : Reg),
     let a := Claims.xs s rs1
     let b := Claims.xs s rs2
     let aw := a.setWidth 32
     let bw := b.setWidth 32
     let out := Claims.result s rd
     exec (.mul rd rs1 rs2) s = out (a * b) ∧
     exec (.mulh rd rs1 rs2) s = out ((a.signExtend 128 * b.signExtend 128).extractLsb' 64 64) ∧
     exec (.mulhsu rd rs1 rs2) s = out ((a.signExtend 128 * b.setWidth 128).extractLsb' 64 64) ∧
     exec (.mulhu rd rs1 rs2) s = out ((a.setWidth 128 * b.setWidth 128).extractLsb' 64 64) ∧
     exec (.div rd rs1 rs2) s = out (if b = 0 then BitVec.allOnes 64 else a.sdiv b) ∧
     exec (.divu rd rs1 rs2) s = out (if b = 0 then BitVec.allOnes 64 else a / b) ∧
     exec (.rem rd rs1 rs2) s = out (if b = 0 then a else a.srem b) ∧
     exec (.remu rd rs1 rs2) s = out (if b = 0 then a else a % b) ∧
     exec (.mulw rd rs1 rs2) s = out ((aw * bw).signExtend 64) ∧
     exec (.divw rd rs1 rs2) s = out (if bw = 0 then BitVec.allOnes 64 else (aw.sdiv bw).signExtend 64) ∧
     exec (.divuw rd rs1 rs2) s = out (if bw = 0 then BitVec.allOnes 64 else (aw / bw).signExtend 64) ∧
     exec (.remw rd rs1 rs2) s = out (if bw = 0 then aw.signExtend 64 else (aw.srem bw).signExtend 64) ∧
     exec (.remuw rd rs1 rs2) s = out (if bw = 0 then aw.signExtend 64 else (aw % bw).signExtend 64)) ∧
  (∀ (s : State) (rd rs1 rs2 : Reg) (imm : BitVec 12) (far : BitVec 20),
     let pc := (s.slot s.cur).at_
     let a := Claims.xs s rs1
     let b := Claims.xs s rs2
     let t := pc + (imm.signExtend 64 <<< 1)
     let tj := pc + (far.signExtend 64 <<< 1)
     let tr := (a + imm.signExtend 64) &&& ~~~1
     let link := fun (t : Word) => Host.Outcome.next (φ := Fault) (ρ := Refusal)
       ((s.modSlot s.cur fun sl => sl.setX rd.toNat (pc + 4)).commit s.cur (some t))
     exec (.jal rd far) s = (if tj.toNat % 4 = 0 then link tj else Claims.traps s 0 tj) ∧
     exec (.jalr rd rs1 imm) s = (if tr.toNat % 4 = 0 then link tr else Claims.traps s 0 tr) ∧
     exec (.beq rs1 rs2 imm) s = Claims.branches s (decide (a = b)) t ∧
     exec (.bne rs1 rs2 imm) s = Claims.branches s (decide (a ≠ b)) t ∧
     exec (.blt rs1 rs2 imm) s = Claims.branches s (decide (a.toInt < b.toInt)) t ∧
     exec (.bge rs1 rs2 imm) s = Claims.branches s (decide (b.toInt ≤ a.toInt)) t ∧
     exec (.bltu rs1 rs2 imm) s = Claims.branches s (decide (a.toNat < b.toNat)) t ∧
     exec (.bgeu rs1 rs2 imm) s = Claims.branches s (decide (b.toNat ≤ a.toNat)) t)

/-- The destination of an instruction that writes one x register and touches nothing else. -/
def Sys2Proof.Claims.scalarDest : Instr → Option Reg
  | .lui rd _ | .auipc rd _ => some rd
  | .addi rd _ _ | .slti rd _ _ | .sltiu rd _ _ | .xori rd _ _ | .ori rd _ _ | .andi rd _ _ => some rd
  | .slli rd _ _ | .srli rd _ _ | .srai rd _ _ | .addiw rd _ _ | .slliw rd _ _ | .srliw rd _ _ | .sraiw rd _ _ => some rd
  | .add rd _ _ | .sub rd _ _ | .sll rd _ _ | .slt rd _ _ | .sltu rd _ _ | .xor rd _ _ | .srl rd _ _ | .sra rd _ _ => some rd
  | .or rd _ _ | .and rd _ _ | .addw rd _ _ | .subw rd _ _ | .sllw rd _ _ | .srlw rd _ _ | .sraw rd _ _ => some rd
  | .mul rd _ _ | .mulh rd _ _ | .mulhsu rd _ _ | .mulhu rd _ _ | .div rd _ _ | .divu rd _ _ | .rem rd _ _ | .remu rd _ _ => some rd
  | .mulw rd _ _ | .divw rd _ _ | .divuw rd _ _ | .remw rd _ _ | .remuw rd _ _ => some rd
  | .padd rd _ _ | .ptag rd _ _ | .pget rd _ | .pbase rd _ | .paddi rd _ _ | .ptagi rd _ _ => some rd
  | .cvstat rd => some rd
  | _ => none

/-- The frame of an instruction of the executing slot that writes x register `rd` alone: every other x register, every v
register, CSR and accumulator, every other slot, every core with its L1, and every byte of memory stay as they were. -/
def Sys2Proof.Claims.FrameX (s t : State) (rd : Reg) : Prop :=
  t = { s with slots := t.slots, cars := t.cars, freed := t.freed } ∧
  (∀ j, j ≠ s.cur → t.slot j = s.slot j) ∧
  (∃ x e p r i u, t.slot s.cur =
    { s.slot s.cur with x := x, errX := e, pc := p, rep := r, instret := i, wait := .none, run := u }) ∧
  (∀ n, n ≠ rd.toNat → (t.slot s.cur).xr n = (s.slot s.cur).xr n) ∧
  (∀ c, t.car c = { s.car c with lanes := (t.car c).lanes }) ∧
  (∀ k, t.byte k = s.byte k) ∧ (∀ c a, t.l1Byte c a = s.l1Byte c a) ∧
  (∀ c a n, (t.core c).locBytes a n = (s.core c).locBytes a n)

/-- The register that a jump links to; a branch writes none. -/
def Sys2Proof.Claims.linkOf : Instr → Option Reg
  | .jal rd _ | .jalr rd _ _ => some rd
  | .beq _ _ _ | .bne _ _ _ | .blt _ _ _ | .bge _ _ _ | .bltu _ _ _ | .bgeu _ _ _ => some 0
  | _ => none

/-- R10, R64, R124: an instruction that works on x registers completes in every state, writes its destination at most, and
leaves every other register, flag, special register and every byte of memory as it was. R10, R61, R64: a jump or branch
writes its link register at most; or it raises cause 0 for a misaligned target. -/
def Obligations.ScalarFrame : Prop :=
  (∀ (s : State) (i : Instr) (rd : Reg), Claims.scalarDest i = some rd →
     ∃ t, exec i s = .next t ∧ Claims.FrameX s t rd) ∧
  (∀ (s : State) (i : Instr) (rd : Reg), Claims.linkOf i = some rd →
     ∃ t, exec i s = .next t ∧
       (Claims.FrameX s t rd ∨ ∃ a : Word, a.toNat % 4 ≠ 0 ∧ t = s.takeTrap s.cur 0 a))

/-! ### Traps, returns and CSRs -/

/-- R399, R151: a synchronous trap of a slot of a compute core. It enters S-mode at stvec; sepc, scause, stval, SPP and SPIE
are set and SIE is cleared; the slot leaves its convoy and goes on as a stray; nothing else of the package changes. -/
def Obligations.TrapEntry : Prop :=
  ∀ (s : State) (k cause : Nat) (tval : Word), k ≠ stewardSlot →
    let o := s.slot k
    let t := s.takeTrap k cause tval
    let n := t.slot k
    n = { o with sepc := o.pc, scause := wordOfNat cause, stval := tval, sstatus := n.sstatus, priv := .s, pc := o.stvec,
                 run := .stray, wait := .none, rep := none, repst := n.repst, fresh := false } ∧
    (wbit n.sstatus 8 = decide (o.priv ≠ .u) ∧ wbit n.sstatus 5 = wbit o.sstatus 1 ∧ wbit n.sstatus 1 = false) ∧
    (∀ b, b ≠ 8 → b ≠ 5 → b ≠ 1 → wbit n.sstatus b = wbit o.sstatus b) ∧
    (o.rep = none → n.repst = o.repst) ∧
    (∀ r, o.rep = some r → n.repst = wordOfNat (2 ^ 63 + r.count * 4096 + r.iter)) ∧
    (∀ j, j ≠ k → t.slot j = s.slot j) ∧
    t.cars = (s.leave k).cars ∧ t.freed = (s.leave k).freed ∧
    t = { s with slots := t.slots, cars := t.cars, freed := t.freed }

/-- R60, R61, R66, R169, R399: the instructions and words that always trap, and the traps of a fetch. ECALL is cause 8 from
U-mode, 9 from S-mode and 11 from M-mode, with stval 0; EBREAK is cause 3 with the PC; a word that is not an instruction
is cause 2 with the word; a misaligned PC is cause 0; a tag byte, the local window of a compute core, or no right to
execute at an address that is not the core's own is cause 1. That ECALL from M-mode is cause 11, and that the steward core
addresses its own SRAM from 0, is the model's choice (PRESUMED, log 15). -/
def Obligations.TrappingInstructions : Prop :=
  ∀ (s : State) (w : BitVec 32),
    let o := s.slot s.cur
    let pc := o.at_
    let c := Claims.cc s
    (o.priv = .u → exec .ecall s = Claims.traps s 8 0) ∧
    (o.priv = .s → exec .ecall s = Claims.traps s 9 0) ∧
    (o.priv = .m → exec .ecall s = Claims.traps s 11 0) ∧
    exec .ebreak s = Claims.traps s 3 pc ∧
    exec (.illegalInstruction w) s = Claims.traps s 2 (w.setWidth 64) ∧
    (pc.toNat % 4 ≠ 0 → exec .instructionFetchFault s = Claims.traps s 0 pc) ∧
    (pc.toNat % 4 = 0 → 2 ^ 56 ≤ pc.toNat → exec .instructionFetchFault s = Claims.traps s 1 pc) ∧
    (pc.toNat % 4 = 0 → pc.toNat < 2 ^ 56 → c ≠ stewardCore → Config.windowBase ≤ pc.toNat →
      exec .instructionFetchFault s = Claims.traps s 1 pc) ∧
    (pc.toNat % 4 = 0 → pc.toNat < 2 ^ 56 → isOwn c pc.toNat = false →
      (∀ e, (s.core c).plbFind pc.toNat = some e → wbit e 2 = false) → exec .instructionFetchFault s = Claims.traps s 1 pc)

/-- R66, R393, R400: SRET and WFI are illegal in U-mode, with the word in stval. In S-mode SRET restores the mode and the
interrupt enable and goes to sepc; WFI goes on when a software interrupt is pending and enabled, and else holds the
slot: R66 lets it return early at any time, and that it does not is the model's choice (log 66). R13, R66: MRET is illegal on compute cores. On the steward core, in M-mode, it returns to mepc in the mode that
mstatus.MPP names, and a return below M-mode clears mstatus.MPRV (what the privileged specification states: log 15). -/
def Obligations.ReturnsAndWaiting : Prop :=
  (∀ s : State,
     let o := s.slot s.cur
     (o.priv = .u → o.rep = none → exec .sret s = Claims.traps s 2 0x10200073 ∧ exec .wfi s = Claims.traps s 2 0x10500073) ∧
     (o.priv ≠ .u → ∃ st : Word,
       exec .sret s = .next (s.modSlot s.cur fun sl => { sl with
         pc := o.sepc, priv := if wbit o.sstatus 8 then .s else .u, fresh := true, sstatus := st, instret := o.instret + 1 }) ∧
       wbit st 1 = wbit o.sstatus 5 ∧ wbit st 5 = true ∧ wbit st 8 = false ∧
       ∀ b, b ≠ 8 → b ≠ 5 → b ≠ 1 → wbit st b = wbit o.sstatus b) ∧
     (o.priv ≠ .u → wbit o.sip 1 = true → wbit o.sie 1 = true → exec .wfi s = .next (s.commit s.cur none)) ∧
     (o.priv ≠ .u → (wbit o.sip 1 && wbit o.sie 1) = false →
       exec .wfi s = .next (s.modSlot s.cur fun sl => { sl with wait := .event }))) ∧
  (∀ s : State,
     let o := s.slot s.cur
     (s.cur ≠ stewardSlot → o.rep = none → exec .mret s = Claims.traps s 2 0x30200073) ∧
     (s.cur = stewardSlot → o.priv = .m → ∃ st : Word,
       exec .mret s = .next (s.modSlot s.cur fun sl => { sl.setM 0x300 st with
         pc := o.m 0x341, priv := if wbits (o.m 0x300) 12 11 = 3 then .m else if wbits (o.m 0x300) 12 11 = 1 then .s else .u,
         fresh := true, instret := o.instret + 1 }) ∧
       wbit st 3 = wbit (o.m 0x300) 7 ∧ wbit st 7 = true ∧ wbits st 12 11 = 0 ∧
       wbit st 17 = (wbit (o.m 0x300) 17 && decide (wbits (o.m 0x300) 12 11 = 3))))

/-- R67: a CSR that the slot's core implements, at a privilege the slot has, and not read-only where it would be written: rd
gets the old value, and the new value is written. CSRRS, CSRRC with x0 and the immediate forms with 0 write nothing.
R67: a CSR instruction falls under R60 where its CSR is not implemented, needs more privilege than the slot has, or is
read-only by its address and would be written. -/
def Obligations.CsrInstructions : Prop :=
  (∀ (s : State) (rd rs1 : Reg) (ui : BitVec 5) (csr : BitVec 12) (old : Word),
     let n := csr.toNat
     let a := Claims.xs s rs1
     let u : Word := ui.setWidth 64
     let put := fun (v : Word) => Claims.result (s.writeCsr s.cur n v) rd old
     s.csr s.cur n = some old → n / 256 % 4 ≤ (s.slot s.cur).priv.level →
       (n / 1024 ≠ 3 → exec (.csrrw rd rs1 csr) s = put a ∧ exec (.csrrwi rd ui csr) s = put u) ∧
       (n / 1024 ≠ 3 → rs1 ≠ 0 → exec (.csrrs rd rs1 csr) s = put (old ||| a) ∧ exec (.csrrc rd rs1 csr) s = put (old &&& ~~~a)) ∧
       (n / 1024 ≠ 3 → ui ≠ 0 → exec (.csrrsi rd ui csr) s = put (old ||| u) ∧ exec (.csrrci rd ui csr) s = put (old &&& ~~~u)) ∧
       (rs1 = 0 → exec (.csrrs rd rs1 csr) s = Claims.result s rd old ∧ exec (.csrrc rd rs1 csr) s = Claims.result s rd old) ∧
       (ui = 0 → exec (.csrrsi rd ui csr) s = Claims.result s rd old ∧ exec (.csrrci rd ui csr) s = Claims.result s rd old)) ∧
  (∀ (s : State) (i : Instr) (csr : BitVec 12) (writes : Bool),
     (∃ rd rs1 : Reg, (i = .csrrw rd rs1 csr ∧ writes = true) ∨ (i = .csrrs rd rs1 csr ∧ writes = decide (rs1 ≠ 0)) ∨
       (i = .csrrc rd rs1 csr ∧ writes = decide (rs1 ≠ 0)) ∨ (i = .csrrwi rd rs1 csr ∧ writes = true) ∨
       (i = .csrrsi rd rs1 csr ∧ writes = decide (rs1 ≠ 0)) ∨ (i = .csrrci rd rs1 csr ∧ writes = decide (rs1 ≠ 0))) →
     (s.csr s.cur csr.toNat = none ∨ (s.slot s.cur).priv.level < csr.toNat / 256 % 4 ∨ (writes = true ∧ csr.toNat / 1024 = 3)) →
     exec i s = Claims.traps s 2 (s.wordOf i))

/-- What the special registers keep of a write: vctl (R234), vflags (R102), dscope (R185), repst (R131), nestst (R136), dseed
(R299), ccont (R217), bwin (R321), the S-mode registers (R393), gfault (R396), stash and stop (R304, R305): their reserved
fields read as zero, a reserved scope is not written, and gfault.v is cleared by a 1. On the steward core sie and sip show the
one bit that they implement while mideleg delegates it (what the privileged specification states: log 15). R235, R238: a write of
sbind binds a port to a stream that no port of the core had, leaves a port unchanged where another one had it, and empties the
queue of a port that it unbinds; of two ports that name one free stream the lower binds it (log 24). -/
def Obligations.CsrFields : Prop :=
  (∀ (s : State) (v : Word),
    let k := s.cur
    let get := fun (n : Nat) => (s.writeCsr k n v).csr k n
    get 0x100 = some (setBits (v &&& 0x122) 33 32 2) ∧ get 0x141 = some (v &&& ~~~3) ∧
    get 0x800 = some (v &&& 0xF3) ∧ get 0x801 = some (v &&& 0x1F) ∧
    get 0x802 = some (if v.toNat % 8 ≤ 4 then v &&& 7 else (s.slot k).dscope) ∧
    get 0x803 = some (v &&& 0x8000000000FFFFFF) ∧
    get 0x804 = some ((v &&& 0x7FFFFFFF7FFFFFFF) ||| ((s.slot k).nestst &&& 0x80000000)) ∧
    get 0x806 = some v ∧ get 0x807 = some v ∧ get 0x808 = some (v &&& 0x00FFFFFFFFFFFFF0) ∧
    (k ≠ stewardSlot → get 0x104 = some (v &&& 2) ∧ get 0x144 = some (v &&& 2)) ∧
    (k = stewardSlot → let d := (s.slot k).m 0x303
      get 0x104 = some (v &&& d &&& 2) ∧ get 0x144 = some (v &&& d &&& 2)) ∧
    get 0x105 = some (v &&& ~~~3) ∧
    get 0x140 = some v ∧ get 0x142 = some v ∧ get 0x143 = some v ∧
    (∃ w, get 0x5C0 = some w ∧ wbit w 63 = (wbit (s.slot k).gfault 63 && !wbit v 63)) ∧
    get 0x5C3 = some (v &&& ~~~0xFFFF) ∧ (s.writeCsr k 0x5C3 v).csr k 0xCC5 = some 0) ∧
  (∀ (s : State) (v : Word) (p : Nat), p < 4 →
    let k := s.cur
    let t := s.writeCsr k 0x805 v
    let old := (s.slot k).sbind
    let new := (t.slot k).sbind
    let st := wbits v (4 * p + 1) (4 * p)
    t = { s with slots := t.slots } ∧ (∀ j, j ≠ k → t.slot j = s.slot j) ∧ t.csr k 0x805 = some new ∧
    (∀ b, 16 ≤ b → wbit new b = wbit old b) ∧
    (wbit v (4 * p + 3) = false → wbits new (4 * p + 3) (4 * p) = st ∧ (t.slot k).port p = []) ∧
    (wbit v (4 * p + 3) = true → s.streamBound k p st = true → wbits new (4 * p + 3) (4 * p) = wbits old (4 * p + 3) (4 * p)) ∧
    (wbit v (4 * p + 3) = true → s.streamBound k p st = false → (∀ q, q < p → wbit v (4 * q + 3) = true → wbits v (4 * q + 1) (4 * q) ≠ st) →
      wbits new (4 * p + 3) (4 * p) = 8 + st) ∧
    (wbit v (4 * p + 3) = true → (t.slot k).port p = (s.slot k).port p))

/-- R398: sevd holds a destination word whose mode is 0 and whose bits [24:1] are zero, and a write that breaks this leaves
it unchanged; sevh holds a handler address in bits [55:0]; both reset to 0. -/
def Obligations.SupervisorEventCsrs : Prop :=
  (∀ (s : State) (v : Word),
    let k := s.cur
    let put := fun (n : Nat) => s.writeCsr k n v
    s.csr k 0x5C4 = some (s.ctx (s.ctxOf k)).sevd ∧ s.csr k 0x5C5 = some (s.ctx (s.ctxOf k)).sevh ∧
    (wbits v 63 62 = 0 ∧ wbits v 24 1 = 0 → (put 0x5C4).csr k 0x5C4 = some v) ∧
    (wbits v 63 62 ≠ 0 ∨ wbits v 24 1 ≠ 0 → put 0x5C4 = s) ∧
    (put 0x5C5).csr k 0x5C5 = some (v &&& 0x00FFFFFFFFFFFFFF) ∧ (put 0x5C5).csr k 0x5C4 = s.csr k 0x5C4 ∧
    (put 0x5C4).csr k 0x5C5 = s.csr k 0x5C5) ∧
  ∀ k, State.reset.csr k 0x5C4 = some 0 ∧ State.reset.csr k 0x5C5 = some 0

/-! ### Loads and stores -/

/-- The effective address of a scalar access: base plus offset modulo 2^56 (R65, R167). -/
def Sys2Proof.Claims.ea (s : State) (rs1 : Reg) (imm : BitVec 12) : Nat := (Claims.xs s rs1 + imm.signExtend 64).toNat % 2 ^ 56

/-- What a load of `n` bytes at `a` does: cause 4 where it is not aligned; the value where the access is admitted; else what
stops the access. -/
def Sys2Proof.Claims.Load (i : Instr) (s : State) (a n : Nat) (rd : Reg) (ext : Nat → Word) : Prop :=
  (a % n ≠ 0 → exec i s = Claims.traps s 4 (wordOfNat a)) ∧
  (∀ bs t, a % n = 0 → s.load (Claims.cc s) a n false = .ok (bs, t) → exec i s = Claims.result t rd (ext (natOfBytes bs))) ∧
  (∀ e, a % n = 0 → s.load (Claims.cc s) a n false = .error e → exec i s = .next (e.apply s))

/-- What a store of the low `n` bytes of `v` at `a` does. -/
def Sys2Proof.Claims.Store (i : Instr) (s : State) (a n : Nat) (v : Word) : Prop :=
  (a % n ≠ 0 → exec i s = Claims.traps s 6 (wordOfNat a)) ∧
  (∀ t, a % n = 0 → s.store (Claims.cc s) a (bytesOfNat n v.toNat) = .ok t → exec i s = .next (t.commit t.cur none)) ∧
  (∀ e, a % n = 0 → s.store (Claims.cc s) a (bytesOfNat n v.toNat) = .error e → exec i s = .next (e.apply s))

/-- R64, R65, R167: the scalar loads, each with its size and its extension to 64 bits. -/
def Obligations.ScalarLoads : Prop :=
  ∀ (s : State) (rd rs1 : Reg) (imm : BitVec 12),
    let a := Claims.ea s rs1 imm
    Claims.Load (.lb rd rs1 imm) s a 1 rd (fun v => (BitVec.ofNat 8 v).signExtend 64) ∧
    Claims.Load (.lh rd rs1 imm) s a 2 rd (fun v => (BitVec.ofNat 16 v).signExtend 64) ∧
    Claims.Load (.lw rd rs1 imm) s a 4 rd (fun v => (BitVec.ofNat 32 v).signExtend 64) ∧
    Claims.Load (.ld rd rs1 imm) s a 8 rd (fun v => BitVec.ofNat 64 v) ∧
    Claims.Load (.lbu rd rs1 imm) s a 1 rd (fun v => BitVec.ofNat 64 v) ∧
    Claims.Load (.lhu rd rs1 imm) s a 2 rd (fun v => BitVec.ofNat 64 v) ∧
    Claims.Load (.lwu rd rs1 imm) s a 4 rd (fun v => BitVec.ofNat 64 v)

/-- The scalar loads with their sizes. -/
def Sys2Proof.Claims.loadForms (rd rs1 : Reg) (imm : BitVec 12) : List (Instr × Nat) :=
  [(.lb rd rs1 imm, 1), (.lh rd rs1 imm, 2), (.lw rd rs1 imm, 4), (.ld rd rs1 imm, 8), (.lbu rd rs1 imm, 1),
   (.lhu rd rs1 imm, 2), (.lwu rd rs1 imm, 4)]

/-- The scalar stores with their sizes. -/
def Sys2Proof.Claims.storeForms (rs1 rs2 : Reg) (imm : BitVec 12) : List (Instr × Nat) :=
  [(.sb rs1 rs2 imm, 1), (.sh rs1 rs2 imm, 2), (.sw rs1 rs2 imm, 4), (.sd rs1 rs2 imm, 8)]

/-- What memory holds is the same in two states: every byte of the tiers, and every byte that a read at its home finds. -/
def Sys2Proof.Claims.SameMemory (s t : State) : Prop :=
  (∀ k, t.byte k = s.byte k) ∧ ∀ (tr : TEntry) (d y : Nat), t.homeByte tr d y = s.homeByte tr d y

/-- R64, R65, R167: the scalar stores, each with its size. R168: the local window of a core's own local store, and the
addresses of the steward core's SRAM (log 15), are reached with no check. What is stored there is read back; no other
byte of that store, no other core, no register and no byte of memory changes. -/
def Obligations.ScalarStores : Prop :=
  (∀ (s : State) (rs1 rs2 : Reg) (imm : BitVec 12),
     let a := Claims.ea s rs1 imm
     let v := Claims.xs s rs2
     Claims.Store (.sb rs1 rs2 imm) s a 1 v ∧ Claims.Store (.sh rs1 rs2 imm) s a 2 v ∧
     Claims.Store (.sw rs1 rs2 imm) s a 4 v ∧ Claims.Store (.sd rs1 rs2 imm) s a 8 v) ∧
  (∀ (s : State) (rd rs1 rs2 : Reg) (imm : BitVec 12) (i : Instr) (n : Nat),
     let a := Claims.ea s rs1 imm
     let c := Claims.cc s
     isOwn c a = true → a % n = 0 →
       (a % 8 = 0 → exec (.ld rd rs1 imm) s = Claims.result s rd (BitVec.ofNat 64 (natOfBytes (s.ownBytes c a 8)))) ∧
       ((i, n) ∈ Claims.storeForms rs1 rs2 imm → ∃ t, exec i s = .next t ∧
         t.ownBytes c a n = bytesOfNat n (Claims.xs s rs2).toNat ∧
         (∀ b, isOwn c b = true → (b < a ∨ a + n ≤ b) → t.ownBytes c b 1 = s.ownBytes c b 1) ∧
         (∀ d, d ≠ c → t.core d = s.core d) ∧ (c ≠ stewardCore → t.sram = s.sram) ∧
         Claims.SameMemory s t ∧
         (∀ k, (t.slot k).x = (s.slot k).x ∧ (t.slot k).v = (s.slot k).v ∧ (t.slot k).vflags = (s.slot k).vflags)))

/-- R169, R170: outside its own store a core reaches nothing that its PLB gives it no right to: a load raises cause 5, a
store cause 7, an atomic cause 7, an LR cause 5, with the address. R169: the lowest-indexed entry of the PLB that
matches decides, by bits [55:s] of address and base, where 2^s is its size. -/
def Obligations.RightsOfAccess : Prop :=
  (∀ (s : State) (c a n : Nat) (ro : Bool) (bs : List Byte) (f : Nat → Option Nat),
     isOwn c a = false →
     (∀ e, (s.core c).plbFind a = some e → wbit e 0 = false ∧ wbit e 1 = false) →
       s.load c a n ro = .error (.trap 5 (wordOfNat a)) ∧
       s.store c a bs = .error (.trap 7 (wordOfNat a)) ∧
       s.rmw c a n .amo f = .error (.trap 7 (wordOfNat a)) ∧
       s.rmw c a n .sc f = .error (.trap 7 (wordOfNat a)) ∧
       s.readHome c a n .lr = .error (.trap 5 (wordOfNat a)) ∧
       s.readHome c a n .load = .error (.trap 5 (wordOfNat a)) ∧
       s.writeHome c a bs .store = .error (.trap 7 (wordOfNat a))) ∧
  (∀ (k : Core) (a : Nat) (e : Word), k.plbFind a = some e →
     ∃ (before after : List (Nat × Word)) (n : Nat), k.plb = before ++ (n, e) :: after ∧
       (wbit e 63 = true ∧ a / 2 ^ wbits e 13 8 = wbits e 55 16 * 65536 / 2 ^ wbits e 13 8) ∧
       ∀ x ∈ before, ¬ (wbit x.2 63 = true ∧ a / 2 ^ wbits x.2 13 8 = wbits x.2 55 16 * 65536 / 2 ^ wbits x.2 13 8))

/-- Whether the L1 of core `c` has room for the line of `a` or holds it, so that no line has to leave. -/
def Sys2Proof.Claims.Room (s : State) (c a : Nat) : Prop := (s.l1Set c a).length < 4 ∨ a / 32 ∈ s.l1Set c a

/-- Whether the byte at key `k` lies in the line of a dirty sector of an L2, which its eviction writes back. -/
def Sys2Proof.Claims.WrittenBack (s : State) (k : Nat) : Prop :=
  ∃ e ∈ s.l2, ∃ b ∈ e.2, ∃ x ∈ b.sectors, x.2.dirty = true ∧
    b.page.key (b.slice / 256) (e.1 * 256 + 64 * x.1) ≤ k ∧ k < b.page.key (b.slice / 256) (e.1 * 256 + 64 * x.1) + 64

/-- R178, R179: a store to words that its L1 holds, by a core with the right to write there. The bytes are the core's own
view from then on, and the words are dirty; every other byte of the view, every byte of memory and every register stays.
R171, R179: a store writes its home only by a later write-through. Where the translation is held, the L1 has room and no
non-temporal bytes of the line wait, whatever a store does (a trap included): no byte of memory changes but by the
eviction of a dirty sector, and each dirty sector of an L2 was there before, with the same bytes. -/
def Obligations.StoresHitL1 : Prop :=
  (∀ (s : State) (rs1 rs2 : Reg) (imm : BitVec 12) (i : Instr) (n : Nat) (w : L1Word) (e : Word),
     let a := Claims.ea s rs1 imm
     let c := Claims.cc s
     (i, n) ∈ Claims.storeForms rs1 rs2 imm → isOwn c a = false → a % n = 0 →
     (s.core c).plbFind a = some e → wbit e 1 = true → s.l1Line c a = some w →
     classRefuses w.cls .store (wbit e 5) ((sget 0 s.ways (w.way / 16)).toNat.testBit (w.way % 16)) = none →
     s.l1Hit c a n = true → (∀ x ∈ (s.core c).nt, x.line ≠ a / 64) →
       ∃ t, exec i s = .next t ∧
         (∀ j, j < n → t.l1Byte c (a + j) = (bytesOfNat n (Claims.xs s rs2).toNat).getD j 0) ∧
         (∀ j, j < n → (t.l1Word c (a + j)).map (·.dirty) = some true) ∧
         (∀ y, (y < a ∨ a + n ≤ y) → t.l1Byte c y = s.l1Byte c y) ∧
         Claims.SameMemory s t ∧
         (∀ k, (t.slot k).x = (s.slot k).x ∧ (t.slot k).v = (s.slot k).v ∧ (t.slot k).vflags = (s.slot k).vflags)) ∧
  (∀ (s t : State) (rs1 rs2 : Reg) (imm : BitVec 12) (i : Instr) (n : Nat) (tr : TEntry),
     let a := Claims.ea s rs1 imm
     let c := Claims.cc s
     (i, n) ∈ Claims.storeForms rs1 rs2 imm → s.held (dieOf c) a = some tr → (∀ x ∈ (s.core c).nt, x.line ≠ a / 64) →
     Claims.Room s c a → exec i s = .next t →
       (∀ k, t.byte k = s.byte k ∨ Claims.WrittenBack s k) ∧
       (∀ e ∈ t.l2, ∀ b ∈ e.2, ∀ x ∈ b.sectors, x.2.dirty = true → ∃ f ∈ s.l2, f.1 = e.1 ∧ ∃ d ∈ f.2, d.page = b.page ∧ x ∈ d.sectors))

/-- R10, R171, R172, R178, R179: the frame of a load that meets no uncorrectable data and whose line finds room in the L1.
It changes its destination at most, whatever it does (a trap or a parking included): no byte of memory outside the eight
bytes of the page's leaf entry, in which the walk sets accessed (in the line of the entry, where an L2 holds it), but by
the eviction of a dirty sector; no byte of a local store; nothing of a word that an L1 holds but whether its line is
read-only; no register of another slot. -/
def Obligations.LoadFrame : Prop :=
  ∀ (s t : State) (rd rs1 : Reg) (imm : BitVec 12) (i : Instr) (n : Nat),
    let a := Claims.ea s rs1 imm
    (i, n) ∈ Claims.loadForms rd rs1 imm → Claims.Room s (Claims.cc s) a →
    (∀ e cause addr, s.load (Claims.cc s) a n false = .error e → e.last ≠ .kill cause addr) → exec i s = .next t →
      (∀ k, (∀ key, s.leafKey a = .ok key →
          (k < key ∨ key + 8 ≤ k) ∧ ((s.physFind key).isSome = true → k / 64 ≠ key / 64)) →
        t.byte k = s.byte k ∨ Claims.WrittenBack s k) ∧
      ((s.held (dieOf (Claims.cc s)) a).isSome = true → ∀ k, t.byte k = s.byte k ∨ Claims.WrittenBack s k) ∧
      (∀ c, (t.core c).loc = (s.core c).loc ∧ (t.core c).acc = (s.core c).acc ∧ (t.core c).nt = (s.core c).nt) ∧
      (∀ c y w, sfind (s.core c).l1 y = some w → ∃ ro, sfind (t.core c).l1 y = some { w with ro }) ∧
      (∀ k, k ≠ s.cur → t.slot k = s.slot k) ∧
      (∀ m, m ≠ rd.toNat → (t.slot s.cur).xr m = (s.slot s.cur).xr m) ∧
      ((t.slot s.cur).v = (s.slot s.cur).v ∧ (t.slot s.cur).vflags = (s.slot s.cur).vflags ∧ (t.slot s.cur).vctl = (s.slot s.cur).vctl)

/-! ### Atomics -/

/-- The address that an atomic of a slot names in x register `rs1`. -/
def Sys2Proof.Claims.named (rs1 : Reg) : Slot → Option Nat := fun sl => some ((sl.xr rs1.toNat).toNat % 2 ^ 56)

/-- What a base AMO of `n` bytes does (R65, R154, R187, R200): cause 6 where it is not aligned; else the release of rl, the
read-modify-write, the old value sign-extended in rd, and the acquire of aq, both at dscope. -/
def Sys2Proof.Claims.Amo (i : Instr) (s : State) (n : Nat) (f : Nat → Nat → Nat) (rd rs1 rs2 : Reg) (aq rl : Bool) : Prop :=
  let a := (Claims.xs s rs1).toNat % 2 ^ 56
  let b := (Claims.xs s rs2).toNat % 2 ^ (8 * n)
  let sc := scopeOf (wbits (s.slot s.cur).dscope 2 0)
  (a % n ≠ 0 → exec i s = Claims.traps s 6 (wordOfNat a)) ∧
  (a % n = 0 → s.earlierMember s.cur (Claims.named rs1) = false → ∀ u old t, (if rl then s.release (s.cur / 4) sc else .ok s) = .ok u →
    u.rmw (u.cur / 4) a n .amo (fun v => some (f v b)) = .ok (old, t) →
    let w := t.modSlot t.cur fun sl => sl.setX rd.toNat ((BitVec.ofNat (8 * n) old).signExtend 64)
    exec i s = .next ((if aq then w.acquire (w.cur / 4) sc else w).commit t.cur none))

/-- R64, R65: LR reads at the home and sets the slot's reservation; SC stores where the reservation covers its bytes, and
gives 0, else stores nothing and gives 1; either way the reservation ends. R462: the reservation is looked at once the core's own
dirty words have been written through. R64, R65 on a core's own store: an SC whose
slot holds no reservation writes nothing and gives 1; one that holds the word's reservation writes it and gives 0. Which bytes are
reserved, that success gives 0, and that an SC ends the reservation either way are read from the rules by inference (log 16). -/
def Obligations.LoadReservedStoreConditional : Prop :=
  (∀ (s : State) (rd rs1 rs2 : Reg) (aq rl : Bool) (i : Instr) (n : Nat),
     let a := (Claims.xs s rs1).toNat % 2 ^ 56
     let b := (Claims.xs s rs2).toNat % 2 ^ (8 * n)
     let sc := scopeOf (wbits (s.slot s.cur).dscope 2 0)
     let close := fun (w : State) => (if aq then w.acquire (w.cur / 4) sc else w).commit w.cur none
     ((i, n) = (.lrW rd rs1 aq rl, 4) ∨ (i, n) = (.lrD rd rs1 aq rl, 8) →
       (a % n ≠ 0 → exec i s = Claims.traps s 4 (wordOfNat a)) ∧
       (a % n = 0 → s.earlierMember s.cur (Claims.named rs1) = false → ∀ u bs t, (if rl then s.release (s.cur / 4) sc else .ok s) = .ok u →
         u.readHome (u.cur / 4) a n .lr = .ok (bs, t) →
         exec i s = .next (close ({ t with resv := sset t.resv t.cur (place (t.cur / 4) a, n) }.modSlot t.cur fun sl =>
           sl.setX rd.toNat ((BitVec.ofNat (8 * n) (natOfBytes bs)).signExtend 64))))) ∧
     ((i, n) = (.scW rd rs1 rs2 aq rl, 4) ∨ (i, n) = (.scD rd rs1 rs2 aq rl, 8) →
       (a % n ≠ 0 → exec i s = Claims.traps s 6 (wordOfNat a)) ∧
       (a % n = 0 → s.earlierMember s.cur (Claims.named rs1) = false → ∀ u v good bad, (if rl then s.release (s.cur / 4) sc else .ok s) = .ok u →
         let c := u.cur / 4
         (isOwn c a = true ∧ v = u ∧ good = u.putLoc c a (bytesOfNat n b) ∧ bad = u) ∨
           (isOwn c a = false ∧ ∃ tr, u.atHome c a n .sc = .ok (tr, v) ∧
             good = (v.writeFor (v.ctxOf (4 * c)) tr a (bytesOfNat n b)).dropRange c a n ∧ bad = v.fillRange tr (dieOf c) a n) →
         let ok := v.reserved (place c a) n
         let t := if ok then good else bad
         exec i s = .next (close ({ t with resv := sdel t.resv t.cur }.modSlot t.cur fun sl =>
           sl.setX rd.toNat (if ok then 0 else 1)))))) ∧
  (∀ (s : State) (rd rs1 rs2 : Reg),
     let a := (Claims.xs s rs1).toNat % 2 ^ 56
     let c := Claims.cc s
     isOwn c a = true → a % 8 = 0 → s.earlierMember s.cur (Claims.named rs1) = false →
       (sfind s.resv s.cur = none → ∃ t, exec (.scD rd rs1 rs2 false false) s = .next t ∧
         (t.core c).loc = (s.core c).loc ∧ t.sram = s.sram ∧ (rd ≠ 0 → (t.slot s.cur).xr rd.toNat = 1)) ∧
       (sfind s.resv s.cur = some (place c a, 8) → ∃ t, exec (.scD rd rs1 rs2 false false) s = .next t ∧
         t.ownBytes c a 8 = bytesOfNat 8 (Claims.xs s rs2).toNat ∧ sfind t.resv s.cur = none ∧
         (rd ≠ 0 → (t.slot s.cur).xr rd.toNat = 0)))

/-- R64, R65: the atomic operations of the A extension. R65, R169, R170, R175, R179, R200: an AMO on a page of class 0 whose
translation is held, by a core with both rights, no copy of whose own covers the word, at a home slice that holds the
sector for every die or has room for it: the home holds the new value, rd the old one; no other byte at the home
changes, and none of the memory behind it. R191: the floating-point atomics. Memory gets the rounded sum, or
maximumNumber, of the old value and the operand; rd gets the old bits, sign-extended, and vflags the operation's flags. -/
def Obligations.Atomics : Prop :=
  (∀ (s : State) (rd rs1 rs2 : Reg) (aq rl : Bool),
     let sw := fun (x : Nat) => (BitVec.ofNat 32 x).toInt
     let sd := fun (x : Nat) => (BitVec.ofNat 64 x).toInt
     Claims.Amo (.amoswapW rd rs1 rs2 aq rl) s 4 (fun _ b => b) rd rs1 rs2 aq rl ∧
     Claims.Amo (.amoaddW rd rs1 rs2 aq rl) s 4 (fun a b => (a + b) % 2 ^ 32) rd rs1 rs2 aq rl ∧
     Claims.Amo (.amoxorW rd rs1 rs2 aq rl) s 4 (fun a b => a ^^^ b) rd rs1 rs2 aq rl ∧
     Claims.Amo (.amoandW rd rs1 rs2 aq rl) s 4 (fun a b => a &&& b) rd rs1 rs2 aq rl ∧
     Claims.Amo (.amoorW rd rs1 rs2 aq rl) s 4 (fun a b => a ||| b) rd rs1 rs2 aq rl ∧
     Claims.Amo (.amominW rd rs1 rs2 aq rl) s 4 (fun a b => if sw a ≤ sw b then a else b) rd rs1 rs2 aq rl ∧
     Claims.Amo (.amomaxW rd rs1 rs2 aq rl) s 4 (fun a b => if sw b ≤ sw a then a else b) rd rs1 rs2 aq rl ∧
     Claims.Amo (.amominuW rd rs1 rs2 aq rl) s 4 (fun a b => min a b) rd rs1 rs2 aq rl ∧
     Claims.Amo (.amomaxuW rd rs1 rs2 aq rl) s 4 (fun a b => max a b) rd rs1 rs2 aq rl ∧
     Claims.Amo (.amoswapD rd rs1 rs2 aq rl) s 8 (fun _ b => b) rd rs1 rs2 aq rl ∧
     Claims.Amo (.amoaddD rd rs1 rs2 aq rl) s 8 (fun a b => (a + b) % 2 ^ 64) rd rs1 rs2 aq rl ∧
     Claims.Amo (.amoxorD rd rs1 rs2 aq rl) s 8 (fun a b => a ^^^ b) rd rs1 rs2 aq rl ∧
     Claims.Amo (.amoandD rd rs1 rs2 aq rl) s 8 (fun a b => a &&& b) rd rs1 rs2 aq rl ∧
     Claims.Amo (.amoorD rd rs1 rs2 aq rl) s 8 (fun a b => a ||| b) rd rs1 rs2 aq rl ∧
     Claims.Amo (.amominD rd rs1 rs2 aq rl) s 8 (fun a b => if sd a ≤ sd b then a else b) rd rs1 rs2 aq rl ∧
     Claims.Amo (.amomaxD rd rs1 rs2 aq rl) s 8 (fun a b => if sd b ≤ sd a then a else b) rd rs1 rs2 aq rl ∧
     Claims.Amo (.amominuD rd rs1 rs2 aq rl) s 8 (fun a b => min a b) rd rs1 rs2 aq rl ∧
     Claims.Amo (.amomaxuD rd rs1 rs2 aq rl) s 8 (fun a b => max a b) rd rs1 rs2 aq rl) ∧
  (∀ (s : State) (rd rs1 rs2 : Reg) (e : Word) (tr : TEntry),
     let a := (Claims.xs s rs1).toNat % 2 ^ 56
     let c := Claims.cc s
     let d := dieOf c
     let old := natOfBytes (s.homeRead tr d a 8)
     a % 8 = 0 → isOwn c a = false → (s.core c).plbFind a = some e → wbit e 0 = true → wbit e 1 = true →
     s.held d a = some tr → leafClass tr.leaf = 0 → s.poison = [] → s.cxlDown = [] → (s.core c).nt = [] →
     (s.core (s.l1Home c a)).l1 = [] → s.earlierMember s.cur (Claims.named rs1) = false →
     s.l2Find 0 a = s.l2Find d a →
     ((s.l2Find d a).isSome = true ∨ (sget [] s.l2 (a / 256) = [] ∧ (s.l2Set (a / 256)).length < 4)) →
       ∃ t, exec (.amoaddD rd rs1 rs2 false false) s = .next t ∧
         t.homeRead tr d a 8 = bytesOfNat 8 (old + (Claims.xs s rs2).toNat) ∧
         (∀ y, (y < a ∨ a + 8 ≤ y) → t.homeByte tr d y = s.homeByte tr d y) ∧ t.mem = s.mem ∧
         (rd ≠ 0 → (t.slot s.cur).xr rd.toNat = BitVec.ofNat 64 old) ∧
         (∀ m, m ≠ rd.toNat → (t.slot s.cur).xr m = (s.slot s.cur).xr m) ∧
         (∀ k, k ≠ s.cur → t.slot k = s.slot k)) ∧
  (∀ (s : State) (rd rs1 rs2 : Reg) (i : Instr) (f : Fmt) (op : Rm → FVal → FVal → FVal × Flags),
     (i, f, op) = (.amofaddS rd rs1 rs2, Fmt.fp32, FVal.add) ∨ (i, f, op) = (.amofaddD rd rs1 rs2, Fmt.fp64, FVal.add) ∨
       (i, f, op) = (.amofmaxS rd rs1 rs2, Fmt.fp32, fun _ a b => a.maxNum b) →
     let n := f.bits / 8
     let a := (Claims.xs s rs1).toNat % 2 ^ 56
     let rm := rmOf (s.slot s.cur).vctl
     let res := fun (old : Nat) => f.finish (op rm (f.value old) (f.value ((Claims.xs s rs2).toNat % 2 ^ f.bits))) rm false
     (a % n ≠ 0 → exec i s = Claims.traps s 6 (wordOfNat a)) ∧
     (a % n = 0 → s.earlierMember s.cur (Claims.named rs1) = false → ∀ old t, s.rmw (Claims.cc s) a n .amo (fun v => some (res v).1) = .ok (old, t) →
       exec i s = .next (((t.modSlot t.cur fun sl => sl.setX rd.toNat ((BitVec.ofNat (8 * n) old).signExtend 64)).modSlot t.cur fun sl =>
         sl.addFlags (res old).2).commit t.cur none)))

/-! ### Fences, scoped accesses, line control, non-temporal stores -/

/-- The executing slot takes cause 29 for a word at `a` that a release at scope `sc` cannot write through (R184): what the walks of the
words before it did stays (R173). -/
def Sys2Proof.Claims.releaseFails (s : State) (sc : Scope) (a : Nat) : Host.Outcome State Fault Refusal :=
  Claims.traps (Claims.walks s (((s.releaseWalks (Claims.cc s) sc).takeWhile (· != a)).map fun b => (b, true))) 29 (wordOfNat a)

/-- R65, R183, R184, R187: the fences. A release that cannot write a dirty word through raises cause 29 with its address, and the
walks of the words before it stay (R173);
FENCE is a full fence at dscope whatever its fields; FENCE.I empties the caravan's instruction cache: R65 says only that fetches
from then on see the slot's earlier stores, and that nothing older is left in the cache is the model's choice (log 6). R184, R187, R462:
LDAQ reads at the home and then acquires, STRL releases and then writes at the home, where their scope is wider than the
core (LDAQ in a fused L1: than the caravan); neither splits an access. That STRL checks its alignment before its release, and its
access after it, is the model's choice: R187's pseudocode puts the release first (log 67). R189: WBK writes the dirty words of its line
through and INVL drops the line besides; both leave the core's own store alone and need the R right; PREF never traps.
R190: a non-temporal store passes the checks of a store, writes its L1 line through and drops it, and puts its bytes
into the core's buffer; an entry that has been idle for 256 cycles drains to its home. -/
def Obligations.FencesAndLines : Prop :=
  (∀ (s : State) (rd rs1 : Reg) (imm : BitVec 12) (sc : Scope),
     let c := Claims.cc s
     let ds := scopeOf (wbits (s.slot s.cur).dscope 2 0)
     exec (.fenceAq sc) s = .next ((s.acquire c sc).commit (s.acquire c sc).cur none) ∧
     (∀ t, s.release c sc = .ok t → exec (.fenceRl sc) s = .next (t.commit t.cur none) ∧
       exec (.fenceAr sc) s = .next ((t.acquire (t.cur / 4) sc).commit (t.acquire (t.cur / 4) sc).cur none)) ∧
     (∀ a f, s.release c sc = .error (a, f) → exec (.fenceRl sc) s = Claims.releaseFails s sc a ∧
       exec (.fenceAr sc) s = Claims.releaseFails s sc a) ∧
     exec (.fence rd rs1 imm) s = exec (.fenceAr ds) s ∧
     (∃ t, exec (.fenceI rd rs1 imm) s = .next t ∧ (t.car (s.cur / 32)).ic = [])) ∧
  (∀ (s : State) (rd rs1 rs2 : Reg) (sc : Scope),
     let a := (Claims.xs s rs1).toNat % 2 ^ 56
     let c := Claims.cc s
     (a % 8 ≠ 0 → exec (.ldaq rd rs1 sc) s = Claims.traps s 4 (wordOfNat a) ∧ exec (.strl rs1 rs2 sc) s = Claims.traps s 6 (wordOfNat a)) ∧
     (a % 8 = 0 → sc ≠ .core → (sc = .caravan → (s.car (s.cur / 32)).fused = false) → ∀ bs t, s.readHome c a 8 .load = .ok (bs, t) →
       let w := t.modSlot t.cur fun sl => sl.setX rd.toNat (BitVec.ofNat 64 (natOfBytes bs))
       exec (.ldaq rd rs1 sc) s = .next ((w.acquire (w.cur / 4) sc).commit (w.acquire (w.cur / 4) sc).cur none)) ∧
     (a % 8 = 0 → sc ≠ .core → ∀ u t, s.release c sc = .ok u →
       u.writeHome (u.cur / 4) a (bytesOfNat 8 (Claims.xs s rs2).toNat) .store = .ok t →
       exec (.strl rs1 rs2 sc) s = .next (t.commit t.cur none)) ∧
     (a % 8 = 0 → ∀ b f, s.release c sc = .error (b, f) → exec (.strl rs1 rs2 sc) s = Claims.releaseFails s sc b)) ∧
  (∀ (s : State) (rs1 : Reg),
     let a := (Claims.xs s rs1).toNat % 2 ^ 56
     let c := Claims.cc s
     let line := a / 32 * 32
     (isOwn c a = true → exec (.invl rs1) s = .next (s.commit s.cur none) ∧ exec (.wbk rs1) s = .next (s.commit s.cur none)) ∧
     (isOwn c a = false → (∀ e, (s.core c).plbFind a = some e → wbit e 0 = false) →
       exec (.invl rs1) s = Claims.traps s 5 (wordOfNat a) ∧ exec (.wbk rs1) s = Claims.traps s 5 (wordOfNat a)) ∧
     (isOwn c a = false → ∀ e t, (s.core c).plbFind a = some e → wbit e 0 = true → s.wtRange c line 32 = .ok t →
       exec (.wbk rs1) s = .next (t.commit t.cur none) ∧
       exec (.invl rs1) s = .next ((t.dropRange (t.cur / 4) line 32).commit (t.dropRange (t.cur / 4) line 32).cur none)) ∧
     (∃ t, exec (.pref rs1) s = .next (t.commit t.cur none) ∧ (t = s ∨ t = s.walked a false ∨ ∃ u v tr, s.checkHome c a .load = .ok (tr, u) ∧
       u.l1Room c a = .ok v ∧ t = v.fillL1 c a tr false))) ∧
  (∀ (s : State) (rs1 rs2 : Reg) (core line : Nat),
     let a := (Claims.xs s rs1).toNat % 2 ^ 56
     let c := Claims.cc s
     let bs := bytesOfNat 8 (Claims.xs s rs2).toNat
     (a % 8 ≠ 0 → exec (.stNt rs1 rs2) s = Claims.traps s 6 (wordOfNat a)) ∧
     (a % 8 = 0 → isOwn c a = true → exec (.stNt rs1 rs2) s = .next ((s.putLoc c a bs).commit (s.putLoc c a bs).cur none)) ∧
     (a % 8 = 0 → isOwn c a = false → ∀ u v t,
       (∃ w, s.l1Line c a = some w ∧ s.checkHit c a w .store = .ok () ∧ u = s) ∨
         (s.l1Line c a = none ∧ ∃ tr, s.checkHome c a .store = .ok (tr, u)) →
       u.wtRange c (a / 32 * 32) 32 = .ok v → (v.dropRange c (a / 32 * 32) 32).ntPut c a bs = .ok t →
       exec (.stNt rs1 rs2) s = .next (t.commit t.cur none)) ∧
     (∀ e t, ((s.core core).nt.find? fun e => e.line == line && decide (e.last + 256 ≤ s.coreCycle core)) = some e →
       s.drainNt core e = .ok t → exec (.ntIdleDrain core line) s = .next t))

/-! ### Vector instructions -/

/-- A vector instruction of the executing slot completes (R236, R239): its sources' ports each lose an element, `r` is
written to `vd`, and `fl` is added to vflags. -/
def Sys2Proof.Claims.wrote (s : State) (srcs : List VReg) (vd : VReg) (r : VWord) (fl : Flags) : Host.Outcome State Fault Refusal :=
  Claims.done s fun sl => ((sl.popPorts (srcs.map (·.toNat))).setV vd.toNat r).addFlags fl

/-- A vector instruction of two sources, and perhaps the old destination, that gives every lane `F` of the same lanes (R239):
a bound destination is illegal (R237), and while a bound source port is empty nothing happens (R236). A bound destination whose old value
the instruction uses is illegal also while its queue is empty (the model's choice: log 67). -/
def Sys2Proof.Claims.Lanes (i : Instr) (s : State) (b : Nat) (vd vs1 vs2 : VReg) (F : Nat → Nat → Nat → Nat × Flags) : Prop :=
  let o := s.slot s.cur
  (∀ x y, o.vsrc vs1.toNat = some x → o.vsrc vs2.toNat = some y → o.bound vd.toNat = true → exec i s = Claims.traps s 2 (s.wordOf i)) ∧
  (o.vsrc vs1.toNat = none ∨ o.vsrc vs2.toNat = none → exec i s = .next s) ∧
  (∀ x y, o.vsrc vs1.toNat = some x → o.vsrc vs2.toNat = some y → o.bound vd.toNat = false →
    let lane := fun j => F (laneOf b (o.vr vd.toNat) j) (laneOf b x j) (laneOf b y j)
    ∃ r, exec i s = Claims.wrote s [vs1, vs2] vd r (((List.range (16 / b)).map fun j => (lane j).2).foldl (· ||| ·) 0) ∧
      ∀ j, j < 16 / b → laneOf b r j = (lane j).1 % 2 ^ (8 * b))

/-- R242, R248: lane arithmetic. A floating result is the exact result rounded once in the mode of vctl.rm; an integer
result wraps. That VFMA and VFNMA set NV for 0 x infinity with a quiet NaN addend is the model's choice: R101 does not say which of
its sentences wins (log 67); so is that they are refused for a bound vd whose queue is empty, which is a source too (log 67). -/
def Obligations.VectorArithmetic : Prop :=
  ∀ (s : State) (et : ElemTy) (vd vs1 vs2 : VReg),
    let rm := rmOf (s.slot s.cur).vctl
    let w := 8 * et.bytes
    let sg := sextInt w
    (∀ F, fmtOf et = some F →
      let fl := fun (op : FVal → FVal → FVal × Flags) (x y : Nat) => F.finish (op (F.value x) (F.value y)) rm false
      let fma := fun (neg : Bool) (c x y : Nat) =>
        let p := (F.value x).mul (F.value y)
        let t := FVal.add rm (F.value c) (if neg then p.1.negate else p.1)
        F.finish (t.1, p.2 ||| t.2) rm false
      Claims.Lanes (.vadd et vd vs1 vs2) s et.bytes vd vs1 vs2 (fun _ => fl (FVal.add rm)) ∧
      Claims.Lanes (.vsub et vd vs1 vs2) s et.bytes vd vs1 vs2 (fun _ => fl fun a b => FVal.add rm a b.negate) ∧
      Claims.Lanes (.vmul et vd vs1 vs2) s et.bytes vd vs1 vs2 (fun _ => fl FVal.mul) ∧
      Claims.Lanes (.vdiv et vd vs1 vs2) s et.bytes vd vs1 vs2 (fun _ => fl FVal.div) ∧
      Claims.Lanes (.vmin et vd vs1 vs2) s et.bytes vd vs1 vs2 (fun _ => fl FVal.minNum) ∧
      Claims.Lanes (.vmax et vd vs1 vs2) s et.bytes vd vs1 vs2 (fun _ => fl FVal.maxNum) ∧
      Claims.Lanes (.vfma et vd vs1 vs2) s et.bytes vd vs1 vs2 (fma false) ∧
      Claims.Lanes (.vfnma et vd vs1 vs2) s et.bytes vd vs1 vs2 (fma true)) ∧
    (fmtOf et = none →
      Claims.Lanes (.vadd et vd vs1 vs2) s et.bytes vd vs1 vs2 (fun _ x y => (x + y, 0)) ∧
      Claims.Lanes (.vsub et vd vs1 vs2) s et.bytes vd vs1 vs2 (fun _ x y => (x + 2 ^ w - y, 0)) ∧
      Claims.Lanes (.vmul et vd vs1 vs2) s et.bytes vd vs1 vs2 (fun _ x y => (x * y, 0)) ∧
      Claims.Lanes (.vmin et vd vs1 vs2) s et.bytes vd vs1 vs2 (fun _ x y => (if sg x ≤ sg y then x else y, 0)) ∧
      Claims.Lanes (.vmax et vd vs1 vs2) s et.bytes vd vs1 vs2 (fun _ x y => (if sg y ≤ sg x then x else y, 0)))

/-- R104, R243: comparisons. A lane of the result is all ones where the relation holds and zero elsewhere. A NaN makes a
floating comparison false; VCMPLT and VCMPLE raise NV for any NaN operand, VCMPEQ for a signalling one only. -/
def Obligations.VectorCompares : Prop :=
  ∀ (s : State) (et : ElemTy) (vd vs1 vs2 : VReg),
    let w := 8 * et.bytes
    let sg := sextInt w
    let mask := fun (c : Bool) => if c then 2 ^ w - 1 else 0
    (∀ F, fmtOf et = some F →
      let nan := fun (x y : Nat) => Flags.when ((F.value x).isNan || (F.value y).isNan) .nv
      let sig := fun (x y : Nat) => Flags.when ((F.value x).isSig || (F.value y).isSig) .nv
      (∀ x y, ((F.value x).isNan || (F.value y).isNan) = true → (F.value x).lt (F.value y) = false ∧ (F.value x).eq (F.value y) = false) ∧
      Claims.Lanes (.vcmplt et vd vs1 vs2) s et.bytes vd vs1 vs2 (fun _ x y => (mask ((F.value x).lt (F.value y)), nan x y)) ∧
      Claims.Lanes (.vcmple et vd vs1 vs2) s et.bytes vd vs1 vs2
        (fun _ x y => (mask ((F.value x).lt (F.value y) || (F.value x).eq (F.value y)), nan x y)) ∧
      Claims.Lanes (.vcmpeq et vd vs1 vs2) s et.bytes vd vs1 vs2 (fun _ x y => (mask ((F.value x).eq (F.value y)), sig x y))) ∧
    (fmtOf et = none →
      Claims.Lanes (.vcmplt et vd vs1 vs2) s et.bytes vd vs1 vs2 (fun _ x y => (mask (decide (sg x < sg y)), 0)) ∧
      Claims.Lanes (.vcmple et vd vs1 vs2) s et.bytes vd vs1 vs2 (fun _ x y => (mask (decide (sg x ≤ sg y)), 0)) ∧
      Claims.Lanes (.vcmpeq et vd vs1 vs2) s et.bytes vd vs1 vs2 (fun _ x y => (mask (decide (sg x = sg y)), 0)))

/-- R244, R245: logic and shifts. VAND, VOR and VXOR have one element type, I64, and work on all 128 bits; the shifts have
the integer types, and shift each lane by the low bits of the count's lane, filling with zeros or, VSHRA, with the sign.
No word with another element type is one of the six. No flag is raised. -/
def Obligations.VectorLogicAndShifts : Prop :=
  (∀ (s : State) (vd vs1 vs2 : VReg) (x y : VWord),
    let o := s.slot s.cur
    o.vsrc vs1.toNat = some x → o.vsrc vs2.toNat = some y → o.bound vd.toNat = false →
      exec (.vand vd vs1 vs2) s = Claims.wrote s [vs1, vs2] vd (x &&& y) 0 ∧
      exec (.vor vd vs1 vs2) s = Claims.wrote s [vs1, vs2] vd (x ||| y) 0 ∧
      exec (.vxor vd vs1 vs2) s = Claims.wrote s [vs1, vs2] vd (x ^^^ y) 0) ∧
  (∀ (s : State) (et : ElemTy) (vd vs1 vs2 : VReg), et.isFloat = false →
    let w := 8 * et.bytes
    Claims.Lanes (.vshl et vd vs1 vs2) s et.bytes vd vs1 vs2 (fun _ x y => (x * 2 ^ (y % w), 0)) ∧
    Claims.Lanes (.vshr et vd vs1 vs2) s et.bytes vd vs1 vs2 (fun _ x y => (x / 2 ^ (y % w), 0)) ∧
    Claims.Lanes (.vshra et vd vs1 vs2) s et.bytes vd vs1 vs2 (fun _ x y => ((sextInt w x / 2 ^ (y % w) % 2 ^ w).toNat, 0))) ∧
  ∀ (vop : BitVec 4) (et : BitVec 3) (vd vs1 vs2 : VReg),
    let word := fmtV vop et vs2 vs1 vd 0x2B
    (vop = 8 ∨ vop = 9 ∨ vop = 10 → et ≠ 3 → decodeWord word = none) ∧
    (vop = 11 ∨ vop = 12 ∨ vop = 13 → 3 < et.toNat → decodeWord word = none)

/-- R246, R253: the instructions that select and rearrange lanes, on a destination that is no bound port. R247, R249 to
R252: reductions, special functions and conversions, on registers that are not bound ports. (That VSEL, which keeps lanes of vd, is
refused for a bound vd whose queue is empty is the model's choice: log 67.) -/
def Obligations.VectorMoves : Prop :=
  (∀ (s : State) (et : ElemTy) (vd vs1 vs2 : VReg) (rd xs : Reg) (lane : BitVec 6) (x y : VWord),
     let o := s.slot s.cur
     let b := et.bytes
     o.vsrc vs1.toNat = some x → o.vsrc vs2.toNat = some y → o.bound vd.toNat = false →
       Claims.Lanes (.vsel et vd vs1 vs2) s b vd vs1 vs2 (fun m x y => (if m.testBit (8 * b - 1) then x else y, 0)) ∧
       (∃ r, exec (.vshuf et vd vs1 vs2) s = Claims.wrote s [vs1, vs2] vd r 0 ∧ ∀ j, j < et.lanes →
         laneOf b r j = if laneOf b y j < et.lanes then laneOf b x (laneOf b y j) else 0) ∧
       (∃ r, exec (.vzip et vd vs1 vs2) s = Claims.wrote s [vs1, vs2] vd r 0 ∧ ∀ j, j < et.lanes →
         laneOf b r j = laneOf b (if j % 2 = 0 then x else y) (j / 2)) ∧
       (∃ r, exec (.vunzip et vd vs1 vs2) s = Claims.wrote s [vs1, vs2] vd r 0 ∧ ∀ j, j < et.lanes →
         laneOf b r j = if j < et.lanes / 2 then laneOf b x (2 * j) else laneOf b y (2 * (j - et.lanes / 2))) ∧
       (lane.toNat < et.lanes → ∃ r, exec (.vins et vd xs lane) s = Claims.wrote s [] vd r 0 ∧ ∀ j, j < et.lanes →
         laneOf b r j = if j = lane.toNat then (Claims.xs s xs).toNat % 2 ^ (8 * b) else laneOf b (o.vr vd.toNat) j) ∧
       (∃ r, exec (.vbcast et vd xs) s = Claims.wrote s [] vd r 0 ∧ ∀ j, j < et.lanes →
         laneOf b r j = (Claims.xs s xs).toNat % 2 ^ (8 * b)) ∧
       exec (.vext et rd vs1 lane) s = Claims.done s fun sl => (sl.popPorts [vs1.toNat]).setX rd.toNat
         (if et.isFloat then BitVec.ofNat 64 (laneOf b x lane.toNat) else (BitVec.ofNat (8 * b) (laneOf b x lane.toNat)).signExtend 64)) ∧
  (∀ (s : State) (et dst src : ElemTy) (vd vs1 : VReg) (red : RedKind) (sf : SfKind) (k : Fp8Kind) (w : WideKind) (g : BitVec 3)
       (rm8 : Rm) (ov : Bool) (x : VWord),
     let o := s.slot s.cur
     let rm := rmOf o.vctl
     let or_ := fun (l : List Flags) => l.foldl (· ||| ·) 0
     o.vsrc vs1.toNat = some x → o.bound vd.toNat = false →
       (∃ r, exec (.vred et vd vs1 red) s =
           Claims.wrote s [vs1] vd r (redLane et red rm (lanesOf et.bytes x)).2 ∧
         (0 < et.lanes → laneOf et.bytes r 0 = (redLane et red rm (lanesOf et.bytes x)).1 % 2 ^ (8 * et.bytes)) ∧
         ∀ j, 0 < j → j < et.lanes → laneOf et.bytes r j = 0) ∧
       (fmtOf et = none → red = .sum → (redLane et red rm (lanesOf et.bytes x)).1 = ((lanesOf et.bytes x).sum) % 2 ^ (8 * et.bytes)) ∧
       (∀ F, fmtOf et = some F →
         let lane := fun j => F.finish (sfApply sf (F.value (laneOf et.bytes x j))) rm false
         ∃ r, exec (.vsf et vd vs1 sf) s = Claims.wrote s [vs1] vd r (or_ ((List.range et.lanes).map fun j => (lane j).2)) ∧
           ∀ j, j < et.lanes → laneOf et.bytes r j = (lane j).1 % 2 ^ (8 * et.bytes)) ∧
       (let lane := fun j => convertLane dst src rm8 ov (laneOf src.bytes x j)
        let n := min dst.lanes src.lanes
        ∃ r, exec (.vcvt dst src vd vs1 rm8 ov) s = Claims.wrote s [vs1] vd r (or_ ((List.range n).map fun j => (lane j).2)) ∧
          ∀ j, j < dst.lanes → laneOf dst.bytes r j = if j < n then (lane j).1 % 2 ^ (8 * dst.bytes) else 0) ∧
       (g.toNat < w.groups →
         let n := w.elems
         let lane := fun j => (fp8Fmt k).convert ((wideFmt w).value (laneOf (16 / n) x j)) rm8 ov
         ∃ r, exec (.vcvt8ToFp8 k w vd vs1 g rm8 ov) s = Claims.wrote s [vs1] vd r (or_ ((List.range n).map fun j => (lane j).2)) ∧
           ∀ j, j < 16 → laneOf 1 r j = if n * g.toNat ≤ j ∧ j < n * g.toNat + n then (lane (j - n * g.toNat)).1 % 256
             else laneOf 1 (o.vr vd.toNat) j) ∧
       (g.toNat < w.groups →
         let n := w.elems
         let lane := fun j => (wideFmt w).convert ((fp8Fmt k).value (laneOf 1 x (n * g.toNat + j))) .rne false
         ∃ r, exec (.vcvt8FromFp8 k w vd vs1 g) s = Claims.wrote s [vs1] vd r (or_ ((List.range n).map fun j => (lane j).2)) ∧
           ∀ j, j < n → laneOf (16 / n) r j = (lane j).1 % 2 ^ (128 / n)))

/-- R102, R103: the flags of vflags are sticky: no vector instruction that works on registers clears one, whether it
completes, traps or waits; and such an instruction changes its destination at most, VEXT its x register, VROWST its three registers
and what a read of the accumulators repairs. R236, R237: with a bound port for a destination it is illegal, and while a port that it
reads is empty nothing happens: VINS, VBCAST, VEXT, VCVT8 both ways, VDMASK and VROWST, whose like the statements of the others
say. (That VINS and VCVT8 to FP8, which keep part of vd, are refused for a bound vd whose queue is empty is the model's choice: log 67.) -/
def Obligations.VectorFrame : Prop :=
  (∀ (s t : State) (et dst : ElemTy) (vd vs1 vs2 : VReg) (i : Instr) (red : RedKind) (sf : SfKind) (rm : Rm) (ov : Bool)
      (xs : Reg) (lane : BitVec 6) (k8 : Fp8Kind) (w : WideKind) (g : BitVec 3),
    i ∈ [.vadd et vd vs1 vs2, .vsub et vd vs1 vs2, .vmul et vd vs1 vs2, .vfma et vd vs1 vs2, .vfnma et vd vs1 vs2,
         .vmin et vd vs1 vs2, .vmax et vd vs1 vs2, .vcmple et vd vs1 vs2, .vcmplt et vd vs1 vs2, .vcmpeq et vd vs1 vs2,
         .vand vd vs1 vs2, .vor vd vs1 vs2, .vxor vd vs1 vs2, .vshl et vd vs1 vs2, .vshr et vd vs1 vs2, .vshra et vd vs1 vs2,
         .vsel et vd vs1 vs2, .vshuf et vd vs1 vs2, .vzip et vd vs1 vs2, .vunzip et vd vs1 vs2, .vdiv et vd vs1 vs2,
         .vred et vd vs1 red, .vsf et vd vs1 sf, .vcvt dst et vd vs1 rm ov, .vins et vd xs lane, .vbcast et vd xs,
         .vcvt8ToFp8 k8 w vd vs1 g rm ov, .vcvt8FromFp8 k8 w vd vs1 g, .vdmask vd vs1] →
    exec i s = .next t →
      (t.slot s.cur).vflags &&& (s.slot s.cur).vflags = (s.slot s.cur).vflags ∧
      (∀ n, n ≠ vd.toNat → (t.slot s.cur).vr n = (s.slot s.cur).vr n) ∧
      (t.slot s.cur).x = (s.slot s.cur).x ∧ (∀ k, k ≠ s.cur → t.slot k = s.slot k) ∧ (∀ k, t.byte k = s.byte k) ∧
      t.cores = s.cores) ∧
  (∀ (s t : State) (et : ElemTy) (rd : Reg) (vs1 : VReg) (lane : BitVec 6), exec (.vext et rd vs1 lane) s = .next t →
      (t.slot s.cur).vflags = (s.slot s.cur).vflags ∧ (t.slot s.cur).v = (s.slot s.cur).v ∧
      (∀ n, n ≠ rd.toNat → (t.slot s.cur).xr n = (s.slot s.cur).xr n) ∧
      (∀ k, k ≠ s.cur → t.slot k = s.slot k) ∧ (∀ k, t.byte k = s.byte k) ∧ t.cores = s.cores) ∧
  (∀ (s t : State) (vd : VReg) (acc : BitVec 2) (grp : BitVec 4) (m : RowMode),
      (∀ e ∈ (s.core (Claims.cc s)).errAcc, errBits e.2 ≤ 1) → exec (.vrowst vd acc grp m) s = .next t →
      (t.slot s.cur).vflags &&& (s.slot s.cur).vflags = (s.slot s.cur).vflags ∧
      (∀ n, n ≠ vd.toNat → n ≠ vd.toNat + 1 → n ≠ vd.toNat + 2 → (t.slot s.cur).vr n = (s.slot s.cur).vr n) ∧
      (t.slot s.cur).x = (s.slot s.cur).x ∧ (∀ k, k ≠ s.cur → t.slot k = s.slot k) ∧ (∀ k, t.byte k = s.byte k) ∧
      (∀ c, c ≠ Claims.cc s → t.core c = s.core c) ∧
      (let k := s.core (Claims.cc s); let n := t.core (Claims.cc s)
       n = { k with acc := n.acc, errAcc := n.errAcc, corrected := n.corrected }) ∧
      ((s.core (Claims.cc s)).errAcc = [] → t.cores = s.cores)) ∧
  (∀ (s : State) (et : ElemTy) (vd vs1 : VReg) (i : Instr) (xs rd : Reg) (lane : BitVec 6) (k8 : Fp8Kind) (w : WideKind) (g : BitVec 3)
      (rm : Rm) (ov : Bool) (acc : BitVec 2) (grp : BitVec 4) (m : RowMode),
    let o := s.slot s.cur
    (i ∈ [.vins et vd xs lane, .vbcast et vd xs] → o.bound vd.toNat = true → exec i s = Claims.traps s 2 (s.wordOf i)) ∧
    (i ∈ [.vcvt8ToFp8 k8 w vd vs1 g rm ov, .vcvt8FromFp8 k8 w vd vs1 g, .vdmask vd vs1] →
      (o.vsrc vs1.toNat = none → exec i s = .next s) ∧
      ((o.vsrc vs1.toNat).isSome = true → o.bound vd.toNat = true → exec i s = Claims.traps s 2 (s.wordOf i))) ∧
    (o.vsrc vs1.toNat = none → exec (.vext et rd vs1 lane) s = .next s) ∧
    (o.bound vd.toNat = true ∨ o.bound (vd.toNat + 1) = true ∨ o.bound (vd.toNat + 2) = true →
      exec (.vrowst vd acc grp m) s = Claims.traps s 2 (s.wordOf (.vrowst vd acc grp m))))

/-- R93, R95, R192, R193, R237: vector memory instructions. A pointer whose tag is reserved or not accepted is cause 24 with the
pointer, before anything else, a bound destination cause 2; an address that is not aligned is cause 4 or 6; else 16 bytes, or eight
FP32 elements converted to BF16, or one element for every lane, are moved. That a bound destination is found before an address that is
not aligned is the model's choice (log 67). -/
def Obligations.VectorMemory : Prop :=
  ∀ (s : State) (vd : VReg) (rs1 : Reg) (imm : BitVec 6),
    let o := s.slot s.cur
    let p := Claims.xs s rs1
    let c := Claims.cc s
    let code := wbits p 63 59
    let good := tagOk code (wbits p 58 56)
    let a := (p + (imm.signExtend 64 <<< 4)).toNat % 2 ^ 56
    let conv := fun (x : Nat) => Fmt.bf16.convert (Fmt.fp32.value x) (rmOf o.vctl) false
    let n := vldbBytes code
    (good = false ∨ code = 14 → exec (.vld vd rs1 imm) s = Claims.traps s 24 p ∧ exec (.vldRo vd rs1 imm) s = Claims.traps s 24 p) ∧
    (good = false ∨ n = 0 → exec (.vldb vd rs1 imm) s = Claims.traps s 24 p) ∧
    (good = true → o.bound vd.toNat = true →
      (code ≠ 14 → exec (.vld vd rs1 imm) s = Claims.traps s 2 (s.wordOf (.vld vd rs1 imm)) ∧
        exec (.vldRo vd rs1 imm) s = Claims.traps s 2 (s.wordOf (.vldRo vd rs1 imm))) ∧
      (n ≠ 0 → exec (.vldb vd rs1 imm) s = Claims.traps s 2 (s.wordOf (.vldb vd rs1 imm)))) ∧
    (good = true → o.bound vd.toNat = false → ∀ i ro, (i, ro) = (.vld vd rs1 imm, false) ∨ (i, ro) = (.vldRo vd rs1 imm, true) →
      (code < 14 →
        (a % 16 ≠ 0 → exec i s = Claims.traps s 4 (wordOfNat a)) ∧
        (a % 16 = 0 → ∀ bs t, s.load c a 16 ro = .ok (bs, t) →
          exec i s = Claims.done t fun sl => sl.setV vd.toNat (BitVec.ofNat 128 (natOfBytes bs)))) ∧
      (code = 15 →
        (a % 32 ≠ 0 → exec i s = Claims.traps s 4 (wordOfNat a)) ∧
        (a % 32 = 0 → ∀ bs t, s.load c a 32 ro = .ok (bs, t) →
          let e := fun (j : Nat) => conv (natOfBytes ((bs.drop (4 * j)).take 4))
          ∃ r, exec i s = Claims.done t (fun sl => (sl.setV vd.toNat r).addFlags (((List.range 8).map fun j => (e j).2).foldl (· ||| ·) 0)) ∧
            ∀ j, j < 8 → laneOf 2 r j = (e j).1 % 2 ^ 16))) ∧
    (good = true → o.bound vd.toNat = false → n ≠ 0 →
      (a % n ≠ 0 → exec (.vldb vd rs1 imm) s = Claims.traps s 4 (wordOfNat a)) ∧
      (a % n = 0 → ∀ bs t, s.load c a n false = .ok (bs, t) →
        (code ≠ 15 → ∃ r, exec (.vldb vd rs1 imm) s = Claims.done t (fun sl => (sl.setV vd.toNat r).addFlags 0) ∧
          ∀ j, j < 16 / n → laneOf n r j = natOfBytes bs % 2 ^ (8 * n)) ∧
        (code = 15 → ∃ r, exec (.vldb vd rs1 imm) s = Claims.done t (fun sl => (sl.setV vd.toNat r).addFlags (conv (natOfBytes bs)).2) ∧
          ∀ j, j < 8 → laneOf 2 r j = (conv (natOfBytes bs)).1 % 2 ^ 16))) ∧
    (∀ d, o.vsrc vd.toNat = some d → good = true → code ≤ 13 →
      (a % 16 ≠ 0 → exec (.vst vd rs1 imm) s = Claims.traps s 6 (wordOfNat a) ∧
        exec (.vstNt vd rs1 imm) s = Claims.traps s 6 (wordOfNat a)) ∧
      (a % 16 = 0 → ∀ t, s.store c a (bytesOfNat 16 d.toNat) = .ok t →
        exec (.vst vd rs1 imm) s = Claims.done t fun sl => sl.popPorts [vd.toNat]) ∧
      (a % 16 = 0 → isOwn c a = true →
        exec (.vstNt vd rs1 imm) s = Claims.done (s.putLoc c a (bytesOfNat 16 d.toNat)) fun sl => sl.popPorts [vd.toNat]) ∧
      (a % 16 = 0 → isOwn c a = false → ∀ u v t,
        (∃ w, s.l1Line c a = some w ∧ s.checkHit c a w .store = .ok () ∧ u = s) ∨
          (s.l1Line c a = none ∧ ∃ tr, s.checkHome c a .store = .ok (tr, u)) →
        u.wtRange c (a / 32 * 32) 32 = .ok v → (v.dropRange c (a / 32 * 32) 32).ntPut c a (bytesOfNat 16 d.toNat) = .ok t →
        exec (.vstNt vd rs1 imm) s = Claims.done t fun sl => sl.popPorts [vd.toNat])) ∧
    (∀ d, o.vsrc vd.toNat = some d → good = false ∨ 13 < code →
      exec (.vst vd rs1 imm) s = Claims.traps s 24 p ∧ exec (.vstNt vd rs1 imm) s = Claims.traps s 24 p)

/-! ### Fat pointers, repetition, the iteration fetcher -/

/-- R123, R125: fat-pointer arithmetic wraps modulo 2^56 and leaves the tag byte; PTAG sets it; PGET and PBASE take the
pointer apart. -/
def Obligations.FatPointers : Prop :=
  ∀ (s : State) (rd rs1 rs2 : Reg) (imm : BitVec 12) (tag : BitVec 8),
    let p := Claims.xs s rs1
    let y := Claims.xs s rs2
    let top : Word := p &&& 0xFF00000000000000
    let low : Word := 0x00FFFFFFFFFFFFFF
    exec (.padd rd rs1 rs2) s = Claims.result s rd (top ||| ((p + y) &&& low)) ∧
    exec (.paddi rd rs1 imm) s = Claims.result s rd (top ||| ((p + imm.signExtend 64) &&& low)) ∧
    exec (.ptag rd rs1 rs2) s = Claims.result s rd ((y <<< 56) ||| (p &&& low)) ∧
    exec (.ptagi rd rs1 tag) s = Claims.result s rd ((tag.setWidth 64 <<< 56) ||| (p &&& low)) ∧
    exec (.pget rd rs1) s = Claims.result s rd (p >>> 56) ∧
    exec (.pbase rd rs1) s = Claims.result s rd (p &&& low)

/-- R126, R127, R131, R133: a repeat prefix whose next word may be repeated. Its count is its operand's, from iteration 0,
or, where it is the first instruction after a return and repst.v is 1, what repst holds. A count over 4,095 is cause 25
with stval 1; a selected register field that would pass its limit is cause 25 with stval 2; with no iteration left it
goes to p + 8; else the repetition begins. `t` is the state in which the next word has been fetched. R80: a prefix
before a word that may not be repeated, or without a selected field, is illegal, and so is one before any SYSTEM word or
custom-3 word of f3 110; before another word that is no instruction it takes that word's trap. -/
def Obligations.RepeatPrefixes : Prop :=
  (∀ (s t : State) (i : Instr) (n : Nat) (stride : BitVec 2) (fields : BitVec 3) (w : BitVec 32) (j : Instr),
     (i = .repi (BitVec.ofNat 12 n) stride fields ∧ n < 4096) ∨ (∃ rs1 : Reg, i = .rep rs1 stride fields ∧ (Claims.xs s rs1).toNat = n) →
     let o := s.slot s.cur
     let sel := (fieldsOf w).selected fields
     let resume := o.fresh && wbit o.repst 63
     let count := if resume then wbits o.repst 23 12 else n
     let first := if resume then wbits o.repst 11 0 else 0
     let past := sel.any fun f => match f with
       | some f => decide (f.limit < f.num w + stride.toNat * (count - 1))
       | none => false
     s.fetchFor s.cur (o.pc + 4) = .ok (w, t) → decodeWord w = some j → j.wf = true → noRepeat w = false →
     sel.any Option.isNone = false →
       (4095 < count → exec i s = Claims.traps s 25 1) ∧
       (count ≤ 4095 → 0 < count → past = true → exec i s = Claims.traps s 25 2) ∧
       (count ≤ 4095 → past = false → first < count → exec i s = .next ((t.modSlot t.cur fun sl =>
         { sl with repst := setBits sl.repst 63 63 0, fresh := false, instret := sl.instret + 1,
                   rep := some { count, iter := first, stride := stride.toNat, fields } }).bump t.cur)) ∧
       (count ≤ 4095 → (count = 0 ∨ past = false) → count ≤ first → exec i s = .next (((t.modSlot t.cur fun sl =>
         { sl with repst := setBits sl.repst 63 63 0, fresh := false, instret := sl.instret + 1, pc := sl.pc + 8 }).bump t.cur).bump t.cur))) ∧
  (∀ (s t : State) (i : Instr) (n : BitVec 12) (rs1 : Reg) (stride : BitVec 2) (fields : BitVec 3) (w : BitVec 32),
     i = .repi n stride fields ∨ i = .rep rs1 stride fields → s.fetchFor s.cur ((s.slot s.cur).pc + 4) = .ok (w, t) →
       (systemWord w = true → exec i s = .next (Stop.apply (.trap 2 (t.wordOf i)) s)) ∧
       (systemWord w = false → (decodeWord w).any Instr.wf = false → exec i s =
         .next (Stop.apply (.trapAt ((s.slot s.cur).pc + 4) 2 (w.setWidth 64)) s)) ∧
       (systemWord w = false → (decodeWord w).any Instr.wf = true →
         (noRepeat w || ((fieldsOf w).selected fields).any Option.isNone) = true →
         exec i s = .next (Stop.apply (.trap 2 (t.wordOf i)) s)))

/-- R134, R136 to R139: the iteration fetcher. NEST.SET loads a descriptor of 32 bytes; NEST.STAT reads 0 with none loaded;
NEST.NEXT hands out the next local iteration's four indices (with no descriptor loaded, free values: log 12), and with
nothing left and no descriptor it branches. That nestst.next wraps where it would pass its 31 bits is the model's choice (log 76). R139: a claim of the shared counter takes at least Cmin iterations, at most
what is left, and all that are left when no participant would get more: it never hands out an iteration past the total. -/
def Obligations.IterationFetcher : Prop :=
  (∀ (s : State) (rd rs1 : Reg) (off : BitVec 17),
     let o := s.slot s.cur
     let a := (Claims.xs s rs1).toNat % 2 ^ 56
     let rem := wbits o.nestst 62 32
     let nxt := wbits o.nestst 30 0
     let d := o.nestDesc
     let tgt := o.at_ + (off.signExtend 64 <<< 2)
     let t3 := nestTrip d 3
     let t2 := nestTrip d 2
     let t1 := nestTrip d 1
     let give := fun (left at_ : Nat) (sl : Slot) =>
       { ((((sl.setX rd.toNat (wordOfNat (at_ / (t1 * t2 * t3)))).setX (rd.toNat + 1) (wordOfNat (at_ / (t2 * t3) % t1))).setX
           (rd.toNat + 2) (wordOfNat (at_ / t3 % t2))).setX (rd.toNat + 3) (wordOfNat (at_ % t3)))
         with nestst := wordOfNat ((left - 1) % 2 ^ 31 * 2 ^ 32 + 2 ^ 31 + (at_ + 1) % 2 ^ 31) }
     (a % 32 ≠ 0 → exec (.nestSet rs1) s = Claims.traps s 4 (wordOfNat a)) ∧
     (a % 32 = 0 → ∀ bs t, s.load (Claims.cc s) a 32 false = .ok (bs, t) →
       (∀ c, nestFault (BitVec.ofNat 256 (natOfBytes bs)) = some c → exec (.nestSet rs1) s = Claims.trapsRead s s a 32 25 (wordOfNat c)) ∧
       (nestFault (BitVec.ofNat 256 (natOfBytes bs)) = none → exec (.nestSet rs1) s = Claims.done t fun sl =>
         { sl with nestDesc := BitVec.ofNat 256 (natOfBytes bs), nestst := 0x80000000 })) ∧
     (wbit o.nestst 31 = false → exec (.nestStat rd) s = Claims.result s rd 0) ∧
     (wbit o.nestst 31 = true → nestCtr d % 8 = 0 → ∀ bs t, s.readHome (Claims.cc s) (nestCtr d) 8 .load = .ok (bs, t) →
       exec (.nestStat rd) s = Claims.result t rd (wordOfNat (nestTotal d * 2 ^ 32 + min (natOfBytes bs) (nestTotal d)))) ∧
     (rem ≠ 0 → wbit o.nestst 31 = true → exec (.nestNext rd off) s = Claims.done s (give rem nxt)) ∧
     (rem ≠ 0 → wbit o.nestst 31 = false → ∃ t, exec (.nestNext rd off) s = .next t ∧
       (t.slot s.cur).nestst = wordOfNat ((rem - 1) % 2 ^ 31 * 2 ^ 32 + (nxt + 1) % 2 ^ 31)) ∧
     (rem = 0 → wbit o.nestst 31 = true → s.earlierMember s.cur claimAddr = false → nestCtr d % 8 = 0 → ∀ n t,
       s.rmw (Claims.cc s) (nestCtr d) 8 .amo (fun n => if nestTotal d ≤ n then none else some (n + nestChunk d n)) = .ok (n, t) →
       (nestChunk d n ≠ 0 → t.slot t.cur = o → exec (.nestNext rd off) s = Claims.done t (give (nestChunk d n) n)) ∧
       (nestChunk d n = 0 → tgt.toNat % 4 = 0 → exec (.nestNext rd off) s = .next (t.commit t.cur (some tgt)))) ∧
     (rem = 0 → wbit o.nestst 31 = false → tgt.toNat % 4 = 0 → exec (.nestNext rd off) s = .next (s.commit s.cur (some tgt)))) ∧
  (∀ (d : BitVec 256) (c : Nat), nestFault d = none →
     (nestTotal d ≤ c → nestChunk d c = 0) ∧
     (c < nestTotal d → 0 < nestChunk d c ∧ c + nestChunk d c ≤ nestTotal d ∧
       min (nestCmin d) (nestTotal d - c) ≤ nestChunk d c ∧ nestTotal d - c ≤ nestP d * nestChunk d c))

/-! ### Convoys -/

/-- R157 to R160: JOIN and JOIN.T. An attached slot, and one that is not in U-mode, takes cause 26 with stval 1. Else the
caravan's waiting slots are served first (`u`); then the slot attaches to the convoy whose next PC is the target, or
opens one in a free lane; where neither can be, JOIN waits and JOIN.T sets cvst.jt and goes on. R155, R161 to R163: LEAVE
makes a member a stray and is a no-op for a stray; CVSYNC is issued, and a member waits at it, and does not issue, until every
current member has issued it too: the next cycle begins with letting those go on, together, and with the lane's delivery of the
instruction after it, and the lanes that a last member left in the cycle before are free. CVSTAT reads the convoy as the cycle found it:
its members, the depth 32, the drift, the member's index, the lane; for a stray the depth alone. (That the CVSTAT counts there as what its
member issues next is log 80; that the releases are made as the next step begins is log 3.) -/
def Obligations.JoinAndLeave : Prop :=
  (∀ (s : State) (off : BitVec 17) (i : Instr) (test : Bool),
     (i, test) = (.join off, false) ∨ (i, test) = (.joinT off, true) →
     let k := s.cur
     let car := k / 32
     let o := s.slot k
     let tgt := (o.at_ + (off.signExtend 64 <<< 2)).toNat
     let u := s.serveJoins car
     let joined := fun (t : State) => t.modSlot k fun sl =>
       { sl with pc := wordOfNat tgt, instret := sl.instret + 1, wait := .none, jt := false }
     let lower := (u.joiners car).any fun e => decide (e.2 < tgt)
     ((s.laneOf k).isSome = true ∨ o.priv ≠ .u → exec i s = Claims.traps s 26 1) ∧
     (s.laneOf k = none → o.priv = .u → ∀ n l q, u.convoyAt car tgt = some (n, l, q) → exec i s = .next (joined (u.attach k n l q))) ∧
     (s.laneOf k = none → o.priv = .u → u.convoyAt car tgt = none → ∀ n, u.freeLane car = some n → lower = false →
       exec i s = .next (joined (u.attach k n (u.newLane car tgt) 0))) ∧
     (s.laneOf k = none → o.priv = .u → u.convoyAt car tgt = none → u.freeLane car = none ∨ lower = true →
       exec i s = (if test then Claims.done u (fun sl => { sl with jt := true })
         else .next (u.modSlot k fun sl => { sl with run := .joinWait tgt })))) ∧
  (∀ (s : State) (rd : Reg),
     let t := s.commit s.cur none
     (t.laneOf t.cur = none → exec .leave s = .next t) ∧
     ((t.laneOf t.cur).isSome = true → exec .leave s = .next ((t.leave t.cur).modSlot t.cur fun sl => { sl with run := .stray })) ∧
     (t.laneOf t.cur = none → exec .cvsync s = .next t) ∧
     (∀ n l m, t.laneOf t.cur = some (n, l, m) → (s.slot s.cur).rep = none →
       exec .cvsync s = .next (t.modMember t.cur fun x => { x with sync := some 0 })) ∧
     (∀ k, s.syncHeld k = true → s.canIssue k = false) ∧
     (∀ car n l, sfind (s.car car).lanes n = some l →
       let l' := l.settle
       sfind (s.settleLanes.car car).lanes n = some l' ∧
       l'.members = l.members.map (fun x =>
         if x.sync.isSome && l.members.all (fun y => decide (x.seq < y.seq ∨ (x.seq = y.seq ∧ x.iter ≤ y.iter)))
         then { x with sync := none, go := true } else x) ∧
       (∀ q, l.sync = some q → (∀ m ∈ l.members, q < m.seq) → l'.sync = none ∧
         ∀ d, sfind l.stream q = some d → l'.nextPc = some ((d.pc + 4) % 2 ^ 64)) ∧
       ((∀ q, l.sync = some q → ∃ m ∈ l.members, m.seq ≤ q) → l'.sync = l.sync ∧ l'.nextPc = l.nextPc)) ∧
     s.settleLanes.freed = [] ∧ (∀ car n, s.freeLane car = some n → (car, n) ∉ s.freed) ∧
     let b := { s with cars := s.before.getD s.cars }
     (b.laneOf s.cur = none → exec (.cvstat rd) s = Claims.result s rd 0x80000000) ∧
     (∀ n l m, b.laneOf s.cur = some (n, l, m) → ∃ v, exec (.cvstat rd) s = Claims.result s rd v ∧
       let ids := l.members.foldl (fun a x => a + 2 ^ x.index) 0
       (n < 4 → m.index < 32 → ids < 2 ^ 32 → (∀ x ∈ l.members, l.maxSeq ≤ x.seq + 32) →
         wbit v 0 = true ∧ wbits v 12 1 = 0 ∧ wbits v 14 13 = n ∧ wbits v 19 15 = m.index ∧ wbits v 31 26 = 32 ∧ wbits v 63 32 = ids ∧
         wbits v 25 20 = l.maxSeq - l.members.foldl (fun a x => min a x.seq) l.maxSeq)))

/-- R147, R149, R150, R159: what a lane does by itself. The gathering window ends after 16 cycles of its die. When every member
concerned has issued its transfer, the lane goes on at the lowest next PC among them, and a member with another one is a
stray. A waiting JOIN, on which no second mismatch strikes (R420), opens a convoy at its target once a lane is free. (That a newcomer of the gathering window has no part in the choice is log 80.) -/
def Obligations.ConvoyEvents : Prop :=
  ∀ (s : State) (car lane : Nat) (l : Lane),
    (sfind (s.car car).lanes lane = some l → l.opened + 16 ≤ s.coreCycle (8 * car) → exec (.convoyGatherEnd car lane) s =
      .next (s.modCar car fun c => { c with lanes := sset c.lanes lane { l with gather := false } })) ∧
    (∀ q dn, sfind (s.car car).lanes lane = some l → l.resolved = some (q, dn) →
      ∃ t low l', exec (.laneResolve car lane) s = .next t ∧ (∃ m ∈ dn, (s.slot m.slot).pc.toNat = low) ∧
        (∀ m ∈ dn, let ids := (l.pending.map (·.concerned)).getD []
          m.id ∈ ids ∨ (∀ x ∈ dn, x.id ∉ ids) → low ≤ (s.slot m.slot).pc.toNat) ∧
        (∀ m ∈ dn, (s.slot m.slot).pc.toNat ≠ low → (t.slot m.slot).run = .stray) ∧
        sfind (t.car car).lanes lane = some l' ∧ l'.nextPc = some low ∧ l'.pending = none ∧
        ∀ m ∈ l.members, (m ∈ l'.members ↔ ¬ (m ∈ dn ∧ (s.slot m.slot).pc.toNat ≠ low))) ∧
    (∀ k tgt n, s.joiners car = [(k, tgt)] → (s.slot k).mismatch ≠ 2 → s.convoyAt car tgt = none → s.freeLane car = some n →
      ∃ t, exec (.joinWaitAttach car) s = .next t ∧ (t.slot k).run = .attached n ∧ (t.slot k).pc = wordOfNat tgt)

/-! ### Firings, messages, launches -/

/-- R209 to R213: HBIND binds a queue to a valid record, QCTL enables queues, QSTAT reads one; an id over 7, a reserved bit
and a malformed record are cause 27 with the code of R210. That HBIND looks at the id before it looks at the record's alignment is
the model's choice (log 67). R203, R204, R219: SEND and SEND.C put a message of the eight
words of a register group into the slot's buffer, not yet released; a destination that their rules refuse is cause 27
with stval 5, a full buffer of unreleased messages with stval 4. No register of the group is a bound port. R197, R221:
SEAL and DONE make a package-scope release and release every buffered message; SEAL marks the firing sealed and goes on,
DONE ends the firing and leaves the slot idle. -/
def Obligations.QueuesAndMessages : Prop :=
  (∀ (s : State) (rd rs1 rs2 : Reg),
     let p := Claims.xs s rs1
     let y := Claims.xs s rs2
     let c := Claims.cc s
     let a := y.toNat % 2 ^ 56
     (7 < p.toNat → exec (.hbind rs1 rs2) s = Claims.traps s 27 1 ∧ exec (.qstat rd rs1) s = Claims.traps s 27 1) ∧
     (p.toNat ≤ 7 → a % 32 ≠ 0 → exec (.hbind rs1 rs2) s = Claims.traps s 4 (wordOfNat a)) ∧
     (p.toNat ≤ 7 → a % 32 = 0 → ∀ bs t, s.load c a 32 false = .ok (bs, t) →
       (∀ code, bindRecord bs = .error code → exec (.hbind rs1 rs2) s = Claims.trapsRead s s a 32 27 (wordOfNat code)) ∧
       (∀ r, bindRecord bs = .ok r →
         let u := t.modCore (t.cur / 4) fun k => { k with qattr := sset k.qattr p.toNat r }
         exec (.hbind rs1 rs2) s = .next (u.commit u.cur none))) ∧
     (p.toNat ≤ 7 → exec (.qstat rd rs1) s = Claims.result s rd (s.qstat c p.toNat)) ∧
     (wbits p 63 8 ≠ 0 ∨ wbits y 63 1 ≠ 0 → exec (.qctl rs1 rs2) s = Claims.traps s 27 2) ∧
     (wbits p 63 8 = 0 → wbits y 63 1 = 0 → ∃ qa,
       exec (.qctl rs1 rs2) s = .next ((s.modCore c fun k => { k with qattr := qa }).commit s.cur none) ∧
       ∀ q, q < 8 → sget .unbound qa q =
         if wbit p q then { sget .unbound (s.core c).qattr q with en := wbit y 0 } else sget .unbound (s.core c).qattr q)) ∧
  (∀ (s : State) (rs1 cap : Reg) (g : BitVec 4),
     let o := s.slot s.cur
     let d := Claims.xs s rs1
     let reg := fun (j : Nat) => o.vr (4 * g.toNat + j)
     let word := fun (j : Nat) => (reg (j / 2)).extractLsb' (64 * (j % 2)) 64
     let msg : Msg := { words := (List.range 8).map word, stage := o.stage, src := s.cur, fid := wbits o.firing 63 32,
                        ctx := s.ctxOf s.cur, launch := none, replay := false }
     let flight := fun (c : Option Word) => ({ dest := d, msg, cap := c, ccont := o.ccont, ticket := o.rticket, bwin := o.bwin,
                                               released := false, event := false, target := destCore d } : Flight)
     (destOk d false = false → exec (.send rs1 g) s = Claims.traps s 27 5) ∧
     (destOk d true = false → exec (.sendC rs1 g cap) s = Claims.traps s 27 5) ∧
     ((∀ j, j < 4 → o.bound (4 * g.toNat + j) = false) →
       (destOk d false = true → o.buf.length < 64 →
         exec (.send rs1 g) s = Claims.done s fun sl => { sl with buf := sl.buf ++ [flight none] }) ∧
       (destOk d true = true → o.buf.length < 64 →
         exec (.sendC rs1 g cap) s = Claims.done s fun sl =>
           { sl with buf := sl.buf ++ [flight (some (Claims.xs s cap))], rticket := sl.rticket + 1 }) ∧
       (destOk d false = true → 64 ≤ o.buf.length → (∀ f ∈ o.buf, f.released = false) → exec (.send rs1 g) s = Claims.traps s 27 4))) ∧
  (∀ s t : State, s.release (Claims.cc s) .package = .ok t →
     let rel := fun (sl : Slot) => { sl with buf := sl.buf.map fun f => { f with released := true } }
     exec .sealF s = .next (((t.modSlot t.cur rel).modSlot t.cur fun sl => { sl with firing := setBits sl.firing 4 4 1 }).commit t.cur none) ∧
     ∃ u, exec .done s = .next u ∧ (u.slot t.cur).run = .idle ∧ (u.slot t.cur).trig = [] ∧ (u.slot t.cur).rep = none ∧
       (u.slot t.cur).buf = (t.slot t.cur).buf.map fun f => { f with released := true })

/-- R206 to R208, R219: the way of a message. A released message leaves its sender's interface; it is refused for a handler
outside its queue's range, waits in its inbox queue, or in the spill area when 16 are there or its context is not
resident, and a spilled one returns. Where the spill area, in pages of 1,024 messages, can get no frame it waits on its way, and R403
counts from when it began to; the wait is over once no message needs room there that it does not have: these pages, and when a wait
begins and ends, are the model's choice (log 77), and so is what becomes of a message that is away (log 70). R205: a stage-relative
message goes to the core at the sender's offset from the origin of its own stage, added to the origin of the target
stage: the map of a stage onto itself, with stage offset 0, is the identity for a core inside it. -/
def Obligations.MessageEvents : Prop :=
  (∀ (s : State) (slot k core q : Nat) (f : Flight) (rest : List Flight) (m : Msg) (ms : List Msg),
     ((s.slot slot).buf = f :: rest → f.released = true → s.toSeq = [] → s.remoteFull f = false →
       exec (.messageDepart slot) s = .next ((s.modSlot slot fun sl => { sl with buf := rest }).emit (slot / 4) f)) ∧
     (s.departFault f.dest = none → destMode f.dest = 0 → s.isLocal f.dest = true → s.emit core f = { s with toDest := s.toDest ++ [f] }) ∧
     (s.toDest[k]? = some f → destMode f.dest ≠ 2 → s.behind k f = false → (s.ctx f.msg.ctx).caravans.contains (f.target / 8) = true →
       let x := f.msg.ctx
       let here := s.present x f.target
       let s' := { s with toDest := s.toDest.eraseIdx k }
       let qd := destQueue f.dest
       let a := (s.coreAs x f.target).queueAttr qd
       let h := (f.msg.words.getD 0 0).toNat % 2 ^ 56
       let room := decide (s.spilled x f.target < 1024 * sget 0 (s.ctx x).pages f.target)
       (a.bound = true → a.lo ≤ h → h < a.hi → here = true → (s.core f.target).fenced = false →
         sget [] (s.core f.target).spill qd = [] → (sget [] (s.core f.target).inbox qd).length < 16 →
         exec (.messageArrive k) s = .next ((s'.modCore f.target fun c =>
           { c with inbox := sset c.inbox qd (sget [] c.inbox qd ++ [f.msg]) }).arrived x f.target)) ∧
       (a.bound = true → a.lo ≤ h → h < a.hi → here = true → 16 ≤ (sget [] (s.core f.target).inbox qd).length → room = true →
         exec (.messageArrive k) s = .next ((s'.modCore f.target fun c =>
           { c with spill := sset c.spill qd (sget [] c.spill qd ++ [f.msg]) }).arrived x f.target)) ∧
       (a.bound = true → a.lo ≤ h → h < a.hi → here = true → 16 ≤ (sget [] (s.core f.target).inbox qd).length → room = false →
         (s.takeFrame x none).1 = true →
         let g := (s.takeFrame x none).2.modCtx x fun c => { c with pages := sset c.pages f.target (sget 0 c.pages f.target + 1) }
         exec (.messageArrive k) s = .next (({ g with toDest := s.toDest.eraseIdx k }.modCore f.target fun c =>
           { c with spill := sset c.spill qd (sget [] c.spill qd ++ [f.msg]) }).arrived x f.target)) ∧
       (a.bound = true → a.lo ≤ h → h < a.hi → here = false → room = true →
         exec (.messageArrive k) s = .next ((s'.modCtx x fun c =>
           { c with away := sset c.away (8 * f.target + qd) (sget [] c.away (8 * f.target + qd) ++ [f.msg]) }).arrived x f.target)) ∧
       (a.bound = true → a.lo ≤ h → h < a.hi → (here = false ∨ 16 ≤ (sget [] (s.core f.target).inbox qd).length) →
         room = false → (s.takeFrame x none).1 = false → ∃ t, exec (.messageArrive k) s = .next t ∧
           t.toDest = s.toDest ∧ t.cores = s.cores ∧ (t.ctx x).away = (s.ctx x).away ∧
           sfind (t.ctx x).spillWait f.target = some ((sfind (s.ctx x).spillWait f.target).getD s.now)) ∧
       (a.bound = true → (h < a.lo ∨ a.hi ≤ h) → exec (.messageArrive k) s =
         .next (((s'.refuse f { kind := 0, pos := f.target } 3 0).unfuseAt f).arrived x f.target)) ∧
       (a.bound = false → exec (.messageArrive k) s =
         .next (((s'.refuse f { kind := 0, pos := f.target } 2 0).unfuseAt f).arrived x f.target))) ∧
     (∀ (t : State) (x c : Nat), t.endSpillWait x c = { t with ctxs := (t.endSpillWait x c).ctxs } ∧
       sfind ((t.endSpillWait x c).ctx x).spillWait c = none ∧
       t.arrived x c = if decide (1024 * sget 0 (t.ctx x).pages c ≤ t.spilled x c) && t.mustSpill x c then t else t.endSpillWait x c) ∧
     (sget [] (s.core core).spill q = m :: ms → (s.core core).fenced = false → (sget [] (s.core core).inbox q).length < 16 →
       exec (.spillReturn core q) s = .next (s.modCore core fun c =>
         { c with spill := sset c.spill q ms, inbox := sset c.inbox q (sget [] c.inbox q ++ [m]) })) ∧
     (s.toSeq[k]? = some f →
       let s' := { s with toSeq := s.toSeq.eraseIdx k }
       (∀ c, s.resolveStage f = some c → exec (.stageResolve k) s = .next { s' with toDest := s'.toDest ++ [{ f with target := c }] }) ∧
       (s.resolveStage f = none → ∃ w7, exec (.stageResolve k) s = .next (s'.refuse f { kind := 3, pos := 0 } 5 w7)))) ∧
  (∀ (s : State) (f : Flight) (p : Placement),
     let c := coreOf f.msg.src
     sfind (s.ctx f.msg.ctx).stageMap f.msg.stage.toNat = some p → destDs f.dest = 0 → c < 8192 →
     p.dies.testBit (dieOf c) = true → p.ty0 ≤ c / 128 % 16 → c / 128 % 16 ≤ p.ty0 + p.h → p.tx0 ≤ c / 8 % 16 → c / 8 % 16 ≤ p.tx0 + p.w →
     p.cores.testBit (c % 8) = true → s.resolveStage f = some c)

/-- R203, R214 to R216: the start of a firing. The chosen queue's oldest messages are consumed, and the core makes a package-scope acquire
(R197). The slot starts in U-mode at the low 56 bits of word 0 of the first message, as a member of a convoy or a stray; the v registers
hold the messages, message j in group j, and the other v registers and every x register 0; the registers that R215 names are cleared,
dscope names the package, the stage is the first message's; CSR firing shows the id, the queue, whether this is a replay, and the count.
Every other register and CSR stays. No second mismatch strikes a JOIN that waits in the caravan and that the placement lets retire
(R159, R420). -/
def Obligations.FiringStart : Prop :=
  ∀ (s : State) (core q k : Nat) (m : Msg) (ms : List Msg),
    let c := s.core core
    let a := c.queueAttr q
    c.fenced = false → c.ctx.isSome = true → s.stopped core = false →
    (∀ j, j / 32 = core / 8 → (s.slot j).mismatch ≠ 2) → s.nextQueue core = some q → s.idleSlot core = some k →
    a.count ≤ 4 → (sget [] c.inbox q).take a.count = m :: ms → (∀ x ∈ m :: ms, x.words.length = 8) →
      ∃ t, exec (.firingStart core) s = .next t ∧
        (t.core core).inbox = sset c.inbox q ((sget [] c.inbox q).drop a.count) ∧ (t.core core).fid = (c.fid + 1) % 2 ^ 32 ∧
        (t.core core).l1 = (c.l1.filter fun e => e.2.dirty || e.2.ro) ∧
        let n := t.slot k
        let w := fun (j i : Nat) => ((m :: ms).getD j m).words.getD i 0
        (∀ j, n.vr j = if j < 4 * (ms.length + 1) then w (j / 4) (2 * (j % 4) + 1) ++ w (j / 4) (2 * (j % 4)) else 0) ∧
        (wbits n.firing 63 32 = c.fid % 2 ^ 32 ∧ wbits n.firing 31 11 = 0 ∧ wbits n.firing 10 8 = q ∧ wbits n.firing 7 4 = 0 ∧
          wbit n.firing 3 = m.replay ∧ wbits n.firing 2 0 = ms.length + 1) ∧
        ((∃ i, n.run = .attached i) ∨ n.run = .stray) ∧
        n = { s.slot k with
          x := [], v := n.v, pc := wordOfNat ((w 0 0).toNat % 2 ^ 56), priv := .u, run := n.run, firing := n.firing, vctl := 0, sbind := 0,
          ports := [], ccont := 0, dseed := 0, dscope := 3, vflags := 0, repst := 0, nestst := 0, nestDesc := 0, jt := false,
          stage := m.stage, rep := none, fresh := false, wait := .none, errX := [], errV := [],
          trig := (m :: ms).map fun x => { x with replay := false } }

/-- R229: SIGSET, SIGCLR and SIGTEST change and read one of the four words of the context's signal vector, and no other; an
index over 3 is cause 27 with stval 9. SIGSET and SIGCLR release at package scope first; SIGTEST acquires after it has
read. -/
def Obligations.SignalInstructions : Prop :=
  (∀ (s : State) (rd rs1 rs2 : Reg),
    let i := Claims.xs s rs1
    let m := Claims.xs s rs2
    let x := s.ctxOf s.cur
    (3 < i.toNat → exec (.sigset rs1 rs2) s = Claims.traps s 27 9 ∧ exec (.sigclr rs1 rs2) s = Claims.traps s 27 9 ∧
      exec (.sigtest rd rs1 rs2) s = Claims.traps s 27 9) ∧
    (i.toNat ≤ 3 → ∀ t, s.release (Claims.cc s) .package = .ok t →
      let y := t.ctxOf t.cur
      let put := fun (f : Word → Word) =>
        let u := t.modCtx y fun c => { c with sig := setSigWord c.sig i.toNat (f (sigWord c.sig i.toNat)) }
        u.commit u.cur none
      exec (.sigset rs1 rs2) s = .next (put fun w => w ||| m) ∧ exec (.sigclr rs1 rs2) s = .next (put fun w => w &&& ~~~m)) ∧
    (i.toNat ≤ 3 →
      let u := (s.modSlot s.cur fun sl => sl.setX rd.toNat (((s.ctx x).sig.extractLsb' (64 * i.toNat) 64) &&& m)).acquire (Claims.cc s) .package
      exec (.sigtest rd rs1 rs2) s = .next (u.commit u.cur none))) ∧
  ∀ (v : BitVec 256) (i j : Nat) (w : Word), i < 4 → j < 4 →
    sigWord v j = v.extractLsb' (64 * j) 64 ∧ sigWord (setSigWord v i w) j = if j = i then w else sigWord v j

/-- What a dispatch of launch `r` of queue `q` of context `x` leaves in the package `t`, the predicate having been read in state `u`: the
messages `msgs`, the signal vector `sig`, and whether the launch has ended already (R226, R227). -/
def Sys2Proof.Claims.Dispatched (u t : State) (x q : Nat) (r : LRec) (msgs : List Flight) (sig : BitVec 256) (ended : Option Nat) : Prop :=
  let w := r.words.getD 1 0
  let c := u.ctx x
  let d := t.ctx x
  t.lastDisp = x ∧ t.dispAt = u.cycle + 4 ∧ d.sig = sig ∧ d.delayed = none ∧
  (sget [] d.queues q).map (·.id) = ((sget [] c.queues q).drop 1).map (·.id) ∧ (∀ p, p ≠ q → sget [] d.queues p = sget [] c.queues p) ∧
  (∀ g, sfind d.stageMap g = if g = wbits w 35 28 then some (placementOf w) else sfind c.stageMap g) ∧
  d.launches = c.launches ++ [{ record := r, pending := msgs.length, running := 0, refused := 0, killed := 0, ended }] ∧
  (∃ ev, t.toDest = u.toDest ++ ev ++ msgs ∧ (r.fuse = false ∨ ended.isSome = true ∨ u.cxlDown = [] → ev = []))

/-- What fusing does to the caravans of a launch (R227): their L1s keep nothing clean, and they are fused; without fuse no caravan and
no core changes. -/
def Sys2Proof.Claims.Fused (u t : State) (r : LRec) : Prop :=
  (r.fuse = false → t.cars = u.cars ∧ t.cores = u.cores) ∧
  (r.fuse = true → ∀ v ∈ (placementOf (r.words.getD 1 0)).caravans, (t.car v).fused = true ∧
    ∀ i, i < 8 → ∀ e ∈ (t.core (8 * v + i)).l1, e.2.dirty = true)

/-- R226 to R228, R463: the sequencer. A dispatch waits 4 cycles; the head of the chosen queue leaves it; clrwait clears the wait bits;
the stage's entry of the stage map becomes the placement; and a start message with the launch's words goes to each core of the
placement. With fuse the L1s of its caravans are flushed first and the caravans fused. With cond and a predicate of 0 no start message
goes, the set mask is ORed in, and the launch is SKIPPED; with a predicate that cannot be read it is FAULTED, with an ERROR event. A launch
with no start message and no firing left ends: its set mask is ORed into the signals, unless that was done when it was dispatched, and
the completion message goes to the launching core, or LAUNCH_END to the host. That slot 0 of the launching core is the completion
message's sender is the model's choice (log 69). -/
def Obligations.LaunchEvents : Prop :=
  (∀ s : State, s.cycle < s.dispAt → exec .launchDispatch s = .next s) ∧
  (∀ (s : State) (x q : Nat) (r : LRec),
    let w := r.words.getD 1 0
    let start := fun (c : Nat) => ({
      dest := ownDest c (wbits w 48 46),
      msg := { words := [r.words.getD 0 0, wordOfNat r.id, r.words.getD 2 0, r.words.getD 3 0, r.words.getD 4 0, r.words.getD 5 0,
                         r.words.getD 6 0, r.words.getD 7 0],
               stage := BitVec.ofNat 8 (wbits w 35 28), src := 0, fid := 0, ctx := x, launch := some r.id, replay := false },
      cap := none, ccont := 0, ticket := 0, bwin := 0, released := true, event := false, target := c } : Flight)
    let msgs := (placementOf w).coreList.map start
    let left := fun (u : State) => if wbit w 37 then (u.ctx x).sig &&& ~~~maskOf r.words 8 else (u.ctx x).sig
    s.dispAt ≤ s.cycle → r.words.length = 16 →
    (firstOf (fun i => let c := (s.lastDisp + 1 + i) % 64; (s.chosenHead c).map fun h => (c, h)) (List.range 64)) = some (x, q, r) →
      (wbit w 36 = false → ∃ t, exec .launchDispatch s = .next t ∧ Claims.Dispatched s t x q r msgs (left s) none ∧ Claims.Fused s t r) ∧
      (wbit w 36 = true →
        (∀ v u, s.predicate x r = .value v u → ∃ t, exec .launchDispatch s = .next t ∧
          (v ≠ 0 → Claims.Dispatched u t x q r msgs (left u) none ∧ Claims.Fused u t r) ∧
          (v = 0 → Claims.Dispatched u t x q r [] (left u ||| maskOf r.words 12) (some 1) ∧ t.cars = u.cars ∧ t.cores = u.cores)) ∧
        (∀ c u, s.predicate x r = .failed c u → ∃ t,
          exec .launchDispatch s = .next (t.event x { kind := 3, pos := 0 } 7 0 6 (wordOfNat r.id) (r.words.getD 7 0) 0 (wordOfNat c) 0) ∧
          Claims.Dispatched u t x q r [] (left u ||| maskOf r.words 12) (some 5) ∧ t.cars = u.cars ∧ t.cores = u.cores)) ∧
      (let a := (r.words.getD 7 0).toNat % 2 ^ 56
       (∀ c, r.core = some c → ∃ e, (s.core c).plbFind a = some e ∧ wbit e 0 = true) → inWindow a = false →
       ∀ tr, s.held 0 a = some tr → leafClass tr.leaf = 0 → s.badAt tr 0 a 8 = false →
         s.predicate x r = .value (BitVec.ofNat 64 (natOfBytes (s.homeRead tr 0 a 8))) (s.fillRange tr 0 a 8))) ∧
  (∀ (s : State) (x id : Nat) (run : Running),
    (s.ctx x).launches.find? (fun r => r.record.id == id && r.pending == 0 && r.running == 0) = some run →
    let w := run.record.words.getD 1 0
    let status := match run.ended with
      | some e => e
      | none => if run.killed = 0 then (if run.refused = 0 then 0 else 3) else if run.refused = 0 then 2 else 4
    ∃ t, exec (.launchEnd x id) s = .next t ∧
      (t.ctx x).sig = (if run.ended.isSome then (s.ctx x).sig else (s.ctx x).sig ||| maskOf run.record.words 12) ∧
      (t.ctx x).launches = (s.ctx x).launches.filter (fun y => y.record.id ≠ id) ∧
      (∀ c, run.record.core = some c → c ≤ stewardCore →
        let f : Flight := {
          dest := ownDest c (wbits w 45 43),
          msg := { words := [run.record.ccont, wordOfNat id, wordOfNat status, wordOfNat run.refused, wordOfNat run.killed, 0, 0, 0],
                   stage := run.record.stage, src := 4 * c, fid := 0, ctx := x, launch := none, replay := false },
          cap := none, ccont := 0, ticket := 0, bwin := 0, released := true, event := false, target := c }
        ∃ ev, t.toDest = s.toDest ++ ev ++ (if wbit w 42 then [f] else []) ∧ (s.cxlDown = [] → ev = [])) ∧
      (run.record.core = none → ∃ u : State, t = u.hostOnly x { kind := 3, pos := 0 } 9 (wordOfNat id) (wordOfNat status) 0 0))

/-- R223 to R225: LAUNCH queues a record and gives its id; a queue number over 7 is cause 27 with stval 8, a malformed
record stval 6, a core of the placement that is not assigned stval 7. R304, R306: STASH.ALLOC hands out the next
granules of 256 bytes of the stash, and 0 where they do not fit, for no bytes and for no stash; STASH.FREE gives back
everything from its address on. -/
def Obligations.LaunchAndStash : Prop :=
  (∀ (s : State) (rd rs1 rs2 : Reg),
     let m := Claims.xs s rs2
     let a := (Claims.xs s rs1).toNat % 2 ^ 56
     (7 < m.toNat → exec (.launch rd rs1 rs2) s = Claims.traps s 27 8) ∧
     (m.toNat ≤ 7 → a % 128 ≠ 0 → exec (.launch rd rs1 rs2) s = Claims.traps s 4 (wordOfNat a)) ∧
     (m.toNat ≤ 7 → a % 128 = 0 → ∀ u bs t, s.release (Claims.cc s) .package = .ok u → Act.loadRecord a 128 u = .ok (bs, t) →
       let ws := wordsOf 16 bs
       let s' := Claims.relWalks s .package
       (recordBad ws = true → exec (.launch rd rs1 rs2) s = Claims.trapsRead s' u a 128 27 6) ∧
       (recordBad ws = false → t.assigned (t.ctxOf t.cur) (placementOf (ws.getD 1 0)) = false →
         exec (.launch rd rs1 rs2) s = Claims.trapsRead s' u a 128 27 7) ∧
       (recordBad ws = false → t.assigned (t.ctxOf t.cur) (placementOf (ws.getD 1 0)) = true →
         (sget [] (t.ctx (t.ctxOf t.cur)).queues m.toNat).length < 64 →
         let e := t.enqueueLaunch (t.ctxOf t.cur) m.toNat ws (t.slot t.cur).ccont (some (t.cur / 4)) 0 (t.slot t.cur).stage
         exec (.launch rd rs1 rs2) s = Claims.result e.2 rd (wordOfNat e.1) ∧ e.1 = (t.ctx (t.ctxOf t.cur)).nextId))) ∧
  (∀ (s : State) (rd rs1 : Reg),
     let n := Claims.xs s rs1
     let c := Claims.cc s
     let k := s.core c
     let base := wbits k.stash 55 16 * 65536
     let size := wbits k.stash 63 56 * 65536
     let need := (n.toNat + 255) / 256 * 256
     let a := n.toNat % 2 ^ 56
     (n = 0 ∨ size = 0 ∨ size < k.used + need → exec (.stashAlloc rd rs1) s = Claims.result s rd 0) ∧
     (n ≠ 0 → size ≠ 0 → k.used + need ≤ size → ∃ t, exec (.stashAlloc rd rs1) s = .next t ∧
       (t.core c).used = k.used + need ∧ (rd ≠ 0 → (t.slot s.cur).xr rd.toNat = wordOfNat (base + k.used))) ∧
     (∃ t, exec (.stashFree rs1) s = .next t ∧
       (t.core c).used = if base ≤ a ∧ a < base + k.used then (a - base) / 256 * 256 else k.used))

/-! ### Engine queues -/

/-- R81, R257, R258: ENQ and ENQM. The command's engine must be the instruction's, else cause 30 with stval 1; the command
joins the core's queue under the slot's next ticket for that engine, which rd receives; a full queue makes the slot
wait. R260, R261: EQWAIT waits while the slot has a command that has not completed; a status that raises is taken as its
cause's trap with the status word in stval, the pending ones being emptied; else it makes a package-scope acquire.
EQSTAT reads the last completion, the slot's commands that have not completed, the entries occupied in the core's queue, and the oldest
pending status. -/
def Obligations.EngineQueues : Prop :=
  (∀ (s : State) (rd rs2 : Reg) (e : Engine) (p : BitVec 5),
     let o := s.slot s.cur
     let c := Claims.cc s
     let n := engineNum e
     let a := (Claims.xs s rs2).toNat % 2 ^ 56
     let pair := tcwOfPair (o.vr (2 * p.toNat)) (o.vr (2 * p.toNat + 1))
     let queued := fun (t : State) (tcw : Tcw) (out : Host.Outcome State Fault Refusal) => ∃ u cmd, out = .next u ∧
       (u.core (t.cur / 4)).queue n = (t.core (t.cur / 4)).queue n ++ [cmd] ∧ cmd.tcw = tcw ∧ cmd.issuer = .loc t.cur ∧
       cmd.ticket = sget 0 (t.slot t.cur).tickets n ∧ cmd.ccont = (t.slot t.cur).ccont ∧ cmd.bwin = (t.slot t.cur).bwin ∧
       sget 0 (u.slot t.cur).tickets n = cmd.ticket + 1 ∧ (rd ≠ 0 → (u.slot t.cur).xr rd.toNat = cmd.ticket.setWidth 64)
     (o.bound (2 * p.toNat) = false → o.bound (2 * p.toNat + 1) = false →
       (pair.engine ≠ n → exec (.enq rd e p) s = Claims.traps s 30 1) ∧
       (pair.engine = n → ∀ t, s.release c .package = .ok t → ((t.core (t.cur / 4)).queue n).length < 2 →
         t.slot t.cur = o → queued t pair (exec (.enq rd e p) s)) ∧
       (pair.engine = n → ∀ t, s.release c .package = .ok t → 2 ≤ ((t.core (t.cur / 4)).queue n).length →
         exec (.enq rd e p) s = .next (Claims.relWalks s .package))) ∧
     (a % 32 ≠ 0 → exec (.enqm rd e rs2) s = Claims.traps s 4 (wordOfNat a)) ∧
     (a % 32 = 0 → ∀ bs u, s.load c a 32 false = .ok (bs, u) →
       ((tcwOfBytes bs).engine ≠ n → exec (.enqm rd e rs2) s = Claims.trapsRead s s a 32 30 1) ∧
       ((tcwOfBytes bs).engine = n → ∀ t, u.release (u.cur / 4) .package = .ok t → ((t.core (t.cur / 4)).queue n).length < 2 →
         queued t (tcwOfBytes bs) (exec (.enqm rd e rs2) s)))) ∧
  (∀ (s : State) (rd : Reg) (e : Engine),
     let n := engineNum e
     let o := s.slot s.cur
     let st := s.eqstat s.cur n
     (s.outstanding s.cur n ≠ [] → exec (.eqwait e) s = .next s) ∧
     (s.outstanding s.cur n = [] → sget [] o.pend n = [] →
       exec (.eqwait e) s = .next ((s.acquire (Claims.cc s) .package).commit (s.acquire (Claims.cc s) .package).cur none)) ∧
     (s.outstanding s.cur n = [] → ∀ w ws, sget [] o.pend n = w :: ws → exec (.eqwait e) s =
       .next ((s.modSlot s.cur fun sl => { sl with pend := sset sl.pend n [] }).takeTrap s.cur (statusCause (wbits w 7 0)) w)) ∧
     exec (.eqstat rd e) s = Claims.result s rd st ∧
     wbits st 63 32 = (sget (0, 0) o.lastDone n).1.toNat ∧ wbits st 31 24 = (sget (0, 0) o.lastDone n).2.toNat ∧
     wbits st 23 20 = min (s.outstanding s.cur n).length 15 ∧
     (((s.core (Claims.cc s)).queue n).length ≤ 2 → wbits st 19 18 = ((s.core (Claims.cc s)).queue n).length) ∧
     wbits st 17 16 = 0 ∧ wbits st 7 0 = 0 ∧
     (∀ w ws, sget [] o.pend n = w :: ws → wbits st 15 8 = wbits w 7 0) ∧ (sget [] o.pend n = [] → wbits st 15 8 = 0))

/-- R207, R220, R288: a SEND.C message at its target. A capability that its check refuses raises the CAPABILITY event of the
sender's context and leaves no command; a good one fills one of the four remote entries. -/
def Obligations.RemoteCommands : Prop :=
  ∀ (s : State) (k : Nat) (f : Flight), s.toDest[k]? = some f → destMode f.dest = 2 → s.behind k f = false →
    (s.ctx f.msg.ctx).caravans.contains (f.target / 8) = true → s.present f.msg.ctx f.target = true →
    let s' := { s with toDest := s.toDest.eraseIdx k }
    let t := tcwOfMessage f.msg.words
    (capOk f.msg.ctx (f.cap.getD 0) f.target t.engine = false → exec (.remoteCommandArrive k) s =
      .next (s'.event f.msg.ctx { kind := 0, pos := f.target } 2 28 0 (wordOfNat f.msg.fid) (f.cap.getD 0) (s.senderCoord f.msg.src)
        (f.msg.words.getD 0 0) 0)) ∧
    (capOk f.msg.ctx (f.cap.getD 0) f.target t.engine = true → ((s.core f.target).remote t.engine).length < 4 →
      ∃ u c, exec (.remoteCommandArrive k) s = .next u ∧ u.toDest = s.toDest.eraseIdx k ∧
        (u.core f.target).remote t.engine = (s.core f.target).remote t.engine ++ [c] ∧ c.tcw = t ∧ c.issuer = .rem f.msg.src ∧
        c.ticket = f.ticket ∧ c.ccont = f.ccont ∧ c.bwin = f.bwin) ∧
    (capOk f.msg.ctx (f.cap.getD 0) f.target t.engine = true → 4 ≤ ((s.core f.target).remote t.engine).length →
      exec (.remoteCommandArrive k) s = .next s)

/-! ### Barriers -/

/-- R321, R323 to R325: the barrier instructions on a barrier that their checks admit, in the core's own store or on a page
of class 0, each followed by the check for completion; a handle over 0xFFFFF0 is cause 49 with stval 4, a misaligned
object cause 6, a page of another class cause 7, a count out of range cause 49 with its code. R326: the acquire of a BAR.WAIT or
BAR.TEST comes after the counted landings; that one at caravan scope invalidates in a fused L1 too, where R183 invalidates nothing, is
the model's reading (log 81). -/
def Obligations.BarrierInstructions : Prop :=
  ∀ (s : State) (rd rs1 rs2 : Reg) (scope : Scope),
    let h := Claims.xs s rs1
    let n := Claims.xs s rs2
    let o := s.slot s.cur
    let ds := scopeOf (wbits o.dscope 2 0)
    let a := (o.bwin + h).toNat % 2 ^ 56
    let fin := fun (t : State) => t.commit t.cur none
    let reach := fun (sc : Scope) => if sc = .caravan then .die else sc
    (0xFFFFF0 < h.toNat → exec (.barInit rs1 rs2) s = Claims.traps s 49 4 ∧ exec (.barExpect rs1 rs2) s = Claims.traps s 49 4 ∧
      exec (.barArrive rd rs1) s = Claims.traps s 49 4 ∧ exec (.barTest rd rs1 rs2) s = Claims.traps s 49 4) ∧
    (h.toNat ≤ 0xFFFFF0 → a % 16 ≠ 0 → exec (.barInit rs1 rs2) s = Claims.traps s 6 (wordOfNat a)) ∧
    (o.wait = .released → exec (.barWait rs1 rs2 scope) s = .next (fin (s.acquire (Claims.cc s) (reach scope)))) ∧
    (h.toNat ≤ 0xFFFFF0 → a % 16 = 0 → isOwn (Claims.cc s) a = false → ∀ t u, s.atHome (Claims.cc s) a 16 .amo = .ok (t, u) →
      leafClass t.leaf ≠ 0 → exec (.barInit rs1 rs2) s = Claims.trapsAt s a true 7 (wordOfNat a)) ∧
    (∀ w u, Act.barSite rs1 s = .ok ((a, w), u) → u.cur = s.cur → u.slot s.cur = o →
      let b := u.bar w a
      (n = 0 ∨ 2 ^ 32 ≤ n.toNat → exec (.barInit rs1 rs2) s = Claims.trapsAt s a true 49 2) ∧
      (n ≠ 0 → n.toNat < 2 ^ 32 → exec (.barInit rs1 rs2) s =
        .next (fin (u.putBar w a { arrivals := n.toNat, expected := n.toNat, bytes := 0, phase := 0, high := 0 }))) ∧
      (2 ^ 27 ≤ n.toNat ∨ (2 ^ 27 : Int) ≤ b.count + n.toNat → exec (.barExpect rs1 rs2) s = Claims.trapsAt s a true 49 1) ∧
      (n.toNat < 2 ^ 27 → b.count + n.toNat < (2 ^ 27 : Int) →
        exec (.barExpect rs1 rs2) s = .next (fin (u.barUpdate w a (b.setCount (b.count + n.toNat))))) ∧
      (∀ v, u.release (u.cur / 4) ds = .ok v → v.cur = s.cur →
        let b' := v.bar w a
        (b'.arrivals = 0 → exec (.barArrive rd rs1) s =
          Claims.traps (Claims.walks (s.walked a true) ((u.releaseWalks (Claims.cc s) ds).map fun b => (b, true))) 49 3) ∧
        (b'.arrivals ≠ 0 → exec (.barArrive rd rs1) s =
          .next (fin ((v.modSlot v.cur fun sl => sl.setX rd.toNat (wordOfNat b'.phase)).barUpdate w a { b' with arrivals := b'.arrivals - 1 })))) ∧
      (o.wait ≠ .released → b.phase = wbits n 3 0 → exec (.barWait rs1 rs2 scope) s =
        .next ((u.modSlot u.cur fun sl => { sl with wait := .barrier (w.key a) }).barCheck w a)) ∧
      (o.wait ≠ .released → b.phase ≠ wbits n 3 0 → let v := u.barCheck w a
        exec (.barWait rs1 rs2 scope) s = .next (fin (v.acquire (v.cur / 4) (reach scope)))) ∧
      (b.phase = wbits n 3 0 → exec (.barTest rd rs1 rs2) s =
        .next (fin ((u.modSlot u.cur fun sl => sl.setX rd.toNat (wordOfInt (b.phase * 16 + b.count * 2 ^ 8))).barCheck w a))) ∧
      (b.phase ≠ wbits n 3 0 →
        let v := (u.modSlot u.cur fun sl => sl.setX rd.toNat (wordOfInt (1 + b.phase * 16 + b.count * 2 ^ 8))).barCheck w a
        exec (.barTest rd rs1 rs2) s = .next (fin (v.acquire (v.cur / 4) (reach ds)))))

/-- R318, R322, R323: a barrier completes its phase exactly when no arrival and no byte is pending: the phase goes on by one
modulo 16, the arrivals are restored, and every waiter of the barrier is released. A landing takes its bytes from the
counter, once they have been performed at their homes. The first part speaks of a barrier in a core's own store, the second of one on
a page of class 0 whose sector is in its slice or finds room there. -/
def Obligations.BarrierCompletion : Prop :=
  (∀ (s : State) (core a : Nat) (b : Bar) (k : Nat) (l : Landing),
    b.arrivals < 2 ^ 32 → b.expected < 2 ^ 32 → b.bytes < 2 ^ 28 → b.phase < 16 → b.high < 2 ^ 32 →
    isOwn core a = true →
      let t := s.barUpdate (.loc core) a b
      (b.arrivals = 0 → b.bytes = 0 →
        t.bar (.loc core) a = { b with phase := (b.phase + 1) % 16, arrivals := b.expected } ∧
        ∀ j, (s.slot j).wait = .barrier (place core a) → (t.slot j).wait = .released) ∧
      (¬ (b.arrivals = 0 ∧ b.bytes = 0) → t.bar (.loc core) a = b ∧ ∀ j, (t.slot j).wait = (s.slot j).wait) ∧
      (s.landings[k]? = some l → l.bar = a → l.core = core → core ≠ stewardCore → l.peer = none → l.counts = true →
        let s' := { s with landings := s.landings.eraseIdx k }
        let b' := s'.bar (.loc core) a
        (0 : Int) ≤ b'.count - l.bytes + 2 ^ 27 → exec (.landing k) s =
          .next ((s'.barUpdate (.loc core) a (b'.setCount (b'.count - l.bytes))).modLanded l fun c => { c with landed := c.landed + l.bytes })) ∧
      (s.landings[k]? = some l → l.peer = none → l.counts = false → exec (.landing k) s =
        .next ({ s with landings := s.landings.eraseIdx k }.modLanded l fun c => { c with landed := c.landed + l.bytes })) ∧
      (s.landings[k]? = some l → l.peer.isSome = true → exec (.landing k) s = .next s)) ∧
  (∀ (s : State) (core a : Nat) (p : TEntry) (b : Bar) (k : Nat) (l : Landing),
    b.arrivals < 2 ^ 32 → b.expected < 2 ^ 32 → b.bytes < 2 ^ 28 → b.phase < 16 → b.high < 2 ^ 32 →
    a % 16 = 0 → leafClass p.leaf = 0 →
      let d := dieOf core
      let t := s.barUpdate (.page core p) a b
      (s.l2Find 0 a = s.l2Find d a → ((s.l2Find 0 a).isSome = true ∨ (sget [] s.l2 (a / 256) = [] ∧ (s.l2Set (a / 256)).length < 4)) →
        (b.arrivals = 0 → b.bytes = 0 → t.bar (.page core p) a = { b with phase := (b.phase + 1) % 16, arrivals := b.expected }) ∧
        (¬ (b.arrivals = 0 ∧ b.bytes = 0) → t.bar (.page core p) a = b)) ∧
      (b.arrivals = 0 → b.bytes = 0 → ∀ j, (s.slot j).wait = .barrier a → (t.slot j).wait = .released) ∧
      (¬ (b.arrivals = 0 ∧ b.bytes = 0) → ∀ j, (t.slot j).wait = (s.slot j).wait) ∧
      (s.landings[k]? = some l → l.bar = a → l.core = core → l.peer = none → l.counts = true → inWindow a = false →
        s.held (sliceOf core / 256) a = some p → s.badAt p d a 16 = false →
        let s' := { s with landings := s.landings.eraseIdx k }
        let b' := s'.bar (.page core p) a
        (0 : Int) ≤ b'.count - l.bytes + 2 ^ 27 → exec (.landing k) s =
          .next (((s'.fillRange p d a 16).barUpdate (.page core p) a (b'.setCount (b'.count - l.bytes))).modLanded l fun c =>
            { c with landed := c.landed + l.bytes })))

/-! ### Tile commands -/

/-- The engine command whose step this is (R265). -/
def Sys2Proof.Claims.Engine (s : State) (g : EngSel) (c : Cmd) : Prop := s.eng = some g ∧ s.selCmd g = some c

/-- The state in which a step of a command begins. -/
def Sys2Proof.Claims.at_ (s : State) (c : Cmd) : EngSt := { st := s, cmd := c }

/-- A command completes with a status code (R262). -/
def Sys2Proof.Claims.ends (e : EngSt) (g : EngSel) (code : Nat) : Host.Outcome State Fault Refusal := .next (e.st.finish g e.cmd code)

/-- A command goes on: its read has ended, and nothing of it waits. -/
def Sys2Proof.Claims.goes (e : EngSt) (g : EngSel) (c : Cmd) : Host.Outcome State Fault Refusal :=
  .next ((e.st.endRead e.cmd).setCmd g c.stepped)

/-- A copy goes on: `n` bytes at offset `o` are written. -/
def Sys2Proof.Claims.moved (e : EngSt) (g : EngSel) (o n : Nat) : Host.Outcome State Fault Refusal := Claims.goes e g (e.cmd.wrote o n)

/-- The translations of all the sectors that a step addresses are there (R315). -/
def Sys2Proof.Claims.There (spans : List (Nat × Nat)) (e : EngSt) : Prop := Eng.fetch spans e = .ok ((), e)

/-- The core of the engine, changed. -/
def Sys2Proof.Claims.onCore (e : EngSt) (k : Core) (fl : Flags) : EngSt :=
  { st := e.st.modCore e.cmd.core fun _ => k, cmd := { e.cmd with flags := e.cmd.flags ||| fl } }

/-- A pointer whose tag is legal (R93). -/
def Sys2Proof.Claims.good (p : Word) : Prop := tagOk (ptrCode p) (ptrBl p) = true

/-- Every element of a target has the value `f` gives its row and column; every other element is as it was (R254). -/
def Sys2Proof.Claims.Filled (k k' : Core) (t : Target) (f : Nat → Nat → Nat) : Prop :=
  (∀ i j, i < t.rows → j < t.cols → k'.accGet t.wide (t.ix i j) = f i j % 2 ^ (if t.wide then 64 else 32)) ∧
  ∀ x, (∀ i j, i < t.rows → j < t.cols → x ≠ t.ix i j ∧ (t.wide = true → x ≠ t.ix i j + 4096)) → sget 0 k'.acc x = sget 0 k.acc x

/-- The tile that a k-step of MMUL.F (kind 1) or MMUL.G (kind 2) reads (R272, R275). -/
def Sys2Proof.Claims.tile (p : Word) (kind index stride sofs rlimit climit : Nat) (h : TcwHdr) : TileRec :=
  { ptr := p, kind, index, rows := 0, cols := 0, stride, cvt := 0, sofs, rm := h.rm, ov := h.ov, prev := false, stepchk := false,
    steptag := 0, rlimit, climit, load := 0 }

/-- R254, R278 to R284: the accumulator commands. MZERO clears tiles, their residue records and checksums; MPATCH sets one
element and no checksum; MSCALE multiplies rows; MSTORE and MACCLD move elements; MRES writes the residue records; MCHK
compares rows and columns with their predictions. Where a slice refuses sectors of what MRES writes, the others are written, each
once (R315). An illegal tag is status 2, whatever the shape: that TAG comes before FORMAT and SHAPE is the model's reading
(log 32). -/
def Obligations.MatrixAccumulatorCommands : Prop :=
  ∀ (s : State) (g : EngSel) (c : Cmd) (h : TcwHdr) (acc : BitVec 2) (p : Word) (rows : BitVec 8), Claims.Engine s g c →
    let e0 := Claims.at_ s c
    let k := s.core c.core
    let shape := !accShapeBad rows.toNat acc.toNat 128 false
    (∀ mask : BitVec 4, ∃ k', exec (.mzero h mask) s = Claims.ends (Claims.onCore e0 k' 0) g 0 ∧
      ∀ t i j, t < 4 → i < 64 → j < 64 →
        let hit := mask.toNat.testBit t
        k'.accGet false (accIx t i j) = (if hit then 0 else k.accGet false (accIx t i j)) ∧
        sfind k'.resid (64 * t + i) = (if hit then none else sfind k.resid (64 * t + i)) ∧
        sget 0 k'.rsum (64 * t + i) = (if hit then 0 else sget 0 k.rsum (64 * t + i)) ∧
        sget 0 k'.csum (64 * t + j) = (if hit then 0 else sget 0 k.csum (64 * t + j)) ∧
        k'.chkBad.contains t = (!hit && k.chkBad.contains t)) ∧
    (∀ (row col : BitVec 6) (v : BitVec 32), ∃ k', exec (.mpatch h acc row col v) s = Claims.ends (Claims.onCore e0 k' 0) g 0 ∧
      k'.accGet false (accIx acc.toNat row.toNat col.toNat) = v.toNat ∧
      (∀ x, x ≠ accIx acc.toNat row.toNat col.toNat → k'.accGet false x = k.accGet false x) ∧
      k'.rsum = k.rsum ∧ k'.csum = k.csum ∧ k'.chkBad = k.chkBad ∧ k'.resid = k.resid) ∧
    (tagOk (ptrCode p) (ptrBl p) = false → exec (.mscale h p acc rows) s = Claims.ends e0 g 2 ∧
      exec (.mres h p acc rows) s = Claims.ends e0 g 2) ∧
    (Claims.good p → (ptrCode p = 0 ∨ ptrCode p = 2) → shape = true → Claims.There [(va p, 4 * rows.toNat)] e0 →
      ∀ bs e, Eng.read (va p) (4 * rows.toNat) e0 = .ok (bs, e) → (e.st.core e.cmd.core).errAcc = [] →
      let t := targetOf acc.toNat rows.toNat 64 false
      ∃ k' fl, exec (.mscale h p acc rows) s = Claims.ends (Claims.onCore e k' fl) g 0 ∧ (∀ x ∈ t.tiles, x ∈ k'.chkBad) ∧
        Claims.Filled (e.st.core e.cmd.core) k' t fun i j =>
          (Fmt.fp32.finish ((Fmt.fp32.value ((e.st.core e.cmd.core).accGet false (t.ix i j))).mul
            (Fmt.fp32.value (natOfBytes ((bs.drop (4 * i)).take 4)))) h.rm h.ov).1) ∧
    (Claims.good p → shape = true →
      let w := (List.range rows.toNat).map fun i => ((sfind k.resid (acc.toNat * 64 + i)).map Residue.word).getD 0
      let out := Eng.writeAll [(va p, w.flatMap fun x => bytesOfNat 8 x.toNat)] e0
      (∀ e, out = .ok ((), e) → exec (.mres h p acc rows) s = Claims.ends e g 0) ∧
      (∀ ws missing got, out = .error (.later ws missing got) → exec (.mres h p acc rows) s = .next (s.refuseWrites g c ws missing got))) ∧
    (∀ (f : AccMoveF) (F : Fmt), Claims.good f.ptr → 1 ≤ f.cols.toNat → f.cols.toNat ≤ 64 →
      accShapeBad f.rows.toNat f.acc.toNat (if F = .fp64 then 64 else 128) f.pair = false → (F = .fp64 → f.pair = true) →
      let t := targetOf f.acc.toNat f.rows.toNat f.cols.toNat (F = .fp64)
      let line := fun (i : Nat) => (va f.ptr + i * f.stride.toNat * 16) % 2 ^ 56
      let n := F.bits / 8
      (moveFmt (ptrCode f.ptr) false = some F → k.errAcc = [] →
        let el := fun (i j : Nat) =>
          let x := k.accGet t.wide (t.ix i j)
          bytesOfNat n (if moveConverts F then (F.convert (Fmt.fp32.value x) h.rm h.ov).1 else x)
        ∃ fl, ∀ e, Eng.writeAll ((List.range t.rows).map fun i => (line i, (List.range t.cols).flatMap (el i)))
            { e0 with cmd := { c with flags := fl } } = .ok ((), e) → exec (.mstore h f) s = Claims.ends e g 0) ∧
      (moveFmt (ptrCode f.ptr) true = some F → Claims.There ((List.range t.rows).map fun i => (line i, t.cols * n)) e0 → ∀ rs e,
        ((List.range t.rows).mapM fun i => Eng.read (line i) (t.cols * n)) e0 = .ok (rs, e) →
        ∃ k' fl, exec (.maccld h f) s = Claims.ends (Claims.onCore e k' fl) g 0 ∧ (∀ x ∈ t.tiles, x ∈ k'.chkBad) ∧
          Claims.Filled (e.st.core e.cmd.core) k' t fun i j =>
            let x := natOfBytes (((rs.getD i []).drop (n * j)).take n)
            if moveConverts F then (Fmt.fp32.convert (F.value x) .rne false).1 else x)) ∧
    (∀ (pair : Bool) (tol : BitVec 8), Claims.good p → (ptrCode p = 0 ∨ ptrCode p = 2) → (pair = true → acc.toNat % 2 = 0) → va p % 32 = 0 →
      let ts := if pair then [acc.toNat, acc.toNat + 1] else [acc.toNat]
      ((∃ t ∈ ts, t ∈ k.chkBad) → exec (.mchk h p acc pair tol) s = Claims.ends e0 g 8) ∧
      ((∀ t ∈ ts, t ∉ k.chkBad) → k.errAcc = [] → ∃ bs fl code, (code = 0 ∨ code = 9) ∧ bs.length = 800 ∧
        (code = 0 ↔ natOfBytes (bs.take 8) = 0) ∧
        (∀ i, i < 64 →
          let xs := (List.range 64).map fun j => Fmt.fp32.value (k.accGet false (accIx acc.toNat i j))
          let sum := (Fmt.fp32.finish (exactSum .rne xs) .rne false).1
          let pred := (sget 0 k.rsum (acc.toNat * 64 + i)).toNat
          (bs.drop (32 + 4 * i)).take 4 = bytesOfNat 4
            (Fmt.fp32.finish (FVal.add .rne (Fmt.fp32.value pred) (Fmt.fp32.value sum).negate) .rne false).1) ∧
        ∀ e, Eng.writeAll [(va p, bs)] { e0 with cmd := { c with flags := fl } } = .ok ((), e) →
          exec (.mchk h p acc pair tol) s = Claims.ends e g code))

/-- An operand with its scale as FP32 (R283). -/
def Sys2Proof.Claims.asFp32 (f : OpFmt) (x : Nat × Nat) : FVal :=
  if x.2 = 255 then .nan false else Fmt.fp32.value (Fmt.fp32.convert ((f.val x.1).shift ((x.2 : Int) - 127)) .rne false).1

/-- An exact sum rounded once to FP32 with RNE (R283). -/
def Sys2Proof.Claims.sum32 (l : List FVal) : FVal := Fmt.fp32.value (Fmt.fp32.finish (exactSum .rne l) .rne false).1

/-- An FP32 fused multiply-add with RNE, `r + a b` (R283). -/
def Sys2Proof.Claims.fma32 (r : BitVec 32) (a b : FVal) : BitVec 32 :=
  BitVec.ofNat 32 (Fmt.fp32.finish (FVal.fma .rne (Fmt.fp32.value r.toNat) a b) .rne false).1

/-- The target of MMUL.T (R273): 128 columns over two tiles on the path of FP8, else Kd columns. -/
def Sys2Proof.Claims.transposed (p : Path) (acc m kd : Nat) : Target :=
  if p = .g32 then
    { ix := fun i j => accIx (acc + j / 64) i (j % 64), rows := m, cols := 128, wide := false, tiles := [acc, acc + 1],
      resid := (List.range m).flatMap fun i => [acc * 64 + i, acc * 64 + 64 + i] }
  else targetOf acc m kd p.is64

/-- The tile that an MWLOAD names (R276). -/
def Sys2Proof.Claims.loaded (h : TcwHdr) (m : MwloadF) (gov : Bool) : TileRec :=
  { ptr := m.w, kind := 0, index := 0, rows := m.rows.toNat, cols := m.cols.toNat, stride := m.wstride.toNat, cvt := m.cvt.toNat,
    sofs := m.sofs.toNat, rm := h.rm, ov := h.ov, prev := gov && m.prev, stepchk := gov && m.stepchk, steptag := m.steptag,
    rlimit := 0, climit := 0, load := 0 }

/-- R255, R271 to R277, R283, R286, R287: loading a weight tile, of a governed page too, and the products of operands that can be
read, on accumulators and weights without an error. Each element of the target takes the operand row and column on the path of
their formats; with chk = 1 the sums of the target tiles follow; a command of several k-steps goes on after one and leaves the last
tile resident. MGANG's member arrives and waits for its gang; a formed gang's member computes its part; a gang whose time has passed
is given up. R117, R118: a residue block that an upset has struck is computed again, once: it counts as corrected where its
channels then agree, else the command ends with RESIDUE. Which upsets strike, and when, is the model's choice (log 33); so are FORMAT
before SHAPE for an MWLOAD from a governed page (log 32), the half of the weight storage that it writes (log 19), and that the members
of a gang are compared in the first five words of their descriptors (log 41). -/
def Obligations.MatrixProducts : Prop :=
  ∀ (s : State) (g : EngSel) (c : Cmd) (h : TcwHdr) (f : ProductF) (oa ow : Opnd) (p : Path),
    (Claims.Engine s g c →
    let e0 := Claims.at_ s c
    let hgt := if p.is64 then 64 else if f.pair then 128 else 64
    (∀ (m : MwloadF) (o : Opnd) (t : TEntry) (d : TileData) (e : EngSt), Claims.good m.w → Eng.page (va m.w) .read (fun _ => true) e0 = .ok (t, e0) →
      leafClass t.leaf ≠ 4 → m.cvt = 0 ∨ (m.cvt ≠ 3 ∧ ptrCode m.w = 2) →
      let r := Claims.loaded h m false
      r.opnd = some o → 1 ≤ m.rows.toNat → m.rows.toNat ≤ o.fmt.kd → 1 ≤ m.cols.toNat → m.cols.toNat ≤ 64 →
      Eng.readTile r o e0 = .ok (d, e) →
      let r' := { r with load := (e.st.core e.cmd.core).loads }
      ∃ k', exec (.mwload h m) s = Claims.ends (Claims.onCore e k' 0) g 0 ∧ k'.records.getLast? = some (e.cmd.issuer, e.cmd.fid, r') ∧
        k'.acc = (e.st.core e.cmd.core).acc ∧ k'.tileHalf r' ≠ none) ∧
    (∀ (m : MwloadF) (o : Opnd) (t : TEntry), Claims.good m.w → Eng.page (va m.w) .read (fun _ => true) e0 = .ok (t, e0) →
      leafClass t.leaf = 4 → m.cvt ≠ 3 →
      let r := Claims.loaded h m true
      let F := if m.cvt = 2 then Fmt.fp16 else Fmt.bf16
      let want := if m.prev then m.steptag + 1 else m.steptag
      let fits := (ptrCode m.w = 2 ∧ m.cvt ≠ 0) ∨ (ptrCode m.w = 15 ∧ m.cvt = 0)
      let shaped := 1 ≤ m.rows.toNat ∧ m.rows.toNat ≤ o.fmt.kd ∧ m.cols = 64 ∧ va m.w % 256 = 0
      r.opnd = some o →
      (¬ fits → exec (.mwload h m) s = Claims.ends e0 g 3) ∧
      (fits → ¬ shaped → exec (.mwload h m) s = Claims.ends e0 g 4) ∧
      (fits → shaped → Eng.fetchBlocks r e0 = .ok ((), e0) →
        (∀ hd e, Eng.read (va m.w) 256 e0 = .ok (hd, e) →
          (headerBad (wordsOf 32 hd) = true → exec (.mwload h m) s = Claims.ends e g 4) ∧
          (headerBad (wordsOf 32 hd) = false → m.stepchk = true → ((wordsOf 32 hd).getD 0 0).extractLsb' 0 32 ≠ want →
            exec (.mwload h m) s = Claims.ends e g 7)) ∧
        (∀ bs e, (r.blocks.mapM fun a => do
            let hd ← Eng.read a 256
            let w ← Eng.read (r.weights a ((wordsOf 32 hd).getD 0 0)) 1024
            pure (wordsOf 32 hd, w)) e0 = .ok (bs, e) →
          headerBad (bs.headD ([], [])).1 = false → (m.stepchk = true → ∀ x ∈ bs, (x.1.getD 0 0).extractLsb' 0 32 = want) →
          let r' := { r with load := (e.st.core e.cmd.core).loads }
          ∃ d fl k', Eng.readTile r o e0 = .ok (d, { e with cmd := { e.cmd with flags := e.cmd.flags ||| fl } }) ∧ d.scales = [] ∧
            (∀ k j, k < 64 → j < 64 → (d.rows.getD k []).getD j 0 = if k < m.rows.toNat then
              (F.convert (Fmt.fp32.value (natOfBytes ((((bs.map (·.2)).flatten).drop (4 * (64 * k + j))).take 4))) h.rm h.ov).1 else 0) ∧
            exec (.mwload h m) s = Claims.ends (Claims.onCore e k' fl) g 0 ∧ k'.records.getLast? = some (e.cmd.issuer, e.cmd.fid, r') ∧
            k'.acc = (e.st.core e.cmd.core).acc ∧ k'.tileHalf r' ≠ none))) ∧
    (∀ (r : TileRec) (o : Opnd) (d : TileData) (e : EngSt), Eng.readTile r o e0 = .ok (d, e) →
      let k := e.st.core e.cmd.core
      let r' := { r with load := k.loads }
      ∃ half k', Eng.loadTile r o e0 = .ok ((r', half), Claims.onCore e k' 0) ∧ k'.loads = k.loads + 1 ∧ k'.acc = k.acc ∧ k'.records = k.records ∧
        (o.fmt ≠ .fp .fp64 → half = 1 - k.whalf) ∧ ((∀ x ∈ k.wheld, x.2.load < k.loads) → k'.tileHalf r' = some half ∧ Eng.needTile r' o
          (Claims.onCore e k' 0) = .ok (half, Claims.onCore e k' 0))) ∧
    (Claims.good f.p1 → Claims.good f.p3 → opndOf f.p1 = some oa → opndOf f.p3 = some ow → pathOf oa ow = some p → plainPair p oa ow = true →
      productShapeBad f false p.is64 = false →
      Claims.There (rowSpans f.p1 0 0 f.stride1.toNat f.m.toNat 0 hgt f.rlimit.toNat f.climit.toNat
        ++ rowSpans f.p3 0 0 f.stride2.toNat f.m.toNat 0 64 f.rlimit.toNat f.ncols.toNat) e0 → ∀ as bs e1 e,
      ((List.range f.m.toNat).mapM fun i => Eng.elems f.p1 f.stride1.toNat i 0 hgt f.rlimit.toNat f.climit.toNat h.rm h.ov) e0 = .ok (as, e1) →
      ((List.range f.m.toNat).mapM fun i => Eng.elems f.p3 f.stride2.toNat i 0 64 f.rlimit.toNat f.ncols.toNat h.rm h.ov) e1 = .ok (bs, e) →
      (e.st.core e.cmd.core).errAcc = [] →
      let k := e.st.core e.cmd.core
      let t := targetOf f.acc.toNat hgt 64 p.is64
      let col := fun (x : List (List Nat)) (j : Nat) => (List.range f.m.toNat).map fun i => ((x.getD i []).getD j 0, 127)
      ∃ k' fl, exec (.mouter h f) s = Claims.ends (Claims.onCore e k' fl) g 0 ∧ Claims.Filled k k' t fun i j =>
        (accumulate p oa.fmt ow.fmt 0 h.rm h.ov (if f.zf then 0 else k.accGet t.wide (t.ix i j)) (col as i) (col bs j)).1) ∧
    (Claims.good f.p1 → ∀ r half rows e1 e, Eng.resident e0 = .ok (r, e0) → r.opnd = some ow → opndOf f.p1 = some oa → pathOf oa ow = some p →
      plainPair p oa ow = true → (p = .g32 → f.pair = true ∧ f.m.toNat ≤ 64) → productShapeBad f false p.is64 = false → Eng.needTile r ow e0 = .ok (half, e1) →
      Claims.There (rowSpans f.p1 0 0 f.stride1.toNat f.m.toNat 0 64 f.rlimit.toNat f.climit.toNat) e1 →
      ((List.range f.m.toNat).mapM fun i => Eng.elems f.p1 f.stride1.toNat i 0 64 f.rlimit.toNat f.climit.toNat h.rm h.ov) e1 = .ok (rows, e) →
      (e.st.core e.cmd.core).errAcc = [] → (e.st.core e.cmd.core).errW = [] →
      let k := e.st.core e.cmd.core
      let t := Claims.transposed p f.acc.toNat f.m.toNat ow.fmt.kd
      ∃ k' fl, exec (.mmulT h f) s = Claims.ends (Claims.onCore e k' fl) g 0 ∧ Claims.Filled k k' t fun i n =>
        (accumulate p oa.fmt ow.fmt 0 h.rm h.ov (if f.zf then 0 else k.accGet t.wide (t.ix i n)) ((rows.getD i []).map fun x => (x, 127))
          ((List.range 64).map fun j => (k.tileElem half ow n j, 127))).1) ∧
    (Claims.good f.p1 → Claims.good f.p3 → (f.chk = true → p ≠ .res ∧ p ≠ .int ∧ p.is64 = false) → productShapeBad f true p.is64 = false →
      (oa.bl = 0 ∨ strideElems f.p1 f.stride1.toNat % oa.bl = 0) → opndOf f.p1 = some oa → pathOf oa ow = some p → ∀ r tile half e1 e2,
      let finish := fun (i : Instr) =>
        (c.prog + 1 < f.steps.toNat → exec i s = Claims.goes e2 g { e2.cmd with prog := c.prog + 1 }) ∧
        (¬ c.prog + 1 < f.steps.toNat → ∃ k', exec i s = Claims.ends (Claims.onCore e2 k' 0) g 0 ∧ k'.acc = (e2.st.core e2.cmd.core).acc ∧
          k'.records.getLast? = some (e2.cmd.issuer, e2.cmd.fid, tile))
      Eng.kStep f h.rm h.ov p oa ow half c.prog (c.prog + 1 = f.steps.toNat) e1 = .ok ((), e2) →
      (Eng.resident e0 = .ok (r, e0) → r.opnd = some ow → packedOk r ow f.p3 = true →
        (if c.prog = 0 then tile = r ∧ Eng.needTile r ow e0 = .ok (half, e1)
          else Eng.loadTile (Claims.tile f.p3 1 c.prog 0 0 0 0 h) ow e0 = .ok ((tile, half), e1)) → finish (.mmulF h f)) ∧
      (opndOf f.p3 = some ow →
        Eng.loadTile (Claims.tile f.p3 2 c.prog f.stride2.toNat f.sofs.toNat f.climit.toNat f.ncols.toNat h) ow e0 = .ok ((tile, half), e1) →
        finish (.mmulG h f))) ∧
    (ow.bl ≤ ow.fmt.kd → (f.chk = true → p ≠ .res ∧ p ≠ .int ∧ p.is64 = false) → productShapeBad f true p.is64 = false → pathOf oa ow = some p →
      ∀ (half step : Nat) (last : Bool) (rows : List OpList) (e1 : EngSt),
      Claims.There (rowSpans f.p1 oa.bl f.sofs.toNat f.stride1.toNat f.m.toNat (step * ow.fmt.kd) ow.fmt.kd f.rlimit.toNat f.climit.toNat) e0 →
      ((List.range f.m.toNat).mapM fun i => do
        let es ← Eng.elems f.p1 f.stride1.toNat i (step * ow.fmt.kd) ow.fmt.kd f.rlimit.toNat f.climit.toNat h.rm h.ov
        let sc ← Eng.scaleRow f.p1 oa.bl f.sofs.toNat f.stride1.toNat i (step * ow.fmt.kd) ow.fmt.kd f.rlimit.toNat f.climit.toNat
        pure (es.zip sc)) e0 = .ok (rows, e1) →
      (e1.st.core e1.cmd.core).errAcc = [] → (e1.st.core e1.cmd.core).errW = [] → (e1.st.core e1.cmd.core).upsets = [] →
      let k := e1.st.core e1.cmd.core
      let t := targetOf f.acc.toNat f.m.toNat 64 p.is64
      ∃ k' fl, Eng.kStep f h.rm h.ov p oa ow half step last e0 = .ok ((), Claims.onCore e1 k' fl) ∧
        (f.chk = true →
          let A := fun (i q : Nat) => ((rows.getD i []).map (Claims.asFp32 oa.fmt)).getD q (.fin false 0 0)
          let W := fun (q j : Nat) => ((k.tileCols e1.cmd half ow step j).map (Claims.asFp32 ow.fmt)).getD q (.fin false 0 0)
          let start := fun (x : BitVec 32) => if f.zf && step = 0 then 0 else x
          (∀ i, i < t.rows → sget 0 k'.rsum (t.ix i 0 / 64) = (List.range ow.fmt.kd).foldl
            (fun r q => Claims.fma32 r (A i q) (Claims.sum32 ((List.range 64).map fun j => W q j))) (start (sget 0 k.rsum (t.ix i 0 / 64)))) ∧
          (∀ x ∈ t.tiles, ∀ j, j < 64 → sget 0 k'.csum (64 * x + j) = (List.range ow.fmt.kd).foldl
            (fun r q => Claims.fma32 r (Claims.sum32 (((List.range t.rows).filter fun i => t.ix i 0 / 4096 = x).map fun i => A i q)) (W q j))
            (start (sget 0 k.csum (64 * x + j))))) ∧
        Claims.Filled k k' t fun i j =>
        let a := rows.getD i []
        let w := k.tileCols e1.cmd half ow step j
        let old := if f.zf && step = 0 then 0 else k.accGet t.wide (t.ix i j)
        if p = .res then
          (List.range (ow.fmt.kd / ow.bl)).foldl (fun acc q =>
            let part := fun (l : OpList) => (l.drop (q * ow.bl)).take ow.bl
            (addBlock h.rm h.ov acc (blockDot oa.fmt ow.fmt ((part a).zip (part w))) (OpList.scale (part a)) (OpList.scale (part w))).1 % 2 ^ 32) old
        else (accumulate p oa.fmt ow.fmt ow.bl h.rm h.ov old a w).1) ∧
    (∀ (t : Target) (b : Nat) (d : Nat → Nat → Int) (u : Upset), (s.core c.core).upsets = [u] → u.row < t.rows → u.col < t.cols →
      ((residueOf b (d u.row u.col)).struck u).agrees = false →
      (u.times = 1 → (residueOf b (d u.row u.col)).agrees = true → ∃ d' e, Eng.checkBlock t b d e0 = .ok (d', e) ∧ (∀ i j, d' i j = d i j) ∧
        (e.st.core c.core).corrected = (s.core c.core).corrected + 1 ∧ (e.st.core c.core).upsets = [] ∧ e.cmd = c) ∧
      (2 ≤ u.times → ∃ e, Eng.checkBlock t b d e0 = .error (.status 6 e) ∧ (e.st.core c.core).acc = (s.core c.core).acc ∧ e.cmd = c)) ∧
    (∀ (d : Word) (e' : EngSt), c.prog = 1 → Eng.gangSums h c.desc c.core e0 = .ok ((), e') →
        exec (.mgang h d) s = .next ((e'.st.finish g e'.cmd 0).gangArrived g.core d)) ∧
    (∀ (d : Word) (bs : List Byte) (e : EngSt), Claims.good d → va d % 64 = 0 → Eng.read (va d) 64 e0 = .ok (bs, e) →
      let w := fun (i : Nat) => (wordsOf 8 bs).getD i 0
      (c.prog = 0 → e.cmd = c → gangBad (wordsOf 8 bs) c.core = true → exec (.mgang h d) s = .next ((e.st.finish g c 4).gangArrived g.core d)) ∧
      (c.prog = 0 → e.cmd = c → gangBad (wordsOf 8 bs) c.core = false → Claims.good (w 1) → Claims.good (w 2) → opndOf (w 1) = some oa → opndOf (w 2) = some ow →
        pathOf oa ow = some p → p.is64 = false → (oa.bl = 0 ∨ strideElems (w 1) (wbits (w 3) 15 0) % oa.bl = 0) →
        let me : GangWait := { desc := va d, core := c.core, issuer := c.issuer, words := wordsOf 8 bs, at_ := s.coreCycle c.core, limit := wbits (w 5) 31 0 }
        e.st.coreCycle c.core = s.coreCycle c.core →
        ∃ t : State, exec (.mgang h d) s = .next (t.gangArrived g.core d) ∧ t.gangs = e.st.gangs ++ [me] ∧
          ∀ x ∈ (t.core c.core).records, x.1 ≠ c.issuer))) ∧
    (∀ (desc : Nat) (d0 : Word) (die : Nat), (∃ n ∈ gangCores d0 die, ∀ w ∈ s.gangs, w.desc = desc → w.core ≠ n) →
      (∀ w ∈ s.gangs, ∀ v ∈ s.gangs, w.desc = desc → v.desc = desc → w.words.take 5 = v.words.take 5) → s.formGang desc d0 die = s) ∧
    (∀ (desc : Nat) (w : GangWait), w ∈ s.gangs → w.desc = desc → w.limit ≠ 0 → w.at_ + w.limit ≤ s.coreCycle w.core →
      ∃ t, exec (.gangFormationTimeout desc) s = .next t ∧ ∀ v ∈ t.gangs, v.desc ≠ desc ∧ v ∈ s.gangs)

/-- R295 to R302: VROWST gives a row's maximum, sum and sum of squares, the sum of its exponentials, or a row's dot product
with another's and their sums; VDMASK gives 128 keep bits of the slot's dropout seed. -/
def Obligations.RowStatisticsAndMasks : Prop :=
  ∀ (s : State) (vd vs1 : VReg) (acc : BitVec 2) (grp : BitVec 4) (x : VWord),
    let o := s.slot s.cur
    let k := s.core (Claims.cc s)
    let rm := rmOf o.vctl
    let row := fun (t r : Nat) => (List.range 64).map fun j => Fmt.fp32.value (k.accGet false (accIx t (4 * grp.toNat + r) j))
    let a := fun (r : Nat) => row acc.toNat r
    let b := fun (r : Nat) => row (acc.toNat ^^^ 2) r
    let v := vd.toNat
    let two := fun (r0 : VWord) (r1 : VWord) (r2 : VWord) (f : Flags) => fun (sl : Slot) =>
      (((sl.setV v r0).setV (v + 1) r1).setV (v + 2) r2).addFlags f
    (o.bound v = true → ∀ m, exec (.vrowst vd acc grp m) s = Claims.traps s 2 (s.wordOf (.vrowst vd acc grp m))) ∧
    (o.bound v = false → o.bound (v + 1) = false → o.bound (v + 2) = false → s.matrixRunning (Claims.cc s) = none → k.errAcc = [] →
      (∃ r0 r1 r2 f, exec (.vrowst vd acc grp .stats) s = Claims.done s (two r0 r1 r2 f) ∧ ∀ r, r < 4 →
        laneOf 4 r0 r = (Fmt.fp32.finish (foldNum FVal.maxNum (a r)) rm false).1 % 2 ^ 32 ∧
        laneOf 4 r1 r = (Fmt.fp32.finish (exactSum rm (a r)) rm false).1 % 2 ^ 32 ∧
        laneOf 4 r2 r = (dotRound rm ((a r).zip (a r))).1 % 2 ^ 32) ∧
      (∃ r1 f, exec (.vrowst vd acc grp .expSum) s = Claims.done s (fun sl => (sl.setV (v + 1) r1).addFlags f) ∧ ∀ r, r < 4 →
        laneOf 4 r1 r = (expSum rm (Fmt.fp32.value (laneOf 4 (o.vr v) r)) (a r)).1 % 2 ^ 32) ∧
      (∃ r0 r1 r2 f, exec (.vrowst vd acc grp .dots) s = Claims.done s (two r0 r1 r2 f) ∧ ∀ r, r < 4 →
        laneOf 4 r0 r = (dotRound rm ((a r).zip (b r))).1 % 2 ^ 32 ∧
        laneOf 4 r1 r = (Fmt.fp32.finish (exactSum rm (b r)) rm false).1 % 2 ^ 32 ∧
        laneOf 4 r2 r = (Fmt.fp32.finish (exactSum rm (a r)) rm false).1 % 2 ^ 32)) ∧
    (o.vsrc vs1.toNat = some x → o.bound v = false → ∃ r, exec (.vdmask vd vs1) s = Claims.wrote s [vs1] vd r 0 ∧
      let key := mix64 (o.dseed + wordOfNat (laneOf 4 x 0 * 0x9E3779B97F4A7C15))
      ∀ i, i < 128 → r.toNat.testBit i =
        decide (laneOf 4 x 3 ≤ wbits (mix64 (key ^^^ wordOfNat (laneOf 4 x 1 * 2 ^ 32 + (laneOf 4 x 2 + i) % 2 ^ 32))) 63 32))

/-! ### Copies -/

/-- R311 to R319, R323: a step of a copy or bulk command moves one piece, which lies within one sector of its destination,
and goes on; the command completes with OK once every byte is written and has landed, and waits until then. A piece
written to a page is performed at its home. CPY writes in ascending order (R314): while a slice refuses its next piece it writes
nothing, and reads the later pieces of its 4 KiB meanwhile; CPYS reads ahead in the same way. CPYS is SHAPE for a byte count that is no
multiple of 16 and as a remote command, whether or not its stream can be delivered. (That a step moves one piece within one sector, or
one element, and reads ahead within its 4 KiB, is the model's choice of a step: log 36.) -/
def Obligations.CopyAndBulkCommands : Prop :=
  ∀ (s : State) (g : EngSel) (c : Cmd) (h : TcwHdr) (b : BarRef) (src dst : Word) (bytes : BitVec 40),
    (Claims.Engine s g c → c.barFault = false → b.bv = false → sfind c.skip c.prog = none → Claims.good src → Claims.good dst →
    let e0 := Claims.at_ s c
    let at_ := fun (p : Word) (o : Nat) => (va p + o) % 2 ^ 56
    let left := bytes.toNat - c.prog
    let n := piece (at_ dst c.prog) c.prog left
    let kept := fun (l : List Byte) (e : EngSt) => { e with cmd := { e.cmd with part := [(0, (natOfBytes l : Int))] } }
    let pat := fun (l : List Byte) => (List.range n).map fun i => l.getD ((c.prog + i) % 16) 0
    (left = 0 → exec (.cpy h b src dst bytes) s = Claims.ends e0 g 0) ∧
    (left ≠ 0 → ∀ bs e1 e2, Eng.take (at_ src c.prog) n e0 = .ok (bs, e1) → Eng.put b (at_ dst c.prog) bs e1 = .ok ((), e2) →
      exec (.cpy h b src dst bytes) s = Claims.moved e2 g c.prog n) ∧
    (left ≠ 0 → ∀ f w, (Eng.take (at_ src c.prog) n e0 = .error (.retry f w) ∨
        ∃ bs e1, Eng.take (at_ src c.prog) n e0 = .ok (bs, e1) ∧ Eng.put b (at_ dst c.prog) bs e1 = .error (.retry f w)) →
      exec (.cpy h b src dst bytes) s = .next (s.refuseRemote g c (readAhead e0 f (at_ src)
        (piecesFrom (fun o => piece (at_ dst o) o (bytes.toNat - o)) (c.prog / 4096) 4096 (c.prog + n))) w)) ∧
    (left ≠ 0 → va src % 16 = 0 → c.part = [] → ∀ p e1 e2, Eng.take (va src) 16 e0 = .ok (p, e1) → p.length = 16 →
      Eng.put b (at_ dst c.prog) (pat p) (kept p e1) = .ok ((), e2) → exec (.fill h b dst src bytes) s = Claims.moved e2 g c.prog n) ∧
    (∀ dpkg : BitVec 12, inWindow (va src) = false → inWindow (va dst) = false →
      (left = 0 → exec (.bcpy h b src dst bytes dpkg false) s = Claims.ends e0 g 0) ∧
      (left ≠ 0 → ∀ bs e1 e2, Eng.take (at_ src c.prog) n e0 = .ok (bs, e1) → Eng.put b (at_ dst c.prog) bs e1 = .ok ((), e2) →
        exec (.bcpy h b src dst bytes dpkg false) s = Claims.moved e2 g c.prog n) ∧
      (left ≠ 0 → va src % 16 = 0 → c.part = [] → ∀ p e1 e2, Eng.take (va src) 16 e0 = .ok (p, e1) → p.length = 16 →
        Eng.put b (at_ dst c.prog) (pat p) (kept p e1) = .ok ((), e2) → exec (.bfill h b dst src bytes) s = Claims.moved e2 g c.prog n) ∧
      (dpkg = 0xFFF → exec (.bcpy h b src dst bytes dpkg true) s = Claims.ends e0 g 4)) ∧
    (∀ f : Copy2F, f.src = src → f.dst = dst →
      let w := f.cols.toNat
      let o := c.prog % w
      let a := (va dst + c.prog / w * f.dstride.toNat * 16 + o) % 2 ^ 56
      let m := piece a c.prog (min (w - o) (f.rows.toNat * w - c.prog))
      (f.rows.toNat ≠ 0 → w ≠ 0 → c.prog < f.rows.toNat * w → ∀ bs e1 e2,
        Eng.take ((va src + c.prog / w * f.sstride.toNat * 16 + o) % 2 ^ 56) m e0 = .ok (bs, e1) → Eng.put b a bs e1 = .ok ((), e2) →
        exec (.cpy2d h b f) s = Claims.moved e2 g c.prog m) ∧
      (1 ≤ ptrCode src → ptrCode src ≤ 9 → ptrCode dst = ptrCode src →
        let z := memBits (ptrCode src) / 8
        let i := c.prog / z / or256 w
        let j := c.prog / z % or256 w
        c.prog < or256 f.rows.toNat * or256 w * z →
        (i < or256 f.rowlim.toNat → j < or256 f.collim.toNat → ∀ bs e1 e2,
          Eng.take ((va src + i * f.sstride.toNat * 16 + j * z) % 2 ^ 56) z e0 = .ok (bs, e1) →
          Eng.put b ((va dst + j * f.dstride.toNat * 16 + i * z) % 2 ^ 56) bs e1 = .ok ((), e2) → exec (.cpyt h b f) s = Claims.moved e2 g c.prog z) ∧
        (or256 f.rowlim.toNat ≤ i ∨ or256 f.collim.toNat ≤ j → ∀ e2,
          Eng.put b ((va dst + j * f.dstride.toNat * 16 + i * z) % 2 ^ 56) (List.replicate z 0) e0 = .ok ((), e2) →
          exec (.cpyt h b f) s = Claims.moved e2 g c.prog z))) ∧
    (∀ stream : BitVec 2, (c.reachesWindow = false ∨ bytes.toNat % 16 ≠ 0) → exec (.cpys h b src bytes stream) s = Claims.ends e0 g 4) ∧
    (∀ stream : BitVec 2, c.reachesWindow = true → bytes.toNat % 16 = 0 → c.prog < bytes.toNat →
      (s.canDeliver c.core stream.toNat = none → exec (.cpys h b src bytes stream) s = .next s) ∧
      (∀ k p bs e1, s.canDeliver c.core stream.toNat = some (k, p) → Eng.take (at_ src c.prog) 16 e0 = .ok (bs, e1) →
        exec (.cpys h b src bytes stream) s = Claims.moved
          { e1 with st := e1.st.modSlot k fun sl => { sl with ports := sset sl.ports p (sl.port p ++ [vOfBytes bs]) } } g c.prog 16) ∧
      (∀ k p f w, s.canDeliver c.core stream.toNat = some (k, p) → Eng.take (at_ src c.prog) 16 e0 = .error (.retry f w) →
        exec (.cpys h b src bytes stream) s = .next (s.refuseRemote g c (readAhead e0 f (at_ src)
          (piecesFrom (fun o => piece (at_ src o) o (bytes.toNat - o)) (c.prog / 4096) 4096
            (c.prog + piece (at_ src c.prog) c.prog (bytes.toNat - c.prog)))) w))) ∧
    (∀ (index : Word) (count : BitVec 8) (eb : BitVec 3), Claims.good index → (ptrCode index = 7 ∨ ptrCode index = 8 ∨ ptrCode index = 9) →
      let z := memBits (ptrCode index) / 8
      let w := 2 ^ eb.toNat
      c.prog < or256 count.toNat * w → ∀ ix bs e1 e2 e3, Eng.take ((va index + c.prog / w * z) % 2 ^ 56) z e0 = .ok (ix, e1) →
        Eng.take ((va src + natOfBytes ix * w) % 2 ^ 56) w e1 = .ok (bs, e2) →
        Eng.put b ((va dst + c.prog) % 2 ^ 56) bs e2 = .ok ((), e3) → exec (.cpyg h b index src dst count eb) s = Claims.moved e3 g c.prog w)) ∧
    (∀ (e : EngSt) (a : Nat) (bs : List Byte) (t : TEntry), b.bv = false → a < 2 ^ 56 → bs ≠ [] → a % 64 + bs.length ≤ 64 → inWindow a = false →
      Eng.page a .wr (fun _ => true) e = .ok (t, e) → Eng.put b a bs e = .ok ((), { e with st := e.st.writeFor e.cmd.ctx t a bs })) ∧
    (∀ (core : Nat) (d : Cmd), (s.core core).queue 4 = [d] → (s.core core).remote 4 = [] → (s.bulk (s.bulkTarget d)).length < 16 → s.bulkAfter core d = false →
      ∃ t, exec (.bulkForward core) s = .next t ∧ t.bulk (s.bulkTarget d) = s.bulk (s.bulkTarget d) ++ [{ d with accepted := s.coreCycle core }] ∧ (t.core core).queue 4 = []) ∧
    (∀ (k : Nat) (x : EngSel) (d : Cmd) (n due : Nat), s.resends[k]? = some (x, d, n, due) →
      (due ≤ s.coreCycle x.core → exec (.retryAfterResend k) s = .next (s.setCmd x { d with retries := sdel d.retries n })) ∧
      (s.coreCycle x.core < due → exec (.retryAfterResend k) s = .next s))

/-! ### The commons -/

/-- R364, R366 to R369, R376 to R380: the commons instructions on a word that their checks admit. A deposit adds its amount
unless the mass would leave the I64 range, which is cause 50 with stval 3; GEST, GSPREAD and GMASS read, and a slot that consumes
an uncorrectable spread record is killed (R421); GXCH exchanges
with the peer of a port slot and waits for its escrow, waits while the port cannot take it, and does nothing towards a
fenced one. What an exchange keeps and what it sends add up to what was there. A misaligned address is stval 2, the
local window stval 1. -/
def Obligations.CommonsInstructions : Prop :=
  ∀ (s : State) (rd rs1 rs2 : Reg),
    let a := (Claims.xs s rs1).toNat % 2 ^ 56
    let y := Claims.xs s rs2
    let fin := fun (t : State) => (.next (t.commit t.cur none) : Host.Outcome State Fault Refusal)
    (a % 8 ≠ 0 → exec (.gdepx rs1 rs2) s = Claims.traps s 50 2 ∧ exec (.gdepw rs1 rs2) s = Claims.traps s 50 2 ∧
      exec (.gest rd rs1) s = Claims.traps s 50 2 ∧ exec (.gspread rd rs1) s = Claims.traps s 50 2 ∧
      exec (.gmass rd rs1) s = Claims.traps s 50 2 ∧ exec (.gxch rs1 rs2) s = Claims.traps s 50 2) ∧
    (a % 8 = 0 → Config.windowBase ≤ a → exec (.gdepx rs1 rs2) s = Claims.traps s 50 1 ∧ exec (.gest rd rs1) s = Claims.traps s 50 1) ∧
    (a % 8 = 0 → a < Config.windowBase → (∀ e, (s.core (Claims.cc s)).plbFind a = some e → wbit e 4 = false) →
      exec (.gdepx rs1 rs2) s = Claims.traps s 7 (wordOfNat a) ∧ exec (.gest rd rs1) s = Claims.traps s 5 (wordOfNat a)) ∧
    (∀ (i : Instr) (ok : Region → Nat → Bool),
      (i = .gdepx rs1 rs2 ∧ ok = valueWord) ∨ (i = .gdepw rs1 rs2 ∧ ok = fun _ w => decide (w = 0)) →
      ∀ r u, Act.cell rs1 .store ok s = .ok (r, u) → u.slot u.cur = s.slot s.cur →
        let ws := u.refWords r
        let m := u.mass r.rn r.n ws r.word + y.toInt
        (-(2 ^ 63) ≤ m → m < 2 ^ 63 → exec i s = fin (u.putCell r.reg.ctx r.t (r.addr / 256 * 256) (addWord ws r.word y.toInt))) ∧
        (m < -(2 ^ 63) ∨ 2 ^ 63 ≤ m → exec i s = Claims.trapsAt s r.addr true 50 3)) ∧
    (∀ r u, Act.cell rs1 .load valueWord s = .ok (r, u) → exec (.gest rd rs1) s =
      Claims.result u rd (wordOfNat (estimate r.reg.q (cellWord (u.refWords r) 0) (cellWord (u.refWords r) r.word)).1)) ∧
    (∀ r u, Act.cell rs1 .load (fun g w => w = 0 || valueWord g w) s = .ok (r, u) → exec (.gmass rd rs1) s =
      Claims.result u rd (wordOfInt (u.mass r.rn r.n (u.refWords r) r.word))) ∧
    (∀ r u t v, Act.cell rs1 .load (fun _ w => w = 0) s = .ok (r, u) →
      let b := r.reg.spreadSlot r.n 0
      let n := r.reg.ports.length
      let d := dieOf (coreOf v.cur)
      u.translate (sliceOf (coreOf u.cur)) b false = .ok (t, v) → u.cur = s.cur → v.cur = s.cur →
        (v.badAt t d b (8 * n) = false → exec (.gspread rd rs1) s =
          Claims.result (v.fillRange t d b (8 * n)) rd (wordOfNat (maxSpread ((wordsOf n (v.homeRead t d b (8 * n))).map (·.toNat))))) ∧
        (v.badAt t d b (8 * n) = true → exec (.gspread rd rs1) s =
          .next (((s.walked r.addr false).walked b false).kill s.cur 52 (wordOfNat b)))) ∧
    (∀ r u, Act.cell rs1 .store (fun _ w => w = 0) s = .ok (r, u) → u.slot u.cur = s.slot s.cur →
      let port := r.reg.ports.getD y.toNat 0
      let p := u.port port
      let ready := p.state ≠ .down ∧ p.state ≠ .resync ∧ p.holds r.rn r.n = false ∧ p.escrows.length < 64
      (r.reg.ports.length ≤ y.toNat → exec (.gxch rs1 rs2) s = Claims.trapsAt s r.addr true 50 4) ∧
      (y.toNat < r.reg.ports.length → ¬ ready → exec (.gxch rs1 rs2) s = .next (s.walked r.addr true)) ∧
      (y.toNat < r.reg.ports.length → ready → p.state = .fenced ∨ r.reg.removing = true → exec (.gxch rs1 rs2) s = fin u) ∧
      (y.toNat < r.reg.ports.length → ready → p.state ≠ .fenced → r.reg.removing = false →
        let x := u.exchange r.rn r.reg r.n y.toNat r.t
        (x.1 = none → exec (.gxch rs1 rs2) s = fin x.2) ∧
        (∀ q, x.1 = some q → exec (.gxch rs1 rs2) s = .next (x.2.modSlot x.2.cur fun sl => { sl with wait := .escrow port q })))) ∧
    (∀ (ws : List Word) (n : Nat), ws.length = 32 → n ≤ 30 →
      let h := halve ws n
      cellWord h.1 0 + h.2.1 = cellWord ws 0 ∧ h.2.2.length = n ∧
      (∀ j, j < n → cellWord h.1 (2 + j) + h.2.2.getD j 0 = cellWord ws (2 + j)) ∧
      (∀ j, j ≠ 0 → (j < 2 ∨ 2 + n ≤ j) → cellWord h.1 j = cellWord ws j))

/-- R365, R366: COMMONS.CFG, whose descriptor names the operation. A malformed descriptor is cause 50 with stval 5. A define
of a region that does not exist yet, over ranges that its checks admit, makes the region; a remove of one with no escrow
outstanding writes its report and removes it, else it waits and no exchange starts any more; a report writes the
counters. R369 to R373, R375, R382, R383, R386: the commons commands, one cell a step, and the drover engines' own
moves. GSEED sets a cell, its values from I64 elements, and its spread slots; GDEP.R adds to every word of a cell whose
masses stay in range and leaves another whole, ending with status 48; GREAD copies a cell, sector by sector as its destination's
translations are there; GPACE sets the pace. A packet is answered: applied only where the tags agree and every mass stays in range; the
reply drops the escrow, returns it, or has it sent again. R315: a request of a drover engine that its slice refuses is sent again after
its hint. (One cell a step is log 36; FORMAT and SHAPE of GPACE before NOREGION is log 32; that an escrow in doubt which is discarded
counts in both d14 and d15 is log 47; these are the model's choices.) -/
def Obligations.CommonsCommands : Prop :=
  (∀ (s : State) (rs1 : Reg) (i : Instr), i = .commonsCfgDefine rs1 ∨ i = .commonsCfgRemove rs1 ∨ i = .commonsCfgReport rs1 →
     let a := (Claims.xs s rs1).toNat % 2 ^ 56
     ((s.slot s.cur).priv = .u → exec i s = Claims.traps s 2 (s.wordOf i)) ∧
     ((s.slot s.cur).priv ≠ .u → ∀ u, s.release (Claims.cc s) .package = .ok u →
       (a % 128 ≠ 0 → exec i s = Claims.traps (Claims.relWalks s .package) 4 (wordOfNat a)) ∧
       (a % 128 = 0 → ∀ bs v, Act.loadRecord a 64 u = .ok (bs, v) →
         let s' := Claims.relWalks s .package
         let d := wordsOf 8 bs
         let op := wbits (d.getD 1 0) 51 50
         let rn := wbits (d.getD 1 0) 41 38
         let r0 := descRegion d (v.ctxOf v.cur) (v.cur / 4)
         (descBad d = true → exec i s = Claims.trapsRead s' u a 64 50 5) ∧
         (descBad d = false → op = 0 → sfind v.regions rn = none →
           (∀ e ∈ v.regions, r0.base + 256 * r0.ncell ≤ e.2.base ∨ e.2.base + 256 * e.2.ncell ≤ r0.base) → ∀ v1 v2 v3 w1 w2 w3,
           Act.rangeOk a 128 .load 0 (fun _ => true) v = .ok ((true, w1), v1) →
           Act.rangeOk r0.base (256 * r0.ncell) .store 3 (fun e => wbit e 4) v1 = .ok ((true, w2), v2) →
           Act.rangeOk r0.spread (64 * r0.ncell) .store 0 (fun e => wbit e 0 && wbit e 1) v2 = .ok ((true, w3), v3) →
           v3.regions = v.regions → v3.cur = v.cur → ∀ v4, Act.initCells r0 (wbits (d.getD 3 0) 31 0) v3 = .ok ((), v4) → v4.regions = v.regions →
           ∃ t, exec i s = .next t ∧ sfind t.regions rn = some r0 ∧ ∀ n, n ≠ rn → sfind t.regions n = sfind v.regions n) ∧
         (descBad d = false → op = 0 → sfind v.regions rn = none →
           (∀ e ∈ v.regions, r0.base + 256 * r0.ncell ≤ e.2.base ∨ e.2.base + 256 * e.2.ncell ≤ r0.base) → ∀ v1 v2 w1 w2,
           Act.rangeOk a 128 .load 0 (fun _ => true) v = .ok ((true, w1), v1) → v1.regions = v.regions → v1.cur = v.cur →
           Act.rangeOk r0.base (256 * r0.ncell) .store 3 (fun e => wbit e 4) v1 = .ok ((false, w2), v2) →
           exec i s = Claims.traps (Claims.walks s' (u.missed (Claims.cc u) a 64 ++ w1 ++ w2)) 50 6) ∧
         (∀ r, descBad d = false → op = 1 ∨ op = 2 → sfind v.regions rn = some r →
           (r.ctx ≠ v.ctxOf v.cur → exec i s = Claims.trapsRead s' u a 64 50 6) ∧
           (r.ctx = v.ctxOf v.cur → op = 1 → (v.allEscrows.any fun e => e.2.pkt.region == rn) = true →
             exec i s = .next (v.modRegion rn fun x => { x with removing := true })) ∧
           (r.ctx = v.ctxOf v.cur → op = 2 ∨ (v.allEscrows.any fun e => e.2.pkt.region == rn) = false →
             ∀ w, v.writeHome (v.cur / 4) (a + 64) r.report .store = .ok w →
               let w' := if op = 1 then { w with regions := sdel w.regions rn } else w
               exec i s = .next (w'.commit w'.cur none)))))) ∧
  (∀ (s : State) (g : EngSel) (c : Cmd) (h : TcwHdr) (cells data : Word) (m : BitVec 24),
     (Claims.Engine s g c →
     let e0 := Claims.at_ s c
     let n := m.toNat + 1
     let go := fun (e : EngSt) (code : Nat) => if e.cmd.prog + 1 < n then Claims.goes e g { e.cmd with prog := e.cmd.prog + 1 } else Claims.ends e g code
     (∀ rn r first z t xs e1, Eng.cellCheck cells data n e0 = .ok ((rn, r, first, z), e0) →
       let a := r.cell (first + c.prog)
       let ask := fun (units : List Nat) => Eng.request [.cell a, Request.elements data z c.prog r.nval] units e0
       (∀ (tag w0 : BitVec 32) (f : Fetched) (w : Bool), w0 ≠ 0 → ask [r.spreadSlot (first + c.prog) 0] = .error (.retry f w) →
         exec (.gseed h cells data m tag w0) s = .next (s.refuseRemote g c f w)) ∧
       (∀ (dw : Word) (f : Fetched) (w : Bool), ask [] = .error (.retry f w) → exec (.gdepR h cells data m dw) s = .next (s.refuseRemote g c f w)) ∧
       (Eng.page a .cell (fun _ => true) e0 = .ok (t, e0) → ptrCode data = 0 → Eng.elements data z c.prog r.nval e0 = .ok (xs, e1) →
         let vs := xs.map (sextInt 64)
         (∀ (tag w0 : BitVec 32), w0 = 0 → exec (.gseed h cells data m tag w0) s = Claims.ends e0 g 4) ∧
         (∀ (tag w0 : BitVec 32), w0 ≠ 0 → ask [r.spreadSlot (first + c.prog) 0] = .ok ((), e0) →
           let base := ((e1.st.cellWords t c.core a).set 0 (w0.setWidth 64)).set 1 (wordOfNat tag.toNat)
           let cell := (List.range r.nval).foldl (fun l i => l.set (2 + i) (wordOfInt (vs.getD i 0))) base
           ∀ v, (e1.st.putCell r.ctx t a cell).clearSpread r (first + c.prog) = .ok v →
             exec (.gseed h cells data m tag w0) s = go { e1 with st := v } 0) ∧
         (∀ (dw : Word) (raw : List Byte) (e2 : EngSt), ask [] = .ok ((), e0) → Eng.sector a 256 t e1 = .ok (raw, e2) →
           let ws := wordsOf 32 raw
           let adds := (0, dw.toInt) :: (List.range r.nval).map fun i => (2 + i, vs.getD i 0)
           let code := fun (e : EngSt) => if e.cmd.part.isEmpty then 0 else 48
           ((∀ x ∈ adds, inI64 (e2.st.mass rn (first + c.prog) ws x.1 + x.2) = true) →
             let e3 := { e2 with st := e2.st.putCell r.ctx t a (adds.foldl (fun l x => addWord l x.1 x.2) ws) }
             exec (.gdepR h cells data m dw) s = go e3 (code e3)) ∧
           ((∃ x ∈ adds, inI64 (e2.st.mass rn (first + c.prog) ws x.1 + x.2) = false) →
             exec (.gdepR h cells data m dw) s = go { e2 with cmd := { e2.cmd with part := [(0, 1)] } } 48)))) ∧
     (∀ rn r first z raw e1, Eng.cellCheck cells data n e0 = .ok ((rn, r, first, z), e0) → ptrCode data = 0 →
       let a := r.cell (first + c.prog)
       (c.fetchedAt a 256 = none ∧ (∃ t, Eng.page a .cell (fun _ => true) e0 = .ok (t, e0) ∧ Eng.sector a 256 t e0 = .ok (raw, e1))) ∨
         (c.fetchedAt a 256 = some raw ∧ e1 = e0) →
       let out := Eng.writeAll [((va data + 256 * c.prog) % 2 ^ 56, raw)] { e1 with cmd := { e1.cmd with fetched := keepBytes [] a raw } }
       (∀ e2, out = .ok ((), e2) → exec (.gread h cells data m) s = go { e2 with cmd := { e2.cmd with skip := [] } } 0) ∧
       (∀ ws missing got, out = .error (.later ws missing got) → exec (.gread h cells data m) s = .next (s.refuseWrites g c ws missing got))) ∧
     (∀ (mode : BitVec 2) (share : BitVec 8), Claims.good cells →
       (mode = 3 → exec (.gpace h cells mode share) s = Claims.ends e0 g 4) ∧
       (mode ≠ 3 → ∀ bs e r, Eng.read (va cells) 64 e0 = .ok (bs, e) →
         let d := wordsOf 8 bs
         let rn := wbits (d.getD 1 0) 41 38
         let reserved := wbits (d.getD 1 0) 63 52 ≠ 0 ∨ wbits (d.getD 2 0) 63 36 ≠ 0 ∨ wbits (d.getD 3 0) 63 32 ≠ 0 ∨
           d.getD 5 0 ≠ 0 ∨ d.getD 6 0 ≠ 0 ∨ d.getD 7 0 ≠ 0
         (reserved → exec (.gpace h cells mode share) s = Claims.ends e g 4) ∧
         (¬ reserved → sfind e.st.regions rn = none ∨ (sfind e.st.regions rn = some r ∧ r.ctx ≠ e.cmd.ctx) →
           exec (.gpace h cells mode share) s = Claims.ends e g 49) ∧
         (¬ reserved → sfind e.st.regions rn = some r → r.ctx = e.cmd.ctx → exec (.gpace h cells mode share) s =
           Claims.ends { e with st := e.st.modRegion rn fun x => { x with mode := mode.toNat, share := share.toNat } } g 0)))) ∧
     (∀ (port rn k : Nat) (r : Region), sfind s.regions rn = some r → r.ports.findIdx? (· == port) = some k → r.mode ≠ 2 → r.removing = false →
       (s.port port).state = .up → (s.port port).escrows.length < 64 →
       let i := sget 0 (s.port port).walk rn
       let s' := s.modPort port fun p => { p with walk := sput 0 p.walk rn (if i + 1 < r.ncell then i + 1 else 0) }
       ((s.port port).holds rn i = true → exec (.droverExchange port rn) s = .next s') ∧
       ((s.port port).holds rn i = false →
         (∀ t, s.unitPage port r.core (r.cell i) = some t → exec (.droverExchange port rn) s = .next (s'.exchange rn r i k t).2) ∧
         (s.unitPage port r.core (r.cell i) = none →
           exec (.droverExchange port rn) s = .next (s.unitRefused port r.ctx r.core (r.cell i))))) ∧
     (∀ (unit x core a : Nat),
       (s.unitWaits unit a = true → s.unitPage unit core a = none ∧ s.unitRefused unit x core a = s) ∧
       (s.unitWaits unit a = false → s.unitPage unit core a = s.held (dieOf core) a ∧
         let u := { s with hints := s.hints.filter (fun (y : Nat × Nat × Nat) => decide (s.cycle < y.2.2)) ++ [(unit, a / 64, s.cycle + Config.hintOf a * 64)] }
         (∀ t v, u.walk (sliceOf core) a true = .ok (t, v) → s.unitRefused unit x core a = v) ∧
         (∀ f, u.walk (sliceOf core) a true = .error f → s.unitRefused unit x core a = u.serviced unit x core a f))) ∧
     (∀ (port : Nat) (new p : Packet) (rest : List Packet) (r : Region), (s.port port).state = .up → (s.port port).arrived ++ [new] = p :: rest →
       sfind s.regions p.region = some r → p.cell < r.ncell →
       let s1 := s.modPort port fun q => { q with arrived := rest }
       let stay := fun (a : Nat) => exec (.droverPacketReceive port new) s =
         .next ((s.modPort port fun q => { q with arrived := p :: rest }).unitRefused port r.ctx r.core a)
       (s1.unitPage port r.core (r.cell p.cell) = none → stay (r.cell p.cell)) ∧ ∀ t,
       s1.unitPage port r.core (r.cell p.cell) = some t →
       let read := s1.unitCell r.ctx r.core t (r.cell p.cell)
       let ws := read.1
       let v := read.2
       let ahead := (p.tag - cellTag ws).toNat
       let fits := ∀ j, j = 0 ∨ (2 ≤ j ∧ j < 2 + r.nval) → inI64 (v.mass p.region p.cell ws j + packetHalf p j) = true
       let answer := fun (w : State) (d : Nat) (x : Reply) => exec (.droverPacketReceive port new) s =
         .next ((w.modRegion p.region (Region.count d 1)).modPort port fun q =>
           { q.record p.seq (decide (x = .applied)) with replies := q.replies ++ [(p.seq, x)] })
       (2 ^ 31 ≤ ahead → answer v 10 .stale) ∧
       (0 < ahead → ahead < 2 ^ 31 → answer v 11 .early) ∧
       (ahead = 0 → fits → (∀ w, v.applyPacket port p r t ws = .ok w → answer w 9 .applied) ∧
         (∀ a, v.applyPacket port p r t ws = .error a → stay a)) ∧
       (ahead = 0 → ¬ fits → answer v 12 .overflow)) ∧
     (∀ (port : Nat) (q : BitVec 32) (e : Escrow) (r : Reply), s.escrow port q = some e →
       (e.state = .sent → (s.port port).state = .up → exec (.escrowResolve port q r) s = .next (match r with
         | .applied => s.dropEscrow port q
         | .early => s.modEscrow port q fun e => { e with state := .waiting (s.cycle + 1024) }
         | .stale | .overflow => s.modEscrow port q fun e => { e with state := .returning 0 })) ∧
       (∀ k reg t, e.state = .returning k → sfind s.regions e.pkt.region = some reg →
         s.unitPage port reg.core (reg.cell e.pkt.cell) = some t →
         let read := s.unitCell reg.ctx reg.core t (reg.cell e.pkt.cell)
         let ws := read.1
         let v := read.2.dropEscrow port q
         let back := (0 :: (List.range reg.nval).map (2 + ·)).foldl (fun l i => addWord l i (packetHalf e.pkt i)) ws
         (cellTag ws = e.pkt.tag → exec (.escrowReturn port q) s =
           .next ((v.putCell reg.ctx t (reg.cell e.pkt.cell) back).modRegion e.pkt.region (Region.count (if k = 0 then 13 else 15) 1))) ∧
         (cellTag ws ≠ e.pkt.tag → k = 0 → exec (.escrowReturn port q) s = .next (v.modRegion e.pkt.region (Region.count 14 1))) ∧
         (cellTag ws ≠ e.pkt.tag → k ≠ 0 → exec (.escrowReturn port q) s =
           .next ((v.modRegion e.pkt.region (Region.count 14 1)).modRegion e.pkt.region (Region.count 15 1)))) ∧
       (∀ k reg, e.state = .returning k → sfind s.regions e.pkt.region = some reg →
         s.unitPage port reg.core (reg.cell e.pkt.cell) = none →
         exec (.escrowReturn port q) s = .next (s.unitRefused port reg.ctx reg.core (reg.cell e.pkt.cell))) ∧
       (∀ due, e.state = .waiting due → due ≤ s.cycle → (s.port port).state = .up → ∃ t, exec (.escrowEarlyResend port q) s = .next t ∧
         (t.port port).seqOut = (s.port port).seqOut + 1 ∧
         (t.port port).sentOut = (s.port port).sentOut ++ [{ e.pkt with seq := (s.port port).seqOut }] ∧
         ∀ j, (s.slot j).wait = .escrow port q → (t.slot j).wait = .escrow port (s.port port).seqOut)))

/-! ### The update rule -/

/-- R333, R340, R344 to R352: the rule commands. An update, a META.BWD or a QUAR.CLR whose checks pass delivers its blocks
and waits for them; RULE.Q writes a snapshot of a rule context. The engine of a slice does its next block: an update,
where a block that is not as the command expects is tallied and left and a pinned one waits; QUAR.CLR clears the
header's quarantine bit; META.BWD adds to the slice's record. The last report writes an update's tallies and ends the
command, holding the versions that diverged. A descriptor that is misaligned, or has a reserved bit set or a field out of
its range, ends the command as SHAPE (R263). (That FORMAT of META.BWD comes before the descriptor's SHAPE and RIGHTS, and the SHAPE of a
count before RIGHTS, is the model's choice: log 32. R362: that a block which a slice has passed stays with the engine that had it then is
log 78.) -/
def Obligations.RuleCommands : Prop :=
  ∀ (s : State) (g : EngSel) (c : Cmd) (h : TcwHdr) (p q r3 : Word),
    let e0 := Claims.at_ s c
    let starts := fun (e : EngSt) (x : RuleRun) => Claims.goes { e with st := { e.st with ruleRuns := e.st.ruleRuns ++ [x] } } g e.cmd
    (Claims.Engine s g c →
    (∀ (f : UpdF) (tr : Bool), Claims.good f.region → Claims.good f.grad → (ptrCode f.grad = 2 ∨ ptrCode f.grad = 3 ∨ ptrCode f.grad = 14) →
      let i : Instr := if tr then .updT h f else .upd h f
      (f.count = 0 ∨ 2 ^ 24 < f.count.toNat → exec i s = Claims.ends e0 g 4) ∧
      (1 ≤ f.count.toNat → f.count.toNat ≤ 2 ^ 24 → ∀ d e, Eng.descriptor f.region f.first.toNat f.count.toNat tr e0 = .ok (d, e) →
        ∀ gs e', Eng.gradRegion f.grad f.first.toNat f.count.toNat e = .ok (gs, e') →
        ∃ x : RuleRun, exec i s = starts e' x ∧ x.cmd = e'.cmd ∧ x.desc = d ++ gs ∧ (ptrCode f.grad ≠ 14 → gs = []) ∧ x.versions = [] ∧ x.code = 0 ∧ x.updated = false ∧ x.newQuar = 0 ∧
          x.todo = (List.range f.count.toNat).map (f.first.toNat + ·))) ∧
    (∀ (first : BitVec 24) (count : BitVec 25), Claims.good p →
      (1 ≤ count.toNat → count.toNat ≤ 2 ^ 24 → va p % 128 ≠ 0 → exec (.quarClr h p first count) s = Claims.ends e0 g 4) ∧
      (1 ≤ count.toNat → count.toNat ≤ 2 ^ 24 → va p % 128 = 0 → ∀ bs e, Eng.readAs .read descClass (va p) 80 e0 = .ok (bs, e) →
        let d := ruleDesc (wordsOf 10 bs)
        (ruleDescReserved (wordsOf 10 bs) = true ∨ d.nblk = 0 ∨ 2 ^ 24 < d.nblk ∨ 2 ^ 24 < d.ttrap ∨ 256 < d.tclamp ∨ d.base % 256 ≠ 0 ∨
          d.nblk < first.toNat + count.toNat) → exec (.quarClr h p first count) s = Claims.ends e g 4) ∧
      (count.toNat = 0 ∨ 2 ^ 24 < count.toNat → exec (.quarClr h p first count) s = Claims.ends e0 g 4) ∧
      (1 ≤ count.toNat → count.toNat ≤ 2 ^ 24 → ∀ d e, Eng.descriptor p first.toNat count.toNat false e0 = .ok (d, e) →
        ∃ x : RuleRun, exec (.quarClr h p first count) s = starts e x ∧ x.cmd = e.cmd ∧ x.desc = d ∧
          x.todo = (List.range count.toNat).map (first.toNat + ·))) ∧
    (∀ (first : BitVec 17) (count : BitVec 12) (kk : BitVec 3), Claims.good p → Claims.good q → Claims.good r3 →
      (ptrCode q ≠ 2 → exec (.metaBwd h p q r3 first count kk) s = Claims.ends e0 g 3) ∧
      (ptrCode q = 2 → ∀ d e, Eng.descriptor p first.toNat (count.toNat + 1) true e0 = .ok (d, e) →
        ∃ x : RuleRun, exec (.metaBwd h p q r3 first count kk) s = starts e x ∧ x.cmd = e.cmd ∧ x.desc = d ∧
          x.todo = (List.range (count.toNat + 1)).map (first.toNat + ·))) ∧
    (∀ rc : BitVec 3, Claims.good p → ptrCode p = 0 → va p % 64 = 0 →
      let k := s.ruleCtx rc.toNat
      (k.owner ≠ some c.ctx → exec (.ruleQ h p rc) s = Claims.ends e0 g 4) ∧
      (k.owner = some c.ctx → ∀ t e, Eng.page (va p) .wr (fun c => c = 0) e0 = .ok (t, e0) →
        let x := k.snapshot (s.homeSlice t (dieOf c.core) (va p))
        Eng.writeAs .wr (fun c => c = 0) (va p) (bytesOfNat 64 x.toNat) e0 = .ok ((), e) → exec (.ruleQ h p rc) s = Claims.ends e g 0))) ∧
    (∀ (n : Nat) (x : RuleRun) (b : Nat) (f : UpdF) (tr : Bool), s.nextBlock n = some (x, g, c, b) → c.updFields = some (f, tr) →
      let d := ruleDesc x.desc
      let a := d.block b
      let y := s.passed x b n
      let did := fun (e : EngSt) (z : RuleRun) => exec (.ruleBlockUpdate n) s = .next ((e.st.setCmd g e.cmd.stepped).setRun z)
      (∀ z e, Eng.blockUpdate y f tr b n e0 = .ok (z, e) → did e z) ∧
      (∀ code e, Eng.blockUpdate y f tr b n e0 = .error (.status code e) →
        exec (.ruleBlockUpdate n) s = .next ((e.st.setCmd g e.cmd).setRun { y with todo := [], code })) ∧
      (∀ q w, Eng.blockUpdate y f tr b n e0 = .error (.retry q w) → exec (.ruleBlockUpdate n) s =
        .next ((s.refuseRemote g c q w).setRun { y with waits := sset y.waits b ((q.missing ++ q.stores).map (· / 64)) })) ∧
      (Eng.checkRange (.gov true) govClass a 5376 e0 = .ok ((), e0) → ∀ bs e, Eng.govRead a 256 e0 = .ok (bs, e) →
        let hs := wordsOf 32 bs
        let rest := y.did b
        let fits := wbits (hs.getD 1 0) 47 32 = 0 ∧ headerBad hs = false
        let act := (e.st.ruleCtx d.rc).slotAt n true
        (wbits (hs.getD 1 0) 47 32 ≠ 0 → did e y) ∧
        (wbits (hs.getD 1 0) 47 32 = 0 → headerBad hs = true → did e { rest with badhdr := x.badhdr + 1 }) ∧
        (fits → wbits (hs.getD 0 0) 31 0 ≠ f.steptag.toNat → did e { rest with stale := x.stale + 1 }) ∧
        (fits → wbits (hs.getD 0 0) 31 0 = f.steptag.toNat → act.version = 0 → did e { rest with norule := x.norule + 1 }) ∧
        (fits → wbits (hs.getD 0 0) 31 0 = f.steptag.toNat → act.version ≠ 0 → act.held = true → did e { rest with held := x.held + 1 }))) ∧
    (∀ (n : Nat) (x : RuleRun) (b : Nat), let y := s.passed x b n
      y = { x with homes := y.homes } ∧ sfind y.homes b = some n ∧
      (∀ j k, j ∈ x.todo.takeWhile (· < b) → s.blockHome x j = some k → j ≠ b → sfind y.homes j = some k) ∧
      ∀ j k, sfind y.homes j = some k → s.blockHome y j = some k) ∧
    (∀ (n : Nat) (x : RuleRun) (b : Nat), s.nextBlock n = some (x, g, c, b) →
      let d := ruleDesc x.desc
      let a := d.block b
      let did := fun (e : EngSt) => exec (.ruleBlockUpdate n) s = .next ((e.st.setCmd g e.cmd.stepped).setRun ((s.passed x b n).did b))
      (∀ first count, decodeTcw c.tcw = some (.quarClr h p first count) → Eng.checkRange (.gov true) govClass a 8 e0 = .ok ((), e0) →
        ∀ bs e1 e2, Eng.govRead a 8 e0 = .ok (bs, e1) →
        Eng.govWrite a (bytesOfNat 8 (setBits (wordOfNat (natOfBytes bs)) 52 52 0).toNat) e1 = .ok ((), e2) → did e2) ∧
      (∀ first count kk, decodeTcw c.tcw = some (.metaBwd h p q r3 first count kk) → Eng.checkRange (.gov true) govClass a 256 e0 = .ok ((), e0) →
        ∀ bs e1, Eng.govRead a 256 e0 = .ok (bs, e1) →
        let hs := wordsOf 32 bs
        let at_ := (va r3 + 8192 * n) % 2 ^ 56
        (wbit (hs.getD 0 0) 53 = false → did e1) ∧
        (wbit (hs.getD 0 0) 53 = true → Eng.checkRange .wr (fun c => c = 0) at_ 6084 e1 = .ok ((), e1) → ∀ old e2 new e3 e4,
          Eng.readAs .read (fun c => c = 0) at_ 6084 e1 = .ok (old, e2) → Eng.bwdBlock d q b (kk.toNat + 1) n hs old e2 = .ok (new, e3) →
          Eng.writeAs .wr (fun c => c = 0) at_ new e3 = .ok ((), e4) → did e4))) ∧
    (∀ (n : Nat) (x : RuleRun), s.ruleRuns[n]? = some x → x.todo = [] → x.code = 0 → s.runCmdOf x = some (g, c) → c.retries = [] →
      s.stopped c.core = false →
      (∀ f tr t e, c.updFields = some (f, tr) → Eng.page (va f.region) .wr descClass e0 = .ok (t, e0) →
        Eng.writeAs .wr descClass ((va f.region + 80) % 2 ^ 56) (x.report.flatMap fun w => bytesOfNat 8 w.toNat) e0 = .ok ((), e) →
        let u := if x.diverged then e.st.modRule (ruleDesc x.desc).rc (RuleCtx.hold x.diverge) else e.st
        exec (.ruleReport n) s = .next ((State.dropCmd { u with ruleRuns := u.ruleRuns.eraseIdx n } g c).report c 2
          (8 * e.st.homeSlice t (dieOf c.core) (va f.region)) x.status)) ∧
      (c.updFields = none → x.newQuar = 0 → exec (.ruleReport n) s =
        .next ((State.dropCmd { s with ruleRuns := s.ruleRuns.eraseIdx n } g c).report c 2 (8 * sliceOf c.core) x.status)))

/-- R337, R338, R353 to R355: RULE.INST fills the standby slot of a rule context of its own context; RULE.ACT makes the
standby slot active and waits: until a slice has exchanged its slots it uses the old image, afterwards the new one, and
with the last slice x[rd] receives both versions. U-mode is illegal; a rule context of another context is cause 30 with
stval 16, an image that is malformed or misaligned stval 17, one of the active version stval 18, an empty standby slot
stval 19. R456: an image that is filled extends its measurement register. An uncorrectable error of a rule store empties
the slot that it strikes in its slice. (That a misaligned image traps with nothing released, and that a trap after the
image has been read undoes the release but not what its walks did, is log 44: R354's pseudocode puts the release first.) -/
def Obligations.RuleContexts : Prop :=
  ∀ (s : State) (rd rs1 rs2 : Reg),
    let k := (Claims.xs s rs1).toNat
    let a := (Claims.xs s rs2).toNat % 2 ^ 56
    let mine := k ≤ 7 ∧ (s.ruleCtx k).owner = some (s.ctxOf s.cur)
    ((s.slot s.cur).priv = .u → exec (.ruleInst rs1 rs2) s = Claims.traps s 2 (s.wordOf (.ruleInst rs1 rs2)) ∧
      exec (.ruleAct rd rs1) s = Claims.traps s 2 (s.wordOf (.ruleAct rd rs1))) ∧
    ((s.slot s.cur).priv ≠ .u → (¬ mine → exec (.ruleInst rs1 rs2) s = Claims.traps s 30 16 ∧ exec (.ruleAct rd rs1) s = Claims.traps s 30 16) ∧
      (mine → a % 64 ≠ 0 → exec (.ruleInst rs1 rs2) s = Claims.traps s 30 17) ∧
      (mine → a % 64 = 0 → ∀ u bs v, s.release (Claims.cc s) .package = .ok u → (u.ruleCtx k).late = [] → Act.loadRecord a 4096 u = .ok (bs, v) →
        let s' := Claims.relWalks s .package
        (imageBad bs = true → exec (.ruleInst rs1 rs2) s = Claims.trapsRead s' u a 4096 30 17) ∧
        (imageBad bs = false → v.ruleCtx k = u.ruleCtx k →
          (∃ i, i < 1024 ∧ ((u.ruleCtx k).slotAt i true).version = (imageSlot bs).version) → exec (.ruleInst rs1 rs2) s =
            Claims.trapsRead s' u a 4096 30 18) ∧
        (imageBad bs = false → v.ruleCtx k = u.ruleCtx k →
          (∀ i, i < 1024 → ((u.ruleCtx k).slotAt i true).version ≠ (imageSlot bs).version) →
          ∃ t, exec (.ruleInst rs1 rs2) s = .next t ∧ (t.ruleCtx k).standby = imageSlot bs ∧ (t.ruleCtx k).active = (u.ruleCtx k).active ∧
            (∀ i, (t.ruleCtx k).slotAt i false = imageSlot bs) ∧
            sget 0 t.mrs (3 + k / 2) = sha384 (beBytes 48 (sget 0 v.mrs (3 + k / 2)).toNat ++ beBytes 48 (sha384 bs).toNat))) ∧
      (mine → (s.ruleCtx k).late ≠ [] → exec (.ruleAct rd rs1) s = .next s) ∧
      (mine → (s.ruleCtx k).late = [] → (s.ruleCtx k).standby.version = 0 → exec (.ruleAct rd rs1) s = Claims.traps s 30 19) ∧
      (mine → (s.ruleCtx k).late = [] → (∀ i, i < 1024 → ((s.ruleCtx k).slotAt i false).version ≠ 0) → ∃ t, exec (.ruleAct rd rs1) s = .next t ∧
        (t.slot s.cur).wait = .exchange k rd.toNat (wordOfNat ((s.ruleCtx k).standby.version + (s.ruleCtx k).active.version * 2 ^ 16)) ∧
        (t.slot s.cur).pc = (s.slot s.cur).pc ∧ ∀ i, i < 1024 → (t.ruleCtx k).slotAt i true = (s.ruleCtx k).slotAt i true)) ∧
    (∀ (rc i : Nat) (b : Bool), let t := s.ruleStoreError rc i b
      (t.ruleCtx rc).slotAt i b = .empty ∧ ∀ j c, j ≠ i ∨ c ≠ b → (t.ruleCtx rc).slotAt j c = (s.ruleCtx rc).slotAt j c) ∧
    (∀ (rc i : Nat), i ∈ (s.ruleCtx rc).late → ∃ t, exec (.ruleActExchange rc i) s = .next t ∧ i ∉ (t.ruleCtx rc).late ∧
      (∀ j, j ≠ i → (t.ruleCtx rc).slotAt j true = (s.ruleCtx rc).slotAt j true) ∧
      (t.ruleCtx rc).slotAt i true = (if (s.ruleCtx rc).emptied.contains (i, true) then .empty else (s.ruleCtx rc).active) ∧
      ((∀ j ∈ (s.ruleCtx rc).late, j = i) → ∀ n w r, sfind s.slots n = some (s.slot n) → (s.slot n).wait = .exchange rc r w → (s.slot n).rep = none → (s.slot n).mismatch = 0 →
        s.laneOf n = none → s.slots.map (·.1) = [n] →
        (t.slot n).wait = .none ∧ (t.slot n).pc = (s.slot n).pc + 4 ∧ (r ≠ 0 → (t.slot n).xr r = w)))

/-! ### Privileged instructions -/

/-- R170, R401, R405, R414 to R416, R422: the privileged instructions. In U-mode, and where they need ctxid.mgr or
ctxid.test on a core without it, they are illegal; a register that breaks its layout is cause 2 with the register in
stval. PLB.FILL and PLB.INV change one entry; PG.FLUSH waits for pinned sectors, and leaves no translation, L2
superblock, instruction word or L1 word of the page, but for dirty words that could not be written through; WAYS.CFG
waits for pinned sectors of the ways that it changes, and sets a slice's scratch ways; SLOT.RESUME resumes a parked slot or sets its sip.SSIP; SLOT.KILL ends a firing; MINJ waits
for its flip, which completes it under the checker (R418, R420). (The order of the checks of PLB.FILL, WAYS.CFG and TSLICE is
log 67; PG.FLUSH completing with dirty words that it cannot write through is log 49.) -/
def Obligations.PrivilegedInstructions : Prop :=
  ∀ (s : State) (rd rs1 rs2 : Reg),
    let o := s.slot s.cur
    let w := Claims.xs s rs1
    let m := Claims.xs s rs2
    let c := Claims.cc s
    let a := m.toNat % 2 ^ 56
    let illegal := fun (i : Instr) => exec i s = Claims.traps s 2 (s.wordOf i)
    let fin := fun (t : State) => (.next (t.commit t.cur none) : Host.Outcome State Fault Refusal)
    let mine := fun (k : Nat) => s.ownSlot k = true ∨ (s.core c).mgr = true
    (∀ i ∈ [Instr.ctxSave rs1 rs2, .ctxRest rd rs1 rs2, .plbFill rs1 rs2, .plbInv rs1, .tslice rs1 rs2, .pgFlush rs1, .waysCfg rs1 rs2],
      o.priv = .u ∨ (s.core c).mgr = false → illegal i) ∧
    (o.priv = .u ∨ (s.core c).test = false → illegal (.minj rs1 rs2)) ∧
    (o.priv = .u → illegal (.slotResume rs1) ∧ illegal (.slotResumeSsip rs1) ∧ illegal (.slotKill rs1)) ∧
    (o.priv ≠ .u → (s.core c).mgr = true →
      (63 < w.toNat → exec (.plbFill rs1 rs2) s = Claims.traps s 2 w ∧ exec (.plbInv rs1) s = Claims.traps s 2 w) ∧
      (w.toNat ≤ 63 → a % 8 ≠ 0 → exec (.plbFill rs1 rs2) s = Claims.traps s 4 (wordOfNat a)) ∧
      (w.toNat ≤ 63 → a % 8 = 0 → ∀ bs u, s.load c a 8 false = .ok (bs, u) →
        let e := wordOfNat (natOfBytes bs)
        (plbBad e = true → exec (.plbFill rs1 rs2) s = Claims.trapsRead s s a 8 2 e) ∧
        (plbBad e = false → ∃ p, exec (.plbFill rs1 rs2) s = fin (u.modCore (u.cur / 4) fun k => { k with plb := p }) ∧
          ∀ n, sget 0 p n = if n = w.toNat then e else sget 0 (u.core (u.cur / 4)).plb n)) ∧
      (w.toNat ≤ 63 → ∃ p, exec (.plbInv rs1) s = fin (s.modCore c fun k => { k with plb := p }) ∧
        (∀ x, plbMatch (sget 0 p w.toNat) x = false) ∧ ∀ n, n ≠ w.toNat → sget 0 p n = sget 0 (s.core c).plb n) ∧
      (s.flushWaits (w.toNat % 2 ^ 56) = true → exec (.pgFlush rs1) s = .next s) ∧
      (s.flushWaits (w.toNat % 2 ^ 56) = false → ∃ t, exec (.pgFlush rs1) s = fin t ∧ t = s.pgFlush (w.toNat % 2 ^ 56) ∧
        ∀ g, s.pageOf (w.toNat % 2 ^ 56) = some g →
          (∀ n, ∀ x ∈ (t.core n).l1, g.covers (4 * x.1) = true → x.2.dirty = true ∧ x ∈ (s.core n).l1) ∧
          (∀ x ∈ t.trans, g.covers x.2.base = false) ∧ (∀ n, g.covers (256 * n) = true → sget [] t.l2 n = []) ∧
          ∀ v, ∀ x ∈ (t.car v).ic, g.covers (4 * x.1) = false) ∧
      (wbits w 63 29 ≠ 0 ∨ wbits w 18 0 ≠ 0 → exec (.waysCfg rs1 rs2) s = Claims.traps s 2 w) ∧
      (wbits w 63 29 = 0 → wbits w 18 0 = 0 → (wbits m 63 16 ≠ 0 ∨ 12 < waysSet (m.setWidth 16) → exec (.waysCfg rs1 rs2) s = Claims.traps s 2 m) ∧
        (wbits m 63 16 = 0 → waysSet (m.setWidth 16) ≤ 12 → s.waysWait (wbits w 28 19) (m.setWidth 16) = true → exec (.waysCfg rs1 rs2) s = .next s) ∧
        (wbits m 63 16 = 0 → waysSet (m.setWidth 16) ≤ 12 → s.waysWait (wbits w 28 19) (m.setWidth 16) = false → ∃ t, exec (.waysCfg rs1 rs2) s = fin t ∧
          ∀ n, sget 0 t.ways n = if n = wbits w 28 19 then m.setWidth 16 else sget 0 s.ways n)) ∧
      (63 < w.toNat → exec (.tslice rs1 rs2) s = Claims.traps s 2 (s.wordOf (.tslice rs1 rs2))) ∧
      (w.toNat ≤ 63 → a % 64 ≠ 0 → exec (.tslice rs1 rs2) s = Claims.traps s 4 (wordOfNat a)) ∧
      (w.toNat ≤ 63 → a % 64 = 0 → ∀ bs u, Act.loadRecord a 64 s = .ok (bs, u) →
        let d := wordsOf 8 bs
        let d0 := d.getD 0 0
        let sl : Slice := { length := wbits d0 31 0, waits := false, start := u.now, deadline := wbits d0 47 32, image := d.getD 1 0, simage := d.getD 2 0,
                            sv := wbit d0 54, succ := wbits d0 53 48, exec := u.ctxOf u.cur, plb := u.cur / 4 }
        (wbits d0 63 55 ≠ 0 → exec (.tslice rs1 rs2) s = Claims.trapsRead s s a 64 2 (u.wordOf (.tslice rs1 rs2))) ∧
        (wbits d0 63 55 = 0 → (∀ j, 3 ≤ j → j < 8 → d.getD j 0 = 0) → exec (.tslice rs1 rs2) s =
          fin (u.modCtx w.toNat fun x => { x with slice := if wbits d0 31 0 = 0 then none else some sl })))) ∧
    (o.priv ≠ .u →
      let k := slotOfWord w
      let op := wbits w 3 2
      (wbits w 63 29 ≠ 0 ∨ wbits w 15 4 ≠ 0 ∨ 1 < op → exec (.slotResume rs1) s = Claims.traps s 2 w ∧ exec (.slotResumeSsip rs1) s = Claims.traps s 2 w) ∧
      (wbits w 63 29 ≠ 0 ∨ wbits w 15 4 ≠ 0 ∨ 0 < op → exec (.slotKill rs1) s = Claims.traps s 2 w) ∧
      (wbits w 63 29 = 0 → wbits w 15 4 = 0 → op ≤ 1 → mine k → ∀ i, i = .slotResume rs1 ∨ i = .slotResumeSsip rs1 →
        (op = 1 → exec i s = fin (s.modSlot k fun sl => { sl with sip := setBits sl.sip 1 1 1 })) ∧
        (op = 0 → (∀ p, (s.slot k).run ≠ .parked p) → exec i s = fin s) ∧
        (op = 0 → ∀ p, (s.slot k).run = .parked p → ∃ t, exec i s = fin t ∧ (∀ f ∈ t.faults, f.slot ≠ k) ∧
          t.slot k = { s.slot k with run := .stray, gfault := setBits (s.slot k).gfault 63 63 0, fresh := true })) ∧
      (wbits w 63 29 = 0 → wbits w 15 4 = 0 → op = 0 → mine k → ∃ t,
        exec (.slotKill rs1) s = (if k = s.cur then .next t else fin t) ∧ (t.slot k).run = .idle ∧
        ((s.slot k).run ≠ .idle → ∀ f ∈ (t.slot k).buf, f.released = true)) ∧
      ((s.core c).test = true → wbits w 63 29 = 0 → wbits w 15 4 = 0 → op = 0 → s.ownSlot k = true →
        (injectBad m = true → exec (.minj rs1 rs2) s = Claims.traps s 2 m) ∧
        (injectBad m = false → exec (.minj rs1 rs2) s = .next (State.modSlot { s with injects := s.injects ++ [{ slot := s.cur, target := k, word := m }] }
          s.cur fun sl => { sl with wait := .flip })))) ∧
    (∀ (k : Nat) (i : Inject), s.injects[k]? = some i →
      (s.flipReady i = false → exec (.minjFlip k) s = .next s) ∧
      (s.flipReady i = true → (s.slot i.slot).wait = .flip → i.slot ≠ i.target → (s.slot i.slot).mismatch = 2 → exec (.minjFlip k) s =
        .next ((State.flip { s with injects := s.injects.eraseIdx k } i).fenceCore i.slot)) ∧
      (s.flipReady i = true → (s.slot i.slot).wait = .flip → i.slot ≠ i.target → (s.slot i.slot).mismatch ≠ 2 → ∃ t, exec (.minjFlip k) s = .next t ∧ t.injects = s.injects.eraseIdx k ∧
        (t.slot i.slot).wait = .none ∧
        (wbits i.word 63 60 = 1 → wbits i.word 59 58 = 1 → wbits i.word 40 36 ≠ 0 → (t.slot i.target).xr (wbits i.word 40 36) =
          (s.slot i.target).xr (wbits i.word 40 36) ^^^ (1#64 <<< (32 * wbits i.word 41 41 + wbits i.word 4 0)))))

/-- R129, R400, R402, R403: the fault service and the software interrupt. A record whose page is present by now, or can be
made present, resumes its slot, and where there is no frame for it the slot stays parked, its stall timed from then; where
none is free, the 18 frames of the progress reserve serve one parked instruction; another is a FAULT event, or, for a
page of the host in page-exclusive mode, the MIGRATION event of R434; a record that has been reported stands, and is taken no more, but
counts among the parked instructions of which the oldest has the reserve. A context's stall is the one of its parked slots
and of its messages that wait for a spill page (R207) that has lasted longest; when it reaches its limit it is reported,
once. (That the reserve is whole again for the next instruction, and when a stall begins and ends, is log 77; that a
page present by now resumes its slot is log 22.) An enabled and pending interrupt of
a slot at an instruction boundary saves its state as a trap does, with bit 63 of scause set, and one that is masked
changes nothing; a waiting WFI completes first under the checker, whose second mismatch fences the core (R418, R420). -/
def Obligations.FaultServiceAndInterrupts : Prop :=
  ∀ (s : State) (k : Nat),
    (∀ f, s.faults[k]? = some f →
      let s' := { s with faults := s.faults.set k { f with told := true, stalled := none } }
      let a := f.info.addr.toNat % 2 ^ 56
      let user := if s.reserveUser (s.ctxOf f.slot) = some (s.recordOf f) then some (s.recordOf f) else none
      let x := s.takeFrame (s.ctxOf f.slot) user
      (f.told = true → exec (.faultRecord k) s = .next s) ∧
      (f.told = false → s.hostOwned a = false → f.info.reason = 0 → s.makePresent a ≠ none →
        (s.leafPresent a = true → exec (.faultRecord k) s = .next (s.resumeSlot f.slot)) ∧
        (s.leafPresent a = false → x.1 = true → ∀ t, x.2.makePresent a = some t → exec (.faultRecord k) s = .next (t.resumeSlot f.slot)) ∧
        (s.leafPresent a = false → x.1 = false → exec (.faultRecord k) s =
          .next { x.2 with faults := x.2.faults.map fun g => if g.slot = f.slot then { g with stalled := some (g.stalled.getD s.now) } else g })) ∧
      (f.told = false → s.hostOwned a = false → (f.info.reason ≠ 0 ∨ s.makePresent a = none) → exec (.faultRecord k) s = .next (s'.faultEvent f)) ∧
      (f.told = false → s.hostOwned a = true → exec (.faultRecord k) s =
        .next (s'.hostOnly (s.ctxOf f.slot) { kind := 2, pos := serviceOf (coreOf f.slot) } 12 0 f.info.addr 0 0))) ∧
    (∀ f rest, (s.faults.filter fun f => (s.core (coreOf f.slot)).ctx == some k) = f :: rest → (s.ctx k).reserveFor = none →
      s.reserveUser k = some (f.slot, (s.slot f.slot).pc)) ∧
    (∀ o, let c := s.ctx k
      let left := if c.reserveFor = some o then c.reserve else 18
      let x := s.takeFrame k (some o)
      (Config.frameFree s.free = true → x.1 = true ∧ x.2.ctx k = c) ∧
      (Config.frameFree s.free = false → x.1 = decide (left ≠ 0) ∧ (s.takeFrame k none).1 = false ∧
        (left ≠ 0 → (x.2.ctx k).reserve = left - 1 ∧ (x.2.ctx k).reserveFor = some o))) ∧
    (∀ from_ core addr, (from_, core, addr) ∈ s.stalls k ↔
      (∃ f ∈ s.faults, (s.core (coreOf f.slot)).ctx = some k ∧ f.stalled = some from_ ∧ core = coreOf f.slot ∧ addr = f.info.addr) ∨
      ((core, from_) ∈ (s.ctx k).spillWait ∧ s.spillFull k core = true ∧ s.mustSpill k core = true ∧ addr = 0)) ∧
    (s.stall k = none ↔ s.stalls k = []) ∧
    (∀ x, s.stall k = some x → x ∈ s.stalls k ∧ ∀ y ∈ s.stalls k, x.1 ≤ y.1) ∧
    (∀ from_ core addr, s.stall k = some (from_, core, addr) →
      let t := (s.now - from_) / Config.cyclesPerMicro
      (t < (s.ctx k).stallLimit ∨ (s.ctx k).stalledAt = some from_ → exec (.stallLimitExpiry k) s = .next s) ∧
      ((s.ctx k).stallLimit ≤ t → (s.ctx k).stalledAt ≠ some from_ → exec (.stallLimitExpiry k) s =
        .next ((s.hostOnly k { kind := 2, pos := serviceOf core } 10 0 addr 0 (wordOfNat t)).modCtx k
          fun c => { c with stalledAt := some from_ }))) ∧
    (let o := s.slot k
     let on := wbit o.sip 1 = true ∧ wbit o.sie 1 = true ∧ (o.priv = .u ∨ (o.priv = .s ∧ wbit o.sstatus 1 = true))
     (¬ on → exec (.softwareInterrupt k) s = .next s) ∧
     (on → k ≠ stewardSlot → o.run = .stray → o.wait = .none → ∃ t, exec (.softwareInterrupt k) s = .next t ∧
       let n := t.slot k
       n.sepc = o.pc ∧ n.scause = 0x8000000000000001 ∧ n.stval = 0 ∧ n.priv = .s ∧ n.pc = o.stvec ∧ n.run = .stray ∧
       wbit n.sstatus 8 = decide (o.priv = .s) ∧ wbit n.sstatus 5 = wbit o.sstatus 1 ∧ wbit n.sstatus 1 = false ∧ n.x = o.x ∧ n.v = o.v ∧
       ∀ j, j ≠ k → t.slot j = s.slot j) ∧
     (o.interruptible = true → o.atBoundary = true → o.wait = .event → o.mismatch = 2 → ((s.fenceCore k).slot k).running = false →
       exec (.softwareInterrupt k) s = .next (s.fenceCore k)))

/-- R223, R254, R394, R395, R407 to R413: contexts. CTX.SAVE stops its context, and a later step writes the image and leaves
the context not resident, its caravans free; CTX.REST restores one, or gives the status of R410; a time slice that
expires does both, unless the context's last firing retires in that cycle, and then starts again with its next firing; a
context is created on free caravans only. A retraining of HBM waits for a save with a deadline, 500 microseconds at
most. Durations are those of R5 and R461. (CTX.REST's status 4 for a misaligned address and the order of its checks are log
52; what a restore does not bring back is log 53; that a slice starts again at its own expiry is log 50; the operands of
the creation of a context, at boot stage 3, are log 64.) -/
def Obligations.Contexts : Prop :=
  ∀ (s : State) (rd rs1 rs2 : Reg),
    let core := Claims.cc s
    let x := (Claims.xs s rs1).toNat
    let p := Claims.xs s rs2
    let a := p.toNat % 2 ^ 56
    let c := s.ctx x
    let fin := fun (t : State) => (.next (t.commit t.cur none) : Host.Outcome State Fault Refusal)
    ((s.slot s.cur).priv ≠ .u → (s.core core).mgr = true →
      (63 < x ∨ c.resident = false ∨ x = s.ctxOf s.cur ∨ a % 4096 ≠ 0 → exec (.ctxSave rs1 rs2) s = Claims.traps s 2 (s.wordOf (.ctxSave rs1 rs2))) ∧
      (x ≤ 63 → c.resident = true → x ≠ s.ctxOf s.cur → a % 4096 = 0 → s.midInstruction x = false →
        (c.saving = none →
          let sv : Saving := { start := s.now, deadline := 0, exec := s.ctxOf s.cur, image := p, slice := false }
          let t := s.stopCtx x sv
          ∀ u, t.checkImage core a (t.snapshot x).chunks = .ok u →
            exec (.ctxSave rs1 rs2) s = .next t ∧ (t.ctx x).counter = c.counter + 1 ∧ (t.ctx x).saving = some sv) ∧
        (∀ sv, c.saving = some sv → s.enginesStopped x = false ∨ s.savePauses x sv = true → exec (.ctxSave rs1 rs2) s = .next s) ∧
        (∀ sv v, c.saving = some sv → sv.slice = false → s.enginesStopped x = true → s.savePauses x sv = false →
          s.completeSave core x { sv with image := p } = .ok v →
          exec (.ctxSave rs1 rs2) s = fin v ∧ (v.ctx x).resident = false ∧ (v.ctx x).saving = none ∧ ∃ n ∈ v.snaps, n.ctx = x)) ∧
      (63 < x → exec (.ctxRest rd rs1 rs2) s = Claims.traps s 2 (s.wordOf (.ctxRest rd rs1 rs2))) ∧
      (x ≤ 63 → (c.failed = true → exec (.ctxRest rd rs1 rs2) s = Claims.result s rd 5) ∧
        (c.failed = false → a % 4096 ≠ 0 → exec (.ctxRest rd rs1 rs2) s = Claims.result s rd 4) ∧
        (∀ st t, s.restoreImage core x a = .ok (st, t) → exec (.ctxRest rd rs1 rs2) s = Claims.result t rd (wordOfNat st)))) ∧
    (∀ n : Snap, let t := s.install n
      (t.ctx n.ctx).resident = true ∧ (t.ctx n.ctx).caravans = n.caravans ∧ (t.ctx n.ctx).counter = (s.ctx n.ctx).counter + 1 ∧
      ∀ y ∈ t.snaps, y.ctx ≠ n.ctx) ∧
    (∀ (y : Nat) (t : Slice), (s.ctx y).slice = some t →
      let due := t.start + t.length * Config.cyclesPerMicro
      let clock := s.ctxClock y
      let past := due ≤ s.now ∧ 16 ≤ (s.now - due) * clock
      let expires := due ≤ s.now ∧ ¬ past
      ((s.ctx y).saving = none → t.waits = true ∨ ¬ past → exec (.tsliceExpiry y) s = .next s) ∧
      ((∀ v ∈ (s.ctx y).caravans, ∀ i, i < 32 → (s.slot (32 * v + i)).running = false) →
        ((s.cancelSlice y).ctx y).slice = some (if expires then { t with waits := true } else t)) ∧
      ((s.restartSlice y).ctx y).slice = some (if t.waits then { t with waits := false, start := s.now } else t) ∧
      ((s.ctx y).saving = none → (s.ctx y).resident = true → t.waits = false → past → s.midInstruction y = false →
        t.image.toNat % 2 ^ 56 % 4096 = 0 → exec (.tsliceExpiry y) s =
          .next (s.stopCtx y { start := due, deadline := t.deadline, exec := t.exec, image := t.image, slice := true })) ∧
      (∀ sv, (s.ctx y).saving = some sv → sv.slice = true →
        exec (.tsliceExpiry y) s = .next (s.finishSlice y t sv) ∧
        (sv.deadline ≠ 0 → sv.deadline * Config.cyclesPerMicro < s.now - sv.start →
          exec (.saveDeadlineExpiry y) s = .next (s.finishSlice y t sv)) ∧
        (sv.deadline = 0 ∨ s.now - sv.start ≤ sv.deadline * Config.cyclesPerMicro → exec (.saveDeadlineExpiry y) s = .next s))) ∧
    (∀ n : Nat,
      (s.savesTo n = true → shas s.retrain n = false →
        exec (.hbmRetrainRequest n) s = .next { s with retrain := sset s.retrain n s.now }) ∧
      (s.savesTo n = false → exec (.hbmRetrainRequest n) s = .next (s.train n)) ∧
      n ∈ (s.train n).training ∧ sfind (s.train n).retrain n = none ∧
      (∀ t, sfind s.retrain n = some t → (s.savesTo n = false ∨ 500 * Config.cyclesPerMicro ≤ s.now - t) →
        exec (.hbmRetrainRun n) s = .next (s.train n)) ∧
      (∀ t, sfind s.retrain n = some t → s.savesTo n = true → s.now - t < 500 * Config.cyclesPerMicro → exec (.hbmRetrainRun n) s = .next s)) ∧
    (∀ q : CtxSpec,
      let free := s.boot.stage = 3 ∧ (s.ctx q.ctx).live = false ∧ q.caravans ≠ [] ∧ q.caravans.Nodup ∧ ∀ v ∈ q.caravans, (s.car v).ctx = none
      (¬ free → exec (.contextCreate q) s = .next s) ∧
      (free → ∃ t, exec (.contextCreate q) s = .next t ∧ (t.ctx q.ctx).live = true ∧ (t.ctx q.ctx).resident = true ∧ (t.ctx q.ctx).sig = 0 ∧
        (t.ctx q.ctx).caravans = q.caravans ∧ (∀ y, y ≠ q.ctx → t.ctx y = s.ctx y) ∧
        ∀ v ∈ q.caravans, (t.car v).ctx = some q.ctx ∧ (t.car v).lanes = [] ∧ (∀ i, i < 32 → (t.slot (32 * v + i)).run = .idle) ∧
          ∀ i, i < 8 → let k := t.core (8 * v + i); k.ctx = some q.ctx ∧ k.mgr = q.mgr ∧ k.test = q.test ∧ k.acc = [] ∧
            (∀ j, sget 0 k.plb j = if j < 64 ∧ plbBad (q.plb.getD j 0) = false then q.plb.getD j 0 else 0) ∧
            ∀ j, k.queueAttr j = if j < 8 then (match bindRecord (q.binds.getD j []) with | .ok r => r | .error _ => .unbound) else .unbound))

/-! ### The host lanes -/

/-- The host requests that a lane takes in seq order, each with its kind (R424, R431). -/
def Sys2Proof.Claims.Request (r : HostReq) (e : Instr × Nat) : Prop :=
  e ∈ [(.read r, 0), (.write r, 16), (.hostLaunch r, 48), (.hfence r, 64), (.setid r, 80), (.serviceFence r, 81), (.admitPeer r, 82),
    (.limits r, 83), (.give r, 84), (.take r, 85), (.pxmode r, 86), (.mint r, 87), (.rulectx r, 88), (.clearfail r, 89),
    (.unfencecore r, 90)]

/-- A lane performs a request at once: the lanes are up, it is the next in order and well formed, and none is held. -/
def Sys2Proof.Claims.Free (s : State) (r : HostReq) : Prop :=
  s.lanesUp = true ∧ s.serving ≠ some r.lane ∧ r.seq = (s.lane r.lane).last + 1 ∧ r.clean = true ∧ (s.lane r.lane).held = []

/-- The request of a free lane is answered, its effect being `t`. -/
def Sys2Proof.Claims.answers (t : State) (r : HostReq) (status : Nat) (result : Word) (data : List Byte) : Host.Outcome State Fault Refusal :=
  .next ((t.modLane r.lane fun l => { l with held := [] }).respond r status result data)

/-- R425, R427, R433, R457: how a lane takes a request. Before stage 2 has completed nothing happens; a seq that is not the
next is answered SEQ; a reserved field MALFORMED; a request behind another is held. A STATE request is answered from
reset, whatever its seq, and leaves the lane's count. A replay sends a source's held events again, in order, from a
sequence number on, or answers GONE. A request's flit gives its fields (R424); a reserved kind is MALFORMED. (A
malformed request advances the count: log 54.) R426 to R428, R430: the memory requests, LAUNCH and HFENCE on a free
lane. A read with acq = 0 is served by the lane's read buffer where it holds every byte; any other at the home, which
fills the buffer, or empties it with acq = 1; data that the home cannot give reads as free values (log 12). A write is
performed at the home. WRITE_WC is answered on acceptance and performed later. LAUNCH joins its queue, or is held while
the queue is full. HFENCE is held until the masked lanes have performed what they accepted before it. R431, R434, R436:
the SERVICE requests on a free lane. SETID gives the package its id and brings the links up; FENCE fences a peer, and
ADMIT waits for a port of it; LIMITS sets the stall limit and the fence interval; GIVE and TAKE write the leaf's ho bit
and flush the page, waiting while it holds pinned sectors; PXMODE, in which the device holds no page of the host; MINT
answers the capability with its check code; RULECTX, CLEARFAIL, UNFENCECORE. A package that has stopped answers STATE
requests alone. (The bits of MINT's and UNFENCECORE's words are log 55; FENCE of a peer without a port and ADMIT of one
that is not fenced log 56; when a WRITE_WC is performed log 57; that the read buffer always serves what it holds log 58:
R427 says that it may.) -/
def Obligations.HostRequests : Prop :=
  (∀ (s : State) (r : HostReq),
     let l := s.lane r.lane
     let next := r.seq = l.last + 1
     (∀ e, Claims.Request r e →
       (s.lanesUp = false → exec e.1 s = .next s) ∧
       (s.lanesUp = true → s.serving ≠ some r.lane → ¬ next → exec e.1 s = .next (s.respond r 1 0 [])) ∧
       (s.lanesUp = true → s.serving ≠ some r.lane → next → r.clean = false →
         exec e.1 s = .next ((s.modLane r.lane fun l => { l with last := r.seq }).respond r 2 0 [])) ∧
       (s.lanesUp = true → s.serving ≠ some r.lane → next → r.clean = true → l.held ≠ [] → exec e.1 s = .next (s.accept e.2 r))) ∧
     (s.lanesUp = true → ¬ next → exec (.writeWc r) s = .next (s.respond r 1 0 [])) ∧
     (r.clean = true →
       exec (.stateLastSeq r) s = .next (s.respond r 0 (l.last.setWidth 64) []) ∧
       (wbits r.w2 63 32 = 0 → exec (.stateNextEventSeq r) s = .next (s.respond r 0 (wordOfNat (sget 0 s.evSeq r.w2.toNat)) [])) ∧
       (wbits r.w2 63 32 = 0 → r.w3.toNat < 2 ^ 32 →
         let lane := (Source.ofWord r.w2).lane
         let h := s.lane lane
         let seqOf := fun (e : Event) => wbits (e.words.getD 1 0) 63 32
         let es := fromSeq r.w3.toNat (ofSource r.w2 h.sent)
         (∀ e ∈ es, e ∈ h.sent ∧ wbits (e.words.getD 1 0) 31 0 = r.w2.toNat) ∧
         (∀ e, es.head? = some e → seqOf e = r.w3.toNat) ∧
         (es = [] ↔ ∀ e ∈ h.sent, wbits (e.words.getD 1 0) 31 0 = r.w2.toNat → seqOf e ≠ r.w3.toNat) ∧
         (es ≠ [] → exec (.stateReplay r) s = .next ((s.modLane lane fun l => { l with out := l.out ++ es }).respond r 0 0 [])) ∧
         (es = [] → (∀ e ∈ h.unsent ++ h.waiting, wbits (e.words.getD 1 0) 31 0 = r.w2.toNat → seqOf e ≠ r.w3.toNat) →
           r.w3.toNat ≠ sget 0 s.evSeq r.w2.toNat → exec (.stateReplay r) s = .next (s.respond r 6 0 [])))) ∧
     (∀ (lane : Nat) (ws : List Word) (data : List Byte),
       let q := requestOf lane ws data
       let kind := requestKind (ws.getD 0 0)
       (q.lane = lane ∧ q.seq.toNat = wbits (ws.getD 0 0) 63 32 ∧ q.ctx = wbits (ws.getD 0 0) 27 22 ∧ q.acq = wbit (ws.getD 0 0) 21 ∧
         q.len = wbits (ws.getD 0 0) 11 0 + 1 ∧ q.addr = ws.getD 1 0) ∧
       (∀ e, Claims.Request q e → kind = e.2 → hostRequest lane ws data s = exec e.1 s) ∧
       (112 ≤ kind ∨ (90 < kind ∧ kind < 96) → Claims.Free s q →
         hostRequest lane ws data s = Claims.answers (s.accept kind q) q 2 0 []) ∧
       (99 < kind → kind < 112 → hostRequest lane ws data s = .next (s.respond q 2 0 [])) ∧
       (s.boot.fail ≠ 0 → State.plan s (.request lane ws data) =
         if kind / 16 = 6 then .out (hostRequest lane ws data s) else .out (.next s))) ∧
     (∀ (h : Held) (rest : List Held), 112 ≤ h.kind ∨ (90 < h.kind ∧ h.kind < 96) → s.lanesUp = true → (s.lane h.req.lane).held = h :: rest →
       let u := { s with serving := some h.req.lane }
       heldMeaning h u = .next ((u.modLane h.req.lane fun l => { l with held := rest }).respond h.req 2 0 [])) ∧
     (r.clean = true → exec (.stateBootStatus r) s = .next (s.respond r 0 (wordOfNat (s.boot.fail * 256 + s.boot.stage)) []))) ∧
  (∀ (s : State) (r : HostReq), Claims.Free s r →
     let a := va r.addr
     let die := r.lane / 4 % 4
     (hostAligned a r.len = false → exec (.read r) s = Claims.answers (s.accept 0 r) r 2 0 [] ∧
       exec (.write r) s = Claims.answers (s.accept 16 r) r 2 0 []) ∧
     (hostAligned a r.len = true →
       (∀ st, (s.accept 0 r).hostPage r.lane a false = .error st → exec (.read r) s = Claims.answers (s.accept 0 r) r st 0 []) ∧
       (∀ t v, (s.accept 0 r).hostPage r.lane a false = .ok (t, v) →
         let buf := (v.lane r.lane).buffer
         let inBuf := ∀ i, i < r.len → shas buf (a + i) = true
         (r.acq = false → inBuf → exec (.read r) s = Claims.answers v r 0 0 ((List.range r.len).map fun i => sget 0 buf (a + i))) ∧
         let read := v.fillRange t die a r.len
         (v.badAt t die a r.len = false → r.acq = true →
           exec (.read r) s = Claims.answers (read.modLane r.lane fun l => { l with buffer := [] }) r 0 0 (v.homeRead t die a r.len)) ∧
         (v.badAt t die a r.len = false → r.acq = false → ¬ inBuf →
           exec (.read r) s = Claims.answers (read.fillBuffer r.lane t a r.len) r 0 0 (v.homeRead t die a r.len)) ∧
         (v.badAt t die a r.len = true → r.acq = true ∨ ¬ inBuf → ∃ u, exec (.read r) s =
           Claims.answers u r 0 0 ((List.range r.len).map fun i => Config.freeByte (v.free + i)))) ∧
       (∀ st, (s.accept 16 r).hostPage r.lane a true = .error st → exec (.write r) s = Claims.answers (s.accept 16 r) r st 0 []) ∧
       (∀ t v, (s.accept 16 r).hostPage r.lane a true = .ok (t, v) → exec (.write r) s = Claims.answers (v.hostWrite r t) r 0 0 []) ∧
       (∀ t v, s.hostPage r.lane a true = .ok (t, v) → exec (.writeWc r) s = .next ((v.accept 32 r).respond r 0 0 []))) ∧
     (∀ (w : State) (k : Nat) (h : Held), w.lanesUp = true → (w.lane r.lane).held[k]? = some h →
       (∀ x ∈ (w.lane r.lane).held.take (k + 1), x.kind = 32) → ∀ t v, w.hostPage r.lane (va h.req.addr) true = .ok (t, v) →
       exec (.writeWcPerform r.lane k) w = .next ((v.hostWrite h.req t).modLane r.lane fun l => { l with held := l.held.eraseIdx k })) ∧
     (7 < r.w2.toNat ∨ a % 128 ≠ 0 → exec (.hostLaunch r) s = Claims.answers (s.accept 48 r) r 2 0 []) ∧
     (r.w2.toNat ≤ 7 → a % 128 = 0 → ∀ t w, (s.accept 48 r).hostPage r.lane a false = .ok (t, w) → w.badAt t die a 128 = false →
       let ws := wordsOf 16 (w.homeRead t die a 128)
       let v := w.fillRange t die a 128
       let bad := recordBad ws = true ∨ v.assigned r.ctx (placementOf (ws.getD 1 0)) = false
       let q := sget [] (v.ctx r.ctx).queues r.w2.toNat
       let put := v.enqueueLaunch r.ctx r.w2.toNat ws 0 none r.lane 0
       (bad → exec (.hostLaunch r) s = Claims.answers v r 2 0 []) ∧
       (¬ bad → 64 ≤ q.length → exec (.hostLaunch r) s = .next v) ∧
       (¬ bad → q.length < 64 → exec (.hostLaunch r) s = Claims.answers put.2 r 0 (wordOfNat put.1) [])) ∧
     (let waits := ∃ n, n < 16 ∧ wbit r.w2 n = true ∧ ∃ x ∈ ((s.accept 64 r).lane n).held, x.order < s.order
      (wbits r.w2 63 16 ≠ 0 → exec (.hfence r) s = Claims.answers (s.accept 64 r) r 2 0 []) ∧
      (wbits r.w2 63 16 = 0 → waits → exec (.hfence r) s = .next (s.accept 64 r)) ∧
      (wbits r.w2 63 16 = 0 → ¬ waits → exec (.hfence r) s =
        Claims.answers ((s.accept 64 r).modLane r.lane fun l => { l with buffer := [] }) r 0 0 []))) ∧
  (∀ (s : State) (r : HostReq), Claims.Free s r →
     let w := r.w2
     let n := w.toNat
     let ans := fun (t : State) (st : Nat) => Claims.answers t r st 0 []
     (0xFFF ≤ n → exec (.setid r) s = ans (s.accept 80 r) 2 ∧ exec (.serviceFence r) s = ans (s.accept 81 r) 2 ∧
       exec (.admitPeer r) s = ans (s.accept 82 r) 2) ∧
     (n < 0xFFF →
       (let u := s.accept 80 r
        (∀ c ∈ u.ctxs, c.2.live = false) →
          exec (.setid r) s = ans (State.linksUp { u with pkg := n, boot := { u.boot with stage := 3, done := 3 } }) 0) ∧
       exec (.serviceFence r) s = ans ((s.accept 81 r).fencePeer n) 0 ∧
       (let u := s.accept 82 r
        let ports := u.portsTo n
        (n ∉ u.fencedPkgs → exec (.admitPeer r) s = ans u 0) ∧
        (n ∈ u.fencedPkgs → (∀ p ∈ ports, (u.port p).downAt ≠ 0) → exec (.admitPeer r) s = .next u) ∧
        (n ∈ u.fencedPkgs → (∃ p ∈ ports, (u.port p).downAt = 0) → ∃ t, exec (.admitPeer r) s = ans t 0 ∧ n ∉ t.fencedPkgs ∧
          (∀ m, m ≠ n → (m ∈ t.fencedPkgs ↔ m ∈ u.fencedPkgs)) ∧
          ∀ p ∈ ports, t.port p = { u.port p with state := if (u.port p).downAt = 0 then .up else .down }))) ∧
     (let u := s.accept 83 r
      ((u.ctx r.ctx).live = false → exec (.limits r) s = ans u 7) ∧
      ((u.ctx r.ctx).live = true → ∃ t, exec (.limits r) s = ans t 0 ∧ t.fenceInterval = r.w3.toNat ∧
        (t.ctx r.ctx).stallLimit = n ∧ ∀ c, c ≠ r.ctx → t.ctx c = u.ctx c)) ∧
     (let a := va r.addr
      let u := s.accept 84 r
      (u.leafOf a = none → exec (.give r) s = ans u 3) ∧
      (∀ k leaf, u.leafOf a = some (k, leaf) → u.flushWaits a = true → exec (.give r) s = .next u) ∧
      (∀ k leaf, u.leafOf a = some (k, leaf) → u.flushWaits a = false → exec (.give r) s =
        ans ((((u.setHo a leaf 0).hostFlush a).resumePage a leaf).releaseEngines) 0) ∧
      (let u := s.accept 85 r
       (u.leafOf a = none → exec (.take r) s = ans u 3) ∧
       (∀ k leaf, u.leafOf a = some (k, leaf) → u.flushWaits a = true → exec (.take r) s = .next u) ∧
       (∀ k leaf, u.leafOf a = some (k, leaf) → u.flushWaits a = false →
         exec (.take r) s = ans ((u.setHo a leaf 1).hostFlush a) 0))) ∧
     (let u := s.accept 86 r
      (1 < n → exec (.pxmode r) s = ans u 2) ∧
      (n = 0 → exec (.pxmode r) s = ans { u with pxmode := false } 0) ∧
      (n = 1 → ∃ t, exec (.pxmode r) s = ans t 0 ∧ t = { u with pxmode := true } ∧
        ∀ d a x, t.held d a = some x → leafHo x.leaf = false)) ∧
     (let u := s.accept 87 r
      let bad := wbits w 15 0 ≠ 0 ∨ wbits w 47 45 ≠ 0 ∨ wbits w 39 29 ≠ 0
      (bad → exec (.mint r) s = ans u 2) ∧
      (¬ bad → (u.ctx (wbits w 63 48)).live = false → exec (.mint r) s = ans u 7) ∧
      (¬ bad → (u.ctx (wbits w 63 48)).live = true → exec (.mint r) s =
        Claims.answers u r 0 (w ||| (Config.checkCode (wbits w 63 48) (wbits w 63 16)).setWidth 64) [])) ∧
     (let u := s.accept 88 r
      let o := (u.ruleCtx n).owner
      (7 < n → exec (.rulectx r) s = ans u 2) ∧
      (n ≤ 7 → ((u.ctx r.ctx).live = false ∨ ∃ c, o = some c ∧ c ≠ r.ctx) → exec (.rulectx r) s = ans u 7) ∧
      (n ≤ 7 → (u.ctx r.ctx).live = true → (o = none ∨ o = some r.ctx) →
        exec (.rulectx r) s = ans (u.modRule n fun c => { c with owner := some r.ctx }) 0)) ∧
     (let u := s.accept 89 r
      ((u.ctx r.ctx).live = false → exec (.clearfail r) s = ans u 7) ∧
      ((u.ctx r.ctx).live = true → exec (.clearfail r) s = ans (u.modCtx r.ctx fun c => { c with failed := false }) 0)) ∧
     (let u := s.accept 90 r
      let core := wbits w 14 2
      let bad := wbits w 63 15 ≠ 0 ∨ wbits w 1 0 ≠ 0
      (bad → exec (.unfencecore r) s = ans u 2) ∧
      (¬ bad → (u.core core).fenced = false → exec (.unfencecore r) s = ans u 7) ∧
      (¬ bad → (u.core core).fenced = true → exec (.unfencecore r) s = ans (u.modCore core fun c => { c with fenced := false }) 0)))

/-! ### Links, modules and temperature -/

/-- R372, R387, R435 to R437, R423, R460, R461: links and the package. A port goes Down with its escrows in doubt, after the
ninth overdue acknowledgement of a flit or the loss of lane lock. A link that is back resynchronises, and the peer's map
settles its escrows. When every port to a peer has been Down for the fence interval, the peer is fenced. Where a CXL
link has failed, accesses that go through it meet poison. The clock of a die whose sensor exceeded 105 degrees goes down
one step at each reading, to 8 of 16 at the lowest, until every sensor of the die is below 100; at 115 degrees the
package stops. A module that fails gives its lanes to the other. While a die's clock runs at k of 16 steps, k of its own cycles pass in
16 of the full clock, and its slots issue in those only; the other dies lose nothing. (One step at each reading, and how a die's cycles
lie among those of the full clock, are log 61; the source of the THROTTLE event is log 59; what a fenced port does when its link is back
is log 60; that a CXL failure as such changes nothing else, and raises no event then, is log 62; these are the model's choices.) -/
def Obligations.LinksAndTemperature : Prop :=
  ∀ (s : State) (n : Nat),
    let p := s.port n
    let down := fun (t : State) => ∃ q, t = s.modPort n (fun _ => q) ∧ q.state = .down ∧ q.downAt = s.now + 1 ∧
      ∀ e ∈ q.escrows, e.state ≠ .sent ∧ ∀ due, e.state ≠ .waiting due
    (p.state = .up ∨ p.state = .resync → ∃ t, exec (.laneLockTimeout n) s = .next t ∧ down t) ∧
    (∀ flit : BitVec 32, let k := sget 0 p.resends flit.toNat + 1
      let counted := s.modPort n fun q => { q with resends := sset q.resends flit.toNat k }
      (k ≤ 8 → exec (.linkResendTimeout n flit) s = .next counted) ∧
      (9 ≤ k → (p.state = .up ∨ p.state = .resync) → ∃ t, exec (.linkResendTimeout n flit) s = .next t ∧ down t) ∧
      (∀ f : BitVec 32, sget 0 ((s.flitAcked n flit).port n).resends f.toNat = if f = flit then 0 else sget 0 p.resends f.toNat)) ∧
    (p.state = .down → exec (.linkRestored n) s = .next (s.modPort n fun q => { q with state := .resync, downAt := 0 })) ∧
    (p.state = .fenced → exec (.linkRestored n) s = .next (s.modPort n fun q => { q with downAt := 0 })) ∧
    (∀ (last : BitVec 32) (map : BitVec 64),
      (p.state ≠ .resync → exec (.resyncComplete n last map) s = .next s) ∧
      (p.state = .resync → ∃ t, exec (.resyncComplete n last map) s = .next t ∧ (t.port n).state = .up) ∧
      (p.state = .resync → p.escrows = [] →
        exec (.resyncComplete n last map) s = .next (s.modPort n fun q => { q with state := .up, resends := [] }))) ∧
    (let due := s.portsTo n ≠ [] ∧ n ∉ s.fencedPkgs ∧ ∀ k ∈ s.portsTo n, (s.port k).state = .down ∧ (s.port k).downAt ≠ 0 ∧
       s.fenceInterval ≤ micros ((s.port k).downAt - 1) s.now
     (¬ due → exec (.fenceIntervalExpiry n) s = .next s) ∧
     (due → ∃ t, exec (.fenceIntervalExpiry n) s = .next t ∧ n ∈ t.fencedPkgs ∧
       ∀ k ∈ s.portsTo n, (t.port k).state = .fenced ∧ ∀ e ∈ (t.port k).escrows, ∃ y, e.state = .returning y)) ∧
    (∃ t, exec (.cxlLinkFailure n) s = .next t ∧ n ∈ t.cxlDown ∧ t = { s with cxlDown := t.cxlDown } ∧
      (∀ x d a m, (x.key d a) / 2 ^ 53 = 1 → (x.key d a) % 2 ^ 53 / 2 ^ 42 = n → leafClass x.leaf ≠ 5 → t.l2Find d a = none → 0 < m →
        t.badAt x d a m = true)) ∧
    (∀ quad deg : Nat, quad < 4 →
      let c := s.clockOf n
      let temps := sset s.temps (4 * n + quad) deg
      let above := fun (x : Nat) => ∃ q, q < 4 ∧ x < sget 0 temps (4 * n + q)
      let hot := above 105 ∨ (n ∈ s.hot ∧ above 99)
      let goes := hot ∧ 8 < c ∧ (s.deadlineSave = false ∨ above 110)
      let boot := if 115 ≤ deg then { s.boot with fail := 7 } else s.boot
      ∃ t, exec (.thermalThrottle ⟨n, quad⟩ deg) s = .next t ∧ t.temps = temps ∧ (n ∈ t.hot ↔ hot) ∧
        (∀ m, m ≠ n → (m ∈ t.hot ↔ m ∈ s.hot)) ∧
        (¬ goes → t = { s with temps := temps, hot := t.hot, boot := boot }) ∧
        (goes → t.clockOf n = c - 1 ∧ (∀ m, m ≠ n → t.clockOf m = s.clockOf m) ∧
          t = { s with temps := temps, hot := t.hot, clock := t.clock, evSeq := t.evSeq, lanes := t.lanes, boot := boot } ∧
          ∃ e ∈ (t.lane (Source.mk 2 (4 * n)).lane).unsent ++ (t.lane (Source.mk 2 (4 * n)).lane).waiting,
            e.words.getD 2 0 = 13 ∧ e.words.getD 3 0 = wordOfNat (c - 1) ∧ e.words.getD 6 0 = wordOfNat n)) ∧
    (∀ deg : Nat, exec (.thermalStop deg) s = .next (if 115 ≤ deg then { s with boot := { s.boot with fail := 7 } } else s)) ∧
    ((s.pass n).now = s.now + n ∧ ((s.clock.map (·.1)).Nodup → ∀ d, s.clockOf d ≤ 16 → sget 0 s.lost d ≤ 16 * s.cycle →
      (s.pass 16).cycles d = s.cycles d + s.clockOf d ∧
      (s.clockOf d = 16 → (s.pass n).cycles d = s.cycles d + n ∧ s.dieRuns d = true))) ∧
    (∀ k, s.dieRuns (dieOf (coreOf k)) = false → s.slotReady k = false) ∧
    (∀ m, m < 2 → n < 4 → ∃ t, exec (.ucieModuleFailover n m) s = .next t ∧
      (∀ l, l / 4 = n → t.lane l = { s.lane l with module := if (s.lane l).module = m then 1 - m else (s.lane l).module }) ∧
      ∀ l, l / 4 ≠ n → t.lane l = s.lane l)

/-! ### Boot and measurements -/

/-- R452, R454 to R457: the boot chain. Stage 0 reads its image into the steward's SRAM, and the steward core jumps to its
code (offset and entry are the model's choice, log 18). Stage 1 reads its image into die 0's HBM, in pages that only the
steward's PLB names until the image has passed, and that are then read-only, and executable for the service cores (where
they are mapped is log 18), and installs keys. A stage whose image fails its check, or whose training or enumeration fails, stops the boot with the fail code; each stage
that passes extends its measurement registers with the image's hash, advances the fused minimum where the image asks for
it, and begins the next. R458, R459: SPDM. A request is taken from the mailbox only while the response length is 0; the
request length is cleared, and the response written before its length. The seven requests are answered; any other packet
is answered as unsupported. The responses, the transcripts and the text that is signed by ECDSA P-384 are those of the
protocol (log 9; the private key and the nonces are free values, log 12); the measurement block n holds MR(n - 1). -/
def Obligations.BootAndMeasurements : Prop :=
  (∀ (s : State) (img : FwImage) (hbmOk cxlOk : Bool) (serials : List Word) (root mail region : Nat),
     let st := s.boot.stage
     let stop := fun (t : State) (code : Nat) => ({ t with boot := { t.boot with fail := code } } : State)
     let mr := fun (t : State) (n : Nat) => sget 0 t.mrs n
     let ext := fun (m x : BitVec 384) => sha384 (beBytes 48 m.toNat ++ beBytes 48 x.toNat)
     let whole := imageSigned img ++ img.rsa ++ img.slh
     let hash := sha384 whole
     let record := (List.range 4).flatMap fun d =>
       if Config.cxlSize d = 0 then List.replicate 16 0 else bytesOfNat 8 (serials.getD d 0).toNat ++ bytesOfNat 8 (Config.cxlSize d)
     let inSram := fun (t : State) => ∀ i, sget 0 t.sram i =
       if 0x40000 ≤ i ∧ i < min (0x40000 + whole.length) 0x400000 then whole.getD (i - 0x40000) 0 else sget 0 s.sram i
     let stage1 := exec (.bootStage1 img hbmOk cxlOk serials ⟨root, mail, region⟩) s
     let image := fun (t : State) (cls steward service : Nat) =>
       (s.l2 = [] → ∀ i, i < min 64 (ceilDiv whole.length 65536) →
         t.leafAt (memKey 0 (root + 24576 + 8 * (bitsOf fwAt 25 16 + i))) = setBits (setBits 1 63 27 (region / 65536 + i)) 5 3 cls) ∧
       (∀ c, sget 0 (t.core c).plb 0 = if c = stewardCore then wordOfNat steward else
         if service ≠ 0 ∧ stewardCore < c ∧ c ≤ stewardCore + 16 then wordOfNat service else sget 0 (s.core c).plb 0) ∧
       ∀ c, t.core c = { s.core c with plb := (t.core c).plb }
     let laid := fun (t : State) => t.ptRoot = root ∧ mr t 7 = ext (mr s 7) (sha384 record) ∧
       (∀ k, k < 64 → sget 0 t.keys k = Config.freshKey (s.free + k) ∧ sget 0 t.ctxKeys k = Config.freshKey (s.free + 64 + k))
     (∀ n, s.imageFail img n = 0 →
       headerOk img n = true ∧ sget 0 s.minSvn n ≤ wbits (img.header.getD 1 0) 63 32 ∧
       sha384 img.rsaKey = Config.rsaFuse ∧ rsaPasses img = true ∧ sha384 img.slhKey = Config.slhFuse ∧ slhPasses img = true) ∧
     (st ≠ 0 ∨ s.boot.fail ≠ 0 → exec (.bootStage0 img) s = .next s) ∧
     (st = 0 → s.boot.fail = 0 → s.imageFail img 1 ≠ 0 → ∃ t, exec (.bootStage0 img) s = .next t ∧ inSram t ∧
        t = { s with sram := t.sram, boot := { s.boot with fail := s.imageFail img 1 } }) ∧
     (st = 0 → s.boot.fail = 0 → s.imageFail img 1 = 0 → ∃ t, exec (.bootStage0 img) s = .next t ∧
       t.boot = { stage := 1, fail := 0, done := 0 } ∧ mr t 0 = ext (mr s 0) hash ∧ (∀ n, n ≠ 0 → mr t n = mr s n) ∧
       (∀ n, sget 0 t.minSvn n = if n = 1 ∧ wbit (img.header.getD 0 0) 0 = true then imageSvn img else sget 0 s.minSvn n) ∧
       (t.slot stewardSlot).run = .stray ∧ (t.slot stewardSlot).priv = .m ∧ (t.slot stewardSlot).pc = 0x40200 ∧
       inSram t ∧ (∀ k, k ≠ stewardSlot → t.slot k = s.slot k) ∧
       t = { s with mrs := t.mrs, minSvn := t.minSvn, boot := t.boot, sram := t.sram, slots := t.slots }) ∧
     (st ≠ 1 ∨ s.boot.fail ≠ 0 → stage1 = .next s) ∧
     (st = 1 → s.boot.fail = 0 → hbmOk = false → stage1 = .next (stop s 5)) ∧
     (st = 1 → s.boot.fail = 0 → hbmOk = true → cxlOk = false → stage1 = .next (stop s 6)) ∧
     (st = 1 → s.boot.fail = 0 → hbmOk = true → cxlOk = true → s.imageFail img 2 ≠ 0 → ∃ t, stage1 = .next t ∧
       t.boot = { s.boot with fail := s.imageFail img 2 } ∧ laid t ∧ t.fw = some { base := region, size := whole.length, exec := false } ∧
       image t 0 (2 ^ 63 + fwAt + 22 * 256 + 3) 0) ∧
     (st = 1 → s.boot.fail = 0 → hbmOk = true → cxlOk = true → s.imageFail img 2 = 0 → ∃ t, stage1 = .next t ∧
       t.boot = { stage := 2, fail := 0, done := 1 } ∧ laid t ∧ t.fw = some { base := region, size := whole.length, exec := true } ∧
       image t 1 0 (2 ^ 63 + fwAt + 22 * 256 + 5) ∧
       mr t 1 = ext (mr s 1) hash ∧ mr t 2 = ext (mr s 2) (sha384 Config.fuseConfig) ∧
       (∀ n, n ≠ 1 → n ≠ 2 → n ≠ 7 → mr t n = mr s n) ∧
       (∀ n, sget 0 t.minSvn n = if n = 2 ∧ wbit (img.header.getD 0 0) 0 = true then imageSvn img else sget 0 s.minSvn n) ∧
       t = { s with mrs := t.mrs, minSvn := t.minSvn, boot := t.boot, ptRoot := t.ptRoot, keys := t.keys, ctxKeys := t.ctxKeys,
                    free := t.free, fw := t.fw, mem := t.mem, l2 := t.l2, poison := t.poison, cores := t.cores }) ∧
     (st = 2 → s.boot.done = 1 → s.boot.fail = 0 → exec .bootStage2 s = .next { s with boot := { s.boot with done := 2 } } ∧
       State.lanesUp { s with boot := { s.boot with done := 2 } } = true) ∧
     (¬ (st = 2 ∧ s.boot.done = 1 ∧ s.boot.fail = 0) → exec .bootStage2 s = .next s)) ∧
  (∀ (s : State) (q : SpdmReq),
     let op := q.param2.toNat
     let chain := Config.certChain
     let off := natOfBytes (q.body.take 2)
     let part := min (min (natOfBytes ((q.body.drop 2).take 2)) 2027) (chain.length - off)
     let tail := fun (u : State) => ((List.range 32).map fun i => Config.freeByte (u.free + i)) ++ [0, 0]
       ++ (List.range 8).map fun i => q.body.getD ((if q.param1.getLsbD 0 then 33 else 0) + i) 0
     let all := [1, 2, 3, 4, 5, 6, 7, 8]
     let measured := fun (ns : List Nat) => [0x13, 0x60, 0, 0] ++ [BitVec.ofNat 8 ns.length] ++ bytesOfNat 3 (ns.flatMap s.measurement).length
       ++ ns.flatMap s.measurement
     let known := op ≤ 8 ∨ op = 255
     let reqs : List (Instr × Byte × Byte × Bool × Nat × List Byte) :=
       [(.getVersion q, 0x10, 0x84, false, 0, [0x10, 0x04, 0, 0, 0, 1, 0x00, 0x13]),
        (.getCapabilities q, 0x13, 0xE1, false, 0, [0x13, 0x61, 0, 0] ++ Config.spdmCaps),
        (.negotiateAlgorithms q, 0x13, 0xE3, false, 0, [0x13, 0x63, 0, 0] ++ bytesOfNat 2 36 ++ [1, 0] ++ bytesOfNat 4 4 ++ bytesOfNat 4 0x80
          ++ bytesOfNat 4 2 ++ List.replicate 16 0),
        (.getDigests q, 0x13, 0x81, false, 0, [0x13, 0x01, 1, 1] ++ sha384Bytes chain),
        (.getCertificate q, 0x13, 0x82, false, 0, [0x13, 0x02, q.param1, 0] ++ bytesOfNat 2 part ++ bytesOfNat 2 (chain.length - off - part)
          ++ (chain.drop off).take part),
        (.challenge q, 0x13, 0x83, true, 32, [0x13, 0x03, q.param1, 1] ++ sha384Bytes chain
          ++ ((List.range 32).map fun i => Config.freeByte (s.free + i))
          ++ (if op = 0 then [] else sha384Bytes (all.flatMap s.measurement)) ++ [0, 0] ++ (q.body.drop 32).take 8),
        (.getMeasurements q, 0x13, 0xE0, q.param1.getLsbD 0 && decide known, 32,
          if op = 0 then [0x13, 0x60, 8, 0, 0, 0, 0, 0] ++ tail s else if op = 255 then measured all ++ tail s
          else if op ≤ 8 then measured [op] ++ tail s else [0x13, 0x7F, 1, 0])]
     (∀ n, s.measurement n = [BitVec.ofNat 8 n, 0x01] ++ bytesOfNat 2 51 ++ [0x01] ++ bytesOfNat 2 48 ++ beBytes 48 (sget 0 s.mrs (n - 1)).toNat) ∧
     (s.lanesUp = false → s.mail = .next s) ∧
     (∀ t u, s.lanesUp = true → s.translate 0 Config.mailbox true = .ok (t, u) →
       let num := fun (off : Nat) => natOfBytes (u.homeRead t 0 (Config.mailbox + off) 4)
       let packet := u.homeRead t 0 (Config.mailbox + 8) (num 0)
       let post := fun (v : State) (a : List Byte) => Host.Outcome.next ((((v.homeWrite t Config.mailbox [0, 0, 0, 0]).homeWrite t
         (Config.mailbox + 2056) a).releaseBest stewardCore).homeWrite t (Config.mailbox + 2048) (bytesOfNat 4 a.length))
       let transport := [packet.getD 0 0, packet.getD 2 0, packet.getD 1 0, packet.getD 3 0 &&& 0xF7, packet.getD 4 0]
       let empty := num 0 = 0 ∨ 2040 < num 0 ∨ num 2048 ≠ 0
       (empty → s.mail = .next s) ∧
       (¬ empty → (∀ e ∈ reqs, ¬ (packet.getD 5 0 = e.2.1 ∧ packet.getD 6 0 = e.2.2.1)) →
         s.mail = post u (transport ++ [0x13, 0x7F, 0x07, packet.getD 6 0])) ∧
       ∀ e ∈ reqs,
         let asked := packet = packet.take 5 ++ [e.2.1, e.2.2.1, q.param1, q.param2] ++ q.body
         (empty ∨ ¬ asked → exec e.1 s = .next s) ∧
         (¬ empty → asked →
           let code := e.2.2.1
           let asks := code = 0xE0
           let text := e.2.2.2.2.2
           let vca := if code = 0x84 then [] else u.transcript
           let certs := if code = 0x84 ∨ asks then [] else u.certMsgs
           let meas := if asks then u.measMsgs else []
           let name := if asks then "responder-measurements signing" else "responder-challenge_auth signing"
           let covered := vca ++ (if asks then meas else certs) ++ packet.drop 5 ++ text
           let m := (if e.2.2.2.1 then text ++ ecdsaSign Config.ecdsaKey (Config.ecdsaNonce u.free) (sha384 (spdmSigned name covered)) else text).take 2035
           let both := packet.drop 5 ++ m
           exec e.1 s = post { u with
             transcript := if code = 0x84 ∨ code = 0xE1 ∨ code = 0xE3 then vca ++ both else vca
             certMsgs := if code = 0x81 ∨ code = 0x82 then certs ++ both else if code = 0x83 then [] else certs
             measMsgs := if asks then (if e.2.2.2.1 then [] else meas ++ both) else meas
             free := u.free + e.2.2.2.2.1 } (transport ++ m) ∧
           s.mail = exec e.1 s)))

/-! ### Reset, words and steps -/

/-- R20, R22, R131, R136, R148, R164, R185, R216, R217, R234, R235, R299, R321, R396, R452, R456, R457: reset. Every slot is
idle, in no lane, its registers and its special registers zero but dscope, which is package scope; every core belongs to
no context and may access nothing; the package has no id; nothing has booted and the measurement registers are zero.
(The values that the spec does not give are log 1.) -/
def Obligations.ResetState : Prop :=
  State.reset.Safe ∧
  (∀ k, let o := State.reset.slot k
    o.run = .idle ∧ o.pc = 0 ∧ (∀ n, o.xr n = 0) ∧ (∀ n, o.vr n = 0) ∧ o.vctl = 0 ∧ o.vflags = 0 ∧ o.dscope = 3 ∧ o.repst = 0 ∧
    o.nestst = 0 ∧ o.sbind = 0 ∧ o.dseed = 0 ∧ o.ccont = 0 ∧ o.bwin = 0 ∧ o.stage = 0 ∧ o.gfault = 0 ∧ o.sie = 0 ∧ o.sip = 0 ∧
    State.reset.laneOf k = none) ∧
  (∀ c, let k := State.reset.core c
    k.ctx = none ∧ k.plb = [] ∧ k.l1 = [] ∧ k.acc = [] ∧ k.queues = [] ∧ k.stash = 0 ∧ k.fenced = false) ∧
  (∀ c, (State.reset.car c).lanes = []) ∧
  (∀ x, (State.reset.ctx x).live = false) ∧
  (∀ p, (State.reset.port p).state = .down) ∧
  (∀ l, (State.reset.lane l).last = 0xFFFFFFFF) ∧
  State.reset.pkg = 0xFFF ∧ State.reset.boot = { stage := 0, fail := 0, done := 0 } ∧ (∀ n, sget 0 State.reset.mrs n = 0) ∧
  State.reset.lanesUp = false

/-- R59, R63 to R84: words written out from the encodings decode to what they stand for, and words of reserved encodings to
none. (Tests: one word for every row.) -/
def Obligations.DecodeWords : Prop :=
  decodeWord 0xFE010113 = some (.addi 2 2 0xFE0) ∧
  decodeWord 0x00B50533 = some (.add 10 10 11) ∧
  decodeWord 0x123450B7 = some (.lui 1 0x12345) ∧
  decodeWord 0x0000000B = some (.padd 0 0 0) ∧
  decodeWord (0b0000011_00000_00010_000_00001_0001011 : BitVec 32) = some (.pbase 1 2) ∧
  decodeWord (0b0000_110_000011_000010_000001_0101011 : BitVec 32) = some (.vadd .fp32 1 2 3) ∧
  decodeWord (0b0011_010_000011_000010_000001_0101011 : BitVec 32) = none ∧
  decodeWord (0b0100_111_000010_000010_000001_1011011 : BitVec 32) = some (.vred .fp64 1 2 .min) ∧
  decodeWord (0b000001_000010_00011_101_001_00_1111011 : BitVec 32) = some (.vst 1 3 2) ∧
  decodeWord (0b0000000_00101_00001_000_00100_1111011 : BitVec 32) = some (.enq 4 .copy 5) ∧
  decodeWord (0b0001010_00000_00111_110_00000_1111011 : BitVec 32) = some (.commonsCfgDefine 7) ∧
  decodeWord 0x00000000 = none ∧ decodeWord 0xFFFFFFFF = none ∧
  decodeTcw { q0 := 0x0000000500000006, q1 := 0, q2 := 0, q3 := 0 } =
    some (.mzero { prio := 0, cmsg := false, cq := 0, rm := .rne, ov := false } 5) ∧
  decodeTcw { q0 := 0x0000000500000106, q1 := 0, q2 := 0, q3 := 0 } = none ∧
  decodeTcw { q0 := 0x0000000000000121, q1 := 0x1000, q2 := 0x2000, q3 := 64 } =
    some (.cpy { prio := 0, cmsg := false, cq := 0, rm := .rne, ov := false } { bv := false, bar := 0 } 0x1000 0x2000 64)

/-- R59, R63 to R78: the decoder and the encoder of 32-bit words agree. The word of a well-formed instruction decodes to it,
but for the second and third rows of COMMONS.CFG and SLOT.RESUME, whose words are those of the first (their data
decides); and a word that decodes is the word of what it decodes to, which is well formed. -/
def Obligations.WordsRoundTrip : Prop :=
  (∀ (i : Instr) (w : BitVec 32), encodeWord i = some w → i.wf = true → (∀ r, i ≠ .slotResumeSsip r) →
    (∀ r, i ≠ .commonsCfgRemove r) → (∀ r, i ≠ .commonsCfgReport r) → decodeWord w = some i) ∧
  ∀ (i : Instr) (w : BitVec 32), decodeWord w = some i → encodeWord i = some w ∧ i.wf = true

/-- R81 to R84: the decoder and the encoder of tile command words agree, in both directions. -/
def Obligations.CommandsRoundTrip : Prop :=
  (∀ (i : Instr) (t : Tcw), encodeTcw i = some t → i.wf = true → decodeTcw t = some i) ∧
  ∀ (i : Instr) (t : Tcw), decodeTcw t = some i → encodeTcw i = some t ∧ i.wf = true

/-- The state in which the step of a state runs its move: a cycle has passed; lanes without a member are free, and members that have all
issued a CVSYNC go on (R151, R155); the homes of pages that are not resident are forgotten (R176); of the host's pages, those that units
wait for no longer (R434); waits for spill room that are over end (R207); and the waiting strays are served (R159). -/
def Sys2Proof.Claims.begun (s : State) : State :=
  ({ s.pass 1 with eng := none, serving := none } : State).settleLanes.dropHomes.forgetTold.settleSpills.serveAll

/-- The state in which slot `k`, its core's choice, fetches (R18). -/
def Sys2Proof.Claims.chosen (s : State) (k : Nat) : State :=
  State.modCore { s with cur := k } (coreOf k) fun c => { c with turn := k % 4 }

/-- R18, R23, R59, R60, R127, R148, R265, R400: a step runs what it fetches or chooses (the moves are the model's: log 3). First, what a
slot does that issues: it runs the instruction that its word decodes to, the register fields of a repeated word raised; the word is the
one at its PC, or for a member of a convoy the one its lane has delivered, and without one the slot waits; under a checker that is to
mismatch it runs with the check; a word that decodes to none, the illegal-instruction row; a failed fetch, the fetch-fault row; and at
an instruction boundary an enabled interrupt is taken instead. Then the step, a cycle having passed: the slot that its core chooses
issues, and one that is not its core's choice does nothing; an engine runs the command it chooses, an event its meaning. In a cycle in
which several slots issue and several cores start firings, each core's choice is made as it begins, they act one after the other in
ascending (core, slot) order (R145, R146), and members that a CVSYNC has let go on issue together (R162), but for
those that share a core (log 80). -/
def Obligations.StepRunsDecoded : Prop :=
  (∀ (f : State) (k : Nat),
    let out := (f.issueNow k).one
    let s1 := Claims.chosen f k
    let interrupted := (s1.slot k).interruptible = true ∧ (s1.slot k).atBoundary = true
    (f.slotReady k = false → out = .next f) ∧
    (f.slotReady k = true → interrupted → out = exec (.softwareInterrupt k) s1) ∧
    (f.laneOf k = none → f.feed k = f ∧ s1.fed k = true ∧ s1.goes k = s1 ∧ ∀ a, s1.fetchFor k a = s1.fetchAt k a) ∧
    (f.slotReady k = true → ¬ interrupted → s1.fed k = false → out = .next s1) ∧
    (f.slotReady k = true → ¬ interrupted → s1.fed k = true →
      let s2 := s1.goes k
      (∀ e, s2.fetchFor k (s2.slot k).at_ = .error e → out = exec .instructionFetchFault s2) ∧
      (∀ w u, s2.fetchFor k (s2.slot k).at_ = .ok (w, u) →
        let raised := match (u.slot k).rep with
          | some r => raiseWord w r.fields (r.stride * r.iter)
          | none => w
        (decodeWord raised = none → out = exec (.illegalInstruction w) u) ∧
        (∀ i, decodeWord raised = some i → (u.slot k).errX = [] → (u.slot k).errV = [] →
          let v := if (u.slot k).fresh then u.modSlot k fun sl => sl.begin i else u
          ((u.slot k).mismatch = 0 → out = exec i v) ∧
          ((u.slot k).mismatch ≠ 0 → out = v.checked v.cur (exec i v)))))) ∧
  ∀ (s : State) (m : Move) (rest : List Move), (Claims.begun s).sched = m :: rest → (Claims.begun s).boot.fail = 0 →
    let s0 := { Claims.begun s with sched := rest }
    (∀ k, m = .issue k → s0.nextSlot (coreOf k) = some k → (s0.together k).length ≤ 1 → step s = ((s0.feed k).issueNow k).one) ∧
    (∀ k, m = .issue k → s0.nextSlot (coreOf k) ≠ some k → step s = .next s0) ∧
    (∀ c e g d u, m = .engine c e → e < 4 → s0.stopped c = false → s0.selectEngine c e = some (g, d, u) →
      (∀ i, decodeTcw d.tcw = some i → step s = exec i u) ∧
      (decodeTcw d.tcw = none → step s = .next (u.refuseCmd g d))) ∧
    (∀ ks cs, m = .cycle ks cs ∨
        (cs = [] ∧ ∃ k, ks = [k] ∧ m = .issue k ∧ s0.nextSlot (coreOf k) = some k ∧ 1 < (s0.together k).length) →
      let u := (ks ++ ks.flatMap s0.together).foldl (fun s k => s.feed k) s0
      let chosen := fun (k : Nat) => k ∈ ks ∧ u.nextSlot (coreOf k) = some k
      let act := fun (a : CycleAct) (t : State) => match a with
        | .issue k => (t.issueNow k).one
        | .start c k => if t.idleSlot c = some k then exec (.firingStart c) t else .next t
      ∃ as : List CycleAct, as.Pairwise (fun a b => a.slot ≤ b.slot) ∧
        (∀ j k, .issue j ∈ as → .issue k ∈ as → coreOf j = coreOf k → j = k) ∧
        (∀ j, .issue j ∈ as → chosen j ∨ (u.canIssue j = true ∧ ∃ k, chosen k ∧ j ∈ u.together k)) ∧
        (∀ k j, chosen k → (j = k ∨ (j ∈ u.together k ∧ u.canIssue j = true)) → ∃ i, .issue i ∈ as ∧ coreOf i = coreOf j) ∧
        (∀ c k, .start c k ∈ as ↔ c ∈ cs ∧ c < numCores ∧ u.idleSlot c = some k) ∧
        step s = oneByOne act as { u with before := some u.cars }) ∧
    (∀ i, m = .event i → i.wf = true → isEvent i = true → step s = exec i s0)

/-- Log 2: every step keeps the memory in its canonical form, so that equal memories are equal data. -/
def Obligations.StepKeepsMemoryCanonical : Prop :=
  ∀ (s t : State), s.MemInv → step s = .next t → t.MemInv

/-- R393: no step takes a slot but the steward core's into M-mode, and none saves one that is. -/
def Obligations.StepKeepsModeLegal : Prop :=
  ∀ (s t : State), s.ModeInv → step s = .next t → t.ModeInv

/-- R60: a word that is not an instruction takes an illegal-instruction trap, cause 2, when the slot whose turn it is
decodes it: sepc holds its address and stval the word, zero-extended; no register and no memory changes, and no other
slot. -/
def Obligations.IllegalWordsTrap : Prop :=
  ∀ (s u : State) (k : Nat) (rest : List Move) (w : BitVec 32), (Claims.begun s).sched = .issue k :: rest →
    (Claims.begun s).boot.fail = 0 → k ≠ stewardSlot →
    let s0 := { Claims.begun s with sched := rest }
    let s1 := Claims.chosen s0 k
    s0.nextSlot (coreOf k) = some k → ((s1.slot k).interruptible && (s1.slot k).atBoundary) = false → s1.laneOf k = none →
      s1.fetchAt k (s1.slot k).at_ = .ok (w, u) → (u.slot k).rep = none → decodeWord w = none →
      ∃ t, step s = .next t ∧
        (t.slot k).sepc = (u.slot k).pc ∧ (t.slot k).scause = 2 ∧ (t.slot k).stval = w.setWidth 64 ∧ (t.slot k).priv = .s ∧
        (t.slot k).x = (s1.slot k).x ∧ (t.slot k).v = (s1.slot k).v ∧ (t.slot k).vflags = (s1.slot k).vflags ∧
        (∀ b, t.byte b = u.byte b) ∧ t.cores = u.cores ∧ ∀ j, j ≠ k → t.slot j = s1.slot j

end
end

