-- ==== Sys2Proof/Laws/Sparse.lean ====
section
/-!
SUPPORT. The laws of the map library: reading after writing, and that writing keeps the canonical form.
-/

namespace Sys2Proof.Machine

variable {α : Type}

@[simp] theorem sget_nil (d : α) (k : Nat) : sget d ([] : Sparse α) k = d := rfl

@[simp] theorem sget_sset_same (d : α) (m : Sparse α) (k : Nat) (v : α) : sget d (sset m k v) k = v := by
  induction m with
  | nil => simp [sset, sget]
  | cons e m ih =>
    unfold sset
    split
    · simp [sget]
    · split
      · simp [sget]
      · rename_i h1 h2; simp [sget, Ne.symm h2, ih]

theorem sget_sset_other (d : α) (m : Sparse α) {j k : Nat} (v : α) (h : j ≠ k) : sget d (sset m k v) j = sget d m j := by
  induction m with
  | nil => simp [sset, sget, Ne.symm h]
  | cons e m ih =>
    unfold sset
    split
    · simp [sget, Ne.symm h]
    · split
      · rename_i h2; simp [sget, ← h2, Ne.symm h]
      · simp [sget, ih]

theorem sget_sset (d : α) (m : Sparse α) (j k : Nat) (v : α) : sget d (sset m k v) j = if j = k then v else sget d m j := by
  split
  · subst j; simp
  · exact sget_sset_other d m v ‹_›

@[simp] theorem sget_sdel_same (d : α) (m : Sparse α) (k : Nat) : sget d (sdel m k) k = d := by
  induction m with
  | nil => rfl
  | cons e m ih =>
    unfold sdel
    split
    · exact ih
    · simp [sget, *]

theorem sget_sdel_other (d : α) (m : Sparse α) {j k : Nat} (h : j ≠ k) : sget d (sdel m k) j = sget d m j := by
  induction m with
  | nil => rfl
  | cons e m ih =>
    unfold sdel
    split
    · rename_i h1; simp [sget, h1, Ne.symm h, ih]
    · simp [sget, ih]

/-- The keys of a map that `sset` gives are its old keys and the new one. -/
theorem mem_sset {m : Sparse α} {k : Nat} {v : α} {e : Nat × α} (h : e ∈ sset m k v) : e ∈ m ∨ e = (k, v) := by
  induction m with
  | nil => simp [sset] at h; exact .inr h
  | cons a m ih =>
    unfold sset at h
    split at h
    · simp only [List.mem_cons] at h ⊢; tauto
    · split at h
      · simp only [List.mem_cons] at h ⊢; tauto
      · simp only [List.mem_cons] at h ⊢
        rcases h with h | h
        · exact .inl (.inl h)
        · rcases ih h with h | h
          · exact .inl (.inr h)
          · exact .inr h

/-- The entries of a map without a key are entries of the map. -/
theorem mem_sdel {m : Sparse α} {k : Nat} {e : Nat × α} (h : e ∈ sdel m k) : e ∈ m := by
  induction m with
  | nil => exact h
  | cons a m ih =>
    unfold sdel at h
    split at h
    · exact .tail _ (ih h)
    · simp only [List.mem_cons] at h ⊢; exact h.imp id ih

variable [DecidableEq α]

theorem sget_sput (d : α) (m : Sparse α) (j k : Nat) (v : α) : sget d (sput d m k v) j = if j = k then v else sget d m j := by
  unfold sput
  split
  · split
    · rename_i h1 h2; subst h2; simp [h1]
    · exact sget_sdel_other d m ‹_›
  · exact sget_sset d m j k v

@[simp] theorem sget_sput_same (d : α) (m : Sparse α) (k : Nat) (v : α) : sget d (sput d m k v) k = v := by simp [sget_sput]

/-- Setting a value that is not the default keeps the canonical form. -/
theorem swf_sset {d : α} {m : Sparse α} {k : Nat} {v : α} (hv : v ≠ d) (h : swf d m = true) : swf d (sset m k v) = true := by
  induction m with
  | nil => simp [sset, swf, hv]
  | cons a m ih =>
    simp only [swf, Bool.and_eq_true, List.all_eq_true, decide_eq_true_eq, Bool.not_eq_true', decide_eq_false_iff_not] at h
    obtain ⟨⟨h1, h2⟩, h3⟩ := h
    unfold sset
    split
    · rename_i hk
      simp only [swf, Bool.and_eq_true, List.all_eq_true, decide_eq_true_eq, Bool.not_eq_true', decide_eq_false_iff_not]
      exact ⟨⟨fun e he => by rcases List.mem_cons.1 he with rfl | he; exacts [hk, hk.trans (h1 e he)], hv⟩, ⟨h1, h2⟩, h3⟩
    · split
      · rename_i hk; subst hk
        simp only [swf, Bool.and_eq_true, List.all_eq_true, decide_eq_true_eq, Bool.not_eq_true', decide_eq_false_iff_not]
        exact ⟨⟨h1, hv⟩, h3⟩
      · simp only [swf, Bool.and_eq_true, List.all_eq_true, decide_eq_true_eq, Bool.not_eq_true', decide_eq_false_iff_not]
        refine ⟨⟨fun e he => ?_, h2⟩, ih h3⟩
        rcases mem_sset he with he | rfl
        · exact h1 e he
        · show _ < _; omega

theorem swf_sdel {d : α} {m : Sparse α} {k : Nat} (h : swf d m = true) : swf d (sdel m k) = true := by
  induction m with
  | nil => exact h
  | cons a m ih =>
    simp only [swf, Bool.and_eq_true, List.all_eq_true, decide_eq_true_eq, Bool.not_eq_true', decide_eq_false_iff_not] at h
    obtain ⟨⟨h1, h2⟩, h3⟩ := h
    unfold sdel
    split
    · exact ih h3
    · simp only [swf, Bool.and_eq_true, List.all_eq_true, decide_eq_true_eq, Bool.not_eq_true', decide_eq_false_iff_not]
      exact ⟨⟨fun e he => h1 e (mem_sdel he), h2⟩, ih h3⟩

/-- `sput` keeps the canonical form. -/
theorem swf_sput {d : α} {m : Sparse α} {k : Nat} {v : α} (h : swf d m = true) : swf d (sput d m k v) = true := by
  unfold sput
  split
  · exact swf_sdel h
  · exact swf_sset ‹_› h

/-- A fold over a range keeps what every step of it keeps. -/
theorem forRange_keeps {β : Type} (P : β → Prop) (n : Nat) (f : Nat → β → β) (hf : ∀ i b, P b → P (f i b)) {b : β} (h : P b) :
    P (forRange n f b) := by
  unfold forRange
  induction List.range n generalizing b with
  | nil => exact h
  | cons i l ih => exact ih (hf i b h)

/-- A fold over a list keeps what every step of it keeps. -/
theorem foldl_keeps {β γ : Type} (P : β → Prop) (l : List γ) (f : β → γ → β) (hf : ∀ b c, P b → P (f b c)) {b : β} (h : P b) :
    P (l.foldl f b) := by
  induction l generalizing b with
  | nil => exact h
  | cons c l ih => exact ih (hf b c h)

/-- A fold that may stop, over a list, keeps what every step of it keeps. -/
theorem foldlM_keeps {β γ ε : Type} (P : β → Prop) (l : List γ) (f : β → γ → Except ε β)
    (hf : ∀ b c b', P b → f b c = .ok b' → P b') {b b' : β} (h : P b) (hb : l.foldlM f b = .ok b') : P b' := by
  induction l generalizing b with
  | nil => cases hb; exact h
  | cons c l ih =>
    simp only [List.foldlM_cons] at hb
    cases hc : f b c with
    | error e => rw [hc] at hb; cases hb
    | ok x => rw [hc] at hb; exact ih (hf b c x h hc) hb

end Sys2Proof.Machine
end

