-- ==== Sys2Proof/Laws/State.lean ====
section
/-!
SUPPORT. What each update of one part of the state leaves alone: one lemma per field per update, each true by
unfolding.
-/

namespace Sys2Proof.Machine

section
variable (s : State) (k : Nat) (f : Slot → Slot)
@[simp] theorem State.modSlot_mem : (s.modSlot k f).mem = s.mem := rfl
@[simp] theorem State.modSlot_poison : (s.modSlot k f).poison = s.poison := rfl
@[simp] theorem State.modSlot_resv : (s.modSlot k f).resv = s.resv := rfl
@[simp] theorem State.modSlot_l2 : (s.modSlot k f).l2 = s.l2 := rfl
@[simp] theorem State.modSlot_seals : (s.modSlot k f).seals = s.seals := rfl
@[simp] theorem State.modSlot_keys : (s.modSlot k f).keys = s.keys := rfl
@[simp] theorem State.modSlot_ctxKeys : (s.modSlot k f).ctxKeys = s.ctxKeys := rfl
@[simp] theorem State.modSlot_training : (s.modSlot k f).training = s.training := rfl
@[simp] theorem State.modSlot_temps : (s.modSlot k f).temps = s.temps := rfl
@[simp] theorem State.modSlot_hot : (s.modSlot k f).hot = s.hot := rfl
@[simp] theorem State.modSlot_fw : (s.modSlot k f).fw = s.fw := rfl
@[simp] theorem State.modSlot_transcript : (s.modSlot k f).transcript = s.transcript := rfl
@[simp] theorem State.modSlot_certMsgs : (s.modSlot k f).certMsgs = s.certMsgs := rfl
@[simp] theorem State.modSlot_measMsgs : (s.modSlot k f).measMsgs = s.measMsgs := rfl
@[simp] theorem State.modSlot_lost : (s.modSlot k f).lost = s.lost := rfl
@[simp] theorem State.modSlot_hints : (s.modSlot k f).hints = s.hints := rfl
@[simp] theorem State.modSlot_freed : (s.modSlot k f).freed = s.freed := rfl
@[simp] theorem State.modSlot_before : (s.modSlot k f).before = s.before := rfl
@[simp] theorem State.modSlot_told : (s.modSlot k f).told = s.told := rfl
@[simp] theorem State.modSlot_ptRoot : (s.modSlot k f).ptRoot = s.ptRoot := rfl
@[simp] theorem State.modSlot_trans : (s.modSlot k f).trans = s.trans := rfl
@[simp] theorem State.modSlot_firstTouch : (s.modSlot k f).firstTouch = s.firstTouch := rfl
@[simp] theorem State.modSlot_cores : (s.modSlot k f).cores = s.cores := rfl
@[simp] theorem State.modSlot_cars : (s.modSlot k f).cars = s.cars := rfl
@[simp] theorem State.modSlot_ways : (s.modSlot k f).ways = s.ways := rfl
@[simp] theorem State.modSlot_bulks : (s.modSlot k f).bulks = s.bulks := rfl
@[simp] theorem State.modSlot_clock : (s.modSlot k f).clock = s.clock := rfl
@[simp] theorem State.modSlot_landings : (s.modSlot k f).landings = s.landings := rfl
@[simp] theorem State.modSlot_gangs : (s.modSlot k f).gangs = s.gangs := rfl
@[simp] theorem State.modSlot_injects : (s.modSlot k f).injects = s.injects := rfl
@[simp] theorem State.modSlot_rules : (s.modSlot k f).rules = s.rules := rfl
@[simp] theorem State.modSlot_ruleRuns : (s.modSlot k f).ruleRuns = s.ruleRuns := rfl
@[simp] theorem State.modSlot_regions : (s.modSlot k f).regions = s.regions := rfl
@[simp] theorem State.modSlot_ports : (s.modSlot k f).ports = s.ports := rfl
@[simp] theorem State.modSlot_pkg : (s.modSlot k f).pkg = s.pkg := rfl
@[simp] theorem State.modSlot_fencedPkgs : (s.modSlot k f).fencedPkgs = s.fencedPkgs := rfl
@[simp] theorem State.modSlot_fenceInterval : (s.modSlot k f).fenceInterval = s.fenceInterval := rfl
@[simp] theorem State.modSlot_outbox : (s.modSlot k f).outbox = s.outbox := rfl
@[simp] theorem State.modSlot_toSeq : (s.modSlot k f).toSeq = s.toSeq := rfl
@[simp] theorem State.modSlot_toDest : (s.modSlot k f).toDest = s.toDest := rfl
@[simp] theorem State.modSlot_ctxs : (s.modSlot k f).ctxs = s.ctxs := rfl
@[simp] theorem State.modSlot_lastDisp : (s.modSlot k f).lastDisp = s.lastDisp := rfl
@[simp] theorem State.modSlot_dispAt : (s.modSlot k f).dispAt = s.dispAt := rfl
@[simp] theorem State.modSlot_order : (s.modSlot k f).order = s.order := rfl
@[simp] theorem State.modSlot_lanes : (s.modSlot k f).lanes = s.lanes := rfl
@[simp] theorem State.modSlot_evSeq : (s.modSlot k f).evSeq = s.evSeq := rfl
@[simp] theorem State.modSlot_faults : (s.modSlot k f).faults = s.faults := rfl
@[simp] theorem State.modSlot_cxlDown : (s.modSlot k f).cxlDown = s.cxlDown := rfl
@[simp] theorem State.modSlot_retrain : (s.modSlot k f).retrain = s.retrain := rfl
@[simp] theorem State.modSlot_pxmode : (s.modSlot k f).pxmode = s.pxmode := rfl
@[simp] theorem State.modSlot_boot : (s.modSlot k f).boot = s.boot := rfl
@[simp] theorem State.modSlot_minSvn : (s.modSlot k f).minSvn = s.minSvn := rfl
@[simp] theorem State.modSlot_mrs : (s.modSlot k f).mrs = s.mrs := rfl
@[simp] theorem State.modSlot_sram : (s.modSlot k f).sram = s.sram := rfl
@[simp] theorem State.modSlot_snaps : (s.modSlot k f).snaps = s.snaps := rfl
@[simp] theorem State.modSlot_cycle : (s.modSlot k f).cycle = s.cycle := rfl
@[simp] theorem State.modSlot_free : (s.modSlot k f).free = s.free := rfl
@[simp] theorem State.modSlot_sched : (s.modSlot k f).sched = s.sched := rfl
@[simp] theorem State.modSlot_cur : (s.modSlot k f).cur = s.cur := rfl
@[simp] theorem State.modSlot_eng : (s.modSlot k f).eng = s.eng := rfl
@[simp] theorem State.modSlot_serving : (s.modSlot k f).serving = s.serving := rfl
end

section
variable (s : State) (k : Nat) (f : Core → Core)
@[simp] theorem State.modCore_mem : (s.modCore k f).mem = s.mem := rfl
@[simp] theorem State.modCore_poison : (s.modCore k f).poison = s.poison := rfl
@[simp] theorem State.modCore_resv : (s.modCore k f).resv = s.resv := rfl
@[simp] theorem State.modCore_l2 : (s.modCore k f).l2 = s.l2 := rfl
@[simp] theorem State.modCore_seals : (s.modCore k f).seals = s.seals := rfl
@[simp] theorem State.modCore_keys : (s.modCore k f).keys = s.keys := rfl
@[simp] theorem State.modCore_ctxKeys : (s.modCore k f).ctxKeys = s.ctxKeys := rfl
@[simp] theorem State.modCore_training : (s.modCore k f).training = s.training := rfl
@[simp] theorem State.modCore_temps : (s.modCore k f).temps = s.temps := rfl
@[simp] theorem State.modCore_hot : (s.modCore k f).hot = s.hot := rfl
@[simp] theorem State.modCore_fw : (s.modCore k f).fw = s.fw := rfl
@[simp] theorem State.modCore_transcript : (s.modCore k f).transcript = s.transcript := rfl
@[simp] theorem State.modCore_certMsgs : (s.modCore k f).certMsgs = s.certMsgs := rfl
@[simp] theorem State.modCore_measMsgs : (s.modCore k f).measMsgs = s.measMsgs := rfl
@[simp] theorem State.modCore_lost : (s.modCore k f).lost = s.lost := rfl
@[simp] theorem State.modCore_hints : (s.modCore k f).hints = s.hints := rfl
@[simp] theorem State.modCore_freed : (s.modCore k f).freed = s.freed := rfl
@[simp] theorem State.modCore_before : (s.modCore k f).before = s.before := rfl
@[simp] theorem State.modCore_told : (s.modCore k f).told = s.told := rfl
@[simp] theorem State.modCore_ptRoot : (s.modCore k f).ptRoot = s.ptRoot := rfl
@[simp] theorem State.modCore_trans : (s.modCore k f).trans = s.trans := rfl
@[simp] theorem State.modCore_firstTouch : (s.modCore k f).firstTouch = s.firstTouch := rfl
@[simp] theorem State.modCore_slots : (s.modCore k f).slots = s.slots := rfl
@[simp] theorem State.modCore_cars : (s.modCore k f).cars = s.cars := rfl
@[simp] theorem State.modCore_ways : (s.modCore k f).ways = s.ways := rfl
@[simp] theorem State.modCore_bulks : (s.modCore k f).bulks = s.bulks := rfl
@[simp] theorem State.modCore_clock : (s.modCore k f).clock = s.clock := rfl
@[simp] theorem State.modCore_landings : (s.modCore k f).landings = s.landings := rfl
@[simp] theorem State.modCore_gangs : (s.modCore k f).gangs = s.gangs := rfl
@[simp] theorem State.modCore_injects : (s.modCore k f).injects = s.injects := rfl
@[simp] theorem State.modCore_rules : (s.modCore k f).rules = s.rules := rfl
@[simp] theorem State.modCore_ruleRuns : (s.modCore k f).ruleRuns = s.ruleRuns := rfl
@[simp] theorem State.modCore_regions : (s.modCore k f).regions = s.regions := rfl
@[simp] theorem State.modCore_ports : (s.modCore k f).ports = s.ports := rfl
@[simp] theorem State.modCore_pkg : (s.modCore k f).pkg = s.pkg := rfl
@[simp] theorem State.modCore_fencedPkgs : (s.modCore k f).fencedPkgs = s.fencedPkgs := rfl
@[simp] theorem State.modCore_fenceInterval : (s.modCore k f).fenceInterval = s.fenceInterval := rfl
@[simp] theorem State.modCore_outbox : (s.modCore k f).outbox = s.outbox := rfl
@[simp] theorem State.modCore_toSeq : (s.modCore k f).toSeq = s.toSeq := rfl
@[simp] theorem State.modCore_toDest : (s.modCore k f).toDest = s.toDest := rfl
@[simp] theorem State.modCore_ctxs : (s.modCore k f).ctxs = s.ctxs := rfl
@[simp] theorem State.modCore_lastDisp : (s.modCore k f).lastDisp = s.lastDisp := rfl
@[simp] theorem State.modCore_dispAt : (s.modCore k f).dispAt = s.dispAt := rfl
@[simp] theorem State.modCore_order : (s.modCore k f).order = s.order := rfl
@[simp] theorem State.modCore_lanes : (s.modCore k f).lanes = s.lanes := rfl
@[simp] theorem State.modCore_evSeq : (s.modCore k f).evSeq = s.evSeq := rfl
@[simp] theorem State.modCore_faults : (s.modCore k f).faults = s.faults := rfl
@[simp] theorem State.modCore_cxlDown : (s.modCore k f).cxlDown = s.cxlDown := rfl
@[simp] theorem State.modCore_retrain : (s.modCore k f).retrain = s.retrain := rfl
@[simp] theorem State.modCore_pxmode : (s.modCore k f).pxmode = s.pxmode := rfl
@[simp] theorem State.modCore_boot : (s.modCore k f).boot = s.boot := rfl
@[simp] theorem State.modCore_minSvn : (s.modCore k f).minSvn = s.minSvn := rfl
@[simp] theorem State.modCore_mrs : (s.modCore k f).mrs = s.mrs := rfl
@[simp] theorem State.modCore_sram : (s.modCore k f).sram = s.sram := rfl
@[simp] theorem State.modCore_snaps : (s.modCore k f).snaps = s.snaps := rfl
@[simp] theorem State.modCore_cycle : (s.modCore k f).cycle = s.cycle := rfl
@[simp] theorem State.modCore_free : (s.modCore k f).free = s.free := rfl
@[simp] theorem State.modCore_sched : (s.modCore k f).sched = s.sched := rfl
@[simp] theorem State.modCore_cur : (s.modCore k f).cur = s.cur := rfl
@[simp] theorem State.modCore_eng : (s.modCore k f).eng = s.eng := rfl
@[simp] theorem State.modCore_serving : (s.modCore k f).serving = s.serving := rfl
end

section
variable (s : State) (k : Nat) (f : Caravan → Caravan)
@[simp] theorem State.modCar_mem : (s.modCar k f).mem = s.mem := rfl
@[simp] theorem State.modCar_poison : (s.modCar k f).poison = s.poison := rfl
@[simp] theorem State.modCar_resv : (s.modCar k f).resv = s.resv := rfl
@[simp] theorem State.modCar_l2 : (s.modCar k f).l2 = s.l2 := rfl
@[simp] theorem State.modCar_seals : (s.modCar k f).seals = s.seals := rfl
@[simp] theorem State.modCar_keys : (s.modCar k f).keys = s.keys := rfl
@[simp] theorem State.modCar_ctxKeys : (s.modCar k f).ctxKeys = s.ctxKeys := rfl
@[simp] theorem State.modCar_training : (s.modCar k f).training = s.training := rfl
@[simp] theorem State.modCar_temps : (s.modCar k f).temps = s.temps := rfl
@[simp] theorem State.modCar_hot : (s.modCar k f).hot = s.hot := rfl
@[simp] theorem State.modCar_fw : (s.modCar k f).fw = s.fw := rfl
@[simp] theorem State.modCar_transcript : (s.modCar k f).transcript = s.transcript := rfl
@[simp] theorem State.modCar_certMsgs : (s.modCar k f).certMsgs = s.certMsgs := rfl
@[simp] theorem State.modCar_measMsgs : (s.modCar k f).measMsgs = s.measMsgs := rfl
@[simp] theorem State.modCar_lost : (s.modCar k f).lost = s.lost := rfl
@[simp] theorem State.modCar_hints : (s.modCar k f).hints = s.hints := rfl
@[simp] theorem State.modCar_freed : (s.modCar k f).freed = s.freed := rfl
@[simp] theorem State.modCar_before : (s.modCar k f).before = s.before := rfl
@[simp] theorem State.modCar_told : (s.modCar k f).told = s.told := rfl
@[simp] theorem State.modCar_ptRoot : (s.modCar k f).ptRoot = s.ptRoot := rfl
@[simp] theorem State.modCar_trans : (s.modCar k f).trans = s.trans := rfl
@[simp] theorem State.modCar_firstTouch : (s.modCar k f).firstTouch = s.firstTouch := rfl
@[simp] theorem State.modCar_slots : (s.modCar k f).slots = s.slots := rfl
@[simp] theorem State.modCar_cores : (s.modCar k f).cores = s.cores := rfl
@[simp] theorem State.modCar_ways : (s.modCar k f).ways = s.ways := rfl
@[simp] theorem State.modCar_bulks : (s.modCar k f).bulks = s.bulks := rfl
@[simp] theorem State.modCar_clock : (s.modCar k f).clock = s.clock := rfl
@[simp] theorem State.modCar_landings : (s.modCar k f).landings = s.landings := rfl
@[simp] theorem State.modCar_gangs : (s.modCar k f).gangs = s.gangs := rfl
@[simp] theorem State.modCar_injects : (s.modCar k f).injects = s.injects := rfl
@[simp] theorem State.modCar_rules : (s.modCar k f).rules = s.rules := rfl
@[simp] theorem State.modCar_ruleRuns : (s.modCar k f).ruleRuns = s.ruleRuns := rfl
@[simp] theorem State.modCar_regions : (s.modCar k f).regions = s.regions := rfl
@[simp] theorem State.modCar_ports : (s.modCar k f).ports = s.ports := rfl
@[simp] theorem State.modCar_pkg : (s.modCar k f).pkg = s.pkg := rfl
@[simp] theorem State.modCar_fencedPkgs : (s.modCar k f).fencedPkgs = s.fencedPkgs := rfl
@[simp] theorem State.modCar_fenceInterval : (s.modCar k f).fenceInterval = s.fenceInterval := rfl
@[simp] theorem State.modCar_outbox : (s.modCar k f).outbox = s.outbox := rfl
@[simp] theorem State.modCar_toSeq : (s.modCar k f).toSeq = s.toSeq := rfl
@[simp] theorem State.modCar_toDest : (s.modCar k f).toDest = s.toDest := rfl
@[simp] theorem State.modCar_ctxs : (s.modCar k f).ctxs = s.ctxs := rfl
@[simp] theorem State.modCar_lastDisp : (s.modCar k f).lastDisp = s.lastDisp := rfl
@[simp] theorem State.modCar_dispAt : (s.modCar k f).dispAt = s.dispAt := rfl
@[simp] theorem State.modCar_order : (s.modCar k f).order = s.order := rfl
@[simp] theorem State.modCar_lanes : (s.modCar k f).lanes = s.lanes := rfl
@[simp] theorem State.modCar_evSeq : (s.modCar k f).evSeq = s.evSeq := rfl
@[simp] theorem State.modCar_faults : (s.modCar k f).faults = s.faults := rfl
@[simp] theorem State.modCar_cxlDown : (s.modCar k f).cxlDown = s.cxlDown := rfl
@[simp] theorem State.modCar_retrain : (s.modCar k f).retrain = s.retrain := rfl
@[simp] theorem State.modCar_pxmode : (s.modCar k f).pxmode = s.pxmode := rfl
@[simp] theorem State.modCar_boot : (s.modCar k f).boot = s.boot := rfl
@[simp] theorem State.modCar_minSvn : (s.modCar k f).minSvn = s.minSvn := rfl
@[simp] theorem State.modCar_mrs : (s.modCar k f).mrs = s.mrs := rfl
@[simp] theorem State.modCar_sram : (s.modCar k f).sram = s.sram := rfl
@[simp] theorem State.modCar_snaps : (s.modCar k f).snaps = s.snaps := rfl
@[simp] theorem State.modCar_cycle : (s.modCar k f).cycle = s.cycle := rfl
@[simp] theorem State.modCar_free : (s.modCar k f).free = s.free := rfl
@[simp] theorem State.modCar_sched : (s.modCar k f).sched = s.sched := rfl
@[simp] theorem State.modCar_cur : (s.modCar k f).cur = s.cur := rfl
@[simp] theorem State.modCar_eng : (s.modCar k f).eng = s.eng := rfl
@[simp] theorem State.modCar_serving : (s.modCar k f).serving = s.serving := rfl
end

section
variable (s : State) (k : Nat) (f : Ctx → Ctx)
@[simp] theorem State.modCtx_mem : (s.modCtx k f).mem = s.mem := rfl
@[simp] theorem State.modCtx_poison : (s.modCtx k f).poison = s.poison := rfl
@[simp] theorem State.modCtx_resv : (s.modCtx k f).resv = s.resv := rfl
@[simp] theorem State.modCtx_l2 : (s.modCtx k f).l2 = s.l2 := rfl
@[simp] theorem State.modCtx_seals : (s.modCtx k f).seals = s.seals := rfl
@[simp] theorem State.modCtx_keys : (s.modCtx k f).keys = s.keys := rfl
@[simp] theorem State.modCtx_ctxKeys : (s.modCtx k f).ctxKeys = s.ctxKeys := rfl
@[simp] theorem State.modCtx_training : (s.modCtx k f).training = s.training := rfl
@[simp] theorem State.modCtx_temps : (s.modCtx k f).temps = s.temps := rfl
@[simp] theorem State.modCtx_hot : (s.modCtx k f).hot = s.hot := rfl
@[simp] theorem State.modCtx_fw : (s.modCtx k f).fw = s.fw := rfl
@[simp] theorem State.modCtx_transcript : (s.modCtx k f).transcript = s.transcript := rfl
@[simp] theorem State.modCtx_certMsgs : (s.modCtx k f).certMsgs = s.certMsgs := rfl
@[simp] theorem State.modCtx_measMsgs : (s.modCtx k f).measMsgs = s.measMsgs := rfl
@[simp] theorem State.modCtx_lost : (s.modCtx k f).lost = s.lost := rfl
@[simp] theorem State.modCtx_hints : (s.modCtx k f).hints = s.hints := rfl
@[simp] theorem State.modCtx_freed : (s.modCtx k f).freed = s.freed := rfl
@[simp] theorem State.modCtx_before : (s.modCtx k f).before = s.before := rfl
@[simp] theorem State.modCtx_told : (s.modCtx k f).told = s.told := rfl
@[simp] theorem State.modCtx_ptRoot : (s.modCtx k f).ptRoot = s.ptRoot := rfl
@[simp] theorem State.modCtx_trans : (s.modCtx k f).trans = s.trans := rfl
@[simp] theorem State.modCtx_firstTouch : (s.modCtx k f).firstTouch = s.firstTouch := rfl
@[simp] theorem State.modCtx_slots : (s.modCtx k f).slots = s.slots := rfl
@[simp] theorem State.modCtx_cores : (s.modCtx k f).cores = s.cores := rfl
@[simp] theorem State.modCtx_cars : (s.modCtx k f).cars = s.cars := rfl
@[simp] theorem State.modCtx_ways : (s.modCtx k f).ways = s.ways := rfl
@[simp] theorem State.modCtx_bulks : (s.modCtx k f).bulks = s.bulks := rfl
@[simp] theorem State.modCtx_clock : (s.modCtx k f).clock = s.clock := rfl
@[simp] theorem State.modCtx_landings : (s.modCtx k f).landings = s.landings := rfl
@[simp] theorem State.modCtx_gangs : (s.modCtx k f).gangs = s.gangs := rfl
@[simp] theorem State.modCtx_injects : (s.modCtx k f).injects = s.injects := rfl
@[simp] theorem State.modCtx_rules : (s.modCtx k f).rules = s.rules := rfl
@[simp] theorem State.modCtx_ruleRuns : (s.modCtx k f).ruleRuns = s.ruleRuns := rfl
@[simp] theorem State.modCtx_regions : (s.modCtx k f).regions = s.regions := rfl
@[simp] theorem State.modCtx_ports : (s.modCtx k f).ports = s.ports := rfl
@[simp] theorem State.modCtx_pkg : (s.modCtx k f).pkg = s.pkg := rfl
@[simp] theorem State.modCtx_fencedPkgs : (s.modCtx k f).fencedPkgs = s.fencedPkgs := rfl
@[simp] theorem State.modCtx_fenceInterval : (s.modCtx k f).fenceInterval = s.fenceInterval := rfl
@[simp] theorem State.modCtx_outbox : (s.modCtx k f).outbox = s.outbox := rfl
@[simp] theorem State.modCtx_toSeq : (s.modCtx k f).toSeq = s.toSeq := rfl
@[simp] theorem State.modCtx_toDest : (s.modCtx k f).toDest = s.toDest := rfl
@[simp] theorem State.modCtx_lastDisp : (s.modCtx k f).lastDisp = s.lastDisp := rfl
@[simp] theorem State.modCtx_dispAt : (s.modCtx k f).dispAt = s.dispAt := rfl
@[simp] theorem State.modCtx_order : (s.modCtx k f).order = s.order := rfl
@[simp] theorem State.modCtx_lanes : (s.modCtx k f).lanes = s.lanes := rfl
@[simp] theorem State.modCtx_evSeq : (s.modCtx k f).evSeq = s.evSeq := rfl
@[simp] theorem State.modCtx_faults : (s.modCtx k f).faults = s.faults := rfl
@[simp] theorem State.modCtx_cxlDown : (s.modCtx k f).cxlDown = s.cxlDown := rfl
@[simp] theorem State.modCtx_retrain : (s.modCtx k f).retrain = s.retrain := rfl
@[simp] theorem State.modCtx_pxmode : (s.modCtx k f).pxmode = s.pxmode := rfl
@[simp] theorem State.modCtx_boot : (s.modCtx k f).boot = s.boot := rfl
@[simp] theorem State.modCtx_minSvn : (s.modCtx k f).minSvn = s.minSvn := rfl
@[simp] theorem State.modCtx_mrs : (s.modCtx k f).mrs = s.mrs := rfl
@[simp] theorem State.modCtx_sram : (s.modCtx k f).sram = s.sram := rfl
@[simp] theorem State.modCtx_snaps : (s.modCtx k f).snaps = s.snaps := rfl
@[simp] theorem State.modCtx_cycle : (s.modCtx k f).cycle = s.cycle := rfl
@[simp] theorem State.modCtx_free : (s.modCtx k f).free = s.free := rfl
@[simp] theorem State.modCtx_sched : (s.modCtx k f).sched = s.sched := rfl
@[simp] theorem State.modCtx_cur : (s.modCtx k f).cur = s.cur := rfl
@[simp] theorem State.modCtx_eng : (s.modCtx k f).eng = s.eng := rfl
@[simp] theorem State.modCtx_serving : (s.modCtx k f).serving = s.serving := rfl
end

section
variable (s : State) (k : Nat) (f : HLane → HLane)
@[simp] theorem State.modLane_mem : (s.modLane k f).mem = s.mem := rfl
@[simp] theorem State.modLane_poison : (s.modLane k f).poison = s.poison := rfl
@[simp] theorem State.modLane_resv : (s.modLane k f).resv = s.resv := rfl
@[simp] theorem State.modLane_l2 : (s.modLane k f).l2 = s.l2 := rfl
@[simp] theorem State.modLane_seals : (s.modLane k f).seals = s.seals := rfl
@[simp] theorem State.modLane_keys : (s.modLane k f).keys = s.keys := rfl
@[simp] theorem State.modLane_ctxKeys : (s.modLane k f).ctxKeys = s.ctxKeys := rfl
@[simp] theorem State.modLane_training : (s.modLane k f).training = s.training := rfl
@[simp] theorem State.modLane_temps : (s.modLane k f).temps = s.temps := rfl
@[simp] theorem State.modLane_hot : (s.modLane k f).hot = s.hot := rfl
@[simp] theorem State.modLane_fw : (s.modLane k f).fw = s.fw := rfl
@[simp] theorem State.modLane_transcript : (s.modLane k f).transcript = s.transcript := rfl
@[simp] theorem State.modLane_certMsgs : (s.modLane k f).certMsgs = s.certMsgs := rfl
@[simp] theorem State.modLane_measMsgs : (s.modLane k f).measMsgs = s.measMsgs := rfl
@[simp] theorem State.modLane_lost : (s.modLane k f).lost = s.lost := rfl
@[simp] theorem State.modLane_hints : (s.modLane k f).hints = s.hints := rfl
@[simp] theorem State.modLane_freed : (s.modLane k f).freed = s.freed := rfl
@[simp] theorem State.modLane_before : (s.modLane k f).before = s.before := rfl
@[simp] theorem State.modLane_told : (s.modLane k f).told = s.told := rfl
@[simp] theorem State.modLane_ptRoot : (s.modLane k f).ptRoot = s.ptRoot := rfl
@[simp] theorem State.modLane_trans : (s.modLane k f).trans = s.trans := rfl
@[simp] theorem State.modLane_firstTouch : (s.modLane k f).firstTouch = s.firstTouch := rfl
@[simp] theorem State.modLane_slots : (s.modLane k f).slots = s.slots := rfl
@[simp] theorem State.modLane_cores : (s.modLane k f).cores = s.cores := rfl
@[simp] theorem State.modLane_cars : (s.modLane k f).cars = s.cars := rfl
@[simp] theorem State.modLane_ways : (s.modLane k f).ways = s.ways := rfl
@[simp] theorem State.modLane_bulks : (s.modLane k f).bulks = s.bulks := rfl
@[simp] theorem State.modLane_clock : (s.modLane k f).clock = s.clock := rfl
@[simp] theorem State.modLane_landings : (s.modLane k f).landings = s.landings := rfl
@[simp] theorem State.modLane_gangs : (s.modLane k f).gangs = s.gangs := rfl
@[simp] theorem State.modLane_injects : (s.modLane k f).injects = s.injects := rfl
@[simp] theorem State.modLane_rules : (s.modLane k f).rules = s.rules := rfl
@[simp] theorem State.modLane_ruleRuns : (s.modLane k f).ruleRuns = s.ruleRuns := rfl
@[simp] theorem State.modLane_regions : (s.modLane k f).regions = s.regions := rfl
@[simp] theorem State.modLane_ports : (s.modLane k f).ports = s.ports := rfl
@[simp] theorem State.modLane_pkg : (s.modLane k f).pkg = s.pkg := rfl
@[simp] theorem State.modLane_fencedPkgs : (s.modLane k f).fencedPkgs = s.fencedPkgs := rfl
@[simp] theorem State.modLane_fenceInterval : (s.modLane k f).fenceInterval = s.fenceInterval := rfl
@[simp] theorem State.modLane_outbox : (s.modLane k f).outbox = s.outbox := rfl
@[simp] theorem State.modLane_toSeq : (s.modLane k f).toSeq = s.toSeq := rfl
@[simp] theorem State.modLane_toDest : (s.modLane k f).toDest = s.toDest := rfl
@[simp] theorem State.modLane_ctxs : (s.modLane k f).ctxs = s.ctxs := rfl
@[simp] theorem State.modLane_lastDisp : (s.modLane k f).lastDisp = s.lastDisp := rfl
@[simp] theorem State.modLane_dispAt : (s.modLane k f).dispAt = s.dispAt := rfl
@[simp] theorem State.modLane_order : (s.modLane k f).order = s.order := rfl
@[simp] theorem State.modLane_evSeq : (s.modLane k f).evSeq = s.evSeq := rfl
@[simp] theorem State.modLane_faults : (s.modLane k f).faults = s.faults := rfl
@[simp] theorem State.modLane_cxlDown : (s.modLane k f).cxlDown = s.cxlDown := rfl
@[simp] theorem State.modLane_retrain : (s.modLane k f).retrain = s.retrain := rfl
@[simp] theorem State.modLane_pxmode : (s.modLane k f).pxmode = s.pxmode := rfl
@[simp] theorem State.modLane_boot : (s.modLane k f).boot = s.boot := rfl
@[simp] theorem State.modLane_minSvn : (s.modLane k f).minSvn = s.minSvn := rfl
@[simp] theorem State.modLane_mrs : (s.modLane k f).mrs = s.mrs := rfl
@[simp] theorem State.modLane_sram : (s.modLane k f).sram = s.sram := rfl
@[simp] theorem State.modLane_snaps : (s.modLane k f).snaps = s.snaps := rfl
@[simp] theorem State.modLane_cycle : (s.modLane k f).cycle = s.cycle := rfl
@[simp] theorem State.modLane_free : (s.modLane k f).free = s.free := rfl
@[simp] theorem State.modLane_sched : (s.modLane k f).sched = s.sched := rfl
@[simp] theorem State.modLane_cur : (s.modLane k f).cur = s.cur := rfl
@[simp] theorem State.modLane_eng : (s.modLane k f).eng = s.eng := rfl
@[simp] theorem State.modLane_serving : (s.modLane k f).serving = s.serving := rfl
end

section
variable (s : State) (k : Nat) (f : Port → Port)
@[simp] theorem State.modPort_mem : (s.modPort k f).mem = s.mem := rfl
@[simp] theorem State.modPort_poison : (s.modPort k f).poison = s.poison := rfl
@[simp] theorem State.modPort_resv : (s.modPort k f).resv = s.resv := rfl
@[simp] theorem State.modPort_l2 : (s.modPort k f).l2 = s.l2 := rfl
@[simp] theorem State.modPort_seals : (s.modPort k f).seals = s.seals := rfl
@[simp] theorem State.modPort_keys : (s.modPort k f).keys = s.keys := rfl
@[simp] theorem State.modPort_ctxKeys : (s.modPort k f).ctxKeys = s.ctxKeys := rfl
@[simp] theorem State.modPort_training : (s.modPort k f).training = s.training := rfl
@[simp] theorem State.modPort_temps : (s.modPort k f).temps = s.temps := rfl
@[simp] theorem State.modPort_hot : (s.modPort k f).hot = s.hot := rfl
@[simp] theorem State.modPort_fw : (s.modPort k f).fw = s.fw := rfl
@[simp] theorem State.modPort_transcript : (s.modPort k f).transcript = s.transcript := rfl
@[simp] theorem State.modPort_certMsgs : (s.modPort k f).certMsgs = s.certMsgs := rfl
@[simp] theorem State.modPort_measMsgs : (s.modPort k f).measMsgs = s.measMsgs := rfl
@[simp] theorem State.modPort_lost : (s.modPort k f).lost = s.lost := rfl
@[simp] theorem State.modPort_hints : (s.modPort k f).hints = s.hints := rfl
@[simp] theorem State.modPort_freed : (s.modPort k f).freed = s.freed := rfl
@[simp] theorem State.modPort_before : (s.modPort k f).before = s.before := rfl
@[simp] theorem State.modPort_told : (s.modPort k f).told = s.told := rfl
@[simp] theorem State.modPort_ptRoot : (s.modPort k f).ptRoot = s.ptRoot := rfl
@[simp] theorem State.modPort_trans : (s.modPort k f).trans = s.trans := rfl
@[simp] theorem State.modPort_firstTouch : (s.modPort k f).firstTouch = s.firstTouch := rfl
@[simp] theorem State.modPort_slots : (s.modPort k f).slots = s.slots := rfl
@[simp] theorem State.modPort_cores : (s.modPort k f).cores = s.cores := rfl
@[simp] theorem State.modPort_cars : (s.modPort k f).cars = s.cars := rfl
@[simp] theorem State.modPort_ways : (s.modPort k f).ways = s.ways := rfl
@[simp] theorem State.modPort_bulks : (s.modPort k f).bulks = s.bulks := rfl
@[simp] theorem State.modPort_clock : (s.modPort k f).clock = s.clock := rfl
@[simp] theorem State.modPort_landings : (s.modPort k f).landings = s.landings := rfl
@[simp] theorem State.modPort_gangs : (s.modPort k f).gangs = s.gangs := rfl
@[simp] theorem State.modPort_injects : (s.modPort k f).injects = s.injects := rfl
@[simp] theorem State.modPort_rules : (s.modPort k f).rules = s.rules := rfl
@[simp] theorem State.modPort_ruleRuns : (s.modPort k f).ruleRuns = s.ruleRuns := rfl
@[simp] theorem State.modPort_regions : (s.modPort k f).regions = s.regions := rfl
@[simp] theorem State.modPort_pkg : (s.modPort k f).pkg = s.pkg := rfl
@[simp] theorem State.modPort_fencedPkgs : (s.modPort k f).fencedPkgs = s.fencedPkgs := rfl
@[simp] theorem State.modPort_fenceInterval : (s.modPort k f).fenceInterval = s.fenceInterval := rfl
@[simp] theorem State.modPort_outbox : (s.modPort k f).outbox = s.outbox := rfl
@[simp] theorem State.modPort_toSeq : (s.modPort k f).toSeq = s.toSeq := rfl
@[simp] theorem State.modPort_toDest : (s.modPort k f).toDest = s.toDest := rfl
@[simp] theorem State.modPort_ctxs : (s.modPort k f).ctxs = s.ctxs := rfl
@[simp] theorem State.modPort_lastDisp : (s.modPort k f).lastDisp = s.lastDisp := rfl
@[simp] theorem State.modPort_dispAt : (s.modPort k f).dispAt = s.dispAt := rfl
@[simp] theorem State.modPort_order : (s.modPort k f).order = s.order := rfl
@[simp] theorem State.modPort_lanes : (s.modPort k f).lanes = s.lanes := rfl
@[simp] theorem State.modPort_evSeq : (s.modPort k f).evSeq = s.evSeq := rfl
@[simp] theorem State.modPort_faults : (s.modPort k f).faults = s.faults := rfl
@[simp] theorem State.modPort_cxlDown : (s.modPort k f).cxlDown = s.cxlDown := rfl
@[simp] theorem State.modPort_retrain : (s.modPort k f).retrain = s.retrain := rfl
@[simp] theorem State.modPort_pxmode : (s.modPort k f).pxmode = s.pxmode := rfl
@[simp] theorem State.modPort_boot : (s.modPort k f).boot = s.boot := rfl
@[simp] theorem State.modPort_minSvn : (s.modPort k f).minSvn = s.minSvn := rfl
@[simp] theorem State.modPort_mrs : (s.modPort k f).mrs = s.mrs := rfl
@[simp] theorem State.modPort_sram : (s.modPort k f).sram = s.sram := rfl
@[simp] theorem State.modPort_snaps : (s.modPort k f).snaps = s.snaps := rfl
@[simp] theorem State.modPort_cycle : (s.modPort k f).cycle = s.cycle := rfl
@[simp] theorem State.modPort_free : (s.modPort k f).free = s.free := rfl
@[simp] theorem State.modPort_sched : (s.modPort k f).sched = s.sched := rfl
@[simp] theorem State.modPort_cur : (s.modPort k f).cur = s.cur := rfl
@[simp] theorem State.modPort_eng : (s.modPort k f).eng = s.eng := rfl
@[simp] theorem State.modPort_serving : (s.modPort k f).serving = s.serving := rfl
end

section
variable (s : State) (k : Nat) (f : RuleCtx → RuleCtx)
@[simp] theorem State.modRule_mem : (s.modRule k f).mem = s.mem := rfl
@[simp] theorem State.modRule_poison : (s.modRule k f).poison = s.poison := rfl
@[simp] theorem State.modRule_resv : (s.modRule k f).resv = s.resv := rfl
@[simp] theorem State.modRule_l2 : (s.modRule k f).l2 = s.l2 := rfl
@[simp] theorem State.modRule_seals : (s.modRule k f).seals = s.seals := rfl
@[simp] theorem State.modRule_keys : (s.modRule k f).keys = s.keys := rfl
@[simp] theorem State.modRule_ctxKeys : (s.modRule k f).ctxKeys = s.ctxKeys := rfl
@[simp] theorem State.modRule_training : (s.modRule k f).training = s.training := rfl
@[simp] theorem State.modRule_temps : (s.modRule k f).temps = s.temps := rfl
@[simp] theorem State.modRule_hot : (s.modRule k f).hot = s.hot := rfl
@[simp] theorem State.modRule_fw : (s.modRule k f).fw = s.fw := rfl
@[simp] theorem State.modRule_transcript : (s.modRule k f).transcript = s.transcript := rfl
@[simp] theorem State.modRule_certMsgs : (s.modRule k f).certMsgs = s.certMsgs := rfl
@[simp] theorem State.modRule_measMsgs : (s.modRule k f).measMsgs = s.measMsgs := rfl
@[simp] theorem State.modRule_lost : (s.modRule k f).lost = s.lost := rfl
@[simp] theorem State.modRule_hints : (s.modRule k f).hints = s.hints := rfl
@[simp] theorem State.modRule_freed : (s.modRule k f).freed = s.freed := rfl
@[simp] theorem State.modRule_before : (s.modRule k f).before = s.before := rfl
@[simp] theorem State.modRule_told : (s.modRule k f).told = s.told := rfl
@[simp] theorem State.modRule_ptRoot : (s.modRule k f).ptRoot = s.ptRoot := rfl
@[simp] theorem State.modRule_trans : (s.modRule k f).trans = s.trans := rfl
@[simp] theorem State.modRule_firstTouch : (s.modRule k f).firstTouch = s.firstTouch := rfl
@[simp] theorem State.modRule_slots : (s.modRule k f).slots = s.slots := rfl
@[simp] theorem State.modRule_cores : (s.modRule k f).cores = s.cores := rfl
@[simp] theorem State.modRule_cars : (s.modRule k f).cars = s.cars := rfl
@[simp] theorem State.modRule_ways : (s.modRule k f).ways = s.ways := rfl
@[simp] theorem State.modRule_bulks : (s.modRule k f).bulks = s.bulks := rfl
@[simp] theorem State.modRule_clock : (s.modRule k f).clock = s.clock := rfl
@[simp] theorem State.modRule_landings : (s.modRule k f).landings = s.landings := rfl
@[simp] theorem State.modRule_gangs : (s.modRule k f).gangs = s.gangs := rfl
@[simp] theorem State.modRule_injects : (s.modRule k f).injects = s.injects := rfl
@[simp] theorem State.modRule_ruleRuns : (s.modRule k f).ruleRuns = s.ruleRuns := rfl
@[simp] theorem State.modRule_regions : (s.modRule k f).regions = s.regions := rfl
@[simp] theorem State.modRule_ports : (s.modRule k f).ports = s.ports := rfl
@[simp] theorem State.modRule_pkg : (s.modRule k f).pkg = s.pkg := rfl
@[simp] theorem State.modRule_fencedPkgs : (s.modRule k f).fencedPkgs = s.fencedPkgs := rfl
@[simp] theorem State.modRule_fenceInterval : (s.modRule k f).fenceInterval = s.fenceInterval := rfl
@[simp] theorem State.modRule_outbox : (s.modRule k f).outbox = s.outbox := rfl
@[simp] theorem State.modRule_toSeq : (s.modRule k f).toSeq = s.toSeq := rfl
@[simp] theorem State.modRule_toDest : (s.modRule k f).toDest = s.toDest := rfl
@[simp] theorem State.modRule_ctxs : (s.modRule k f).ctxs = s.ctxs := rfl
@[simp] theorem State.modRule_lastDisp : (s.modRule k f).lastDisp = s.lastDisp := rfl
@[simp] theorem State.modRule_dispAt : (s.modRule k f).dispAt = s.dispAt := rfl
@[simp] theorem State.modRule_order : (s.modRule k f).order = s.order := rfl
@[simp] theorem State.modRule_lanes : (s.modRule k f).lanes = s.lanes := rfl
@[simp] theorem State.modRule_evSeq : (s.modRule k f).evSeq = s.evSeq := rfl
@[simp] theorem State.modRule_faults : (s.modRule k f).faults = s.faults := rfl
@[simp] theorem State.modRule_cxlDown : (s.modRule k f).cxlDown = s.cxlDown := rfl
@[simp] theorem State.modRule_retrain : (s.modRule k f).retrain = s.retrain := rfl
@[simp] theorem State.modRule_pxmode : (s.modRule k f).pxmode = s.pxmode := rfl
@[simp] theorem State.modRule_boot : (s.modRule k f).boot = s.boot := rfl
@[simp] theorem State.modRule_minSvn : (s.modRule k f).minSvn = s.minSvn := rfl
@[simp] theorem State.modRule_mrs : (s.modRule k f).mrs = s.mrs := rfl
@[simp] theorem State.modRule_sram : (s.modRule k f).sram = s.sram := rfl
@[simp] theorem State.modRule_snaps : (s.modRule k f).snaps = s.snaps := rfl
@[simp] theorem State.modRule_cycle : (s.modRule k f).cycle = s.cycle := rfl
@[simp] theorem State.modRule_free : (s.modRule k f).free = s.free := rfl
@[simp] theorem State.modRule_sched : (s.modRule k f).sched = s.sched := rfl
@[simp] theorem State.modRule_cur : (s.modRule k f).cur = s.cur := rfl
@[simp] theorem State.modRule_eng : (s.modRule k f).eng = s.eng := rfl
@[simp] theorem State.modRule_serving : (s.modRule k f).serving = s.serving := rfl
end

section
variable (s : State) (k : Nat) (bs : List Byte)
@[simp] theorem State.putKey_resv : (s.putKey k bs).resv = s.resv := rfl
@[simp] theorem State.putKey_l2 : (s.putKey k bs).l2 = s.l2 := rfl
@[simp] theorem State.putKey_seals : (s.putKey k bs).seals = s.seals := rfl
@[simp] theorem State.putKey_keys : (s.putKey k bs).keys = s.keys := rfl
@[simp] theorem State.putKey_ctxKeys : (s.putKey k bs).ctxKeys = s.ctxKeys := rfl
@[simp] theorem State.putKey_training : (s.putKey k bs).training = s.training := rfl
@[simp] theorem State.putKey_temps : (s.putKey k bs).temps = s.temps := rfl
@[simp] theorem State.putKey_hot : (s.putKey k bs).hot = s.hot := rfl
@[simp] theorem State.putKey_fw : (s.putKey k bs).fw = s.fw := rfl
@[simp] theorem State.putKey_transcript : (s.putKey k bs).transcript = s.transcript := rfl
@[simp] theorem State.putKey_certMsgs : (s.putKey k bs).certMsgs = s.certMsgs := rfl
@[simp] theorem State.putKey_measMsgs : (s.putKey k bs).measMsgs = s.measMsgs := rfl
@[simp] theorem State.putKey_lost : (s.putKey k bs).lost = s.lost := rfl
@[simp] theorem State.putKey_hints : (s.putKey k bs).hints = s.hints := rfl
@[simp] theorem State.putKey_freed : (s.putKey k bs).freed = s.freed := rfl
@[simp] theorem State.putKey_before : (s.putKey k bs).before = s.before := rfl
@[simp] theorem State.putKey_told : (s.putKey k bs).told = s.told := rfl
@[simp] theorem State.putKey_ptRoot : (s.putKey k bs).ptRoot = s.ptRoot := rfl
@[simp] theorem State.putKey_trans : (s.putKey k bs).trans = s.trans := rfl
@[simp] theorem State.putKey_firstTouch : (s.putKey k bs).firstTouch = s.firstTouch := rfl
@[simp] theorem State.putKey_slots : (s.putKey k bs).slots = s.slots := rfl
@[simp] theorem State.putKey_cores : (s.putKey k bs).cores = s.cores := rfl
@[simp] theorem State.putKey_cars : (s.putKey k bs).cars = s.cars := rfl
@[simp] theorem State.putKey_ways : (s.putKey k bs).ways = s.ways := rfl
@[simp] theorem State.putKey_bulks : (s.putKey k bs).bulks = s.bulks := rfl
@[simp] theorem State.putKey_clock : (s.putKey k bs).clock = s.clock := rfl
@[simp] theorem State.putKey_landings : (s.putKey k bs).landings = s.landings := rfl
@[simp] theorem State.putKey_gangs : (s.putKey k bs).gangs = s.gangs := rfl
@[simp] theorem State.putKey_injects : (s.putKey k bs).injects = s.injects := rfl
@[simp] theorem State.putKey_rules : (s.putKey k bs).rules = s.rules := rfl
@[simp] theorem State.putKey_ruleRuns : (s.putKey k bs).ruleRuns = s.ruleRuns := rfl
@[simp] theorem State.putKey_regions : (s.putKey k bs).regions = s.regions := rfl
@[simp] theorem State.putKey_ports : (s.putKey k bs).ports = s.ports := rfl
@[simp] theorem State.putKey_pkg : (s.putKey k bs).pkg = s.pkg := rfl
@[simp] theorem State.putKey_fencedPkgs : (s.putKey k bs).fencedPkgs = s.fencedPkgs := rfl
@[simp] theorem State.putKey_fenceInterval : (s.putKey k bs).fenceInterval = s.fenceInterval := rfl
@[simp] theorem State.putKey_outbox : (s.putKey k bs).outbox = s.outbox := rfl
@[simp] theorem State.putKey_toSeq : (s.putKey k bs).toSeq = s.toSeq := rfl
@[simp] theorem State.putKey_toDest : (s.putKey k bs).toDest = s.toDest := rfl
@[simp] theorem State.putKey_ctxs : (s.putKey k bs).ctxs = s.ctxs := rfl
@[simp] theorem State.putKey_lastDisp : (s.putKey k bs).lastDisp = s.lastDisp := rfl
@[simp] theorem State.putKey_dispAt : (s.putKey k bs).dispAt = s.dispAt := rfl
@[simp] theorem State.putKey_order : (s.putKey k bs).order = s.order := rfl
@[simp] theorem State.putKey_lanes : (s.putKey k bs).lanes = s.lanes := rfl
@[simp] theorem State.putKey_evSeq : (s.putKey k bs).evSeq = s.evSeq := rfl
@[simp] theorem State.putKey_faults : (s.putKey k bs).faults = s.faults := rfl
@[simp] theorem State.putKey_cxlDown : (s.putKey k bs).cxlDown = s.cxlDown := rfl
@[simp] theorem State.putKey_retrain : (s.putKey k bs).retrain = s.retrain := rfl
@[simp] theorem State.putKey_pxmode : (s.putKey k bs).pxmode = s.pxmode := rfl
@[simp] theorem State.putKey_boot : (s.putKey k bs).boot = s.boot := rfl
@[simp] theorem State.putKey_minSvn : (s.putKey k bs).minSvn = s.minSvn := rfl
@[simp] theorem State.putKey_mrs : (s.putKey k bs).mrs = s.mrs := rfl
@[simp] theorem State.putKey_sram : (s.putKey k bs).sram = s.sram := rfl
@[simp] theorem State.putKey_snaps : (s.putKey k bs).snaps = s.snaps := rfl
@[simp] theorem State.putKey_cycle : (s.putKey k bs).cycle = s.cycle := rfl
@[simp] theorem State.putKey_free : (s.putKey k bs).free = s.free := rfl
@[simp] theorem State.putKey_sched : (s.putKey k bs).sched = s.sched := rfl
@[simp] theorem State.putKey_cur : (s.putKey k bs).cur = s.cur := rfl
@[simp] theorem State.putKey_eng : (s.putKey k bs).eng = s.eng := rfl
@[simp] theorem State.putKey_serving : (s.putKey k bs).serving = s.serving := rfl
end

section
variable (sl : Slot) (n : Nat) (w : VWord)
@[simp] theorem Slot.setV_x : (sl.setV n w).x = sl.x := rfl
@[simp] theorem Slot.setV_pc : (sl.setV n w).pc = sl.pc := rfl
@[simp] theorem Slot.setV_priv : (sl.setV n w).priv = sl.priv := rfl
@[simp] theorem Slot.setV_run : (sl.setV n w).run = sl.run := rfl
@[simp] theorem Slot.setV_vctl : (sl.setV n w).vctl = sl.vctl := rfl
@[simp] theorem Slot.setV_vflags : (sl.setV n w).vflags = sl.vflags := rfl
@[simp] theorem Slot.setV_dscope : (sl.setV n w).dscope = sl.dscope := rfl
@[simp] theorem Slot.setV_repst : (sl.setV n w).repst = sl.repst := rfl
@[simp] theorem Slot.setV_nestst : (sl.setV n w).nestst = sl.nestst := rfl
@[simp] theorem Slot.setV_nestDesc : (sl.setV n w).nestDesc = sl.nestDesc := rfl
@[simp] theorem Slot.setV_sbind : (sl.setV n w).sbind = sl.sbind := rfl
@[simp] theorem Slot.setV_ports : (sl.setV n w).ports = sl.ports := rfl
@[simp] theorem Slot.setV_dseed : (sl.setV n w).dseed = sl.dseed := rfl
@[simp] theorem Slot.setV_ccont : (sl.setV n w).ccont = sl.ccont := rfl
@[simp] theorem Slot.setV_bwin : (sl.setV n w).bwin = sl.bwin := rfl
@[simp] theorem Slot.setV_stage : (sl.setV n w).stage = sl.stage := rfl
@[simp] theorem Slot.setV_jt : (sl.setV n w).jt = sl.jt := rfl
@[simp] theorem Slot.setV_firing : (sl.setV n w).firing = sl.firing := rfl
@[simp] theorem Slot.setV_trig : (sl.setV n w).trig = sl.trig := rfl
@[simp] theorem Slot.setV_buf : (sl.setV n w).buf = sl.buf := rfl
@[simp] theorem Slot.setV_rticket : (sl.setV n w).rticket = sl.rticket := rfl
@[simp] theorem Slot.setV_tickets : (sl.setV n w).tickets = sl.tickets := rfl
@[simp] theorem Slot.setV_pend : (sl.setV n w).pend = sl.pend := rfl
@[simp] theorem Slot.setV_lastDone : (sl.setV n w).lastDone = sl.lastDone := rfl
@[simp] theorem Slot.setV_sstatus : (sl.setV n w).sstatus = sl.sstatus := rfl
@[simp] theorem Slot.setV_sie : (sl.setV n w).sie = sl.sie := rfl
@[simp] theorem Slot.setV_sip : (sl.setV n w).sip = sl.sip := rfl
@[simp] theorem Slot.setV_stvec : (sl.setV n w).stvec = sl.stvec := rfl
@[simp] theorem Slot.setV_sscratch : (sl.setV n w).sscratch = sl.sscratch := rfl
@[simp] theorem Slot.setV_sepc : (sl.setV n w).sepc = sl.sepc := rfl
@[simp] theorem Slot.setV_scause : (sl.setV n w).scause = sl.scause := rfl
@[simp] theorem Slot.setV_stval : (sl.setV n w).stval = sl.stval := rfl
@[simp] theorem Slot.setV_scounteren : (sl.setV n w).scounteren = sl.scounteren := rfl
@[simp] theorem Slot.setV_senvcfg : (sl.setV n w).senvcfg = sl.senvcfg := rfl
@[simp] theorem Slot.setV_gfault : (sl.setV n w).gfault = sl.gfault := rfl
@[simp] theorem Slot.setV_mcsr : (sl.setV n w).mcsr = sl.mcsr := rfl
@[simp] theorem Slot.setV_rep : (sl.setV n w).rep = sl.rep := rfl
@[simp] theorem Slot.setV_fresh : (sl.setV n w).fresh = sl.fresh := rfl
@[simp] theorem Slot.setV_wait : (sl.setV n w).wait = sl.wait := rfl
@[simp] theorem Slot.setV_instret : (sl.setV n w).instret = sl.instret := rfl
@[simp] theorem Slot.setV_mismatch : (sl.setV n w).mismatch = sl.mismatch := rfl
@[simp] theorem Slot.setV_errX : (sl.setV n w).errX = sl.errX := rfl
end

section
variable (sl : Slot) (f : Flags)
@[simp] theorem Slot.addFlags_x : (sl.addFlags f).x = sl.x := rfl
@[simp] theorem Slot.addFlags_v : (sl.addFlags f).v = sl.v := rfl
@[simp] theorem Slot.addFlags_pc : (sl.addFlags f).pc = sl.pc := rfl
@[simp] theorem Slot.addFlags_priv : (sl.addFlags f).priv = sl.priv := rfl
@[simp] theorem Slot.addFlags_run : (sl.addFlags f).run = sl.run := rfl
@[simp] theorem Slot.addFlags_vctl : (sl.addFlags f).vctl = sl.vctl := rfl
@[simp] theorem Slot.addFlags_dscope : (sl.addFlags f).dscope = sl.dscope := rfl
@[simp] theorem Slot.addFlags_repst : (sl.addFlags f).repst = sl.repst := rfl
@[simp] theorem Slot.addFlags_nestst : (sl.addFlags f).nestst = sl.nestst := rfl
@[simp] theorem Slot.addFlags_nestDesc : (sl.addFlags f).nestDesc = sl.nestDesc := rfl
@[simp] theorem Slot.addFlags_sbind : (sl.addFlags f).sbind = sl.sbind := rfl
@[simp] theorem Slot.addFlags_ports : (sl.addFlags f).ports = sl.ports := rfl
@[simp] theorem Slot.addFlags_dseed : (sl.addFlags f).dseed = sl.dseed := rfl
@[simp] theorem Slot.addFlags_ccont : (sl.addFlags f).ccont = sl.ccont := rfl
@[simp] theorem Slot.addFlags_bwin : (sl.addFlags f).bwin = sl.bwin := rfl
@[simp] theorem Slot.addFlags_stage : (sl.addFlags f).stage = sl.stage := rfl
@[simp] theorem Slot.addFlags_jt : (sl.addFlags f).jt = sl.jt := rfl
@[simp] theorem Slot.addFlags_firing : (sl.addFlags f).firing = sl.firing := rfl
@[simp] theorem Slot.addFlags_trig : (sl.addFlags f).trig = sl.trig := rfl
@[simp] theorem Slot.addFlags_buf : (sl.addFlags f).buf = sl.buf := rfl
@[simp] theorem Slot.addFlags_rticket : (sl.addFlags f).rticket = sl.rticket := rfl
@[simp] theorem Slot.addFlags_tickets : (sl.addFlags f).tickets = sl.tickets := rfl
@[simp] theorem Slot.addFlags_pend : (sl.addFlags f).pend = sl.pend := rfl
@[simp] theorem Slot.addFlags_lastDone : (sl.addFlags f).lastDone = sl.lastDone := rfl
@[simp] theorem Slot.addFlags_sstatus : (sl.addFlags f).sstatus = sl.sstatus := rfl
@[simp] theorem Slot.addFlags_sie : (sl.addFlags f).sie = sl.sie := rfl
@[simp] theorem Slot.addFlags_sip : (sl.addFlags f).sip = sl.sip := rfl
@[simp] theorem Slot.addFlags_stvec : (sl.addFlags f).stvec = sl.stvec := rfl
@[simp] theorem Slot.addFlags_sscratch : (sl.addFlags f).sscratch = sl.sscratch := rfl
@[simp] theorem Slot.addFlags_sepc : (sl.addFlags f).sepc = sl.sepc := rfl
@[simp] theorem Slot.addFlags_scause : (sl.addFlags f).scause = sl.scause := rfl
@[simp] theorem Slot.addFlags_stval : (sl.addFlags f).stval = sl.stval := rfl
@[simp] theorem Slot.addFlags_scounteren : (sl.addFlags f).scounteren = sl.scounteren := rfl
@[simp] theorem Slot.addFlags_senvcfg : (sl.addFlags f).senvcfg = sl.senvcfg := rfl
@[simp] theorem Slot.addFlags_gfault : (sl.addFlags f).gfault = sl.gfault := rfl
@[simp] theorem Slot.addFlags_mcsr : (sl.addFlags f).mcsr = sl.mcsr := rfl
@[simp] theorem Slot.addFlags_rep : (sl.addFlags f).rep = sl.rep := rfl
@[simp] theorem Slot.addFlags_fresh : (sl.addFlags f).fresh = sl.fresh := rfl
@[simp] theorem Slot.addFlags_wait : (sl.addFlags f).wait = sl.wait := rfl
@[simp] theorem Slot.addFlags_instret : (sl.addFlags f).instret = sl.instret := rfl
@[simp] theorem Slot.addFlags_mismatch : (sl.addFlags f).mismatch = sl.mismatch := rfl
@[simp] theorem Slot.addFlags_errX : (sl.addFlags f).errX = sl.errX := rfl
@[simp] theorem Slot.addFlags_errV : (sl.addFlags f).errV = sl.errV := rfl
end

section
variable (sl : Slot) (n : Nat) (w : Word)
@[simp] theorem Slot.setX_v : (sl.setX n w).v = sl.v := by unfold Slot.setX; split <;> rfl
@[simp] theorem Slot.setX_pc : (sl.setX n w).pc = sl.pc := by unfold Slot.setX; split <;> rfl
@[simp] theorem Slot.setX_priv : (sl.setX n w).priv = sl.priv := by unfold Slot.setX; split <;> rfl
@[simp] theorem Slot.setX_run : (sl.setX n w).run = sl.run := by unfold Slot.setX; split <;> rfl
@[simp] theorem Slot.setX_vctl : (sl.setX n w).vctl = sl.vctl := by unfold Slot.setX; split <;> rfl
@[simp] theorem Slot.setX_vflags : (sl.setX n w).vflags = sl.vflags := by unfold Slot.setX; split <;> rfl
@[simp] theorem Slot.setX_dscope : (sl.setX n w).dscope = sl.dscope := by unfold Slot.setX; split <;> rfl
@[simp] theorem Slot.setX_repst : (sl.setX n w).repst = sl.repst := by unfold Slot.setX; split <;> rfl
@[simp] theorem Slot.setX_nestst : (sl.setX n w).nestst = sl.nestst := by unfold Slot.setX; split <;> rfl
@[simp] theorem Slot.setX_nestDesc : (sl.setX n w).nestDesc = sl.nestDesc := by unfold Slot.setX; split <;> rfl
@[simp] theorem Slot.setX_sbind : (sl.setX n w).sbind = sl.sbind := by unfold Slot.setX; split <;> rfl
@[simp] theorem Slot.setX_ports : (sl.setX n w).ports = sl.ports := by unfold Slot.setX; split <;> rfl
@[simp] theorem Slot.setX_dseed : (sl.setX n w).dseed = sl.dseed := by unfold Slot.setX; split <;> rfl
@[simp] theorem Slot.setX_ccont : (sl.setX n w).ccont = sl.ccont := by unfold Slot.setX; split <;> rfl
@[simp] theorem Slot.setX_bwin : (sl.setX n w).bwin = sl.bwin := by unfold Slot.setX; split <;> rfl
@[simp] theorem Slot.setX_stage : (sl.setX n w).stage = sl.stage := by unfold Slot.setX; split <;> rfl
@[simp] theorem Slot.setX_jt : (sl.setX n w).jt = sl.jt := by unfold Slot.setX; split <;> rfl
@[simp] theorem Slot.setX_firing : (sl.setX n w).firing = sl.firing := by unfold Slot.setX; split <;> rfl
@[simp] theorem Slot.setX_trig : (sl.setX n w).trig = sl.trig := by unfold Slot.setX; split <;> rfl
@[simp] theorem Slot.setX_buf : (sl.setX n w).buf = sl.buf := by unfold Slot.setX; split <;> rfl
@[simp] theorem Slot.setX_rticket : (sl.setX n w).rticket = sl.rticket := by unfold Slot.setX; split <;> rfl
@[simp] theorem Slot.setX_tickets : (sl.setX n w).tickets = sl.tickets := by unfold Slot.setX; split <;> rfl
@[simp] theorem Slot.setX_pend : (sl.setX n w).pend = sl.pend := by unfold Slot.setX; split <;> rfl
@[simp] theorem Slot.setX_lastDone : (sl.setX n w).lastDone = sl.lastDone := by unfold Slot.setX; split <;> rfl
@[simp] theorem Slot.setX_sstatus : (sl.setX n w).sstatus = sl.sstatus := by unfold Slot.setX; split <;> rfl
@[simp] theorem Slot.setX_sie : (sl.setX n w).sie = sl.sie := by unfold Slot.setX; split <;> rfl
@[simp] theorem Slot.setX_sip : (sl.setX n w).sip = sl.sip := by unfold Slot.setX; split <;> rfl
@[simp] theorem Slot.setX_stvec : (sl.setX n w).stvec = sl.stvec := by unfold Slot.setX; split <;> rfl
@[simp] theorem Slot.setX_sscratch : (sl.setX n w).sscratch = sl.sscratch := by unfold Slot.setX; split <;> rfl
@[simp] theorem Slot.setX_sepc : (sl.setX n w).sepc = sl.sepc := by unfold Slot.setX; split <;> rfl
@[simp] theorem Slot.setX_scause : (sl.setX n w).scause = sl.scause := by unfold Slot.setX; split <;> rfl
@[simp] theorem Slot.setX_stval : (sl.setX n w).stval = sl.stval := by unfold Slot.setX; split <;> rfl
@[simp] theorem Slot.setX_scounteren : (sl.setX n w).scounteren = sl.scounteren := by unfold Slot.setX; split <;> rfl
@[simp] theorem Slot.setX_senvcfg : (sl.setX n w).senvcfg = sl.senvcfg := by unfold Slot.setX; split <;> rfl
@[simp] theorem Slot.setX_gfault : (sl.setX n w).gfault = sl.gfault := by unfold Slot.setX; split <;> rfl
@[simp] theorem Slot.setX_mcsr : (sl.setX n w).mcsr = sl.mcsr := by unfold Slot.setX; split <;> rfl
@[simp] theorem Slot.setX_rep : (sl.setX n w).rep = sl.rep := by unfold Slot.setX; split <;> rfl
@[simp] theorem Slot.setX_fresh : (sl.setX n w).fresh = sl.fresh := by unfold Slot.setX; split <;> rfl
@[simp] theorem Slot.setX_wait : (sl.setX n w).wait = sl.wait := by unfold Slot.setX; split <;> rfl
@[simp] theorem Slot.setX_instret : (sl.setX n w).instret = sl.instret := by unfold Slot.setX; split <;> rfl
@[simp] theorem Slot.setX_mismatch : (sl.setX n w).mismatch = sl.mismatch := by unfold Slot.setX; split <;> rfl
@[simp] theorem Slot.setX_errV : (sl.setX n w).errV = sl.errV := by unfold Slot.setX; split <;> rfl
end

end Sys2Proof.Machine
end

