-- ==== Sys2Proof/Laws/Ops.lean ====
section
/-!
SUPPORT. What the accessors read after an update, and that every operation on memory keeps its canonical form.
-/

namespace Sys2Proof.Machine

/-! ### Reading a part after an update -/

@[simp] theorem State.slot_modSlot_same (s : State) (k : Nat) (f : Slot → Slot) : (s.modSlot k f).slot k = f (s.slot k) := by
  simp [State.slot, State.modSlot, State.setSlot]

theorem State.slot_modSlot_other (s : State) {j k : Nat} (f : Slot → Slot) (h : j ≠ k) : (s.modSlot k f).slot j = s.slot j := by
  simp [State.slot, State.modSlot, State.setSlot, sget_sset_other _ _ _ h]

@[simp] theorem State.core_modCore_same (s : State) (k : Nat) (f : Core → Core) : (s.modCore k f).core k = f (s.core k) := by
  simp [State.core, State.modCore]

theorem State.core_modCore_other (s : State) {j k : Nat} (f : Core → Core) (h : j ≠ k) : (s.modCore k f).core j = s.core j := by
  simp [State.core, State.modCore, sget_sset_other _ _ _ h]

@[simp] theorem State.car_modCar_same (s : State) (k : Nat) (f : Caravan → Caravan) : (s.modCar k f).car k = f (s.car k) := by
  simp [State.car, State.modCar]

@[simp] theorem State.ctx_modCtx_same (s : State) (k : Nat) (f : Ctx → Ctx) : (s.modCtx k f).ctx k = f (s.ctx k) := by
  simp [State.ctx, State.modCtx]

@[simp] theorem State.lane_modLane_same (s : State) (k : Nat) (f : HLane → HLane) : (s.modLane k f).lane k = f (s.lane k) := by
  simp [State.lane, State.modLane]

@[simp] theorem State.port_modPort_same (s : State) (k : Nat) (f : Port → Port) : (s.modPort k f).port k = f (s.port k) := by
  simp [State.port, State.modPort]

@[simp] theorem State.core_modSlot (s : State) (k c : Nat) (f : Slot → Slot) : (s.modSlot k f).core c = s.core c := rfl
@[simp] theorem State.car_modSlot (s : State) (k c : Nat) (f : Slot → Slot) : (s.modSlot k f).car c = s.car c := rfl
@[simp] theorem State.ctx_modSlot (s : State) (k c : Nat) (f : Slot → Slot) : (s.modSlot k f).ctx c = s.ctx c := rfl
@[simp] theorem State.slot_modCore (s : State) (k c : Nat) (f : Core → Core) : (s.modCore k f).slot c = s.slot c := rfl
@[simp] theorem State.slot_modCar (s : State) (k c : Nat) (f : Caravan → Caravan) : (s.modCar k f).slot c = s.slot c := rfl

/-- Reading general register `j` after writing register `n` (R9): x0 reads 0 and takes no write. -/
theorem Slot.xr_setX (sl : Slot) (n j : Nat) (w : Word) : (sl.setX n w).xr j = if j = n ∧ n ≠ 0 then w else sl.xr j := by
  unfold Slot.setX Slot.xr
  by_cases h0 : n = 0
  · simp [h0]
  · by_cases hj : j = 0
    · subst hj; simp [h0, Ne.symm h0]
    · simp only [h0, hj, if_false, sget_sput, ne_eq, not_false_eq_true, and_true]

/-- Reading vector register `j` after writing register `n` (R9). -/
theorem Slot.vr_setV (sl : Slot) (n j : Nat) (w : VWord) : (sl.setV n w).vr j = if j = n then w else sl.vr j := by
  simp [Slot.setV, Slot.vr, sget_sput]

/-! ### The canonical form of memory -/

/-- Whether the memory of a state is in canonical form. -/
def State.memOk (s : State) : Prop := Memory.wf s.mem = true

theorem putBytes_wf (bs : List Byte) {m : Sparse Byte} (k : Nat) (h : swf (0 : Byte) m = true) :
    swf (0 : Byte) (putBytes m k bs) = true := by
  induction bs generalizing m k with
  | nil => exact h
  | cons b bs ih => exact ih (k + 1) (swf_sput h)

/-- Writing bytes at a key keeps the canonical form. -/
theorem State.putKey_memOk {s : State} (k : Nat) (bs : List Byte) (h : s.memOk) : (s.putKey k bs).memOk :=
  putBytes_wf bs k h

/-- A state with the same memory has its canonical form. -/
theorem State.memOk_of_mem {s t : State} (hm : t.mem = s.mem) (h : s.memOk) : t.memOk := by
  unfold State.memOk; rw [hm]; exact h

/-- A write of physical memory, in the L2 that holds the line or in memory, keeps the canonical form. -/
theorem State.physWrite_memOk {s : State} (k : Nat) (bs : List Byte) (h : s.memOk) : (s.physWrite k bs).memOk := by
  unfold State.physWrite
  split
  · exact h
  · exact State.putKey_memOk k bs h

/-- Writing a dirty sector back changes memory at the bytes of its line alone. -/
theorem State.writeBack_mem (s : State) (b : L2Block) (a : Nat) (x : Sector) :
    (s.writeBack b a x).mem = s.mem ∨ ∃ bs : List Byte, (s.writeBack b a x).mem = putBytes s.mem (b.page.key (b.slice / 256) a) bs := by
  unfold State.writeBack
  by_cases hd : x.dirty
  · by_cases hc : leafClass b.page.leaf = 6
    · refine .inr ⟨s.sealCrypt b.page (b.page.key (b.slice / 256) a)
        (((sfind s.seals (b.page.key (b.slice / 256) a / 64)).map (·.counter)).getD 0 + 1) ((List.range 64).map fun i => sget 0 x.data i), ?_⟩
      simp only [hd, hc, Bool.not_true, Bool.false_eq_true, if_false, if_true]
    · refine .inr ⟨(List.range 64).map fun i => sget 0 x.data i, ?_⟩
      simp only [hd, hc, Bool.not_true, Bool.false_eq_true, if_false]
  · exact .inl (by simp only [hd, Bool.not_false, if_true])

/-- Writing a dirty sector back keeps the canonical form. -/
theorem State.writeBack_memOk {s : State} (b : L2Block) (a : Nat) (x : Sector) (h : s.memOk) : (s.writeBack b a x).memOk := by
  obtain hm | ⟨bs, hm⟩ := State.writeBack_mem s b a x
  · exact State.memOk_of_mem hm h
  · unfold State.memOk; rw [hm]; exact putBytes_wf _ _ h

/-- Evicting a superblock keeps the canonical form. -/
theorem State.evictBlock_memOk {s : State} (n : Nat) (b : L2Block) (h : s.memOk) : (s.evictBlock n b).memOk :=
  State.memOk_of_mem rfl (foldl_keeps State.memOk b.sectors _ (fun _ _ hb => State.writeBack_memOk _ _ _ hb) h)

theorem State.evictBlocks_memOk {s : State} (p : Nat → L2Block → Bool) (h : s.memOk) : (s.evictBlocks p).memOk :=
  foldl_keeps State.memOk _ _ (fun _ _ hb => foldl_keeps State.memOk _ _ (fun _ _ hc => State.evictBlock_memOk _ _ hc) hb) h

/-- Making room in a slice keeps the canonical form. -/
theorem State.l2Room_memOk {s t : State} {slice n : Nat} (h : s.memOk) (hr : s.l2Room slice n = some t) : t.memOk := by
  unfold State.l2Room at hr
  dsimp only at hr
  split at hr
  · cases hr; exact h
  · obtain ⟨e, -, rfl⟩ := Option.map_eq_some_iff.mp hr
    exact State.evictBlock_memOk _ _ h

/-- Installing a sector keeps the canonical form. -/
theorem State.installL2_memOk {s : State} (t : TEntry) (die a : Nat) (h : s.memOk) : (s.installL2 t die a).memOk := by
  unfold State.installL2
  split
  · exact h
  · dsimp only
    split
    · exact h
    · have hf : ∀ bs : List L2Block, (bs.foldl (fun u b => u.evictBlock (a / 256) b) s).memOk :=
        fun bs => foldl_keeps State.memOk bs _ (fun _ _ hb => State.evictBlock_memOk _ _ hb) h
      split
      · rename_i u hu
        have hr := State.l2Room_memOk (hf _) hu
        exact State.memOk_of_mem rfl hr
      · exact hf _

/-- Filling a sector keeps the canonical form. -/
theorem State.fillL2_memOk {s : State} (t : TEntry) (die a : Nat) (h : s.memOk) : (s.fillL2 t die a).memOk := by
  unfold State.fillL2
  split
  · exact h
  · exact State.installL2_memOk t die a h

/-- A write of one sector at its home keeps the canonical form. -/
theorem State.writeSector_memOk {s : State} (t : TEntry) (die : Nat) (p : Nat × List Byte) (h : s.memOk) :
    (s.writeSector t die p).memOk := by
  unfold State.writeSector
  dsimp only
  split
  · exact State.putKey_memOk _ _ h
  · refine State.memOk_of_mem rfl ?_
    have hi : ∀ u : State, u.memOk → (u.installL2 t die p.1).memOk := fun u hu => State.installL2_memOk t die p.1 hu
    split
    all_goals
      split
      · exact State.memOk_of_mem rfl (hi _ h)
      · exact State.writeBack_memOk _ _ _ (hi _ h)

/-- A write at the home keeps the canonical form. -/
theorem State.homeWrite_memOk {s : State} (t : TEntry) (a : Nat) (bs : List Byte) (h : s.memOk) : (s.homeWrite t a bs).memOk :=
  State.memOk_of_mem rfl
    (foldl_keeps State.memOk t.dies _
      (fun _ _ hb => foldl_keeps State.memOk _ _ (fun _ _ hc => State.writeSector_memOk _ _ _ hc) hb) h)

/-- Raising an event leaves memory alone. -/
theorem State.event_mem (s : State) (ctx : Nat) (src : Source) (code cause reason : Nat) (w3 w4 w5 w6 w7 : Word) :
    (s.event ctx src code cause reason w3 w4 w5 w6 w7).mem = s.mem := by
  unfold State.event
  dsimp only
  split
  · rfl
  · split
    · rfl
    · rfl

/-- The events of an access leave memory alone. -/
theorem State.cxlAccess_mem (s : State) (ctx : Nat) (t : TEntry) (a n : Nat) : (s.cxlAccess ctx t a n).mem = s.mem := by
  unfold State.cxlAccess
  split
  · rfl
  · refine forRange_keeps (fun (u : State) => u.mem = s.mem) _ _ (fun i u hu => ?_) rfl
    dsimp only
    split
    · rw [State.event_mem, hu]
    · exact hu

theorem State.writeFor_memOk {s : State} (ctx : Nat) (t : TEntry) (a : Nat) (bs : List Byte) (h : s.memOk) :
    (s.writeFor ctx t a bs).memOk :=
  State.homeWrite_memOk _ _ _ (State.memOk_of_mem (State.cxlAccess_mem _ _ _ _ _) h)

/-- A translation cache's new entry leaves memory alone. -/
theorem State.cacheTrans_mem (s : State) (slice : Nat) (t : TEntry) : (s.cacheTrans slice t).mem = s.mem := rfl

/-- Accesses one after the other succeed where each does in every state that meets `P`, and keeps `P`. -/
theorem inTurn_ok {α σ : Type} {P : σ → Prop} {walks : α → List (Nat × Bool)} {f : σ → α → Except Stop σ} {l : List α}
    (hf : ∀ x, ∀ a ∈ l, P x → ∃ y, f x a = .ok y ∧ P y) {x : σ} (h : P x) : ∃ y, inTurn walks f l x = .ok y ∧ P y := by
  induction l generalizing x with
  | nil => exact ⟨x, rfl, h⟩
  | cons a l ih =>
    obtain ⟨y, hy, hp⟩ := hf x a (by simp) h
    obtain ⟨z, hz, hq⟩ := ih (fun x b hb => hf x b (by simp [hb])) hp
    exact ⟨z, by rw [inTurn, hy]; dsimp only; rw [hz]; rfl, hq⟩

/-- A walk keeps the canonical form. -/
theorem State.walk_memOk {s : State} {slice a : Nat} {w : Bool} {r : TEntry × State} (h : s.memOk) (hw : s.walk slice a w = .ok r) :
    r.2.memOk := by
  unfold State.walk at hw
  cases hk : s.leafKey a with
  | error e => rw [hk] at hw; cases hw
  | ok k =>
    rw [hk] at hw
    simp only [bind, Except.bind, pure, Except.pure, throw, throwThe, MonadExceptOf.throw] at hw
    split at hw
    · cases hw
    · split at hw
      · cases hw
      · cases hw
        refine State.memOk_of_mem (State.cacheTrans_mem _ _ _) ?_
        repeat' split
        all_goals exact State.memOk_of_mem rfl (State.physWrite_memOk k _ h)

/-- A translation keeps the canonical form. -/
theorem State.translate_memOk {s : State} {slice a : Nat} {w : Bool} {r : TEntry × State} (h : s.memOk)
    (ht : s.translate slice a w = .ok r) : r.2.memOk := by
  unfold State.translate at ht
  split at ht
  · cases ht; exact h
  · exact State.walk_memOk h ht

/-- Writing a dirty word through keeps the canonical form. -/
theorem State.wtWord_memOk {s s' : State} {c a : Nat} (h : s.memOk) (hw : s.wtWord c a = .ok s') : s'.memOk := by
  unfold State.wtWord at hw
  split at hw
  · split at hw
    · split at hw
      · cases hw
      · rename_i r hr
        cases hw
        refine State.memOk_of_mem rfl ?_
        have ht := State.translate_memOk h hr
        split
        · exact State.writeFor_memOk _ _ _ _ ht
        · refine forRange_keeps State.memOk _ _ (fun i u hu => ?_) ht
          split
          · exact hu
          · exact State.writeFor_memOk _ _ _ _ hu
    · cases hw; exact h
  · cases hw; exact h

theorem State.wtCore_memOk {s s' : State} {c : Nat} (h : s.memOk) (hw : s.wtCore c = .ok s') : s'.memOk :=
  foldlM_keeps State.memOk _ _ (fun _ _ _ hb hc => State.wtWord_memOk hb hc) h hw

theorem State.wtCores_memOk {s s' : State} {cs : List Nat} (h : s.memOk) (hw : s.wtCores cs = .ok s') : s'.memOk :=
  foldlM_keeps State.memOk _ _ (fun _ _ _ hb hc => State.wtCore_memOk hb hc) h hw

theorem State.wtRange_memOk {s s' : State} {c a n : Nat} (h : s.memOk) (hw : s.wtRange c a n = .ok s') : s'.memOk :=
  foldlM_keeps State.memOk _ _ (fun _ _ _ hb hc => State.wtWord_memOk hb hc) h hw

/-- Dropping L1 words leaves memory alone. -/
theorem State.dropRange_mem (s : State) (c a n : Nat) : (s.dropRange c a n).mem = s.mem := by
  unfold State.dropRange
  exact forRange_keeps (fun (t : State) => t.mem = s.mem) _ (fun i (t : State) => t.dropL1 c (a / 4 * 4 + 4 * i))
    (fun _ _ h => h) rfl

/-- Merging an entry of the non-temporal buffer into the L1 leaves memory alone. -/
theorem State.ntMerge_mem (s : State) (c : Nat) (e : NtEntry) : (s.ntMerge c e).mem = s.mem := by
  unfold State.ntMerge
  refine forRange_keeps (fun (u : State) => u.mem = s.mem) _ _ (fun i u hu => ?_) rfl
  dsimp only
  split
  · exact hu
  · exact hu

/-- Draining an entry of the non-temporal buffer keeps the canonical form. -/
theorem State.drainNt_memOk {s s' : State} {c : Nat} {e : NtEntry} (h : s.memOk) (hd : s.drainNt c e = .ok s') : s'.memOk := by
  unfold State.drainNt at hd
  split at hd
  · cases hd
  · rename_i r hr
    rw [← Except.ok.inj hd]
    refine State.memOk_of_mem ((State.modCore_mem _ _ _).trans (State.ntMerge_mem _ _ _)) ?_
    exact foldl_keeps State.memOk e.bytes _ (fun _ _ hb => State.writeFor_memOk _ _ _ _ hb) (State.translate_memOk h hr)

theorem State.drainAll_memOk {s s' : State} {c : Nat} (h : s.memOk) (hd : s.drainAll c = .ok s') : s'.memOk :=
  foldlM_keeps State.memOk _ _ (fun _ _ _ hb hc => State.drainNt_memOk hb hc) h hd

theorem State.drainOver_memOk {s s' : State} {c a n : Nat} (h : s.memOk) (hd : s.drainOver c a n = .ok s') : s'.memOk := by
  unfold State.drainOver at hd
  split at hd
  · exact State.drainNt_memOk h hd
  · cases hd; exact h

/-- A release keeps the canonical form. -/
theorem State.release_memOk {s s' : State} {c : Nat} {sc : Scope} (h : s.memOk) (hr : s.release c sc = .ok s') : s'.memOk := by
  unfold State.release at hr
  split at hr
  · cases hr; exact h
  · split at hr
    · cases hr; exact h
    · exact State.wtCore_memOk h hr
  · exact State.wtCores_memOk h hr
  · exact State.wtCores_memOk h hr
  · cases hw : s.wtCores (s.l1Group c) with
    | error e => rw [hw] at hr; cases hr
    | ok t => rw [hw] at hr; exact State.drainAll_memOk (State.wtCores_memOk h hw) hr

theorem State.checkHome_memOk {s : State} {c a : Nat} {k : Acc} {r : TEntry × State} (h : s.memOk) (hc : s.checkHome c a k = .ok r) :
    r.2.memOk := by
  unfold State.checkHome at hc
  cases hp : s.plbCheck c a k with
  | error e => rw [hp] at hc; cases hc
  | ok e =>
    rw [hp] at hc
    simp only [bind, Except.bind, throw, throwThe, MonadExceptOf.throw, pure, Except.pure] at hc
    split at hc
    · cases hc
    · rename_i t u hu
      split at hc
      · cases hc
      · cases hc; exact State.translate_memOk h hu

theorem ofWt_ok {k : Acc} {x : Except (Nat × WalkFault) State} {s : State} (h : ofWt k x = .ok s) : x = .ok s := by
  cases x with
  | ok t => exact congrArg _ (by simpa [ofWt] using h)
  | error e => cases h

theorem State.atHome_memOk {s : State} {c a n : Nat} {k : Acc} {r : TEntry × State} (h : s.memOk) (hc : s.atHome c a n k = .ok r) :
    r.2.memOk := by
  unfold State.atHome at hc
  cases h1 : s.checkHome c a k with
  | error e => rw [h1] at hc; cases hc
  | ok r1 =>
    rw [h1] at hc
    simp only [bind, Except.bind, pure, Except.pure] at hc
    split at hc
    · cases hc
    · rename_i u hu
      split at hc
      · cases hc
      · rename_i w hw
        cases hc
        exact State.wtRange_memOk (State.drainOver_memOk (State.checkHome_memOk h h1) (ofWt_ok hu)) (ofWt_ok hw)

/-! ### What a stop keeps, and the passing of time -/

/-- A change of the error alone changes nothing that is given. -/
theorem mapError_ok {α ε ε' : Type} (f : ε → ε') (x : Except ε α) (r : α) : x.mapError f = .ok r ↔ x = .ok r := by
  cases x <;> simp [Except.mapError]

/-- `Act.keep` changes how an instruction stops, never what it gives. -/
theorem Act.keep_ok {α : Type} (a : Nat) (w : Bool) (act : Act α) (s : State) (r : α × State) :
    Act.keep a w act s = .ok r ↔ act s = .ok r := mapError_ok _ _ _

theorem Act.keepAll_ok {α : Type} (ws : List (Nat × Bool)) (act : Act α) (s : State) (r : α × State) :
    Act.keepAll ws act s = .ok r ↔ act s = .ok r := mapError_ok _ _ _

theorem Act.kept_ok {α : Type} (before : State) (a n : Nat) (act : Act α) (s : State) (r : α × State) :
    Act.kept before a n act s = .ok r ↔ act s = .ok r := mapError_ok _ _ _

/-- An instruction that begins with a release gives what the release gives and the rest then gives. -/
theorem Act.released_ok {α : Type} (sc : Scope) (act : Act α) (s : State) (r : α × State) :
    Act.released sc act s = .ok r ↔ ∃ t, Act.release sc s = .ok ((), t) ∧ act t = .ok r := by
  unfold Act.released
  cases h : Act.release sc s with
  | error e => simp
  | ok u => obtain ⟨⟨⟩, t⟩ := u; simp [Act.keepAll_ok]

theorem State.walked_memOk {s : State} (a : Nat) (w : Bool) (h : s.memOk) : (s.walked a w).memOk := by
  unfold State.walked
  split
  · exact h
  · split
    · next ht => exact State.translate_memOk h ht
    · exact h

@[simp] theorem State.pass_mem (s : State) (n : Nat) : (s.pass n).mem = s.mem := rfl
@[simp] theorem State.dropHomes_mem (s : State) : s.dropHomes.mem = s.mem := rfl

/-- What `n` cycles of the full clock add to the time (R5). -/
@[simp] theorem State.now_pass (s : State) (n : Nat) : (s.pass n).now = s.now + n := rfl

/-- With every clock full, the cycles of a die are those of the full clock (R461). -/
theorem State.cycles_full (s : State) (die : Nat) (h : s.lost = []) : s.cycles die = s.cycle := by
  simp [State.cycles, dieCycles, h, ceilDiv]

end Sys2Proof.Machine
end

