-- ==== Sys2Proof/Tests/Slice0.lean ====
section
/-!
SUPPORT. Tests and witnesses. First, words of the encodings and what they decode to, and an ill-formed term for each check of
`Instr.wf`; then, for each statement, states that meet its hypotheses (`wit_…`), each with the boundary cases of its clauses;
last, values that the spec works out (`test_…`).
-/

section

set_option Elab.async false

open Sys2Proof Sys2Proof.Machine

namespace Sys2Proof.Tests

/-- Words written out from the encodings of R64 decode to what they stand for. -/
theorem test_decode_upper_jumps_branches :
    decodeWord 0b10011010001111000001_01000_0110111 = some (.lui 8 0x9a3c1) ∧
    decodeWord 0b10011010001111000010_01101_0010111 = some (.auipc 13 0x9a3c2) ∧
    decodeWord 0b10111110110100010100_10010_1101111 = some (.jal 18 0x8a5f6) ∧
    decodeWord 0b110011101111_11101_000_10111_1100111 = some (.jalr 23 29 0xcef) ∧
    decodeWord 0b1100010_11001_00101_000_01001_1100011 = some (.beq 5 25 0xe24) ∧
    decodeWord 0b1110101_00100_01100_001_10011_1100011 = some (.bne 12 4 0xf59) ∧
    decodeWord 0b0001000_01111_10011_100_11100_1100011 = some (.blt 19 15 0x8e) ∧
    decodeWord 0b0011100_11010_11010_101_00110_1100011 = some (.bge 26 26 0x1c3) ∧
    decodeWord 0b0101111_00101_00010_110_10000_1100011 = some (.bltu 2 5 0x2f8) ∧
    decodeWord 0b0000010_10000_01001_111_11011_1100011 = some (.bgeu 9 16 0x42d) := by
  decide

/-- Words written out from the encodings of R64, R65 decode to what they stand for. -/
theorem test_decode_loads_stores :
    decodeWord 0b010101100010_10000_000_11101_0000011 = some (.lb 29 16 0x562) ∧
    decodeWord 0b011010010111_10111_001_00101_0000011 = some (.lh 5 23 0x697) ∧
    decodeWord 0b011111001100_11110_010_01010_0000011 = some (.lw 10 30 0x7cc) ∧
    decodeWord 0b100100000001_00110_011_01111_0000011 = some (.ld 15 6 0x901) ∧
    decodeWord 0b101000110110_01101_100_10100_0000011 = some (.lbu 20 13 0xa36) ∧
    decodeWord 0b101101101011_10100_101_11001_0000011 = some (.lhu 25 20 0xb6b) ∧
    decodeWord 0b110010100000_11011_110_11110_0000011 = some (.lwu 30 27 0xca0) ∧
    decodeWord 0b1101110_01000_00011_000_10101_0100011 = some (.sb 3 8 0xdd5) ∧
    decodeWord 0b1111000_10011_01010_001_01010_0100011 = some (.sh 10 19 0xf0a) ∧
    decodeWord 0b0000001_11110_10001_010_11111_0100011 = some (.sw 17 30 0x3f) ∧
    decodeWord 0b0001011_01001_11000_011_10100_0100011 = some (.sd 24 9 0x174) := by
  decide

/-- Words written out from the encodings of R64 decode to what they stand for. -/
theorem test_decode_op_imm :
    decodeWord 0b001010101001_11111_000_11010_0010011 = some (.addi 26 31 0x2a9) ∧
    decodeWord 0b001111011110_00111_010_11111_0010011 = some (.slti 31 7 0x3de) ∧
    decodeWord 0b010100010011_01110_011_00111_0010011 = some (.sltiu 7 14 0x513) ∧
    decodeWord 0b011001001000_10101_100_01100_0010011 = some (.xori 12 21 0x648) ∧
    decodeWord 0b011101111101_11100_110_10001_0010011 = some (.ori 17 28 0x77d) ∧
    decodeWord 0b100010110010_00100_111_10110_0010011 = some (.andi 22 4 0x8b2) ∧
    decodeWord 0b000000_000111_01011_001_11011_0010011 = some (.slli 27 11 7) ∧
    decodeWord 0b000000_001000_10010_101_00011_0010011 = some (.srli 3 18 8) ∧
    decodeWord 0b010000_001001_11001_101_01000_0010011 = some (.srai 8 25 9) ∧
    decodeWord 0b110110000110_00001_000_01101_0011011 = some (.addiw 13 1 0xd86) ∧
    decodeWord 0b0000000_01011_01000_001_10010_0011011 = some (.slliw 18 8 11) ∧
    decodeWord 0b0000000_01100_01111_101_10111_0011011 = some (.srliw 23 15 12) ∧
    decodeWord 0b0100000_01101_10110_101_11100_0011011 = some (.sraiw 28 22 13) := by
  decide

/-- Words written out from the encodings of R64 decode to what they stand for. -/
theorem test_decode_op :
    decodeWord 0b0000000_00011_11101_000_00100_0110011 = some (.add 4 29 3) ∧
    decodeWord 0b0000000_01110_00101_001_01001_0110011 = some (.sll 9 5 14) ∧
    decodeWord 0b0000000_11001_01100_010_01110_0110011 = some (.slt 14 12 25) ∧
    decodeWord 0b0000000_00100_10011_011_10011_0110011 = some (.sltu 19 19 4) ∧
    decodeWord 0b0000000_01111_11010_100_11000_0110011 = some (.xor 24 26 15) ∧
    decodeWord 0b0000000_11010_00010_101_11101_0110011 = some (.srl 29 2 26) ∧
    decodeWord 0b0000000_00101_01001_110_00101_0110011 = some (.or 5 9 5) ∧
    decodeWord 0b0000000_10000_10000_111_01010_0110011 = some (.and 10 16 16) ∧
    decodeWord 0b0100000_11011_10111_000_01111_0110011 = some (.sub 15 23 27) ∧
    decodeWord 0b0100000_00110_11110_101_10100_0110011 = some (.sra 20 30 6) ∧
    decodeWord 0b0000001_10001_00110_000_11001_0110011 = some (.mul 25 6 17) ∧
    decodeWord 0b0000001_11100_01101_001_11110_0110011 = some (.mulh 30 13 28) ∧
    decodeWord 0b0000001_00111_10100_010_00110_0110011 = some (.mulhsu 6 20 7) ∧
    decodeWord 0b0000001_10010_11011_011_01011_0110011 = some (.mulhu 11 27 18) ∧
    decodeWord 0b0000001_11101_00011_100_10000_0110011 = some (.div 16 3 29) ∧
    decodeWord 0b0000001_01000_01010_101_10101_0110011 = some (.divu 21 10 8) ∧
    decodeWord 0b0000001_10011_10001_110_11010_0110011 = some (.rem 26 17 19) ∧
    decodeWord 0b0000001_11110_11000_111_11111_0110011 = some (.remu 31 24 30) := by
  decide

/-- Words written out from the encodings of R64 decode to what they stand for. -/
theorem test_decode_op_32 :
    decodeWord 0b0000000_01001_11111_000_00111_0111011 = some (.addw 7 31 9) ∧
    decodeWord 0b0000000_10100_00111_001_01100_0111011 = some (.sllw 12 7 20) ∧
    decodeWord 0b0000000_11111_01110_101_10001_0111011 = some (.srlw 17 14 31) ∧
    decodeWord 0b0100000_01010_10101_000_10110_0111011 = some (.subw 22 21 10) ∧
    decodeWord 0b0100000_10101_11100_101_11011_0111011 = some (.sraw 27 28 21) ∧
    decodeWord 0b0000001_00000_00100_000_00011_0111011 = some (.mulw 3 4 0) ∧
    decodeWord 0b0000001_01011_01011_100_01000_0111011 = some (.divw 8 11 11) ∧
    decodeWord 0b0000001_10110_10010_101_01101_0111011 = some (.divuw 13 18 22) ∧
    decodeWord 0b0000001_00001_11001_110_10010_0111011 = some (.remw 18 25 1) ∧
    decodeWord 0b0000001_01100_00001_111_10111_0111011 = some (.remuw 23 1 12) := by
  decide

/-- Words written out from the encodings of R64, R65 decode to what they stand for. -/
theorem test_decode_amo_w :
    decodeWord 0b1000_0011_0001_01000_000_11100_0001111 = some (.fence 28 8 0x831) ∧
    decodeWord 0b010101011011_01111_001_00100_0001111 = some (.fenceI 4 15 0x55b) ∧
    decodeWord 0b00010_1_0_00000_10110_010_01001_0101111 = some (.lrW 9 22 true false) ∧
    decodeWord 0b00011_0_1_11000_11101_010_01110_0101111 = some (.scW 14 29 24 false true) ∧
    decodeWord 0b00001_1_1_00011_00101_010_10011_0101111 = some (.amoswapW 19 5 3 true true) ∧
    decodeWord 0b00000_0_0_01110_01100_010_11000_0101111 = some (.amoaddW 24 12 14 false false) ∧
    decodeWord 0b00100_1_0_11001_10011_010_11101_0101111 = some (.amoxorW 29 19 25 true false) ∧
    decodeWord 0b01100_0_1_00100_11010_010_00101_0101111 = some (.amoandW 5 26 4 false true) ∧
    decodeWord 0b01000_1_1_01111_00010_010_01010_0101111 = some (.amoorW 10 2 15 true true) ∧
    decodeWord 0b10000_0_0_11010_01001_010_01111_0101111 = some (.amominW 15 9 26 false false) ∧
    decodeWord 0b10100_1_0_00101_10000_010_10100_0101111 = some (.amomaxW 20 16 5 true false) ∧
    decodeWord 0b11000_0_1_10000_10111_010_11001_0101111 = some (.amominuW 25 23 16 false true) ∧
    decodeWord 0b11100_1_1_11011_11110_010_11110_0101111 = some (.amomaxuW 30 30 27 true true) := by
  decide

/-- Words written out from the encodings of R65 decode to what they stand for. -/
theorem test_decode_amo_d :
    decodeWord 0b00010_0_0_00000_00110_011_00110_0101111 = some (.lrD 6 6 false false) ∧
    decodeWord 0b00011_1_0_10001_01101_011_01011_0101111 = some (.scD 11 13 17 true false) ∧
    decodeWord 0b00001_0_1_11100_10100_011_10000_0101111 = some (.amoswapD 16 20 28 false true) ∧
    decodeWord 0b00000_1_1_00111_11011_011_10101_0101111 = some (.amoaddD 21 27 7 true true) ∧
    decodeWord 0b00100_0_0_10010_00011_011_11010_0101111 = some (.amoxorD 26 3 18 false false) ∧
    decodeWord 0b01100_1_0_11101_01010_011_11111_0101111 = some (.amoandD 31 10 29 true false) ∧
    decodeWord 0b01000_0_1_01000_10001_011_00111_0101111 = some (.amoorD 7 17 8 false true) ∧
    decodeWord 0b10000_1_1_10011_11000_011_01100_0101111 = some (.amominD 12 24 19 true true) ∧
    decodeWord 0b10100_0_0_11110_11111_011_10001_0101111 = some (.amomaxD 17 31 30 false false) ∧
    decodeWord 0b11000_1_0_01001_00111_011_10110_0101111 = some (.amominuD 22 7 9 true false) ∧
    decodeWord 0b11100_0_1_10100_01110_011_11011_0101111 = some (.amomaxuD 27 14 20 false true) := by
  decide

/-- Words written out from the encodings of R64, R66, R67 decode to what they stand for. -/
theorem test_decode_system :
    decodeWord 0b00000000000000000000000001110011 = some (.ecall) ∧
    decodeWord 0b00000000000100000000000001110011 = some (.ebreak) ∧
    decodeWord 0b00010000001000000000000001110011 = some (.sret) ∧
    decodeWord 0b00010000010100000000000001110011 = some (.wfi) ∧
    decodeWord 0b00110000001000000000000001110011 = some (.mret) ∧
    decodeWord 0b010111000100_11001_001_11100_1110011 = some (.csrrw 28 25 0x5C4) ∧
    decodeWord 0b010111000100_00001_010_00100_1110011 = some (.csrrs 4 1 0x5C4) ∧
    decodeWord 0b010111000100_01000_011_01001_1110011 = some (.csrrc 9 8 0x5C4) ∧
    decodeWord 0b010111000100_10101_101_01110_1110011 = some (.csrrwi 14 21 0x5C4) ∧
    decodeWord 0b010111000100_10101_110_10011_1110011 = some (.csrrsi 19 21 0x5C4) ∧
    decodeWord 0b010111000100_10101_111_11000_1110011 = some (.csrrci 24 21 0x5C4) := by
  decide

/-- Words written out from the encodings of R71, R72 decode to what they stand for. -/
theorem test_decode_pointers_repeats_nests :
    decodeWord 0b0000000_11000_00101_000_11101_0001011 = some (.padd 29 5 24) ∧
    decodeWord 0b0000001_00011_01100_000_00101_0001011 = some (.ptag 5 12 3) ∧
    decodeWord 0b000001000000_10011_000_01010_0001011 = some (.pget 10 19) ∧
    decodeWord 0b000001100000_11010_000_01111_0001011 = some (.pbase 15 26) ∧
    decodeWord 0b001100111001_00010_001_10100_0001011 = some (.paddi 20 2 0x339) ∧
    decodeWord 0b0000_10100101_01001_010_11001_0001011 = some (.ptagi 25 9 0xA5) ∧
    decodeWord 0b101010111100_00000011_10_101_0001011 = some (.repi 0xABC 2 5) ∧
    decodeWord 0b000000000000_10111_100_01_110_0001011 = some (.rep 23 1 6) ∧
    decodeWord 0b001000000000_11110_000000000001011 = some (.nestSet 30) ∧
    decodeWord 0b00100010000000000000_10000_0001011 = some (.nestStat 16) ∧
    decodeWord 0b10101101000111100_110_11100_0001011 = some (.nestNext 28 0x15A3C) := by
  decide

/-- Words written out from the encodings of R71, R72 decode to what they stand for. -/
theorem test_decode_convoys :
    decodeWord 0b11100000010100101_101000000001011 = some (.join 0x1C0A5) ∧
    decodeWord 0b11100000010100101_101000010001011 = some (.joinT 0x1C0A5) ∧
    decodeWord 0b00010000000000000000000000001011 = some (.leave) ∧
    decodeWord 0b00010010000000000000000000001011 = some (.cvsync) ∧
    decodeWord 0b00010100000000000000_10001_0001011 = some (.cvstat 17) := by
  decide

/-- Words written out from the encodings of R71 decode to what they stand for. -/
theorem test_decode_firings :
    decodeWord 0b0011000_01011_11000_000000000001011 = some (.send 24 11) ∧
    decodeWord 0b0011001_00010_11111_000_01101_0001011 = some (.sendC 31 2 13) ∧
    decodeWord 0b00110100000000000000000000001011 = some (.done) ∧
    decodeWord 0b00110110000000000000000000001011 = some (.sealF) ∧
    decodeWord 0b0011100_10100_10101_000000000001011 = some (.hbind 21 20) ∧
    decodeWord 0b0011101_11111_11100_000000000001011 = some (.qctl 28 31) ∧
    decodeWord 0b001111000000_00100_000_10111_0001011 = some (.qstat 23 4) ∧
    decodeWord 0b0011111_10101_01011_000_11100_0001011 = some (.launch 28 11 21) ∧
    decodeWord 0b0100000_00000_10010_000000000001011 = some (.sigset 18 0) ∧
    decodeWord 0b0100001_01011_11001_000000000001011 = some (.sigclr 25 11) ∧
    decodeWord 0b0100010_10110_00001_000_01110_0001011 = some (.sigtest 14 1 22) ∧
    decodeWord 0b010010000000_01000_000_10011_0001011 = some (.stashAlloc 19 8) ∧
    decodeWord 0b010010100000_01111_000000000001011 = some (.stashFree 15) := by
  decide

/-- Words written out from the encodings of R73 decode to what they stand for. -/
theorem test_decode_custom1 :
    decodeWord 0b0000_111_100101_000010_011100_0101011 = some (.vadd .fp64 28 2 37) ∧
    decodeWord 0b0001_000_110010_001001_100001_0101011 = some (.vsub .i8 33 9 50) ∧
    decodeWord 0b0010_001_111111_010000_100110_0101011 = some (.vmul .i16 38 16 63) ∧
    decodeWord 0b0011_110_001100_010111_101011_0101011 = some (.vfma .fp32 43 23 12) ∧
    decodeWord 0b0100_111_011001_011110_110000_0101011 = some (.vfnma .fp64 48 30 25) ∧
    decodeWord 0b0101_100_100110_100101_110101_0101011 = some (.vmin .bf16 53 37 38) ∧
    decodeWord 0b0110_101_110011_101100_111010_0101011 = some (.vmax .fp16 58 44 51) ∧
    decodeWord 0b0111_110_000000_110011_111111_0101011 = some (.vcmple .fp32 63 51 0) ∧
    decodeWord 0b1000_011_001101_111010_000100_0101011 = some (.vand 4 58 13) ∧
    decodeWord 0b1001_011_011010_000001_001001_0101011 = some (.vor 9 1 26) ∧
    decodeWord 0b1010_011_100111_001000_001110_0101011 = some (.vxor 14 8 39) ∧
    decodeWord 0b1011_010_110100_001111_010011_0101011 = some (.vshl .i32 19 15 52) ∧
    decodeWord 0b1100_011_000001_010110_011000_0101011 = some (.vshr .i64 24 22 1) ∧
    decodeWord 0b1101_000_001110_011101_011101_0101011 = some (.vshra .i8 29 29 14) ∧
    decodeWord 0b1110_101_011011_100100_100010_0101011 = some (.vcmplt .fp16 34 36 27) ∧
    decodeWord 0b1111_110_101000_101011_100111_0101011 = some (.vcmpeq .fp32 39 43 40) := by
  decide

/-- Words written out from the encodings of R74, R75 decode to what they stand for. -/
theorem test_decode_custom2 :
    decodeWord 0b0000_111_110101_110010_101100_1011011 = some (.vsel .fp64 44 50 53) ∧
    decodeWord 0b0001_000_000010_111001_110001_1011011 = some (.vshuf .i8 49 57 2) ∧
    decodeWord 0b0010_001_001111_000000_110110_1011011 = some (.vzip .i16 54 0 15) ∧
    decodeWord 0b0011_010_011100_000111_111011_1011011 = some (.vunzip .i32 59 7 28) ∧
    decodeWord 0b0100_110_000010_001110_000000_1011011 = some (.vred .fp32 0 14 .min) ∧
    decodeWord 0b0101_100_110110_010101_000101_1011011 = some (.vdiv .bf16 5 21 54) ∧
    decodeWord 0b0110_110_000110_011100_001010_1011011 = some (.vsf .fp32 10 28 .tanh) ∧
    decodeWord 0b0111_100_110_10_1_100011_001111_1011011 = some (.vcvt .bf16 .fp32 15 35 .rdn true) ∧
    decodeWord 0b10000_1_1_011_01_1_101010_010100_1011011 = some (.vcvt8ToFp8 .e5m2 .fp32 20 42 3 .rtz true) ∧
    decodeWord 0b10001_0_0_001_000_110001_011001_1011011 = some (.vcvt8FromFp8 .e4m3 .bf16 25 49 1) ∧
    decodeWord 0b1001_001_000111_0_10011_011110_1011011 = some (.vins .i16 30 19 7) ∧
    decodeWord 0b1010_010_000011_111111_0_10011_1011011 = some (.vext .i32 19 63 3) ∧
    decodeWord 0b1011_101_0000000_10110_101000_1011011 = some (.vbcast .fp16 40 22) ∧
    decodeWord 0b1100110_000001_10_1101_111101_1011011 = some (.vrowst 61 2 13 .expSum) ∧
    decodeWord 0b1101010000000_010100_110010_1011011 = some (.vdmask 50 20) := by
  decide

/-- Words written out from the encodings of R76 decode to what they stand for. -/
theorem test_decode_engines_barriers :
    decodeWord 0b0000000_10011_00011_000_01010_1111011 = some (.enq 10 .commons 19) ∧
    decodeWord 0b0000001_10111_00100_000_01111_1111011 = some (.enqm 15 .bulk 23) ∧
    decodeWord 0b000000000000_00010_001000001111011 = some (.eqwait .rule) ∧
    decodeWord 0b000000100000_00001_001_11001_1111011 = some (.eqstat 25 .copy) ∧
    decodeWord 0b0000000_11000_10011_010000001111011 = some (.barInit 19 24) ∧
    decodeWord 0b0000001_00011_11010_010000001111011 = some (.barExpect 26 3) ∧
    decodeWord 0b000001000000_00010_010_01011_1111011 = some (.barArrive 11 2) ∧
    decodeWord 0b0000011_11001_01001_010_00100_1111011 = some (.barWait 9 25 .system) ∧
    decodeWord 0b0000100_00100_10000_010_10101_1111011 = some (.barTest 21 16 4) := by
  decide

/-- Words written out from the encodings of R76 decode to what they stand for. -/
theorem test_decode_scoped_and_lines :
    decodeWord 0b0000000_00010_10111_011_11010_1111011 = some (.ldaq 26 23 .die) ∧
    decodeWord 0b0000001_11010_11110_011_00100_1111011 = some (.strl 30 26 .system) ∧
    decodeWord 0b00000100000000000011_00011_1111011 = some (.fenceAq .package) ∧
    decodeWord 0b00000110000000000011_00011_1111011 = some (.fenceRl .package) ∧
    decodeWord 0b00001000000000000011_00011_1111011 = some (.fenceAr .package) ∧
    decodeWord 0b000010100000_11011_011000001111011 = some (.invl 27) ∧
    decodeWord 0b000011000000_00011_011000001111011 = some (.wbk 3) ∧
    decodeWord 0b0000111_11100_01010_011000001111011 = some (.stNt 10 28) ∧
    decodeWord 0b000100000000_10001_011000001111011 = some (.pref 17) ∧
    decodeWord 0b0001001_10010_11000_011_01101_1111011 = some (.amofaddS 13 24 18) ∧
    decodeWord 0b0001010_11101_11111_011_10010_1111011 = some (.amofaddD 18 31 29) ∧
    decodeWord 0b0001011_01000_00111_011_10111_1111011 = some (.amofmaxS 23 7 8) := by
  decide

/-- Words written out from the encodings of R76 decode to what they stand for. -/
theorem test_decode_commons :
    decodeWord 0b0000000_10011_01110_100000001111011 = some (.gdepx 14 19) ∧
    decodeWord 0b0000001_11110_10101_100000001111011 = some (.gdepw 21 30) ∧
    decodeWord 0b000001000000_11100_100_01001_1111011 = some (.gest 9 28) ∧
    decodeWord 0b000001100000_00100_100_01110_1111011 = some (.gspread 14 4) ∧
    decodeWord 0b0000100_11111_01011_100000001111011 = some (.gxch 11 31) ∧
    decodeWord 0b000010100000_10010_100_11000_1111011 = some (.gmass 24 18) := by
  decide

/-- Words written out from the encodings of R77 decode to what they stand for. -/
theorem test_decode_vector_memory :
    decodeWord 0b111110_101101_11001_101000001111011 = some (.vld 62 25 0x2D) ∧
    decodeWord 0b000011_101101_00001_101001001111011 = some (.vst 3 1 0x2D) ∧
    decodeWord 0b001000_101101_01000_101010001111011 = some (.vstNt 8 8 0x2D) ∧
    decodeWord 0b001101_101101_01111_101011001111011 = some (.vldRo 13 15 0x2D) ∧
    decodeWord 0b010010_101101_10110_101100001111011 = some (.vldb 18 22 0x2D) := by
  decide

/-- Words written out from the encodings of R78 decode to what they stand for. -/
theorem test_decode_privileged :
    decodeWord 0b0000000_01100_11101_110000001111011 = some (.ctxSave 29 12) ∧
    decodeWord 0b0000001_10111_00101_110_11110_1111011 = some (.ctxRest 30 5 23) ∧
    decodeWord 0b0000010_00010_01100_110000001111011 = some (.plbFill 12 2) ∧
    decodeWord 0b000001100000_10011_110000001111011 = some (.plbInv 19) ∧
    decodeWord 0b0000100_11000_11010_110000001111011 = some (.tslice 26 24) ∧
    decodeWord 0b0000101_00011_00010_110000001111011 = some (.ruleInst 2 3) ∧
    decodeWord 0b000011000000_01001_110_11010_1111011 = some (.ruleAct 26 9) ∧
    decodeWord 0b0000111_11001_10000_110000001111011 = some (.minj 16 25) ∧
    decodeWord 0b000100000000_10111_110000001111011 = some (.slotResume 23) ∧
    decodeWord 0b000100100000_11110_110000001111011 = some (.slotKill 30) ∧
    decodeWord 0b000101000000_00110_110000001111011 = some (.commonsCfgDefine 6) ∧
    decodeWord 0b000101100000_01101_110000001111011 = some (.pgFlush 13) ∧
    decodeWord 0b0001100_10000_10100_110000001111011 = some (.waysCfg 20 16) := by
  decide

/-- The header of the command words below: prio 5, cmsg 1, cq 6, rm rdn, ov sat (R82). -/
def hdr : TcwHdr := { prio := 5, cmsg := true, cq := 6, rm := .rdn, ov := true }

/-- Tile command words laid out by R82, R83 and R270, R276 decode to what they stand for. -/
theorem test_decode_matrix_products :
    decodeTcw ⟨0x5A39_8281_001B_6801, 0x18AB_0000_1234_5640, 0xDEAD_BEEF_0000_9ABC, 0⟩ =
      some (.mwload hdr { w := 0x18AB_0000_1234_5640, rows := 129, cols := 65, prev := true, stepchk := false, cvt := 2, sofs := 0x5A3, wstride := 0x9ABC, steptag := 0xDEADBEEF }) ∧
    decodeTcw ⟨0x0002_1664_001B_6802, 0x18AB_0000_1234_5640, 0x9833_57C8_0000_8001, 0x2000_0000_00AB_CD00⟩ =
      some (.mmulF hdr { p1 := 0x18AB_0000_1234_5640, p3 := 0x2000_0000_00AB_CD00, m := 100, acc := 2, pair := true, zf := false, chk := true, steps := 16, ncols := 0, stride1 := 0x8001, stride2 := 0, rlimit := 200, climit := 0x1357, sofs := 1217 }) ∧
    decodeTcw ⟨0x0000_0664_001B_6803, 0x18AB_0000_1234_5640, 0x0013_57C8_0000_8001, 0⟩ =
      some (.mmulT hdr { p1 := 0x18AB_0000_1234_5640, p3 := 0, m := 100, acc := 2, pair := true, zf := false, chk := false, steps := 0, ncols := 0, stride1 := 0x8001, stride2 := 0, rlimit := 200, climit := 0x1357, sofs := 0 }) ∧
    decodeTcw ⟨0x6AF0_0664_001B_6804, 0x18AB_0000_1234_5640, 0x0013_57C8_7654_8001, 0x2000_0000_00AB_CD00⟩ =
      some (.mouter hdr { p1 := 0x18AB_0000_1234_5640, p3 := 0x2000_0000_00AB_CD00, m := 100, acc := 2, pair := true, zf := false, chk := false, steps := 0, ncols := 6844, stride1 := 0x8001, stride2 := 30292, rlimit := 200, climit := 0x1357, sofs := 0 }) ∧
    decodeTcw ⟨0x6AF1_2664_001B_6805, 0x18AB_0000_1234_5640, 0x9833_57C8_7654_8001, 0x2000_0000_00AB_CD00⟩ =
      some (.mmulG hdr { p1 := 0x18AB_0000_1234_5640, p3 := 0x2000_0000_00AB_CD00, m := 100, acc := 2, pair := true, zf := false, chk := false, steps := 9, ncols := 6844, stride1 := 0x8001, stride2 := 30292, rlimit := 200, climit := 0x1357, sofs := 1217 }) := by
  decide

/-- Tile command words laid out by R82, R83 and R278, R284, R286 decode to what they stand for. -/
theorem test_decode_matrix_accumulator :
    decodeTcw ⟨0x0000_0009_001B_6806, 0, 0, 0⟩ =
      some (.mzero hdr 9) ∧
    decodeTcw ⟨0x0001_926D_001B_6807, 0x18AB_0000_1234_5640, 0x0000_0000_0000_0246, 0⟩ =
      some (.mstore hdr { ptr := 0x18AB_0000_1234_5640, acc := 1, pair := true, rows := 77, cols := 50, stride := 0x0246 }) ∧
    decodeTcw ⟨0x0002_0403_001B_6808, 0x18AB_0000_1234_5640, 0x0000_0000_0000_FFFF, 0⟩ =
      some (.maccld hdr { ptr := 0x18AB_0000_1234_5640, acc := 3, pair := false, rows := 128, cols := 64, stride := 0xFFFF }) ∧
    decodeTcw ⟨0x0000_079E_001B_6809, 0x18AB_0000_1234_5640, 0, 0⟩ =
      some (.mchk hdr 0x18AB_0000_1234_5640 2 true 0xF3) ∧
    decodeTcw ⟨0x0000_16A7_001B_680A, 0, 0x0000_0000_3F80_0001, 0⟩ =
      some (.mpatch hdr 3 41 22 0x3F80_0001) ∧
    decodeTcw ⟨0x0000_0000_001B_680B, 0x18AB_0000_1234_5640, 0, 0⟩ =
      some (.mgang hdr 0x18AB_0000_1234_5640) ∧
    decodeTcw ⟨0x0000_0209_001B_680C, 0x18AB_0000_1234_5640, 0, 0⟩ =
      some (.mres hdr 0x18AB_0000_1234_5640 1 130) ∧
    decodeTcw ⟨0x0000_0106_001B_680D, 0x18AB_0000_1234_5640, 0, 0⟩ =
      some (.mscale hdr 0x18AB_0000_1234_5640 2 65) := by
  decide

/-- Tile command words laid out by R82, R83 and R316, R317 decode to what they stand for. -/
theorem test_decode_copy :
    decodeTcw ⟨0x001A_BCDE_001B_6921, 0x18AB_0000_1234_5640, 0x1000_0000_0765_4300, 0x0000_00FF_0000_0001⟩ =
      some (.cpy hdr { bv := true, bar := 0xABCDE } 0x18AB_0000_1234_5640 0x1000_0000_0765_4300 0xFF_0000_0001) ∧
    decodeTcw ⟨0x0000_0000_001B_6922, 0x18AB_0000_1234_5640, 0x1000_0000_0765_4300, 0x2222_1111_07D1_03E8⟩ =
      some (.cpy2d hdr { bv := false, bar := 0 } { src := 0x18AB_0000_1234_5640, dst := 0x1000_0000_0765_4300, rows := 1000, cols := 2001, rowlim := 0, collim := 0, sstride := 0x1111, dstride := 0x2222 }) ∧
    decodeTcw ⟨0x001A_BCDE_001B_6923, 0x18AB_0000_1234_5640, 0x1000_0000_0765_4300, 0x2222_1111_2C21_64C8⟩ =
      some (.cpyt hdr { bv := true, bar := 0xABCDE } { src := 0x18AB_0000_1234_5640, dst := 0x1000_0000_0765_4300, rows := 200, cols := 100, rowlim := 33, collim := 44, sstride := 0x1111, dstride := 0x2222 }) ∧
    decodeTcw ⟨0x0000_0000_001B_6924, 0x18AB_0000_1234_5640, 0x0000_0380_0000_0010, 0⟩ =
      some (.cpys hdr { bv := false, bar := 0 } 0x18AB_0000_1234_5640 0x80_0000_0010 3) ∧
    decodeTcw ⟨0xF91A_BCDE_001B_6925, 0x18AB_0000_1234_5640, 0x1000_0000_0765_4300, 0x2000_0000_00AB_CD00⟩ =
      some (.cpyg hdr { bv := true, bar := 0xABCDE } 0x18AB_0000_1234_5640 0x1000_0000_0765_4300 0x2000_0000_00AB_CD00 200 7) ∧
    decodeTcw ⟨0x001A_BCDE_001B_6926, 0x18AB_0000_1234_5640, 0x1000_0000_0765_4300, 0x0000_0000_0000_0011⟩ =
      some (.fill hdr { bv := true, bar := 0xABCDE } 0x18AB_0000_1234_5640 0x1000_0000_0765_4300 17) := by
  decide

/-- Tile command words laid out by R82, R83 and R345 decode to what they stand for. -/
theorem test_decode_rule :
    decodeTcw ⟨0x00AB_CDEF_001B_6A41, 0x18AB_0000_1234_5640, 0x1000_0000_0765_4300, 0x89AB_CDEF_0100_0000⟩ =
      some (.upd hdr { region := 0x18AB_0000_1234_5640, grad := 0x1000_0000_0765_4300, first := 0xABCDEF, count := 0x1000000, steptag := 0x89ABCDEF, slot := 0 }) ∧
    decodeTcw ⟨0x06AB_CDEF_001B_6A42, 0x18AB_0000_1234_5640, 0x1000_0000_0765_4300, 0x89AB_CDEF_0000_0005⟩ =
      some (.updT hdr { region := 0x18AB_0000_1234_5640, grad := 0x1000_0000_0765_4300, first := 0xABCDEF, count := 5, steptag := 0x89ABCDEF, slot := 6 }) ∧
    decodeTcw ⟨0xB579_2345_001B_6A43, 0x18AB_0000_1234_5640, 0x1000_0000_0765_4300, 0x2000_0000_00AB_CD00⟩ =
      some (.metaBwd hdr 0x18AB_0000_1234_5640 0x1000_0000_0765_4300 0x2000_0000_00AB_CD00 0x12345 0xABC 5) ∧
    decodeTcw ⟨0x00AB_CDEF_001B_6A44, 0x18AB_0000_1234_5640, 0x0000_0000_0100_0000, 0⟩ =
      some (.quarClr hdr 0x18AB_0000_1234_5640 0xABCDEF 0x1000000) ∧
    decodeTcw ⟨0x0000_0005_001B_6A45, 0x18AB_0000_1234_5640, 0, 0⟩ =
      some (.ruleQ hdr 0x18AB_0000_1234_5640 5) := by
  decide

/-- Tile command words laid out by R82, R83 and R381 decode to what they stand for. -/
theorem test_decode_commons_commands :
    decodeTcw ⟨0x00FE_DCBA_001B_6B61, 0x18AB_0000_1234_5640, 0x1000_0000_0765_4300, 0x1122_3344_5566_7788⟩ =
      some (.gseed hdr 0x18AB_0000_1234_5640 0x1000_0000_0765_4300 0xFEDCBA 0x11223344 0x55667788) ∧
    decodeTcw ⟨0x00FE_DCBA_001B_6B62, 0x18AB_0000_1234_5640, 0x1000_0000_0765_4300, 0xFFFF_FFFF_FFFF_FFFE⟩ =
      some (.gdepR hdr 0x18AB_0000_1234_5640 0x1000_0000_0765_4300 0xFEDCBA 0xFFFF_FFFF_FFFF_FFFE) ∧
    decodeTcw ⟨0x0000_0007_001B_6B63, 0x18AB_0000_1234_5640, 0x1000_0000_0765_4300, 0⟩ =
      some (.gread hdr 0x18AB_0000_1234_5640 0x1000_0000_0765_4300 7) ∧
    decodeTcw ⟨0x0000_0296_001B_6B64, 0x18AB_0000_1234_5640, 0, 0⟩ =
      some (.gpace hdr 0x18AB_0000_1234_5640 2 0xA5) := by
  decide

/-- Tile command words laid out by R82, R83 and R316, R317 decode to what they stand for. -/
theorem test_decode_bulk :
    decodeTcw ⟨0x0000_0000_001B_6C81, 0x18AB_0000_1234_5640, 0x1000_0000_0765_4300, 0x001A_BC12_3456_789A⟩ =
      some (.bcpy hdr { bv := false, bar := 0 } 0x18AB_0000_1234_5640 0x1000_0000_0765_4300 0x12_3456_789A 0xABC true) ∧
    decodeTcw ⟨0x001A_BCDE_001B_6C82, 0x18AB_0000_1234_5640, 0x1000_0000_0765_4300, 0x0000_0012_3456_789A⟩ =
      some (.bfill hdr { bv := true, bar := 0xABCDE } 0x18AB_0000_1234_5640 0x1000_0000_0765_4300 0x12_3456_789A) := by
  decide

/-- R83, R84, R316, R317: words that no engine knows: an eop whose engine bits differ from its own; an unassigned eop; reserved header bit 31; a reserved bit of q2 of MZERO; a barrier handle with bv = 0; package bits in BFILL. -/
theorem test_decode_commands_refused :
    decodeTcw ⟨0x0000_0009_0000_0106, 0, 0, 0⟩ = none ∧
    decodeTcw ⟨0x0000_0000_0000_000E, 0, 0, 0⟩ = none ∧
    decodeTcw ⟨0x0000_0000_8000_0006, 0, 0, 0⟩ = none ∧
    decodeTcw ⟨0x0000_0000_0000_0006, 0, 0x0000_0000_0000_0001, 0⟩ = none ∧
    decodeTcw ⟨0x0000_0001_0000_0121, 0x18AB_0000_1234_5640, 0x1000_0000_0765_4300, 0x0000_0000_0000_0010⟩ = none ∧
    decodeTcw ⟨0x0000_0000_0000_0482, 0x18AB_0000_1234_5640, 0x1000_0000_0765_4300, 0x0000_0100_0000_0010⟩ = none := by
  decide

/-- R60, R63 to R78: words that are no instruction: a shift with imm[11:6] = 1; LR with rs2 not 0; JALR with f3 = 1; VAND.I32; VFMA.I32; VSHL.FP32; VRED of kind 3; VSF EXP of FP64; VCVT from FP32 to FP32; VCVT8 of BF16 with group 2; VINS.I32 of lane 4; VROWST with vd 62; NEST.NEXT to x29; JOIN with rd 2; PTAGI with imm[8] set; ENQ to engine 5; FENCE.AQ of scope 5; a vector load of kind 5; a word of zeros; a word of ones. -/
theorem test_decode_words_refused :
    decodeWord 0b000001_000001_00001_001_00001_0010011 = none ∧
    decodeWord 0b00010_0_0_00001_00001_010_00001_0101111 = none ∧
    decodeWord 0b000000000000_00001_001_00001_1100111 = none ∧
    decodeWord 0b1000_010_000011_000010_000001_0101011 = none ∧
    decodeWord 0b0011_010_000011_000010_000001_0101011 = none ∧
    decodeWord 0b1011_110_000011_000010_000001_0101011 = none ∧
    decodeWord 0b0100_110_000011_000010_000001_1011011 = none ∧
    decodeWord 0b0110_111_000011_000010_000001_1011011 = none ∧
    decodeWord 0b0111_110_110_00_0_000010_000001_1011011 = none ∧
    decodeWord 0b1000_0_0_0_010_00_0_000010_000001_1011011 = none ∧
    decodeWord 0b1001_010_000100_0_00001_000001_1011011 = none ∧
    decodeWord 0b1100_110_000000_00_0001_111110_1011011 = none ∧
    decodeWord 0b00000000000000001_110_11101_0001011 = none ∧
    decodeWord 0b00000000000000001_101_00010_0001011 = none ∧
    decodeWord 0b000100000000_00001_010_00001_0001011 = none ∧
    decodeWord 0b0000000_00001_00101_000_00001_1111011 = none ∧
    decodeWord 0b0000010_00000_00000_011_00101_1111011 = none ∧
    decodeWord 0b000001_000000_00001_101_101_00_1111011 = none ∧
    decodeWord 0x00000000 = none ∧
    decodeWord 0xFFFFFFFF = none := by
  decide

/-- The checks of `Instr.wf`, each refusing an ill-formed instruction or command. -/
theorem test_wf_refuses_instructions :
    ([
      .nestNext 29 0,
      .vfma .i32 0 0 0,
      .vfnma .i8 0 0 0,
      .vdiv .i64 0 0 0,
      .vshl .fp32 0 0 0,
      .vshr .bf16 0 0 0,
      .vshra .fp64 0 0 0,
      .vsf .fp64 0 0 .exp,
      .vcvt .fp32 .fp32 0 0 .rne false,
      .vcvt8ToFp8 .e4m3 .bf16 0 0 2 .rne false,
      .vcvt8FromFp8 .e4m3 .fp32 0 0 4,
      .vins .fp64 0 0 2,
      .vext .i32 0 0 4,
      .vrowst 62 0 0 .stats,
      .mmulF hdr { p1 := 0, p3 := 0, m := 1, acc := 0, pair := false, zf := false, chk := false, steps := 1, ncols := 1, stride1 := 0, stride2 := 0, rlimit := 0, climit := 0, sofs := 0 },
      .mmulT hdr { p1 := 0, p3 := 1, m := 1, acc := 0, pair := false, zf := false, chk := false, steps := 0, ncols := 0, stride1 := 0, stride2 := 0, rlimit := 0, climit := 0, sofs := 0 },
      .mouter hdr { p1 := 0, p3 := 0, m := 1, acc := 0, pair := false, zf := false, chk := true, steps := 0, ncols := 0, stride1 := 0, stride2 := 0, rlimit := 0, climit := 0, sofs := 0 },
      .mmulG hdr { p1 := 0, p3 := 0, m := 1, acc := 0, pair := false, zf := false, chk := true, steps := 1, ncols := 0, stride1 := 0, stride2 := 0, rlimit := 0, climit := 0, sofs := 0 },
      .cpy hdr { bv := false, bar := 1 } 0 0 0,
      .fill hdr { bv := false, bar := 1 } 0 0 0,
      .cpy2d hdr { bv := false, bar := 0 } { src := 0, dst := 0, rows := 1, cols := 0, rowlim := 1, collim := 0, sstride := 0, dstride := 0 },
      .cpyt hdr { bv := false, bar := 0 } { src := 0, dst := 0, rows := 256, cols := 0, rowlim := 0, collim := 0, sstride := 0, dstride := 0 },
      .cpys hdr { bv := false, bar := 1 } 0 0 0,
      .cpyg hdr { bv := false, bar := 1 } 0 0 0 0 0,
      .bcpy hdr { bv := false, bar := 1 } 0 0 0 0 false,
      .bfill hdr { bv := false, bar := 1 } 0 0 0,
      .upd hdr { region := 0, grad := 0, first := 0, count := 1, steptag := 0, slot := 1 }] : List Instr).all (fun i => !i.wf) = true := by
  decide

/-- A packet and a host request within their ranges. -/
def pkt : Packet := { region := 0, tag := 0, seq := 0, cell := 0, hw := 0, hs := [] }
def req : HostReq :=
  { lane := 0, seq := 0, ctx := 0, acq := false, addr := 0, len := 8, w2 := 0, w3 := 0, data := [], clean := true }

/-- The checks of `Instr.wf` on events and requests (events). -/
theorem test_wf_refuses_events :
    Instr.wf (.ntIdleDrain 8192 0) = false ∧
    Instr.wf (.ntIdleDrain 0 (2 ^ 50)) = false ∧
    Instr.wf (.gangFormationTimeout (2 ^ 56)) = false ∧
    Instr.wf (.bulkForward 8192) = false ∧
    Instr.wf (.ruleBlockUpdate 1024) = false ∧
    Instr.wf (.ruleActExchange 8 0) = false ∧
    Instr.wf (.ruleActExchange 0 1024) = false ∧
    Instr.wf (.droverExchange 16 0) = false ∧
    Instr.wf (.droverExchange 0 16) = false ∧
    Instr.wf (.droverPacketReceive 16 pkt) = false ∧
    Instr.wf (.droverPacketReceive 0 { pkt with region := 16 }) = false ∧
    Instr.wf (.droverPacketReceive 0 { pkt with cell := 2 ^ 24 }) = false ∧
    Instr.wf (.droverPacketReceive 0 { pkt with hs := List.replicate 31 0 }) = false ∧
    Instr.wf (.escrowResolve 16 0 .applied) = false ∧
    Instr.wf (.escrowReturn 16 0) = false ∧
    Instr.wf (.escrowEarlyResend 16 0) = false ∧
    Instr.wf (.messageDepart 32768) = false ∧
    Instr.wf (.softwareInterrupt 32768) = false ∧
    Instr.wf (.spillReturn 8192 0) = false ∧
    Instr.wf (.spillReturn 0 8) = false ∧
    Instr.wf (.firingStart 8192) = false ∧
    Instr.wf (.convoyGatherEnd 1024 0) = false ∧
    Instr.wf (.convoyGatherEnd 0 4) = false ∧
    Instr.wf (.laneResolve 1024 0) = false ∧
    Instr.wf (.joinWaitAttach 1024) = false ∧
    Instr.wf (.launchEnd 64 0) = false ∧
    Instr.wf (.stallLimitExpiry 64) = false ∧
    Instr.wf (.tsliceExpiry 64) = false ∧
    Instr.wf (.saveDeadlineExpiry 64) = false ∧
    Instr.wf (.hbmRetrainRequest 8) = false ∧
    Instr.wf (.hbmRetrainRun 8) = false := by
  decide

/-- The checks of `Instr.wf` on events and requests (requests). -/
theorem test_wf_refuses_requests :
    Instr.wf (.read { req with lane := 16 }) = false ∧
    Instr.wf (.write { req with ctx := 64 }) = false ∧
    Instr.wf (.writeWc { req with len := 0 }) = false ∧
    Instr.wf (.hostLaunch { req with len := 4097 }) = false ∧
    Instr.wf (.hfence { req with lane := 16 }) = false ∧
    Instr.wf (.setid { req with ctx := 64 }) = false ∧
    Instr.wf (.serviceFence { req with len := 0 }) = false ∧
    Instr.wf (.admitPeer { req with len := 4097 }) = false ∧
    Instr.wf (.limits { req with lane := 16 }) = false ∧
    Instr.wf (.give { req with ctx := 64 }) = false ∧
    Instr.wf (.take { req with len := 0 }) = false ∧
    Instr.wf (.pxmode { req with len := 4097 }) = false ∧
    Instr.wf (.mint { req with lane := 16 }) = false ∧
    Instr.wf (.rulectx { req with ctx := 64 }) = false ∧
    Instr.wf (.clearfail { req with len := 0 }) = false ∧
    Instr.wf (.unfencecore { req with len := 4097 }) = false ∧
    Instr.wf (.stateLastSeq { req with lane := 16 }) = false ∧
    Instr.wf (.stateNextEventSeq { req with ctx := 64 }) = false ∧
    Instr.wf (.stateReplay { req with len := 0 }) = false ∧
    Instr.wf (.stateBootStatus { req with len := 4097 }) = false := by
  decide

/-- The checks of `Instr.wf` on events and requests (links_and_contexts). -/
theorem test_wf_refuses_links_and_contexts :
    Instr.wf (.writeWcPerform 16 0) = false ∧
    Instr.wf (.ucieModuleFailover 4 0) = false ∧
    Instr.wf (.ucieModuleFailover 0 2) = false ∧
    Instr.wf (.linkResendTimeout 16 0) = false ∧
    Instr.wf (.laneLockTimeout 16) = false ∧
    Instr.wf (.linkRestored 16) = false ∧
    Instr.wf (.resyncComplete 16 0 0) = false ∧
    Instr.wf (.fenceIntervalExpiry 4095) = false ∧
    Instr.wf (.cxlLinkFailure 4) = false ∧
    Instr.wf (.thermalThrottle ⟨4, 0⟩ 0) = false ∧
    Instr.wf (.thermalThrottle ⟨0, 4⟩ 0) = false ∧
    Instr.wf (.contextCreate { ctx := 64, caravans := [], mgr := false, test := false, sevd := 0, sevh := 0, plb := [], binds := [] }) = false ∧
    Instr.wf (.contextCreate { ctx := 0, caravans := [1024], mgr := false, test := false, sevd := 0, sevh := 0, plb := [], binds := [] }) = false ∧
    (let c : CtxSpec := { ctx := 0, caravans := [], mgr := false, test := false, sevd := 0, sevh := 0, plb := [], binds := [] }
     Instr.wf (.contextCreate c) = true ∧ Instr.wf (.contextCreate { c with plb := List.replicate 65 0 }) = false ∧
     Instr.wf (.contextCreate { c with binds := List.replicate 9 [] }) = false) := by
  decide

/-! ### States that meet the hypotheses of the statements

The states below are small: slot 0 of core 0 of context 0, a PLB entry with every right, one page of class 0 of 1 GiB at
address 0 whose translation is held, memory with nothing listed. -/

/-- Whether a computation gives a result that satisfies `p`. -/
def gives {ε α : Type} (r : Except ε α) (p : α → Bool) : Bool :=
  match r with
  | .ok x => p x
  | .error _ => false

/-- Whether a computation stops. -/
def stops {ε α : Type} (r : Except ε α) : Bool :=
  match r with
  | .ok _ => false
  | .error _ => true

/-- Whether a step or instruction gives a next state that satisfies `p`. -/
def next (o : Host.Outcome State Fault Refusal) (p : State → Bool) : Bool :=
  match o with
  | .next s => p s
  | .fault _ => false
  | .refused _ => false

/-- A PLB entry of 1 TiB from 0 with every right, and a page of class 0 and 1 GiB from 0, pinned to tile 0 (R170, R174). -/
def allRights : Word := 0x800000000000283F
def page0 : TEntry := { base := 0, log := 30, leaf := 0x20047 }

/-- Slot 0 runs as a stray with two registers set. -/
def base (x1 x2 : Word) : State :=
  { State.reset with
    slots := [(0, { Slot.reset with run := .stray, pc := 0x1000, x := [(1, x1), (2, x2)] })]
    cores := [(0, { Core.reset with ctx := some 0, plb := [(0, allRights)] })]
    cars := [(0, { Caravan.reset with ctx := some 0 })]
    ctxs := [(0, { Ctx.none with live := true, resident := true, caravans := [0] })]
    trans := [(0, page0)]
    boot := { stage := 3, fail := 0, done := 3 } }

/-- The same with slot 0 changed, and with core 0 changed. -/
def baseS (x1 x2 : Word) (f : Slot → Slot) : State := (base x1 x2).modSlot 0 f
def baseC (x1 x2 : Word) (f : Core → Core) : State := (base x1 x2).modCore 0 f

/-- An address in the local window, and one that is in no PLB entry. -/
def win : Word := 0x00FFFFFFFFFF0040
def far : Word := 0x0080000000000040

def rep1 : RepRun := { count := 3, iter := 1, stride := 1, fields := 4 }

theorem wit_commit_clauses :
    ((base 0 0).slot 0).rep = none ∧ (base 0 0).laneOf 0 = none ∧
    ((baseS 0 0 fun sl => { sl with rep := some rep1 }).slot 0).rep = some rep1 ∧ rep1.iter + 1 < rep1.count ∧
    ((baseS 0 0 fun sl => { sl with rep := some { rep1 with iter := 2 } }).slot 0).rep = some { rep1 with iter := 2 } ∧
    ¬ (2 + 1 < rep1.count) := by decide

theorem wit_scalarFrame : Claims.scalarDest (.add 3 1 2) = some 3 ∧ Claims.linkOf (.jal 5 8) = some 5 ∧ Claims.linkOf (.beq 1 2 8) = some 0 := by
  decide

theorem wit_trapEntry :
    0 ≠ stewardSlot ∧ ((base 0 0).slot 0).rep = none ∧ ((base 0 0).slot 0).fresh = false ∧
    ((baseS 0 0 fun sl => { sl with rep := some rep1 }).slot 0).rep = some rep1 := by decide

theorem wit_trappingInstructions :
    ((base 0 0).slot 0).priv = .u ∧ ((baseS 0 0 fun sl => { sl with priv := .s }).slot 0).priv = .s ∧
    ({ State.reset with cur := stewardSlot }.slot stewardSlot).priv = .m ∧
    ((baseS 0 0 fun sl => { sl with pc := 0x1002 }).slot 0).at_.toNat % 4 ≠ 0 ∧
    ((baseS 0 0 fun sl => { sl with pc := 2 ^ 56 }).slot 0).at_.toNat % 4 = 0 ∧
    2 ^ 56 ≤ ((baseS 0 0 fun sl => { sl with pc := 2 ^ 56 }).slot 0).at_.toNat ∧
    Config.windowBase ≤ ((baseS 0 0 fun sl => { sl with pc := win }).slot 0).at_.toNat ∧
    ((baseS 0 0 fun sl => { sl with pc := win }).slot 0).at_.toNat < 2 ^ 56 ∧
    (∀ e, ((baseC 0 0 fun k => { k with plb := [(0, 0x800000000000283B)] }).core 0).plbFind 0x1000 = some e → wbit e 2 = false) := by
  refine ⟨by decide, by decide, by decide, by decide, by decide, by decide, by decide, by decide, ?_⟩
  intro e h
  have : ((baseC 0 0 fun k => { k with plb := [(0, 0x800000000000283B)] }).core 0).plbFind 0x1000 = some 0x800000000000283B := by decide
  rw [this] at h
  injection h with h
  subst h
  decide

theorem wit_returnsAndWaiting :
    let sup := fun (f : Slot → Slot) => (baseS 0 0 fun sl => f { sl with priv := .s }).slot 0
    (sup id).priv ≠ .u ∧ ((base 0 0).slot 0).priv = .u ∧
    wbit (sup fun sl => { sl with sip := 2, sie := 2 }).sip 1 = true ∧ wbit (sup fun sl => { sl with sip := 2, sie := 2 }).sie 1 = true ∧
    (wbit (sup id).sip 1 && wbit (sup id).sie 1) = false ∧
    (base 0 0).cur ≠ stewardSlot ∧ ({ State.reset with cur := stewardSlot }.slot stewardSlot).priv = .m := by decide

theorem wit_csrInstructions :
    (base 1 0).csr 0 0x800 = some 0 ∧ 0x800 / 256 % 4 ≤ ((base 1 0).slot 0).priv.level ∧ 0x800 / 1024 ≠ 3 ∧
    (base 1 0).csr 0 0xCC1 ≠ none ∧ 0xCC1 / 256 % 4 ≤ ((base 1 0).slot 0).priv.level := by decide

theorem wit_csrRefusals :
    (base 1 0).csr 0 0x400 = none ∧ ((base 1 0).slot 0).priv.level < 0x5C0 / 256 % 4 ∧ (0xCC1 : Nat) / 1024 = 3 := by decide

theorem wit_loads :
    Claims.ea (base 0x101 0) 1 0 % 2 ≠ 0 ∧ Claims.ea (base 0x100 0) 1 0 % 8 = 0 ∧
    gives ((base 0x100 0).load 0 0x100 8 false) (fun _ => true) = true ∧ Claims.ea (base far 0) 1 0 % 8 = 0 ∧
    stops ((base far 0).load 0 far.toNat 8 false) = true := by decide +kernel

theorem wit_stores :
    Claims.ea (base 0x101 0) 1 0 % 2 ≠ 0 ∧ Claims.ea (base 0x100 0) 1 0 % 8 = 0 ∧
    gives ((base 0x100 5).store 0 0x100 (bytesOfNat 8 5)) (fun _ => true) = true ∧
    stops ((base far 5).store 0 far.toNat (bytesOfNat 8 5)) = true := by decide +kernel

theorem wit_window :
    isOwn 0 (Claims.ea (base win 0) 1 0) = true ∧ Claims.ea (base win 0) 1 0 % 8 = 0 ∧
    (Instr.sd 1 2 0, 8) ∈ Claims.storeForms 1 2 0 := by decide

theorem wit_noRight : isOwn 0 0x100 = false ∧
    (∀ e, ((baseC 0 0 fun k => { k with plb := [] }).core 0).plbFind 0x100 = some e → wbit e 0 = false ∧ wbit e 1 = false) ∧
    ((base 0 0).core 0).plbFind 0x100 = some allRights := by
  refine ⟨by decide, ?_, by decide⟩
  intro e h
  have : ((baseC 0 0 fun k => { k with plb := [] }).core 0).plbFind 0x100 = none := by decide
  rw [this] at h
  cases h

/-- The L1 of core 0 holds a clean doubleword at 0x100. -/
def hit (x1 x2 : Word) : State :=
  baseC x1 x2 fun k => { k with l1 := [(64, { data := 7, dirty := false, cls := 0, ro := false, way := 0, bad := 0 }),
    (65, { data := 8, dirty := false, cls := 0, ro := false, way := 0, bad := 0 })] }

theorem wit_storeHitsL1 :
    let s := hit 0x100 0x55
    (Instr.sd 1 2 0, 8) ∈ Claims.storeForms 1 2 0 ∧ Claims.ea s 1 0 < Config.windowBase ∧ Claims.ea s 1 0 % 8 = 0 ∧
    (s.core 0).plbFind (Claims.ea s 1 0) = some allRights ∧ wbit allRights 1 = true ∧ (s.l1Line 0 (Claims.ea s 1 0)).map (·.cls) = some 0 ∧
    classRefuses 0 .store (wbit allRights 5) ((sget 0 s.ways 0).toNat.testBit 0) = none ∧ s.l1Hit 0 (Claims.ea s 1 0) 8 = true ∧ (s.core 0).nt = [] ∧
    s.held 0 (Claims.ea s 1 0) = some page0 ∧ (s.l1Set 0 (Claims.ea s 1 0)).length < 4 ∧ next (exec (.sd 1 2 0) s) (fun _ => true) = true := by decide +kernel

theorem wit_loadFrame :
    let s := base 0x100 0
    (Instr.ld 3 1 0, 8) ∈ Claims.loadForms 3 1 0 ∧ Claims.Room s 0 (Claims.ea s 1 0) ∧
    gives (s.load 0 (Claims.ea s 1 0) 8 false) (fun _ => true) = true ∧ next (exec (.ld 3 1 0) s) (fun _ => true) = true ∧
    (s.held 0 (Claims.ea s 1 0)).isSome = true := by
  refine ⟨by decide, Or.inl (by decide), by decide +kernel, by decide +kernel, by decide⟩

/-- A load that walks: no translation is held, and the leaf entry of its page is in memory. -/
theorem wit_loadWalks :
    let s : State := { base 0x100 0 with trans := [], mem := [(0, 1), (1, 0x20), (0x2000, 1), (0x2001, 0x40), (0x4000, 1), (0x4001, 0x60), (0x6000, 0x41), (0x6003, 0x08)] }
    s.leafKey 0x100 = .ok 0x6000 ∧ (s.physFind 0x6000).isSome = false ∧ s.byte 0x6001 = 0 ∧
    gives (s.load 0 0x100 8 false) (fun _ => true) = true := by decide +kernel

theorem wit_atomics :
    let s := base 0x100 9
    0x101 % 8 ≠ 0 ∧ s.earlierMember s.cur (Claims.named 1) = false ∧ gives (s.release 0 .package) (fun _ => true) = true ∧
    gives (s.rmw 0 0x100 8 .amo fun v => some ((v + 9) % 2 ^ 64)) (fun x => x.1 == 0) = true ∧
    gives (s.readHome 0 0x100 8 .lr) (fun _ => true) = true ∧ gives (s.rmw 0 0x100 8 .sc fun _ => none) (fun _ => true) = true := by decide +kernel

theorem wit_amoAtHome :
    let s := base 0x100 9
    (s.core 0).plbFind 0x100 = some allRights ∧ wbit allRights 0 = true ∧ wbit allRights 1 = true ∧ s.held 0 0x100 = some page0 ∧
    leafClass page0.leaf = 0 ∧ s.poison = [] ∧ s.cxlDown = [] ∧ (s.core 0).nt = [] ∧ (s.core (s.l1Home 0 0x100)).l1 = [] ∧
    s.earlierMember s.cur (Claims.named 1) = false ∧ sget [] s.l2 (0x100 / 256) = [] ∧ (s.l2Set (0x100 / 256)).length < 4 := by decide

theorem wit_scInWindow :
    let s := base win 9
    isOwn 0 win.toNat = true ∧ win.toNat % 8 = 0 ∧ s.earlierMember s.cur (Claims.named 1) = false ∧ sfind s.resv s.cur = none ∧
    sfind { s with resv := [(0, (place 0 win.toNat, 8))] }.resv s.cur = some (place 0 win.toNat, 8) := by decide

/-- A dirty word that no translation covers: a release of package scope fails at it (R184). -/
def stuck (x1 x2 : Word) : State := baseC x1 x2 fun k => { k with l1 := [(2 ^ 40, { data := 1, dirty := true, cls := 0, ro := false, way := 0, bad := 0 })] }

theorem wit_fences :
    gives ((base 0 0).release 0 .package) (fun _ => true) = true ∧ stops ((stuck 0 0).release 0 .package) = true ∧
    gives ((base 0 0).release 0 .die) (fun _ => true) = true ∧
    gives ((base 0x100 5).writeHome 0 0x100 (bytesOfNat 8 5) .store) (fun _ => true) = true := by decide +kernel

theorem wit_lineControl :
    isOwn 0 win.toNat = true ∧ isOwn 0 0x100 = false ∧ ((base 0 0).core 0).plbFind 0x100 = some allRights ∧
    gives ((base 0 0).wtRange 0 0x100 32) (fun _ => true) = true := by decide +kernel

/-- An idle entry of the non-temporal buffer. -/
def ntEntry : NtEntry := { line := 4, bytes := [(0, 1)], last := 0 }

theorem wit_nonTemporal :
    let s := base 0x100 5
    0x101 % 8 ≠ 0 ∧ s.l1Line 0 0x100 = none ∧ gives (s.checkHome 0 0x100 .store) (fun _ => true) = true ∧
    gives (s.wtRange 0 0x100 32) (fun v => gives ((v.dropRange 0 0x100 32).ntPut 0 0x100 (bytesOfNat 8 5)) fun _ => true) = true ∧
    (let t := { baseC 0 0 (fun k => { k with nt := [ntEntry] }) with cycle := 256 }
     ((t.core 0).nt.find? fun e => e.line == 4 && decide (e.last + 256 ≤ t.cycle)) = some ntEntry ∧
     gives (t.drainNt 0 ntEntry) (fun _ => true) = true) := by decide +kernel

/-! ### Vector, prefix and convoy statements -/

/-- Port 0 is bound and empty, or holds one element; v1 and v2 are plain registers. -/
def bindS (els : List VWord) : Slot :=
  (baseS 0 0 fun sl => { sl with sbind := 8, ports := [(0, els)], v := [(1, 5), (2, 7)] }).slot 0

theorem wit_vectorLanes :
    (bindS []).vsrc 1 = some 5 ∧ (bindS []).vsrc 2 = some 7 ∧ (bindS []).bound 60 = true ∧ (bindS []).bound 3 = false ∧
    (bindS []).vsrc 60 = none ∧ (bindS [9]).vsrc 60 = some 9 ∧ fmtOf .fp32 ≠ none ∧ fmtOf .i8 = none ∧ ElemTy.i8.isFloat = false := by decide

theorem wit_vectorCompareNan :
    ∃ F, fmtOf .fp32 = some F ∧ ((F.value 0x7FC00000).isNan || (F.value 0).isNan) = true := ⟨_, rfl, by decide⟩

theorem wit_vectorOtherTypes : (8 : BitVec 4) = 8 ∧ (0 : BitVec 3) ≠ 3 ∧ 3 < (4 : BitVec 3).toNat := by decide

theorem wit_vectorMoves : (0 : BitVec 6).toNat < ElemTy.i64.lanes ∧ (0 : BitVec 3).toNat < WideKind.fp32.groups ∧ fmtOf .fp16 ≠ none := by decide

theorem wit_vectorFrame : next (exec (.vadd .i32 3 1 2) (base 0 0)) (fun _ => true) = true := by decide +kernel

/-- Pointers with format codes 14 (reserved for VLD), 0, 15 and one with a block length that code 0 does not have. -/
theorem wit_vectorMemory :
    let tag := fun (p : Word) => (tagOk (wbits p 63 59) (wbits p 58 56), wbits p 63 59)
    tag 0x7000000000000100 = (true, 14) ∧ tag 0x100 = (true, 0) ∧ tag 0x7800000000000110 = (true, 15) ∧ tag 0x0100000000000100 = (false, 0) ∧
    vldbBytes 0 = 8 ∧ 0x108 % 16 ≠ 0 ∧ 0x110 % 32 ≠ 0 ∧ 13 < 14 ∧
    gives ((base 0 0).load 0 0x100 16 true) (fun _ => true) = true ∧ gives ((base 0 0).load 0 0x100 8 false) (fun _ => true) = true ∧
    gives ((base 0 0).store 0 0x100 (bytesOfNat 16 7)) (fun _ => true) = true ∧ isOwn 0 win.toNat = true ∧ win.toNat % 16 = 0 ∧
    isOwn 0 0x110 = false ∧ (base 0 0).l1Line 0 0x110 = none ∧ gives ((base 0 0).checkHome 0 0x110 .store) (fun x =>
      gives (x.2.wtRange 0 0x100 32) fun v => gives ((v.dropRange 0 0x100 32).ntPut 0 0x110 (bytesOfNat 16 7)) fun _ => true) = true := by
  decide +kernel

/-- A repeat prefix at 0x1000, with a given word after it: ADDI x1, x1, 1; JAL; a word that is no instruction; LUI. -/
def preS (w : BitVec 32) (x1 : Word) : State :=
  { base x1 0 with cars := [(0, { Caravan.reset with ctx := some 0, ic := [(0x401, w)] })] }
def addi11 : BitVec 32 := 0x00108093

theorem wit_repeatPrefix :
    let s := preS addi11 0
    let sel := (fieldsOf addi11).selected 4
    let past := fun (n : Nat) => sel.any fun f => match f with
      | some f => decide (f.limit < f.num addi11 + 1 * (n - 1))
      | none => false
    gives (s.fetchAt 0 0x1004) (fun x => decide (x = (addi11, s))) = true ∧ decodeWord addi11 ≠ none ∧ noRepeat addi11 = false ∧
    sel.any Option.isNone = false ∧ (s.slot 0).fresh = false ∧ past 3 = false ∧ past 32 = true ∧ past 31 = false := by decide +kernel

/-- A prefix as the first instruction after a return, with a repetition of 5 of which 2 are done; and words before which no
prefix may stand. -/
theorem wit_repeatResumes :
    let o := (baseS 0 0 fun sl => { sl with fresh := true, repst := 0x8000000000005002 }).slot 0
    (o.fresh && wbit o.repst 63) = true ∧ wbits o.repst 23 12 = 5 ∧ wbits o.repst 11 0 = 2 ∧
    systemWord 0x00000073 = true ∧ systemWord 0x0000607B = true ∧ systemWord 0 = false := by decide

theorem wit_repeatPrefixOfRep : Claims.xs (preS addi11 5000) 1 = 5000 ∧ 4095 < 5000 := by decide

theorem wit_repeatRefusals :
    let word := fun (w : BitVec 32) => gives ((preS w 0).fetchAt 0 0x1004) fun x => decide (x = (w, preS w 0))
    word 0 = true ∧ decodeWord 0 = none ∧ word 0x0000006F = true ∧ decodeWord 0x6F ≠ none ∧ noRepeat 0x6F = true ∧
    word 0x000000B7 = true ∧ decodeWord 0xB7 ≠ none ∧ ((fieldsOf 0xB7).selected 1).any Option.isNone = true := by decide +kernel

/-- A nest of 2 x 3 x 4 x 5 iterations, 2 participants, chunks of at least 4, counter at 0x200 (R134). -/
def nest1 : BitVec 256 := 0x0000_0002_00000004_00000005_00000004_00000003_00000002_0000000000000200
def nestS (d : BitVec 256) (st : Word) (n : Nat) : State :=
  { baseS 0x100 0 (fun sl => { sl with nestDesc := d, nestst := st }) with
    mem := ((bytesOfNat 32 d.toNat).zipIdx.filter (fun x => x.1 ≠ 0)).map (fun x => (0x100 + x.2, x.1)) ++ (if n = 0 then [] else [(0x200, BitVec.ofNat 8 n)]) }

theorem wit_nestSet :
    let s := nestS nest1 0 0
    0x110 % 32 ≠ 0 ∧ gives (s.load 0 0x100 32 false) (fun x => decide (BitVec.ofNat 256 (natOfBytes x.1) = nest1)) = true ∧
    nestFault nest1 = none ∧ nestFault 0 = some 4 ∧ nestTotal nest1 = 120 ∧
    nestFault (nest1 + (1 <<< 240)) = some 7 ∧ gives (s.load 0 0x300 32 false) (fun x => decide (natOfBytes x.1 = 0)) = true := by decide +kernel

theorem wit_nestStatNext :
    let s := nestS nest1 0x80000000 0
    let t := nestS nest1 0x80000000 120
    wbit (0 : Word) 31 = false ∧ wbit (0x80000000 : Word) 31 = true ∧ nestCtr nest1 = 0x200 ∧
    gives (s.readHome 0 0x200 8 .load) (fun _ => true) = true ∧ wbits (0x0000000380000000 : Word) 62 32 = 3 ∧ s.earlierMember 0 (fun _ => some 0x200) = false ∧
    gives (s.rmw 0 0x200 8 .amo fun n => if nestTotal nest1 ≤ n then none else some (n + nestChunk nest1 n))
      (fun x => decide (nestChunk nest1 x.1 ≠ 0 ∧ x.2.slot x.2.cur = s.slot 0)) = true ∧
    gives (t.rmw 0 0x200 8 .amo fun n => if nestTotal nest1 ≤ n then none else some (n + nestChunk nest1 n))
      (fun x => decide (nestChunk nest1 x.1 = 0)) = true ∧
    nestTotal nest1 ≤ 120 ∧ 119 < nestTotal nest1 ∧ ((s.slot 0).at_ + (((4 : BitVec 17)).signExtend 64 <<< 2)).toNat % 4 = 0 := by decide +kernel

/-- A member of a lane that has issued one instruction. -/
def member1 (id slot : Nat) (sync : Option Nat) : Member := { id, index := id, slot, seq := 1, iter := 0, sync, go := false }

/-- A lane with two members, slots 0 and 4. -/
def lane1 : Lane :=
  { start := 0x1000, opened := 0, gather := false, nextSeq := 1, nextPc := none, stream := [(0, { pc := 0x1000, word := some 0x00000063, members := [0, 1] })],
    members := [member1 0 0 none, member1 1 4 none], nextId := 2,
    pending := some { seq := 0, concerned := [0, 1] }, chosen := [], sync := none }
def laneS (l : Lane) : State :=
  { State.reset with
    cycle := 16
    slots := [(0, { Slot.reset with run := .attached 1, pc := 0x1008 }), (4, { Slot.reset with run := .attached 1, pc := 0x1004 })]
    cars := [(0, { Caravan.reset with lanes := [(1, l)] })] }
def lanesFull : State := { base 0 0 with cars := [(0, { Caravan.reset with lanes := (List.range 4).map fun i => (i, { lane1 with start := i, members := [] }) })] }

theorem wit_join :
    let o := base 0 0
    let here : State := { o with cars := [(0, { Caravan.reset with lanes := [(0, { lane1 with nextPc := some 0x1010 })] })] }
    (o.laneOf 0) = none ∧ (o.slot 0).priv = .u ∧ ((laneS lane1).laneOf 0).isSome = true ∧ (o.convoyAt 0 0x1010) = none ∧
    o.freeLane 0 = some 0 ∧ ((o.joiners 0).any fun e => decide (e.2 < 0x1010)) = false ∧ (here.convoyAt 0 0x1010).isSome = true ∧
    ((lanesFull.slot 0).run = .stray ∧ lanesFull.laneOf 0 = none ∧ lanesFull.freeLane 0 = none ∧ lanesFull.convoyAt 0 0x1010 = none) ∧
    (({ o with slots := sset o.slots 5 { Slot.reset with run := .joinWait 0x100 } }.joiners 0).any fun e => decide (e.2 < 0x1010)) = true := by
  decide +kernel

theorem wit_cvstat :
    (laneS lane1).laneOf 0 = some (1, lane1, member1 0 0 none) ∧ (∀ x ∈ lane1.members, lane1.maxSeq ≤ x.seq + 32) ∧
    lane1.members.foldl (fun a x => a + 2 ^ x.index) 0 = 3 := by decide

/-- A member that has issued a CVSYNC which the other one has not waits at it. -/
theorem wit_cvsync :
    (laneS { lane1 with members := [member1 0 0 (some 0), { member1 1 4 none with seq := 0 }] }).syncHeld 0 = true ∧
    ((laneS lane1).slot 0).rep = none ∧ (laneS lane1).syncHeld 4 = false := by decide

theorem wit_convoyEvents :
    let s := laneS lane1
    sfind (s.car 0).lanes 1 = some lane1 ∧ lane1.opened + 16 ≤ s.cycle ∧ lane1.resolved = some (0, lane1.members) ∧ lane1.sync = none ∧
    (let j : State := { s with slots := sset s.slots 8 { Slot.reset with run := .joinWait 0x2000 } }
     j.joiners 0 = [(8, 0x2000)] ∧ (j.slot 8).mismatch ≠ 2 ∧ j.convoyAt 0 0x2000 = none ∧ j.freeLane 0 = some 0) := by decide

/-! ### Firings, launches, engine queues, barriers -/

/-- An inbox record in memory at 0x100 (R209): flags, low handler, high handler, zero. -/
def recS (x1 x2 flags lo hi : Word) : State :=
  { base x1 x2 with
    mem := (((bytesOfNat 8 flags.toNat) ++ (bytesOfNat 8 lo.toNat) ++ (bytesOfNat 8 hi.toNat)).zipIdx.filter fun x => x.1 ≠ 0).map
      fun x => (0x100 + x.2, x.1) }

theorem wit_hbindQctl :
    let record := fun (s : State) (p : Except Nat QAttr → Bool) => gives (s.load 0 0x100 32 false) fun x => p (bindRecord x.1)
    record (recS 7 0x100 0x811 0x1000 0x2000) (fun r => gives r fun _ => true) = true ∧
    record (recS 7 0x100 0 0x1000 0x2000) (fun r => stops r) = true ∧
    7 < (Claims.xs (base 8 0) 1).toNat ∧ 0x110 % 32 ≠ 0 ∧ wbits (0x100 : Word) 63 8 ≠ 0 ∧ wbits (2 : Word) 63 1 ≠ 0 ∧
    wbits (0xFF : Word) 63 8 = 0 ∧ wbits (1 : Word) 63 1 = 0 := by decide +kernel

/-- A destination in this package, queue 2 of core 3, and one of mode 2. -/
def toQueue : Word := 0x2000003400000000
def toCore : Word := 0xA000003000000000

def msg1 : Msg := { words := [0x1000, 2, 3, 4, 5, 6, 7, 8], stage := 0, src := 0, fid := 0, ctx := 0, launch := none, replay := false }
def flight1 : Flight := { Flight.plain toQueue msg1 false with released := false }
def bufS (n : Nat) : State := baseS toQueue toCore fun sl => { sl with buf := List.replicate n flight1 }

theorem wit_send :
    destOk toQueue false = true ∧ destOk toQueue true = false ∧ destOk toCore true = true ∧ destOk toCore false = false ∧
    ((bufS 0).slot 0).buf.length < 64 ∧ 64 ≤ ((bufS 64).slot 0).buf.length ∧ (∀ f ∈ ((bufS 64).slot 0).buf, f.released = false) ∧
    (∀ j, j < 4 → ((bufS 0).slot 0).bound (4 * (0 : BitVec 4).toNat + j) = false) := by decide

/-- A state with one message at a core of the context, whose inbox and spill area are as given. -/
def mailS (attr : QAttr) (inb sp : List Msg) (f : Flight) : State :=
  { base 0 0 with
    cores := [(3, { Core.reset with ctx := some 0, qattr := [(2, attr)], inbox := [(2, inb)], spill := [(2, sp)] })]
    toDest := [f] }
def attr1 : QAttr := { QAttr.unbound with lo := 0x1000, hi := 0x2000, en := true, bound := true }

theorem wit_messageDepart :
    let s := baseS 0 0 fun sl => { sl with buf := [{ flight1 with released := true }] }
    (s.slot 0).buf = { flight1 with released := true } :: [] ∧ s.toSeq = [] ∧ s.remoteFull { flight1 with released := true } = false ∧
    s.departFault toQueue = none ∧ destMode toQueue = 0 ∧ s.isLocal toQueue = true := by decide

theorem wit_messageArrive :
    let s := mailS attr1 [] [] flight1
    s.toDest[0]? = some flight1 ∧ destMode toQueue ≠ 2 ∧ s.behind 0 flight1 = false ∧ (s.ctx 0).caravans.contains (3 / 8) = true ∧
    s.present 0 3 = true ∧ destQueue toQueue = 2 ∧ flight1.target = 3 ∧ ((s.core 3).queueAttr 2) = attr1 ∧ attr1.lo ≤ 0x1000 ∧ 0x1000 < attr1.hi ∧
    (s.core 3).fenced = false ∧ sget [] (s.core 3).spill 2 = [] ∧ (sget [] (s.core 3).inbox 2).length < 16 ∧
    16 ≤ (sget [] ((mailS attr1 (List.replicate 16 msg1) [] flight1).core 3).inbox 2).length ∧
    (let t := s.modCtx 0 fun c => { c with pages := [(3, 1)] }
     decide (t.spilled 0 3 < 1024 * sget 0 (t.ctx 0).pages 3) = true ∧ decide (s.spilled 0 3 < 1024 * sget 0 (s.ctx 0).pages 3) = false ∧
     ({ s with cores := [] } : State).present 0 3 = false) ∧
    ((mailS QAttr.unbound [] [] flight1).core 3).queueAttr 2 = QAttr.unbound ∧ 0x2000 ≤ 0x2000 ∧ 0xFFC < attr1.lo := by decide

/-- Whether a frame is free is open (log 77): where none is, a message that needs one waits. -/
theorem wit_noFrame (h : Config.frameFree 0 = false) : ((mailS attr1 (List.replicate 16 msg1) [] flight1).takeFrame 0 none).1 = false := by
  show (if Config.frameFree 0 then _ else _ : Bool × State).1 = false
  rw [h]
  rfl

theorem wit_spillReturn :
    let s := mailS attr1 [] [msg1] flight1
    sget [] (s.core 3).spill 2 = [msg1] ∧ (s.core 3).fenced = false ∧ (sget [] (s.core 3).inbox 2).length < 16 := by decide

/-- Stage 0 placed on die 0, tiles (0,0) to (1,1), all cores of a caravan; a stage-relative destination with offset 0. -/
def place1 : Placement := { dies := 1, ty0 := 0, tx0 := 0, h := 1, w := 1, cores := 0xFF }
def toStage : Word := 0x6000000400000000
def stageS (m : Sparse Placement) : State :=
  { base 0 0 with ctxs := [(0, { Ctx.none with live := true, resident := true, caravans := [0], stageMap := m })]
                  toSeq := [Flight.plain toStage msg1 false] }

theorem wit_stageResolve :
    let f := Flight.plain toStage msg1 false
    (stageS [(0, place1)]).toSeq[0]? = some f ∧ (stageS [(0, place1)]).resolveStage f = some 0 ∧ (stageS []).resolveStage f = none ∧
    sfind ((stageS [(0, place1)]).ctx 0).stageMap 0 = some place1 ∧ destDs toStage = 0 ∧ place1.dies.testBit 0 = true ∧
    place1.cores.testBit 0 = true := by decide

theorem wit_firingStart :
    let s := mailS attr1 [msg1] [] flight1
    (s.core 3).fenced = false ∧ (s.core 3).ctx.isSome = true ∧ s.stopped 3 = false ∧ s.nextQueue 3 = some 2 ∧ s.idleSlot 3 = some 12 ∧
    (sget [] (s.core 3).inbox 2).take ((s.core 3).queueAttr 2).count = msg1 :: [] ∧ msg1.words.length = 8 := by decide

theorem wit_signals : 3 < (Claims.xs (base 4 0) 1).toNat ∧ (Claims.xs (base 3 0) 1).toNat ≤ 3 ∧
    gives ((base 3 0).release 0 .package) (fun _ => true) = true := by decide +kernel

/-- A launch record on core 0: handler, placement word with mask clearing, entry words (R224). -/
def words1 : List Word := [0x1000, 0x0000000000100001, 0, 0, 0, 0, 0, 0, 0, 0, 0, 0, 5, 0, 0, 0]
def record1 : LRec := { words := words1, id := 9, ccont := 0, core := none, lane := 0, stage := 0, order := 0, headAt := 0 }
def run1 : Running := { record := record1, pending := 0, running := 0, refused := 0, killed := 0, ended := none }
def launchS : State :=
  { base 0 0 with ctxs := [(0, { Ctx.none with live := true, resident := true, caravans := [0], queues := [(3, [record1])], launches := [run1] })] }

theorem wit_launchEvents :
    launchS.dispAt ≤ launchS.cycle ∧ ({ launchS with dispAt := 1 } : State).cycle < 1 ∧
    firstOf (fun i => let c := (launchS.lastDisp + 1 + i) % 64; (launchS.chosenHead c).map fun h => (c, h)) (List.range 64) = some (0, 3, record1) ∧
    wbit (words1.getD 1 0) 36 = false ∧ record1.fuse = false ∧
    (launchS.ctx 0).launches.find? (fun r => r.record.id == 9 && r.pending == 0 && r.running == 0) = some run1 := by decide +kernel

/-- Memory at 0x100 holds a record's placement word. -/
def recordS (w1 : Word) : State :=
  { base 0x100 2 with mem := ((bytesOfNat 8 w1.toNat).zipIdx.filter fun x => x.1 ≠ 0).map fun x => (0x108 + x.2, x.1) }

theorem wit_launch :
    let loaded := fun (s : State) (p : List Word → State → Bool) => gives (s.release 0 .package) fun u =>
      gives (Act.loadRecord 0x100 128 u) fun x => p (wordsOf 16 x.1) x.2
    7 < (Claims.xs (base 0x100 8) 2).toNat ∧ 0x140 % 128 ≠ 0 ∧
    loaded (recordS 0) (fun ws _ => recordBad ws) = true ∧
    loaded (recordS 0x100001) (fun ws t => !recordBad ws && t.assigned (t.ctxOf t.cur) (placementOf (ws.getD 1 0)) &&
      decide ((sget [] (t.ctx (t.ctxOf t.cur)).queues 2).length < 64)) = true ∧
    loaded (recordS 0x100101) (fun ws t => !recordBad ws && !t.assigned (t.ctxOf t.cur) (placementOf (ws.getD 1 0))) = true := by
  decide +kernel

/-- A stash of one unit of 64 KiB, of which `used` bytes are handed out (R304). -/
def stashS (used : Nat) (x1 : Word) : State := baseC x1 0 fun k => { k with stash := 0x0100000000100000, used }

theorem wit_stash :
    let s := stashS 0x100 0x10
    let k := s.core 0
    (0x10 : Word) ≠ 0 ∧ wbits k.stash 63 56 * 65536 ≠ 0 ∧ k.used + (0x10 + 255) / 256 * 256 ≤ wbits k.stash 63 56 * 65536 ∧
    wbits (0 : Word) 63 56 * 65536 = 0 ∧ wbits k.stash 63 56 * 65536 < ((stashS 0xFF80 0x10).core 0).used + 0x100 := by decide

/-- A queued command of slot 0, and command words in v2 and v3 for the copy engine. -/
def cmdW (q0 q1 q2 q3 : Word) : Cmd :=
  newCmd { q0, q1, q2, q3 } 0 (.loc 0) 0 0 0 0 0 0 0
def enqS (e : Word) (n : Nat) : State :=
  { baseC 0 0 (fun k => { k with queues := [(0, List.replicate n (cmdW 0 0 0 0))] }) with
    slots := [(0, { Slot.reset with run := .stray, pc := 0x1000, x := [(1, 0x100)], v := [(2, (e <<< 8).setWidth 128)] })] }

theorem wit_enq :
    let s := enqS 0 0
    let pair := fun (s : State) => tcwOfPair ((s.slot 0).vr 2) ((s.slot 0).vr 3)
    (s.slot 0).bound 2 = false ∧ (s.slot 0).bound 3 = false ∧ (pair (enqS 4 0)).engine ≠ 0 ∧ (pair s).engine = 0 ∧
    gives (s.release 0 .package) (fun t => decide (((t.core (t.cur / 4)).queue 0).length < 2 ∧ t.slot t.cur = s.slot 0)) = true ∧
    gives ((enqS 0 2).release 0 .package) (fun t => decide (2 ≤ ((t.core (t.cur / 4)).queue 0).length)) = true ∧
    0x110 % 32 ≠ 0 ∧ gives (s.load 0 0x100 32 false) (fun x => (tcwOfBytes x.1).engine == 0 &&
      gives (x.2.release (x.2.cur / 4) .package) fun t => decide (((t.core (t.cur / 4)).queue 0).length < 2)) = true := by decide +kernel

theorem wit_enqmOther : gives ((enqS 0 0).load 0 0x100 32 false) (fun x => decide ((tcwOfBytes x.1).engine ≠ 4)) = true := by decide +kernel

theorem wit_eqwait :
    (enqS 0 1).outstanding 0 0 ≠ [] ∧ (enqS 0 0).outstanding 0 0 = [] ∧ sget [] ((enqS 0 0).slot 0).pend 0 = [] ∧
    sget [] ((baseS 0 0 fun sl => { sl with pend := [(0, [2])] }).slot 0).pend 0 = [2] ∧
    (baseS 0 0 fun sl => { sl with pend := [(0, [2])] }).outstanding 0 0 = [] := by decide

/-- A capability of context 0 for core 3 and the bulk engines (4), with its check code (R220). -/
def capHi : Nat := 0x10000003
def cap1 : Word := wordOfNat (capHi * 65536 + (Config.checkCode 0 capHi).toNat)
def remoteCmd1 : Flight :=
  { Flight.plain 0xA000003000000000 { msg1 with words := [0x400, 0, 0, 0, 0, 0, 0, 0] } false with cap := some cap1 }
def remoteS (n : Nat) (f : Flight) : State :=
  { base 0 0 with cores := [(3, { Core.reset with ctx := some 0, remotes := [(4, List.replicate n (cmdW 0 0 0 0))] })], toDest := [f] }

theorem wit_capOk : capOk 0 cap1 3 4 = true := by
  have hb := (Config.checkCode 0 capHi).isLt
  have hn : cap1.toNat = 0x10000003 * 65536 + (Config.checkCode 0 capHi).toNat := by
    simp only [cap1, wordOfNat, capHi, BitVec.toNat_ofNat] at *
    omega
  have h1 : wbits cap1 63 16 = capHi := by simp only [wbits, bitsOf, hn, capHi]; omega
  have h2 : wbits cap1 63 48 = 0 ∧ wbits cap1 47 45 = 0 ∧ wbits cap1 39 29 = 0 ∧ wbits cap1 28 16 = 3 := by
    simp only [wbits, bitsOf, hn]; omega
  have h3 : wbit cap1 (40 + 4) = true := by
    rw [wbit, hn, Nat.testBit_eq_decide_div_mod_eq, decide_eq_true_eq]; omega
  have h4 : Config.checkCode 0 capHi = cap1.extractLsb' 0 16 := by
    apply BitVec.eq_of_toNat_eq
    rw [BitVec.extractLsb'_toNat, hn]
    simp only [Nat.shiftRight_zero]
    omega
  rw [capOk, h1, h2.1, h2.2.1, h2.2.2.1, h2.2.2.2, h3, ← h4]
  simp

theorem wit_remoteCommand :
    let s := remoteS 0 remoteCmd1
    s.toDest[0]? = some remoteCmd1 ∧ destMode remoteCmd1.dest = 2 ∧ s.behind 0 remoteCmd1 = false ∧
    (s.ctx 0).caravans.contains (remoteCmd1.target / 8) = true ∧ s.present 0 remoteCmd1.target = true ∧ remoteCmd1.target = 3 ∧
    (tcwOfMessage remoteCmd1.msg.words).engine = 4 ∧ ((s.core 3).remote 4).length < 4 ∧ 4 ≤ (((remoteS 4 remoteCmd1).core 3).remote 4).length :=
  ⟨rfl, by decide, by decide, by decide, by decide, by decide, by decide, by decide, by decide⟩

theorem wit_capBad : capOk 0 0 3 4 = false := by
  simp [capOk]
  decide

/-- The barrier in the window at offset 0, x1 the handle, x2 a count or phase; `b` is its value. -/
def barS (x1 x2 : Word) (b : Bar) (w : Wait) : State :=
  let s := baseS x1 x2 fun sl => { sl with bwin := wordOfNat Config.windowBase, wait := w }
  s.putBar (.loc 0) Config.windowBase b
def bar1 : Bar := { arrivals := 1, expected := 1, bytes := 0, phase := 0, high := 0 }

theorem wit_barriers :
    let s := barS 0 1 bar1 .none
    let a := Config.windowBase
    0xFFFFF0 < (0xFFFFF1 : Word).toNat ∧ (8 : Word).toNat % 16 ≠ 0 ∧ ((barS 0 1 bar1 .released).slot 0).wait = .released ∧
    gives (Act.barSite 1 s) (fun x => decide (x = ((a, .loc 0), s))) = true ∧ s.bar (.loc 0) a = bar1 ∧
    gives (s.release 0 (scopeOf (wbits (s.slot 0).dscope 2 0))) (fun v => decide (v.cur = 0 ∧ (v.bar (.loc 0) a).arrivals ≠ 0)) = true ∧
    gives ((barS 0 1 { bar1 with arrivals := 0 } .none).release 0 .package) (fun v => decide ((v.bar (.loc 0) a).arrivals = 0)) = true ∧
    2 ^ 27 ≤ (0x8000000 : Word).toNat ∧ (s.bar (.loc 0) a).count + 1 < (2 ^ 27 : Int) ∧ bar1.phase ≠ wbits (1 : Word) 3 0 ∧
    bar1.phase = wbits (0 : Word) 3 0 := by decide +kernel

theorem wit_barrierCompletion :
    let l : Landing := { counts := true, peer := none, bar := Config.windowBase, dst := 0, bytes := 4, core := 0, engine := 4, issuer := .loc 0, ticket := 0 }
    let s : State := { barS 0 1 { bar1 with bytes := 8 } (.barrier (place 0 Config.windowBase)) with landings := [l] }
    s.landings[0]? = some l ∧ l.bar = Config.windowBase ∧ (s.slot 0).wait = .barrier (place 0 Config.windowBase) ∧
    l.peer = none ∧ l.counts = true ∧ { l with counts := false }.counts = false ∧ { l with peer := some 9 }.peer.isSome = true ∧
    (0 : Int) ≤ (({ s with landings := [] } : State).bar (.loc 0) l.bar).count - l.bytes + 2 ^ 27 := by decide +kernel

/-! ### Engine commands

A command of engine `e` of core 0 runs; operands lie in the page at 0, which reads as zeros. -/

def selE (e : Nat) : EngSel := { core := 0, engine := e, issuer := .loc 0, bulk := none }
def engS (e : Nat) (c : Cmd) : State := { baseC 0 0 (fun k => { k with running := [(e, [c])] }) with eng := some (selE e) }
def cmdE (e : Nat) : Cmd := cmdW (wordOfNat (e * 256)) 0 0 0
def hdr0 : TcwHdr := { prio := 0, cmsg := false, cq := 0, rm := .rne, ov := false }

/-- A step of an engine that gives a result satisfying `p` and changes nothing. -/
def reads {α : Type} (m : Eng α) (s : State) (c : Cmd) (p : α → Bool) : Bool :=
  gives (m (Claims.at_ s c)) fun x => p x.1 && decide (x.2.st = s ∧ x.2.cmd = c)

/-- The sectors that a step addresses are all there. -/
def there (spans : List (Nat × Nat)) (s : State) (c : Cmd) : Bool := reads (Eng.fetch spans) s c fun _ => true

/-- A step of an engine that gives a result. -/
def runs {α : Type} (m : Eng α) (s : State) (c : Cmd) (p : α → EngSt → Bool) : Bool := gives (m (Claims.at_ s c)) fun x => p x.1 x.2

theorem wit_engine : (engS 0 (cmdE 0)).eng = some (selE 0) ∧ (engS 0 (cmdE 0)).selCmd (selE 0) = some (cmdE 0) := by decide

/-- FP32 at 0x1000, FP64, BF16, and a pointer whose tag is illegal. -/
def pF32 : Word := 0x1000000000001000
def pF64 : Word := 0x0800000000001000
def pBf16 : Word := 0x1800000000001000
def pBad : Word := 0x0100000000001000

theorem wit_accumulatorCommands :
    let s := engS 0 (cmdE 0)
    tagOk (ptrCode pBad) (ptrBl pBad) = false ∧ tagOk (ptrCode pF32) (ptrBl pF32) = true ∧ ptrCode pF32 = 2 ∧
    (!accShapeBad 1 0 128 false) = true ∧ there [(va pF32, 4)] s (cmdE 0) = true ∧
    runs (Eng.read (va pF32) 4) s (cmdE 0) (fun _ e => (e.st.core 0).errAcc.isEmpty) = true ∧ (s.core 0).errAcc = [] ∧
    runs (Eng.write (va pF32) (bytesOfNat 8 1)) s (cmdE 0) (fun _ _ => true) = true ∧ va pF32 % 32 = 0 ∧
    (∀ t ∈ [0], t ∉ (s.core 0).chkBad) ∧ (∃ t ∈ [0], t ∈ ((baseC 0 0 fun k => { k with chkBad := [0] }).core 0).chkBad) ∧
    accShapeBad 1 0 128 true = false ∧ accShapeBad 1 0 64 true = false ∧ moveFmt (ptrCode pF64) true = some .fp64 ∧
    moveFmt (ptrCode pBf16) false = some .bf16 ∧ moveFmt (ptrCode pBf16) true = some .bf16 ∧
    there [(va pBf16, 2)] s (cmdE 0) = true ∧ runs ((List.range 1).mapM fun i => Eng.read (va pBf16 + i * 16) 2) s (cmdE 0) (fun _ _ => true) = true ∧
    runs ((List.range 1).forM fun i => Eng.write (va pBf16 + i * 16) [0, 0]) s (cmdE 0) (fun _ _ => true) = true ∧
    runs (Eng.write (va pF32) (List.replicate 800 0)) s (cmdE 0) (fun _ _ => true) = true := by decide +kernel

/-- Operands of FP32, of one row. -/
def prod1 : ProductF :=
  { p1 := pF32, p3 := pF32, m := 1, acc := 0, pair := false, zf := true, chk := false, steps := 1, ncols := 1, stride1 := 8, stride2 := 8,
    rlimit := 1, climit := 1, sofs := 0 }
def opF32 : Opnd := { fmt := .fp .fp32, bl := 0 }

theorem wit_products :
    let s := engS 0 (cmdE 0)
    opndOf pF32 = some opF32 ∧ pathOf opF32 opF32 = some (.fma .fp32) ∧ plainPair (.fma .fp32) opF32 opF32 = true ∧
    productShapeBad prod1 false false = false ∧ productShapeBad prod1 true false = false ∧ Path.fma .fp32 ≠ .g32 ∧ Path.fma .fp32 ≠ .res ∧
    opF32.bl ≤ opF32.fmt.kd ∧
    there (rowSpans pF32 0 0 8 1 0 64 1 1 ++ rowSpans pF32 0 0 8 1 0 64 1 1) s (cmdE 0) = true ∧
    runs ((List.range 1).mapM fun i => Eng.elems pF32 8 i 0 64 1 1 .rne false) s (cmdE 0) (fun _ e =>
      gives ((List.range 1).mapM (fun i => Eng.elems pF32 8 i 0 64 1 1 .rne false) e) fun x => (x.2.st.core 0).errAcc.isEmpty) = true ∧
    ({ prod1 with steps := 2 }.steps.toNat = 2) ∧ productShapeBad { prod1 with steps := 2 } true false = false := by decide +kernel

/-- The record of a tile of FP32 that the half 0 of the weight store holds. -/
def tileF : TileRec :=
  { ptr := pF32, kind := 0, index := 0, rows := 1, cols := 1, stride := 8, cvt := 0, sofs := 0, rm := .rne, ov := false, prev := false,
    stepchk := false, steptag := 0, rlimit := 0, climit := 0, load := 0 }
def tileS : State :=
  let s := engS 0 (cmdE 0)
  s.modCore 0 fun k => { k with records := [(.loc 0, 0, tileF)], wheld := [(0, tileF)] }

theorem wit_residentTile :
    let s := tileS
    reads Eng.resident s (cmdE 0) (fun r => r == tileF) = true ∧ tileF.opnd = some opF32 ∧ packedOk tileF opF32 pF32 = true ∧
    runs (Eng.needTile tileF opF32) s (cmdE 0) (fun h e => h == 0 && there (rowSpans pF32 0 0 8 1 0 64 1 1) e.st e.cmd && (e.st.core 0).errAcc.isEmpty &&
      (e.st.core 0).errW.isEmpty && (e.st.core 0).upsets.isEmpty) = true ∧
    runs (Eng.loadTile tileF opF32) s (cmdE 0) (fun x e => x.1 == { tileF with load := (s.core 0).loads } && (e.st.core 0).loads == 1) = true ∧
    (∀ x ∈ (engS 0 (cmdE 0)).cores, x.2.wheld = []) ∧
    runs (Eng.kStep prod1 .rne false (.fma .fp32) opF32 opF32 0 0 true) s (cmdE 0) (fun _ _ => true) = true := by decide +kernel

theorem wit_readTile :
    let s := engS 0 (cmdE 0)
    reads (Eng.page 0x1000 .read (fun _ => true)) s (cmdE 0) (fun t => leafClass t.leaf != 4) = true ∧
    runs (Eng.readTile tileF opF32) s (cmdE 0) (fun _ _ => true) = true ∧ runs (Eng.loadTile (Claims.tile pF32 1 1 0 0 0 0 hdr0) opF32) s (cmdE 0) (fun _ _ => true) = true ∧
    runs (Eng.readTile (Claims.tile pF32 2 0 8 0 1 1 hdr0) opF32) s (cmdE 0) (fun _ _ => true) = true := by decide +kernel

/-- A gang of one core, M = N = K = 1, operands of FP32; the member that waits with a time limit of 10 cycles. -/
def gangWords : List Word := [0, pF32, pF32, 0x00080008, 0]
def gangW : GangWait := { desc := 0x2000, core := 0, issuer := .loc 0, words := gangWords, at_ := 0, limit := 10 }

theorem wit_gang :
    let s := engS 0 (cmdE 0)
    runs (Eng.read 0x2000 64) s (cmdE 0) (fun _ e => decide (e.cmd = cmdE 0 ∧ e.st.cycle = s.cycle)) = true ∧ gangBad (gangWords ++ [10, 0, 0]) 0 = false ∧ gangBad (gangWords ++ [10, 1, 0]) 0 = true ∧
    tagOk (ptrCode (gangWords.getD 1 0)) (ptrBl (gangWords.getD 1 0)) = true ∧ opndOf (gangWords.getD 1 0) = some opF32 ∧
    gangCores 0 0 = [0] ∧ (∃ n ∈ gangCores 0 0, ∀ w ∈ s.gangs, w.desc = 0x2000 → w.core ≠ n) ∧
    (∀ w ∈ [gangW], ∀ v ∈ [gangW], w.words = v.words) ∧ gangW.limit ≠ 0 ∧ gangW.at_ + gangW.limit ≤ ({ s with cycle := 10, gangs := [gangW] } : State).cycle := by
  decide +kernel

theorem wit_gangMember :
    let c : Cmd := { cmdE 0 with prog := 1, desc := gangWords ++ [10, 0, 0] }
    runs (Eng.gangSums hdr0 c.desc c.core) (engS 0 c) c (fun _ _ => true) = true := by decide +kernel

/-- A gang descriptor in memory at 0x2000. -/
def gangS (prog : Nat) : State :=
  let c : Cmd := { cmdE 0 with prog }
  { engS 0 c with
    mem := ((gangWords ++ [10]).zipIdx).flatMap fun (x : Word × Nat) =>
      ((bytesOfNat 8 x.1.toNat).zipIdx.filter fun (y : Byte × Nat) => y.1 ≠ 0).map fun (y : Byte × Nat) => (0x2000 + 8 * x.2 + y.2, y.1) }

/-- A transient error in the 257 channel of element (0, 0): the checking channel notices it; once, and twice. -/
def upset1 : Upset := { row := 0, col := 0, c251 := 0, c257 := 1, c256 := 0, c255 := 0, times := 1 }

theorem wit_upset :
    ((baseC 0 0 fun k => { k with upsets := [upset1] }).core 0).upsets = [upset1] ∧ 0 < (targetOf 0 1 1 false).rows ∧ 0 < (targetOf 0 1 1 false).cols ∧
    ((residueOf 0 5).struck upset1).agrees = false ∧ (residueOf 0 5).agrees = true ∧ upset1.times = 1 ∧ 2 ≤ { upset1 with times := 2 }.times := by
  decide +kernel

theorem wit_gangDescriptor : runs (Eng.read 0x2000 64) (gangS 0) { cmdE 0 with prog := 0 } (fun bs _ => decide ((wordsOf 8 bs).take 5 = gangWords ∧
    wbits ((wordsOf 8 bs).getD 5 0) 31 0 = 10)) = true := by decide +kernel

theorem wit_rowStatistics :
    let s := base 0 0
    ((bindS []).bound 60 = true ∧ (s.slot 0).bound 3 = false ∧ (s.slot 0).bound 4 = false ∧ (s.slot 0).bound 5 = false) ∧
    s.matrixRunning 0 = none ∧ (s.core 0).errAcc = [] ∧ (s.slot 0).vsrc 1 = some 0 := by decide

/-- A copy of 64 bytes, of which 16 are done. -/
def bar0 : BarRef := { bv := false, bar := 0 }
def cmdC : Cmd := { cmdE 1 with prog := 16 }
def copyF : Copy2F := { src := 0x1000000000001000, dst := 0x1000000000003000, rows := 4, cols := 4, rowlim := 4, collim := 4, sstride := 1, dstride := 1 }

theorem wit_copies :
    let s := engS 1 cmdC
    cmdC.barFault = false ∧ sfind cmdC.skip cmdC.prog = none ∧ piece 0x3010 16 48 = 48 ∧ runs (Eng.take 0x1010 48) s cmdC (fun bs e => gives (Eng.put bar0 0x3010 bs e) fun _ => true) = true ∧
    runs (Eng.take 0x1000 16) s cmdC (fun bs e => bs.length == 16 && gives (Eng.put bar0 0x3010 ((List.range 48).map fun i => bs.getD ((16 + i) % 16) 0)
      { e with cmd := { e.cmd with part := [(0, 0)] } }) fun _ => true) = true ∧ cmdC.part = [] ∧
    inWindow 0x1000 = false ∧ inWindow 0x3000 = false := by decide +kernel

/-- A copy whose first sector has been refused goes on with the next one; and a piece that is written to a page. -/
theorem wit_copySkips :
    let c : Cmd := { cmdE 1 with retries := [(2 ^ 34 / 64, 100)] }
    let s := engS 1 c
    (match Eng.take (2 ^ 34) 64 (Claims.at_ s c) with
      | .error (.retry f _) => f.missing.all fun a => shas c.retries (a / 64)
      | _ => false) = true ∧
    piece 0x3000 0 128 = 64 ∧ 64 < 128 ∧ 64 / 4096 = 0 / 4096 ∧ sfind c.skip 64 = none ∧
    runs (Eng.take 0x1040 64) s c (fun bs e => gives (Eng.put bar0 0x3040 bs e) fun _ => true) = true ∧
    reads (Eng.page 0x3000 .wr (fun _ => true)) s c (fun t => t == page0) = true := by decide +kernel

theorem wit_copy2 :
    let s := engS 1 { cmdC with prog := 5 }
    1 ≤ ptrCode copyF.src ∧ ptrCode copyF.src ≤ 9 ∧ ptrCode copyF.dst = ptrCode copyF.src ∧ memBits 2 / 8 = 4 ∧ 5 < 4 * 4 ∧
    5 / 4 / or256 4 < or256 4 ∧ 5 / 4 % or256 4 < or256 4 ∧ or256 1 ≤ 5 / 4 % or256 4 ∧ 5 < or256 4 * or256 4 * 4 ∧
    runs (Eng.take 0x1011 3) s { cmdC with prog := 5 } (fun bs e => gives (Eng.put bar0 0x3011 bs e) fun _ => true) = true ∧
    runs (Eng.put bar0 0x3010 (List.replicate 4 0)) s { cmdC with prog := 5 } (fun _ _ => true) = true := by decide +kernel

/-- Slot 1 of core 0 has port 0 bound to stream 0 and asks for elements. -/
def streamS (vctl : Word) : State :=
  let s := engS 1 cmdC
  { s with slots := sset s.slots 1 { Slot.reset with run := .stray, sbind := 8, vctl } }

theorem wit_streamCopy :
    cmdC.reachesWindow = true ∧ 64 % 16 = 0 ∧ (streamS 0).canDeliver 0 0 = none ∧ (streamS 0x10).canDeliver 0 0 = some (1, 0) ∧
    runs (Eng.take 0x1010 16) (streamS 0x10) cmdC (fun _ _ => true) = true := by decide +kernel

theorem wit_gather :
    let ix : Word := 0x3800000000001000
    tagOk (ptrCode ix) (ptrBl ix) = true ∧ ptrCode ix = 7 ∧ memBits 7 / 8 = 4 ∧ 16 < or256 8 * 2 ^ 3 ∧
    runs (Eng.take 0x1008 4) (engS 1 cmdC) cmdC (fun i e => gives (Eng.take ((0x1000 + natOfBytes i * 8) % 2 ^ 56) 8 e) fun x =>
      gives (Eng.put bar0 0x3010 x.1 x.2) fun _ => true) = true := by decide +kernel

theorem wit_bulk :
    let d := cmdE 4
    let s := baseC 0 0 fun k => { k with queues := [(4, [d])] }
    (s.core 0).queue 4 = [d] ∧ (s.core 0).remote 4 = [] ∧ (s.bulk (s.bulkTarget d)).length < 16 ∧
    (let d : Cmd := { cmdC with started := true, retries := [(0x40, 5)] }
     let r := engS 1 d
     r.resends[0]? = some (selE 1, d, 0x40, 5) ∧ r.cycle < 5 ∧ 5 ≤ ({ r with cycle := 5 } : State).cycle) := by decide

/-! ### The commons and the update rule

A region of four cells of two values lies on a page of class 3 at 2^30, its spread record at 0x8000; a block record on a page
of class 4 at 2^31. -/

def page3 : TEntry := { base := 2 ^ 30, log := 30, leaf := 0x2005F }
def page4 : TEntry := { base := 2 ^ 31, log := 30, leaf := 0x20067 }
def region1 : Region :=
  { ctx := 0, base := 2 ^ 30, ncell := 4, nval := 2, q := 0, mode := 0, share := 0, ports := [2], spread := 0x8000, counters := [],
    removing := false, core := 0 }
def port1 (st : PortState) (es : List Escrow) : Port := { Port.reset with state := st, escrows := es }
def packet1 : Packet := { region := 0, tag := 0, seq := 7, cell := 1, hw := 5, hs := [1, 2] }

/-- The cell weights and words are zero but word 0 of cell 0, which is `w`. -/
def commonsS (x1 x2 : Word) (w : Byte) (r : Region) (p : Port) : State :=
  { base x1 x2 with trans := [(0, page0), (0, page3), (0, page4)], regions := [(0, r)], ports := [(2, p)], mem := if w = 0 then [] else [(2 ^ 30 % 2 ^ 27 + 0, w)] }

theorem wit_commonsMisuse :
    0x101 % 8 ≠ 0 ∧ Config.windowBase ≤ win.toNat ∧ win.toNat % 8 = 0 ∧
    (∀ e, ((baseC 0 0 fun k => { k with plb := [(0, 0x800000000000280F)] }).core 0).plbFind 0x100 = some e → wbit e 4 = false) := by
  refine ⟨by decide, by decide, by decide, ?_⟩
  intro e h
  have : ((baseC 0 0 fun k => { k with plb := [(0, 0x800000000000280F)] }).core 0).plbFind 0x100 = some 0x800000000000280F := by decide
  rw [this] at h
  injection h with h
  subst h
  decide

/-- A commons instruction at `a` whose checks pass, and what holds of the word it names. -/
def names (a y : Word) (k : Acc) (ok : Region → Nat → Bool) (r : Region) (p : Port) (q : CellRef → State → Bool) : Bool :=
  let s := commonsS a y 0 r p
  gives (Act.cell 1 k ok s) fun x => q x.1 x.2 && decide (x.2.slot x.2.cur = s.slot 0)

theorem wit_deposit :
    names 0x40000010 5 .store valueWord region1 Port.reset (fun r u => decide (u.mass r.rn r.n (u.refWords r) r.word + 5 < 2 ^ 63)) = true ∧
    names 0x40000000 0x7FFFFFFFFFFFFFFF .store (fun _ w => decide (w = 0)) region1
      (port1 .up [{ pkt := { packet1 with cell := 0 }, slot := 0, state := .sent }])
      (fun r u => decide (2 ^ 63 ≤ u.mass r.rn r.n (u.refWords r) r.word + 0x7FFFFFFFFFFFFFFF)) = true := by decide +kernel

theorem wit_commonsReads :
    names 0x40000010 0 .load valueWord region1 Port.reset (fun _ _ => true) = true ∧
    names 0x40000000 0 .load (fun g w => w = 0 || valueWord g w) region1 Port.reset (fun _ _ => true) = true ∧
    names 0x40000000 0 .load (fun _ w => w = 0) region1 Port.reset
      (fun r u => gives (u.translate (u.cur / 4 / 8) (r.reg.spreadSlot r.n 0) false) fun _ => true) = true := by decide +kernel

theorem wit_gxch :
    let at0 := fun (y : Word) (r : Region) (p : Port) (q : CellRef → State → Bool) => names 0x40000000 y .store (fun _ w => w = 0) r p q
    let ready := fun (u : State) (r : CellRef) => let p := u.port 2
      decide (p.state ≠ .down ∧ p.state ≠ .resync ∧ p.holds r.rn r.n = false ∧ p.escrows.length < 64)
    at0 1 region1 (port1 .up []) (fun r _ => decide (r.reg.ports.length ≤ 1)) = true ∧
    at0 0 region1 (port1 .down []) (fun r u => r.reg.ports.getD 0 0 == 2 && !ready u r) = true ∧
    at0 0 region1 (port1 .fenced []) (fun r u => ready u r) = true ∧
    at0 0 { region1 with removing := true } (port1 .up []) (fun r u => ready u r) = true ∧
    at0 0 region1 (port1 .up []) (fun r u => ready u r && decide ((u.exchange r.rn r.reg r.n 0 r.t).1 = none)) = true := by decide +kernel

/-- Cell 0 has the weight 10. -/
def weighted : State :=
  let s := commonsS 0x40000000 0 0 region1 (port1 .up [])
  s.putCell 0 page3 (2 ^ 30) ((10 : Word) :: List.replicate 31 0)

theorem wit_gxchSends :
    gives (Act.cell 1 .store (fun _ w => decide (w = 0)) weighted)
      (fun x => (x.2.exchange x.1.rn x.1.reg x.1.n 0 x.1.t).1.isSome && decide (x.2.slot x.2.cur = weighted.slot 0)) = true := by decide +kernel

theorem wit_halve : (List.replicate 32 (9 : Word)).length = 32 ∧ 2 ≤ 30 := by decide

/-- A descriptor of region 1 at 0x1000: op, 4 cells of 2 values, base `b`, spread 0x9000 (R365). -/
def descS (op : Nat) (b : Word) (rn : Nat) (es : List Escrow) : State :=
  let s := commonsS 0x1000 0 0 region1 (port1 .up es)
  let d1 : Word := wordOfNat (op * 2 ^ 50 + rn * 2 ^ 38 + 2 * 2 ^ 25 + 4)
  let put := fun (s : State) (o : Nat) (w : Word) => s.homeWrite page0 (0x1000 + o) (bytesOfNat 8 w.toNat)
  (put (put (put s 0 b) 8 d1) 32 0x9000).modSlot 0 fun sl => { sl with priv := .s }

/-- What holds once COMMONS.CFG has read its descriptor. -/
def described (s : State) (q : List Word → State → Bool) : Bool :=
  gives (s.release 0 .package) fun u => gives (Act.loadRecord 0x1000 64 u) fun x => q (wordsOf 8 x.1) x.2

theorem wit_commonsCfg :
    let rn := fun (d : List Word) => wbits (d.getD 1 0) 41 38
    let op := fun (d : List Word) => wbits (d.getD 1 0) 51 50
    let busy := fun (v : State) (n : Nat) => v.allEscrows.any fun e => e.2.pkt.region == n
    described (descS 3 0 0 []) (fun d _ => descBad d) = true ∧
    described (descS 1 0x40000000 0 [{ pkt := packet1, slot := 0, state := .sent }]) (fun d v => !descBad d && op d == 1 && busy v (rn d) &&
      decide ((sfind v.regions (rn d)).map (·.ctx) = some (v.ctxOf v.cur))) = true ∧
    described (descS 2 0x40000000 0 []) (fun d v => !descBad d && op d == 2 && decide (sfind v.regions (rn d) = some region1) &&
      gives (v.writeHome 0 0x1040 region1.report .store) fun _ => true) = true ∧
    ((descS 0 0 0 []).slot 0).priv ≠ .u ∧ 0x1040 % 128 ≠ 0 ∧ (commonsS 0 0 0 region1 (port1 .up [])).ctxOf 0 = 0 ∧ { region1 with ctx := 3 }.ctx ≠ 0 := by
  decide +kernel

theorem wit_commonsDefine :
    described (descS 0 0x40001000 1 []) (fun d v =>
      let r := descRegion d (v.ctxOf v.cur) 0
      !descBad d && decide (sfind v.regions 1 = none ∧ ∀ e ∈ v.regions, r.base + 256 * r.ncell ≤ e.2.base ∨ e.2.base + 256 * e.2.ncell ≤ r.base) &&
      gives (Act.rangeOk 0x1000 128 .load 0 (fun _ => true) v) fun a => a.1.1 &&
        gives (Act.rangeOk r.base (256 * r.ncell) .store 3 (fun e => wbit e 4) a.2) fun b => b.1.1 &&
          gives (Act.rangeOk r.spread (64 * r.ncell) .store 0 (fun e => wbit e 0 && wbit e 1) b.2) fun c => c.1.1 &&
            decide (c.2.regions = v.regions ∧ c.2.cur = v.cur) && gives (Act.initCells r (wbits (d.getD 3 0) 31 0) c.2) fun e => decide (e.2.regions = v.regions)) = true := by
  decide +kernel

/-- A commons command on two cells, its I64 elements at 0x1000, run with the cells' weights as given. -/
def cmdG : Cmd := cmdE 3
def commonsE (r : Region) (p : Port) : State :=
  { commonsS 0 0 0 r p with
    cores := [(0, { Core.reset with ctx := some 0, plb := [(0, allRights)], running := [(3, [cmdG])] })]
    eng := some (selE 3) }

theorem wit_commonsCommands :
    let s := commonsE region1 (port1 .up [])
    let cells : Word := 0x40000000
    s.eng = some (selE 3) ∧ s.selCmd (selE 3) = some cmdG ∧
    reads (Eng.cellCheck cells 0x1000 2) s cmdG (fun x => x.1 == 0 && x.2.2 == (0, 8)) = true ∧
    reads (Eng.page 0x40000000 .cell fun _ => true) s cmdG (fun t => t == page3) = true ∧ ptrCode 0x1000 = 0 ∧
    runs (Eng.elements 0x1000 8 0 2) s cmdG (fun xs e => decide (xs = [0, 0]) &&
      gives ((e.st.putCell 0 page3 0x40000000 (List.replicate 32 0)).clearSpread region1 0) (fun _ => true) &&
      [(0, (3 : Int)), (2, 0), (3, 0)].all fun x => inI64 (e.st.mass 0 0 (e.st.cellWords page3 0 0x40000000) x.1 + x.2)) = true ∧
    runs (Eng.sector 0x40000000 256 page3) s cmdG (fun raw e => gives (Eng.write 0x1000 raw e) fun _ => true) = true ∧
    runs (Eng.read 0x1000 16) s cmdG (fun bs e => decide (sfind e.st.regions (wbits ((wordsOf 2 bs).getD 1 0) 41 38) = some region1)) = true ∧
    tagOk (ptrCode cells) (ptrBl cells) = true := by decide +kernel

/-- With an escrow of cell 0 outstanding whose weight half is the greatest number, an addition leaves the range. -/
theorem wit_gdepOverflow :
    let s := commonsE region1 (port1 .up [{ pkt := { packet1 with cell := 0, hw := 0x7FFFFFFFFFFFFFFF }, slot := 0, state := .sent }])
    runs (Eng.elements 0x1000 8 0 2) s cmdG (fun _ e => [(0, (3 : Int)), (2, 0), (3, 0)].any fun x =>
      !inI64 (e.st.mass 0 0 (e.st.cellWords page3 0 0x40000000) x.1 + x.2)) = true := by decide +kernel

theorem wit_drover :
    let s := commonsE region1 (port1 .up [])
    let h := commonsE region1 (port1 .up [{ pkt := { packet1 with cell := 0 }, slot := 0, state := .sent }])
    sfind s.regions 0 = some region1 ∧ region1.ports.findIdx? (· == 2) = some 0 ∧ region1.mode ≠ 2 ∧ region1.removing = false ∧
    (s.port 2).state = .up ∧ (s.port 2).escrows.length < 64 ∧ (h.port 2).holds 0 0 = true ∧ (s.port 2).holds 0 0 = false ∧
    gives ((s.modPort 2 fun p => { p with walk := sput 0 p.walk 0 1 }).translate (sliceOf 0) 0x40000000 true) (fun _ => true) = true := by decide

theorem wit_droverPackets :
    let s := commonsE region1 (port1 .up [])
    let ahead := fun (tag : BitVec 32) => (tag - cellTag (s.cellWords page3 0 (region1.cell 1))).toNat
    packet1.cell < region1.ncell ∧ gives (s.translate (sliceOf 0) (region1.cell 1) true) (fun x => x.1 == page3) = true ∧
    2 ^ 31 ≤ ahead 0x80000000 ∧ 0 < ahead 3 ∧ ahead 3 < 2 ^ 31 ∧ ahead 0 = 0 ∧
    (∀ j ∈ [0, 2, 3], inI64 (s.mass 0 1 (s.cellWords page3 0 (region1.cell 1)) j + packetHalf packet1 j) = true) ∧
    (let o := commonsE region1 (port1 .up [{ pkt := packet1, slot := 0, state := .sent }])
     inI64 (o.mass 0 1 (o.cellWords page3 0 (region1.cell 1)) 0 + packetHalf { packet1 with hw := 0x7FFFFFFFFFFFFFFF } 0) = false) := by decide +kernel

theorem wit_escrows :
    let esc := fun (st : EscState) => ({ pkt := packet1, slot := 0, state := st } : Escrow)
    let s := fun (st : EscState) => commonsE region1 (port1 .up [esc st])
    (s .sent).escrow 2 7 = some (esc .sent) ∧ (s (.returning 0)).escrow 2 7 = some (esc (.returning 0)) ∧
    (s (.waiting 0)).escrow 2 7 = some (esc (.waiting 0)) ∧ 0 ≤ (s (.waiting 0)).cycle ∧ ((s .sent).port 2).state = .up ∧
    gives ((s (.returning 0)).translate (sliceOf 0) (region1.cell 1) true) (fun x => cellTag (x.2.cellWords x.1 0 (region1.cell 1)) == packet1.tag &&
      cellTag (x.2.cellWords x.1 0 (region1.cell 1)) != ({ packet1 with tag := 1 } : Packet).tag) = true := by decide +kernel

/-- A descriptor of one block at 2^31 at 0x1000 (R333); rule context 0 belongs to context 0. The header of the block is given. -/
def cmdR : Cmd := { cmdE 2 with tcw := { q0 := 0x0000000000000200, q1 := 0, q2 := 0, q3 := 0 } }
def ruleS (h0 : Word) (act : RSlot) : State :=
  let s : State :=
    { commonsS 0 0 0 region1 Port.reset with
      cores := [(0, { Core.reset with ctx := some 0, plb := [(0, allRights)], running := [(2, [cmdR])] })]
      eng := some (selE 2)
      rules := [(0, { RuleCtx.reset with owner := some 0, active := act })] }
  let put := fun (s : State) (a : Nat) (w : Word) => s.homeWrite page0 a (bytesOfNat 8 w.toNat)
  (put (put s 0x1000 0x80000000) 0x1008 1).homeWrite page4 (2 ^ 31) (bytesOfNat 8 h0.toNat)

/-- A header with a live weight and quarantine count; its step tag is 0. -/
def header1 : Word := 0x0070000000000000

theorem wit_ruleCommands :
    let s := ruleS header1 .empty
    let d := wordsOf 10 (s.homeRead page0 0 0x1000 80)
    s.selCmd (selE 2) = some cmdR ∧
    runs (Eng.descriptor 0x1000 0 1 false) s cmdR (fun d e => decide ((ruleDesc d).block 0 = 2 ^ 31) &&
      gives (Eng.gradRegion 0x1000000000006000 0 1 e) fun x => x.1.isEmpty) = true ∧
    runs (Eng.descriptor 0x1000 0 1 true) s cmdR (fun _ _ => true) = true ∧
    (ruleDesc d).rc = 0 ∧ ptrCode 0x1000000000001000 = 2 ∧ ptrCode 0x1000 = 0 ∧ ptrCode 0x7000000040000000 = 14 ∧
    runs (Eng.gradRegion 0x7000000040000000 0 1) { s with regions := [(0, { region1 with ncell := 128 })] } cmdR
      (fun x _ => decide (x = [2, 0])) = true ∧
    reads (Eng.page 0x1000 .wr (fun c => c = 0)) s cmdR (fun t => t == page0) = true ∧ (s.ruleCtx 0).owner = some cmdR.ctx ∧
    ({ cmdR with ctx := 5 } : Cmd).ctx ≠ 0 := by decide +kernel

theorem wit_ruleSnapshot :
    runs (Eng.writeAs .wr (fun c => c = 0) 0x1000 (List.replicate 64 0)) (ruleS header1 .empty) cmdR (fun _ _ => true) = true := by decide +kernel

/-- A rule command over one block whose turn it is. -/
def blockW (i : Instr) : Cmd := { cmdE 2 with tcw := (encodeTcw i).getD { q0 := 0, q1 := 0, q2 := 0, q3 := 0 } }
def blockRun (i : Instr) : RuleRun :=
  { cmd := blockW i, desc := [0x80000000, 1, 0, 0, 0, 0, 0, 0, 0, 0], todo := [0], waits := [], homes := [], versions := [], newQuar := 0, oldQuar := 0,
    stale := 0, held := 0, norule := 0, badhdr := 0, clamped := 0, nonfin := 0, diverge := [], code := 0, updated := false }
def blockS (i : Instr) : State :=
  { ruleS header1 .empty with
    cores := [(0, { Core.reset with ctx := some 0, plb := [(0, allRights)], running := [(2, [blockW i])] })], ruleRuns := [blockRun i] }
def clr1 : Instr := .quarClr hdr0 0x1000 0 1
def bwd1 : Instr := .metaBwd hdr0 0x1000 0x1000000000003000 0x4000 0 0 0

theorem wit_quarClr :
    decodeTcw (blockW clr1).tcw = some clr1 ∧ (blockS clr1).nextBlock 0 = some (blockRun clr1, selE 2, blockW clr1, 0) ∧
    reads (Eng.checkRange (.gov true) govClass (2 ^ 31) 8) (blockS clr1) (blockW clr1) (fun _ => true) = true ∧
    runs (Eng.govRead (2 ^ 31) 8) (blockS clr1) (blockW clr1) (fun bs e => bs.length == 8 &&
      gives (Eng.govWrite (2 ^ 31) (bytesOfNat 8 (setBits (wordOfNat (natOfBytes bs)) 52 52 0).toNat) e) fun _ => true) = true := by decide +kernel

theorem wit_metaBwd :
    let exhausted := setBits header1 53 53 0
    decodeTcw (blockW bwd1).tcw = some bwd1 ∧ (blockS bwd1).nextBlock 0 = some (blockRun bwd1, selE 2, blockW bwd1, 0) ∧
    reads (Eng.checkRange (.gov true) govClass (2 ^ 31) 256) (blockS bwd1) (blockW bwd1) (fun _ => true) = true ∧
    runs (Eng.govRead (2 ^ 31) 256) (blockS bwd1) (blockW bwd1) (fun bs e => wbit ((wordsOf 32 bs).getD 0 0) 53 &&
      reads (Eng.checkRange .wr (fun c => c = 0) 0x4000 6084) e.st e.cmd fun _ => true) = true ∧
    wbit exhausted 53 = false := by decide +kernel

theorem wit_metaBwdRecord :
    let plain := wordsOf 32 ((bytesOfNat 8 header1.toNat) ++ List.replicate 248 0)
    runs (Eng.bwdBlock (ruleDesc []) 0 0 1 0 plain (List.replicate 6084 0)) (blockS bwd1) (blockW bwd1) (fun _ _ => true) = true ∧
    runs (Eng.readAs .read (fun c => c = 0) 0x4000 6084) (ruleS header1 .empty) cmdR (fun _ _ => true) = true := by decide +kernel

theorem wit_metaBwdRecordWritten :
    runs (Eng.writeAs .wr (fun c => c = 0) 0x4000 (List.replicate 6084 0)) (ruleS header1 .empty) cmdR (fun _ _ => true) = true := by decide +kernel

/-- An update of one block with the step tag 0, and its progress: one block to do, or none. -/
def updF1 : UpdF := { region := 0x1000, grad := 0x1000000000006000, first := 0, count := 1, steptag := 0, slot := 0 }
def updW : Cmd := { cmdE 2 with tcw := (encodeTcw (.upd hdr0 updF1)).getD { q0 := 0, q1 := 0, q2 := 0, q3 := 0 } }
def run0 (todo : List Nat) : RuleRun :=
  { cmd := updW, desc := [0x80000000, 1, 0, 0, 0, 0, 0, 0, 0, 0], todo, waits := [], homes := [], versions := [], newQuar := 0, oldQuar := 0, stale := 0, held := 0,
    norule := 0, badhdr := 0, clamped := 0, nonfin := 0, diverge := [], code := 0, updated := false }
def updS (h0 : Word) (act : RSlot) (todo : List Nat) : State :=
  let s := ruleS h0 act
  { s with cores := [(0, { Core.reset with ctx := some 0, plb := [(0, allRights)], running := [(2, [updW])] })], ruleRuns := [run0 todo] }

theorem wit_ruleBlockUpdate :
    let live := { RSlot.empty with version := 3 }
    let s := updS header1 live [0]
    updW.updFields = some (updF1, false) ∧ s.nextBlock 0 = some (run0 [0], selE 2, updW, 0) ∧
    runs (Eng.checkRange (.gov true) govClass (2 ^ 31) 5376) s updW (fun _ _ => true) = true ∧
    ((s.ruleCtx 0).slotAt 0 true).version ≠ 0 ∧ ((s.ruleCtx 0).slotAt 0 true).held = false ∧
    (((updS header1 { live with held := true } [0]).ruleCtx 0).slotAt 0 true).held = true ∧
    (((updS header1 .empty [0]).ruleCtx 0).slotAt 0 true).version = 0 := by decide +kernel

theorem wit_ruleBlockHeaders :
    let hs := fun (h0 : Word) (p : List Word → Bool) =>
      runs (Eng.govRead (2 ^ 31) 256) (updS h0 .empty [0]) updW (fun bs _ => p (wordsOf 32 bs))
    hs 0 headerBad = true ∧ hs header1 (fun l => !headerBad l && wbits (l.getD 0 0) 31 0 == 0) = true ∧
    hs (header1 + 1) (fun l => !headerBad l && wbits (l.getD 0 0) 31 0 != updF1.steptag.toNat) = true ∧
    runs (Eng.blockUpdate (run0 [0]) updF1 false 0 0) (updS header1 .empty [0]) updW (fun _ _ => true) = true := by decide +kernel

theorem wit_ruleReport :
    let s := updS header1 .empty []
    s.ruleRuns[0]? = some (run0 []) ∧ (run0 []).todo = [] ∧ (run0 []).code = 0 ∧ s.runCmdOf (run0 []) = some (selE 2, updW) ∧ updW.retries = [] ∧ s.stopped 0 = false ∧
    reads (Eng.page 0x1000 .wr descClass) s updW (fun t => t == page0) = true ∧
    runs (Eng.writeAs .wr descClass 0x1050 ((run0 []).report.flatMap fun w => bytesOfNat 8 w.toNat)) s updW (fun _ _ => true) = true := by
  decide +kernel

/-- A supervisor whose context owns rule context 0, with an active and a standby version. -/
def ruleC (x1 x2 : Word) (rc : RuleCtx) : State := { baseS x1 x2 (fun sl => { sl with priv := .s }) with rules := [(0, rc)] }
def rc1 : RuleCtx :=
  { RuleCtx.reset with owner := some 0, active := { RSlot.empty with version := 1 }, standby := { RSlot.empty with version := 2 } }

theorem wit_ruleContexts :
    let s := ruleC 0 0x1000 rc1
    (s.slot 0).priv ≠ .u ∧ ((base 0 0).slot 0).priv = .u ∧ (s.ruleCtx 0).owner = some (s.ctxOf 0) ∧ (s.ruleCtx 1).owner ≠ some (s.ctxOf 0) ∧
    0x1010 % 64 ≠ 0 ∧ 0x1000 % 64 = 0 ∧ (s.ruleCtx 0).late = [] ∧ ((ruleC 0 0 { rc1 with late := [5] }).ruleCtx 0).late ≠ [] ∧
    ((ruleC 0 0 { rc1 with standby := .empty }).ruleCtx 0).standby.version = 0 ∧ (∀ i, i < 1024 → ((s.ruleCtx 0).slotAt i false).version ≠ 0) := by
  refine ⟨by decide, by decide, by decide, by decide, by decide, by decide, by decide, by decide, by decide, ?_⟩
  intro i _
  show (rc1.slotAt i false).version ≠ 0
  simp [RuleCtx.slotAt, rc1, RuleCtx.reset]

theorem wit_ruleInst :
    let s := ruleC 0 (wordOfNat Config.windowBase) rc1
    gives (s.release 0 .package) (fun u => decide ((u.ruleCtx 0).late = []) && gives (Act.loadRecord Config.windowBase 4096 u) fun x =>
      imageBad x.1 && decide (x.2.ruleCtx 0 = u.ruleCtx 0)) = true := by decide +kernel

theorem wit_ruleImage : imageBad ([7, 0] ++ List.replicate 4094 0) = false ∧ (imageSlot ([7, 0] ++ List.replicate 4094 0)).version = 7 :=
  ⟨by decide +kernel, by decide +kernel⟩

theorem wit_ruleActExchange :
    let s := ruleC 0 0 { rc1 with late := [5] }
    let w := s.modSlot 0 fun sl => { sl with wait := .exchange 0 3 9 }
    5 ∈ (s.ruleCtx 0).late ∧ (∀ j ∈ (w.ruleCtx 0).late, j = 5) ∧ sfind w.slots 0 = some (w.slot 0) ∧ (w.slot 0).wait = .exchange 0 3 9 ∧
    (w.slot 0).rep = none ∧ w.laneOf 0 = none ∧ w.slots.map (·.1) = [0] := by decide

/-! ### Privileged instructions, faults, contexts -/

/-- A supervisor of a core that manages the package and may inject. -/
def mgrS (x1 x2 : Word) : State :=
  let s := baseS x1 x2 fun sl => { sl with priv := .s }
  s.modCore 0 fun k => { k with mgr := true, test := true }

theorem wit_privileged :
    let s := mgrS 0 0
    ((base 0 0).slot 0).priv = .u ∧ ((base 0 0).core 0).mgr = false ∧ ((base 0 0).core 0).test = false ∧ (s.slot 0).priv ≠ .u ∧ (s.core 0).mgr = true ∧
    (s.core 0).test = true ∧ 63 < (64 : Word).toNat ∧ 0x104 % 8 ≠ 0 ∧
    gives (s.load 0 0x100 8 false) (fun x => plbBad (wordOfNat (natOfBytes x.1))) = true ∧ plbBad allRights = false := by decide +kernel

theorem wit_privilegedFill :
    gives (State.load { mgrS 0 0x100 with mem := [(0x100, 0x3F), (0x101, 0x28), (0x107, 0x80)] } 0 0x100 8 false)
      (fun x => !plbBad (wordOfNat (natOfBytes x.1))) = true := by decide +kernel

theorem wit_privilegedPages :
    (mgrS 0 0).flushWaits 0 = false ∧ inPages ((mgrS 0 0).flushed 0) 0x100 = true ∧
    ((mgrS 0 0).modCore 0 fun k => { k with running := [(0, [{ cmdE 0 with fetched := [(0x100, 1)] }])] }).flushWaits 0 = true ∧ wbits (1 : Word) 18 0 ≠ 0 ∧ wbits (0x80000 : Word) 63 29 = 0 ∧ wbits (0x80000 : Word) 18 0 = 0 ∧
    12 < waysSet 0x1FFF ∧ waysSet 0x0FFF ≤ 12 ∧ wbits (0x10000 : Word) 63 16 ≠ 0 ∧ wbits (0xFFF : Word) 63 16 = 0 ∧
    gives (Act.loadRecord 0x40 64 (mgrS 0 0x40)) (fun x => (wordsOf 8 x.1).all fun w => w == 0) = true := by decide +kernel

theorem wit_slotControl :
    let s := mgrS 1 0
    let parked := s.modSlot 1 fun sl => { sl with run := .parked { cause := 13, addr := 0, reason := 0, level := 0, access := 0 } }
    slotOfWord 1 = 1 ∧ 1 < wbits (8 : Word) 3 2 ∧ wbits (5 : Word) 3 2 = 1 ∧ wbits (1 : Word) 3 2 = 0 ∧ wbits (0x10 : Word) 15 4 ≠ 0 ∧ s.ownSlot 1 = true ∧
    (s.slot 1).run = .idle ∧ (parked.slot 1).run = .parked { cause := 13, addr := 0, reason := 0, level := 0, access := 0 } ∧ (s.slot 0).run ≠ .idle ∧
    injectBad 0xF000000000000000 = true ∧ injectBad 0x1400001000000003 = false := by decide +kernel

theorem wit_minjFlip :
    let i : Inject := { slot := 0, target := 1, word := 0x1400001000000003 }
    let s : State := { (mgrS 0 0).modSlot 0 (fun sl => { sl with wait := .flip }) with injects := [i] }
    s.injects[0]? = some i ∧ s.flipReady i = true ∧ (s.slot 0).wait = .flip ∧ i.slot ≠ i.target ∧ wbits i.word 63 60 = 1 ∧ wbits i.word 59 58 = 1 ∧
    wbits i.word 40 36 ≠ 0 ∧
    (engS 0 (cmdE 0)).flipReady { slot := 4, target := 0, word := 0x3000000000000000 } = false := by decide +kernel

/-- Slot 0 is parked on an address; leaf, table and root entries of it are in memory where `mem` has them. -/
def park1 : ParkInfo := { cause := 13, addr := 0x100, reason := 0, level := 3, access := 0 }
def faultS (mem : List Host.Cell) (px : Bool) : State :=
  { base 0 0 with mem, trans := [], pxmode := px, faults := [{ slot := 0, info := park1, at_ := 0, stalled := none, told := false }], cycle := 2 ^ 34 }
/-- A stall since cycle 0: no frame was free then. -/
def stallS : State := { faultS [] false with faults := [{ slot := 0, info := park1, at_ := 0, stalled := some 0, told := false }] }

/-- Tables at 0x2000, 0x4000 and 0x6000 under the root at 0, and the leaf of address 0 at 0x6000: class 0, tier 2, not present. -/
def tables1 : List Host.Cell := [(0, 1), (1, 0x20), (0x2000, 1), (0x2001, 0x40), (0x4000, 1), (0x4001, 0x60), (0x6000, 0x40), (0x6002, 0x08)]

theorem wit_faultService :
    let f : FaultRec := { slot := 0, info := park1, at_ := 0, stalled := none, told := false }
    (faultS tables1 false).faults[0]? = some f ∧ (faultS tables1 false).hostOwned 0x100 = false ∧ (faultS tables1 false).leafPresent 0x100 = false ∧
    (faultS (tables1.map fun e => if e.1 = 0x6000 then (0x6000, 0x41) else e) false).leafPresent 0x100 = true ∧
    State.makePresent { faultS [] false with faults := [] } 0x100 = none ∧ (faultS (tables1 ++ [(0x6003, 0x04)]) true).hostOwned 0x100 = true ∧
    (faultS [] false).stall 0 = none ∧ stallS.stall 0 = some (0, 0, 0x100) ∧
    (stallS.ctx 0).stallLimit ≤ (stallS.now - 0) / Config.cyclesPerMicro ∧
    (stallS.ctx 0).stalledAt ≠ some 0 ∧ (0 - 0) / Config.cyclesPerMicro < (stallS.ctx 0).stallLimit := by decide +kernel

/-- The size of host memory is open (log 8): where it holds the frame, the page is made present. -/
theorem wit_makePresent (h : 65536 ≤ Config.hostTierSize) : (faultS tables1 false).makePresent 0x100 ≠ none := by
  have hk : (faultS tables1 false).leafKey 0x100 = .ok 0x6000 := by decide +kernel
  have hl : (faultS tables1 false).leafAt 0x6000 = 0x80040 := by decide +kernel
  have hf : leafFault ((faultS tables1 false).leafAt 0x6000) = none := by
    have hi : inTier (leafTier 0x80040) (leafFrame 0x80040 * 65536) (2 ^ leafLog 0x80040) = true := by
      show decide (0 + 65536 ≤ Config.hostTierSize) = true
      simpa using h
    rw [hl, leafFault, hi]
    decide
  have ht : leafTier ((faultS tables1 false).leafAt 0x6000) ≠ 0 := by rw [hl]; decide
  have hp : wbit ((faultS tables1 false).leafAt 0x6000) 0 = false := by rw [hl]; decide
  have hx : (faultS tables1 false).pxmode = false := by decide
  simp [State.makePresent, hk, hf, ht, hp, hx]

/-- A parked instruction finds a frame, a free one or one of the reserve; whether one is free is open (log 77). -/
theorem wit_reserve : ((faultS tables1 false).takeFrame 0 (some (0, 0x100))).1 = true := by
  rw [State.takeFrame]
  cases Config.frameFree (faultS tables1 false).free <;> rfl

theorem wit_softwareInterrupt :
    let o := (baseS 0 0 fun sl => { sl with sip := 2, sie := 2 }).slot 0
    wbit o.sip 1 = true ∧ wbit o.sie 1 = true ∧ o.priv = .u ∧ o.run = .stray ∧ o.wait = .none ∧ wbit ((base 0 0).slot 0).sip 1 = false := by decide

/-- A page of 1 TiB of class 0 at address 0, home slice 0: an image of any length fits. -/
def wide : TEntry := { base := 0, log := 40, leaf := 0x20047 }
/-- A manager on caravan 1, and context 1 resident on caravan 0. -/
def ctxS (c : Ctx) : State :=
  { State.reset with
    cur := 32
    slots := [(32, { Slot.reset with run := .stray, pc := 0x1000, priv := .s, x := [(1, 1)] })]
    cores := [(8, { Core.reset with ctx := some 0, mgr := true, plb := [(0, allRights)] })]
    cars := [(0, { Caravan.reset with ctx := some 1 }), (1, { Caravan.reset with ctx := some 0 })]
    ctxs := [(0, { Ctx.none with live := true, resident := true, caravans := [1] }), (1, c)]
    trans := [(0, wide)] }
def ctx1 : Ctx := { Ctx.none with live := true, resident := true, caravans := [0] }

theorem wit_ctxSaveRefused :
    let s := ctxS ctx1
    (s.slot 32).priv ≠ .u ∧ (s.core 8).mgr = true ∧ 63 < (64 : Nat) ∧ (s.ctx 2).resident = false ∧ s.ctxOf 32 = 0 ∧ 0x1800 % 4096 ≠ 0 ∧
    (s.ctx 1).resident = true ∧ s.midInstruction 1 = false ∧ (s.ctx 1).saving = none ∧ (s.ctx 1).failed = false ∧
    ((ctxS { ctx1 with failed := true }).ctx 1).failed = true ∧
    gives ((ctxS { ctx1 with failed := true }).restoreImage 8 1 0x1000) (fun x => x.1 == 5) = true := by decide +kernel

/-- What the stores of an image rely on: the rights and empty buffers of core 8, and the one page. -/
def Wide (s : State) : Prop :=
  (s.core 8).plb = [(0, allRights)] ∧ (s.core 8).nt = [] ∧ (s.core 8).l1 = [] ∧ s.trans = [(0, wide)] ∧ (s.car 1).fused = false ∧
  s.cxlDown = [] ∧ s.pxmode = false ∧ ∀ n, ∀ b ∈ sget [] s.l2 n, b.page = wide

theorem wide_frame {s t : State} (h : Wide s) (hk : t.cores = s.cores) (hv : t.cars = s.cars) (ht : t.trans = s.trans)
    (hx : t.cxlDown = s.cxlDown) (hp : t.pxmode = s.pxmode) (hl : t.l2 = s.l2) : Wide t := by
  unfold Wide State.core State.car at *
  rw [hk, hv, ht, hx, hp, hl]
  exact h

theorem wide_l2 {s : State} (h : Wide s) {n : Nat} {l : List L2Block} (hl : ∀ b ∈ l, b.page = wide) : Wide { s with l2 := sset s.l2 n l } := by
  obtain ⟨h1, h2, h3, h4, h5, h6, h7, h8⟩ := h
  refine ⟨h1, h2, h3, h4, h5, h6, h7, fun m b hb => ?_⟩
  have hb : b ∈ sget [] (sset s.l2 n l) m := hb
  rw [sget_sset] at hb
  split at hb
  · exact hl b hb
  · exact h8 m b hb

theorem wide_modFirst {l : List L2Block} (p : L2Block → Bool) (f : L2Block → L2Block) (hf : ∀ b, (f b).page = b.page)
    (hl : ∀ b ∈ l, b.page = wide) : ∀ b ∈ modFirst p f l, b.page = wide := by
  induction l with
  | nil => exact hl
  | cons x l ih =>
    intro b hb
    rw [modFirst] at hb
    split at hb
    · obtain rfl | hb := List.mem_cons.mp hb
      · rw [hf]; exact hl x (by simp)
      · exact hl b (by simp [hb])
    · obtain rfl | hb := List.mem_cons.mp hb
      · exact hl _ (by simp)
      · exact ih (fun c hc => hl c (by simp [hc])) b hb

theorem wide_writeBack {s : State} (h : Wide s) (b : L2Block) (a : Nat) (x : Sector) : Wide (s.writeBack b a x) := by
  unfold State.writeBack
  split
  · exact h
  · dsimp only
    split <;> exact wide_frame h rfl rfl rfl rfl rfl rfl

theorem wide_evictBlock {s : State} (h : Wide s) (n : Nat) (b : L2Block) : Wide (s.evictBlock n b) := by
  have h : Wide (b.sectors.foldl (fun s x => s.writeBack b (n * 256 + 64 * x.1) x.2) s) :=
    foldl_keeps Wide b.sectors _ (fun s x h => wide_writeBack h _ _ _) h
  rw [State.evictBlock]
  generalize b.sectors.foldl _ s = s at h
  obtain ⟨h1, h2, h3, h4, h5, h6, h7, h8⟩ := h
  refine ⟨h1, h2, h3, h4, h5, h6, h7, fun m c hc => ?_⟩
  have hc : c ∈ sget [] (sput [] s.l2 n ((sget [] s.l2 n).filter fun c => c != b)) m := hc
  rw [sget_sput] at hc
  split at hc
  · exact h8 n c (List.mem_filter.mp hc).1
  · exact h8 m c hc

theorem wide_installL2 {s : State} (h : Wide s) (die a : Nat) : Wide (s.installL2 wide die a) := by
  have room : ∀ {s u : State} (slice n : Nat), Wide s → s.l2Room slice n = some u → Wide u := by
    intro s u slice n h hu
    unfold State.l2Room at hu
    dsimp only at hu
    split at hu
    · exact Option.some.inj hu ▸ h
    · obtain ⟨e, -, rfl⟩ := Option.map_eq_some_iff.mp hu
      exact wide_evictBlock h _ _
  unfold State.installL2
  split
  · exact h
  · dsimp only
    split
    · exact wide_l2 h (wide_modFirst _ _ (fun _ => rfl) (h.2.2.2.2.2.2.2 _))
    · have he := foldl_keeps Wide
        ((sget [] s.l2 (a / 256)).filter fun b => b.slice == s.homeSlice wide die a) (fun s b => s.evictBlock (a / 256) b)
        (fun _ _ h => wide_evictBlock h _ _) h
      split
      · rename_i u hu
        have hr := room _ _ he hu
        refine wide_l2 hr fun b hb => ?_
        obtain rfl | hb := List.mem_cons.mp hb
        · rfl
        · exact hr.2.2.2.2.2.2.2 _ b hb
      · exact he

theorem wide_writeSector {s : State} (h : Wide s) (d : Nat) (p : Nat × List Byte) : Wide (s.writeSector wide d p) := by
  unfold State.writeSector
  rw [if_neg (by decide)]
  have hp : Wide (if s.fillBad wide d p.1 then
      { s with poison := sset s.poison (wide.key d p.1 / 64) (BitVec.allOnes 64) } else s) := by
    split <;> exact h
  have hq := wide_installL2 hp d p.1
  dsimp only
  generalize State.installL2 _ wide d p.1 = u at hq
  have hw : Wide (if (u.l2Find d p.1).isSome then
      { u with l2 := sset u.l2 (p.1 / 256) (modFirst (fun b => b.has d p.1) (fun b => b.write p.1 p.2) (sget [] u.l2 (p.1 / 256))) }
      else u.writeBack { slice := u.homeSlice wide d p.1, way := 0, page := wide, sectors := [] } (p.1 / 64 * 64)
        ((u.sectorOf wide d p.1).write (p.1 % 64) p.2)) := by
    split
    · exact wide_l2 hq (wide_modFirst _ _ (fun _ => rfl) (hq.2.2.2.2.2.2.2 _))
    · exact wide_writeBack hq _ _ _
  exact wide_frame hw rfl rfl rfl rfl rfl rfl

theorem wide_writeFor {s : State} (h : Wide s) (ctx a : Nat) (bs : List Byte) : Wide (s.writeFor ctx wide a bs) := by
  have hc : s.cxlAccess ctx wide a bs.length = s := by rw [State.cxlAccess, h.2.2.2.2.2.1]; rfl
  rw [State.writeFor, hc, State.homeWrite]
  have hf : Wide (wide.dies.foldl (fun s d => (sectorParts a bs).foldl (fun s p => s.writeSector wide d p) s) s) := by
    exact foldl_keeps Wide _ _ (fun s d h => foldl_keeps Wide _ _ (fun s p h => wide_writeSector h d p) h) h
  exact hf

theorem wide_checkHome {s : State} (h : Wide s) {a : Nat} (ha : a < 2 ^ 40) : s.checkHome 8 a .store = .ok (wide, s) := by
  have hp : (s.core 8).plbFind a = some allRights := by
    have : plbMatch allRights a = true := by
      simp only [plbMatch, Bool.and_eq_true, decide_eq_true_eq]
      exact ⟨by decide, by show a / 2 ^ 40 = 0; omega⟩
    rw [Core.plbFind, h.1]
    simp [firstOf, this]
  have hb : s.barred wide = false := by rw [State.barred, h.2.2.2.2.2.2.1]; rfl
  have hh : s.held (sliceOf 8 / 256) a = some wide := by
    rw [State.held]
    split
    · next b hf =>
      have : b.page = wide := h.2.2.2.2.2.2.2 _ b (List.mem_of_find?_eq_some hf)
      rw [this, hb]
      rfl
    · have hc : wide.covers a = true := by
        simp only [TEntry.covers, Bool.and_eq_true, decide_eq_true_eq]
        exact ⟨Nat.zero_le _, by show a < 0 + 2 ^ 40; omega⟩
      have hs : (s.homeSlice wide (sliceOf 8 / 256) a == 0) = true := rfl
      rw [h.2.2.2.1]
      simp only [firstOf, hc, hb, hs, Bool.not_false, Bool.and_self, if_true]
  have hk : Acc.right .store allRights = true := by decide
  have hc : classRefuses (leafClass wide.leaf) .store (wbit allRights 5) (s.scratchOk wide) = none := by
    show classRefuses 0 .store _ _ = none
    rfl
  simp only [State.checkHome, State.plbCheck, hp, hk, State.translate, hh, if_true, bind, Except.bind, hc]
  rfl

theorem wide_l1Home {s : State} (h : Wide s) (a : Nat) : s.l1Home 8 a = 8 := by
  rw [State.l1Home]
  exact if_neg (by rw [show 8 / 8 = 1 from rfl, h.2.2.2.2.1]; decide)

theorem wide_wtRange {s : State} (h : Wide s) (a n : Nat) : s.wtRange 8 a n = .ok s := by
  rw [State.wtRange]
  generalize List.range ((a % 16 + n + 15) / 16 * 4) = l
  induction l with
  | nil => rfl
  | cons i l ih =>
    have : s.wtWord (s.l1Home 8 (a / 16 * 16 + 4 * i)) (a / 16 * 16 + 4 * i) = .ok s := by
      rw [wide_l1Home h, State.wtWord, h.2.2.1]
      rfl
    rw [List.foldlM_cons, this]
    exact ih

theorem wide_dropRange {s : State} (h : Wide s) (a n : Nat) : Wide (s.dropRange 8 a n) := by
  refine forRange_keeps Wide _ (fun i (s : State) => s.dropL1 8 (a / 4 * 4 + 4 * i)) (fun i s h => ?_) h
  show Wide (s.dropL1 8 _)
  rw [State.dropL1, wide_l1Home h]
  obtain ⟨h1, h2, h3, h4⟩ := h
  refine ⟨?_, ?_, ?_, h4⟩ <;> simp [h1, h2, h3, sdel]

theorem wide_writeHome {s : State} (h : Wide s) {a : Nat} (ha : a < 2 ^ 40) (bs : List Byte) :
    ∃ t, s.writeHome 8 a bs .store = .ok t ∧ Wide t := by
  have hw : isOwn 8 a = false := by
    rw [isOwn, if_neg (by decide)]
    exact decide_eq_false (by show ¬ 0x00FFFFFFFFFF0000 ≤ a; omega)
  have hd : s.drainOver 8 a bs.length = .ok s := by rw [State.drainOver, h.2.1]; rfl
  refine ⟨(s.writeFor (s.ctxOf 32) wide a bs).dropRange 8 a bs.length, ?_, wide_dropRange (wide_writeFor h _ _ _) _ _⟩
  simp only [State.writeHome, hw, State.atHome, wide_checkHome h ha, hd, wide_wtRange h, ofWt, kept, Except.mapError, bind, Except.bind, pure, Except.pure, Bool.false_eq_true, if_false]

theorem wide_writePieces {s : State} (h : Wide s) {a : Nat} (bs : List Byte) (ha : a + bs.length < 2 ^ 40) :
    ∃ t, s.writePieces 8 a bs = .ok t ∧ Wide t := by
  refine inTurn_ok (fun s i hi h => ?_) h
  have hi := List.mem_range.mp hi
  simp only [ceilDiv] at hi
  exact wide_writeHome h (show (a + 64 * i) % 2 ^ 56 < 2 ^ 40 by omega) _

theorem wide_foldImage (f : State → Nat → Except Stop State) {n : Nat} (hf : ∀ {s : State} {i : Nat}, Wide s → i < n → ∃ t, f s i = .ok t ∧ Wide t)
    {s : State} (h : Wide s) : ∃ t, (List.range n).foldlM f s = .ok t ∧ Wide t := by
  have fold : ∀ (l : List Nat) {s : State}, Wide s → (∀ i ∈ l, i < n) → ∃ t, l.foldlM f s = .ok t ∧ Wide t := by
    intro l
    induction l with
    | nil => intro s h _; exact ⟨s, rfl, h⟩
    | cons i l ih =>
      intro s h hl
      obtain ⟨t, ht, hw⟩ := hf h (hl i (by simp))
      rw [List.foldlM_cons, ht]
      exact ih hw fun j hj => hl j (by simp [hj])
  exact fold _ h fun i hi => List.mem_range.mp hi

theorem bytes_length (n v : Nat) : (bytesOfNat n v).length = n := by
  induction n generalizing v with
  | zero => rfl
  | succ n ih => rw [bytesOfNat, List.length_cons, ih]

theorem wide_chunks (n : Snap) : n.chunks < 2 ^ 24 := by
  have := Nat.mod_lt (imageSize n) (show 0 < 2 ^ 24 - 1 by decide)
  rw [Snap.chunks]
  omega

theorem wide_writeImage (n : Snap) {s : State} (h : Wide s) : ∃ t, s.writeImage 8 0x1000 n = .ok t := by
  have hn := wide_chunks n
  obtain ⟨u, hu, hw⟩ := wide_writePieces h (a := 0x1000) (headerBytes n.ctx n.counter n.chunks ++ List.replicate 3840 0) (by
    have hh : (headerBytes n.ctx n.counter n.chunks).length = 256 := by
      rw [headerBytes, List.length_append, List.length_replicate]
      simp only [imageHeader, List.flatMap_cons, List.flatMap_nil, List.length_append, bytes_length, List.length_nil]
    rw [List.length_append, List.length_replicate, hh]
    decide)
  have hg : ∀ (s : State) (i : Nat), (s.imageChunk n i).1.length ≤ 4096 := by
    intro s i
    simp only [State.imageChunk, gcmCrypt, xorBytes, List.length_zipWith, List.length_map, List.length_range]
    omega
  have ht : ∀ (s : State) (i : Nat), (s.imageChunk n i).2.length ≤ 16 := by
    intro s i
    simp only [State.imageChunk, gcmTag, xorBytes, List.length_zipWith, beBytes, List.length_map, List.length_range]
    omega
  obtain ⟨t, hx, -⟩ := wide_foldImage (n := n.chunks) (fun s i => do
      let (ct, tag) := s.imageChunk n i
      let s ← s.writePieces 8 (0x1000 + 4096 * (i + 1)) ct
      s.writePieces 8 (0x1000 + 4096 * (n.chunks + 1) + 16 * i) tag) (fun {s i} h hi => by
    have hi1 := hg s i
    have hi2 := ht s i
    generalize s.imageChunk n i = x at hi1 hi2 ⊢
    obtain ⟨ct, tag⟩ := x
    obtain ⟨u, hu, hw⟩ := wide_writePieces h (a := 0x1000 + 4096 * (i + 1)) ct (by have : ct.length ≤ 4096 := hi1; omega)
    obtain ⟨v, hv, hx⟩ := wide_writePieces hw (a := 0x1000 + 4096 * (n.chunks + 1) + 16 * i) tag (by have : tag.length ≤ 16 := hi2; omega)
    refine ⟨v, ?_, hx⟩
    simp only [bind, Except.bind, hu, hv]) hw
  refine ⟨t, ?_⟩
  show (s.writePieces 8 0x1000 _ >>= _) = _
  rw [hu]
  exact hx

theorem wide_checkImage {s : State} (h : Wide s) (n : Nat) (hn : n < 2 ^ 24) : s.checkImage 8 0x1000 n = .ok s := by
  obtain ⟨t, ht, rfl⟩ := inTurn_ok (P := fun t => t = s) (l := List.range (ceilDiv (imageLen n) 4096))
    (walks := fun i => [((0x1000 + 4096 * i) % 2 ^ 56, true)]) (f := fun s i =>
      let b := (0x1000 + 4096 * i) % 2 ^ 56
      if inWindow b then .error (.trap 7 (wordOfNat b))
      else match s.checkHome 8 b .store with
        | .error e => .error e
        | .ok (t, s) => if leafClass t.leaf = 0 then .ok s else .error (.after b true (.trap 7 (wordOfNat b))))
    (fun x i hi hx => by
      subst hx
      have hi := List.mem_range.mp hi
      simp only [ceilDiv, imageLen] at hi
      have hb : (0x1000 + 4096 * i) % 2 ^ 56 = 0x1000 + 4096 * i := by omega
      have hw : inWindow (0x1000 + 4096 * i) = false := decide_eq_false (by show ¬ 0x00FFFFFFFFFF0000 ≤ _; omega)
      have hc : leafClass wide.leaf = 0 := by decide
      refine ⟨x, ?_, rfl⟩
      simp only [hb, hw, wide_checkHome h (show 0x1000 + 4096 * i < 2 ^ 40 by omega), hc]
      rfl) rfl
  exact ht

theorem bind_ok {α β : Type} {x : Except Stop α} {a : α} {f : α → Except Stop β} (h : x = .ok a) (hf : ∃ v, f a = .ok v) :
    ∃ v, (x >>= f) = .ok v := by
  subst h
  exact hf

theorem completeSave_ok {s u t : State} {core x a : Nat} {sv : Saving} (hv : va sv.image = a)
    (hc : (s.settle x).checkImage core a ((s.settle x).snapshot x).chunks = .ok u) (hw : u.writeImage core a ((s.settle x).snapshot x) = .ok t) :
    ∃ v, s.completeSave core x sv = .ok v := by
  subst hv
  exact bind_ok hc (bind_ok hw ⟨_, rfl⟩)

theorem wide_of {s : State} (h : (s.core 8).plb = [(0, allRights)] ∧ (s.core 8).nt = [] ∧ (s.core 8).l1 = [] ∧ s.trans = [(0, wide)] ∧
    (s.car 1).fused = false ∧ s.cxlDown = [] ∧ s.pxmode = false ∧ s.l2 = []) : Wide s := by
  obtain ⟨h1, h2, h3, h4, h5, h6, h7, h8⟩ := h
  exact ⟨h1, h2, h3, h4, h5, h6, h7, fun n b hb => by rw [h8] at hb; cases hb⟩

/-- CTX.SAVE: context 1 stops, as its image can be stored. -/
def stopped1 : State := (ctxS ctx1).stopCtx 1 { start := 0, deadline := 0, exec := 0, image := 0x1000, slice := false }

theorem wide_stopped1 : Wide stopped1 := wide_of (by decide +kernel)

theorem wit_ctxSave : ∃ u, stopped1.checkImage 8 0x1000 (stopped1.snapshot 1).chunks = .ok u :=
  ⟨stopped1, wide_checkImage wide_stopped1 (stopped1.snapshot 1).chunks (wide_chunks (stopped1.snapshot 1))⟩

/-- Context 1 with a time slice of 2 microseconds, or with a save in progress. -/
def slice1 : Slice := { length := 2, waits := false, start := 0, deadline := 0, image := 0x1000, simage := 0, sv := false, succ := 0, exec := 0, plb := 8 }
def sav1 : Saving := { start := 0, deadline := 5, exec := 0, image := 0x1000, slice := true }

/-- CTX.SAVE again, of a context that has stopped: its image, of whatever length, is written. -/
theorem wit_ctxSaveCompletes :
    let sv : Saving := { sav1 with slice := false, image := 0x1000 }
    let s := ctxS { ctx1 with saving := some sv }
    s.enginesStopped 1 = true ∧ s.savePauses 1 sv = false ∧ ∃ v, s.completeSave 8 1 sv = .ok v := by
  intro sv s
  refine ⟨by decide +kernel, by decide +kernel, ?_⟩
  have h : Wide (s.settle 1) := wide_of (by decide +kernel)
  obtain ⟨t, ht⟩ := wide_writeImage ((s.settle 1).snapshot 1) h
  have hc := wide_checkImage h _ (wide_chunks ((s.settle 1).snapshot 1))
  exact completeSave_ok (by decide) hc ht

/-- CTX.SAVE waits for an engine that runs, and for a retraining of a stack of its image. -/
theorem wit_ctxSaveWaits :
    let sv : Saving := { sav1 with slice := false }
    let s := ctxS { ctx1 with saving := some sv }
    (State.enginesStopped { s with landings := [{ counts := true, peer := some 9, bar := 0, dst := 0, bytes := 4, core := 0, engine := 1, issuer := .loc 0, ticket := 0 }] } 1 = false ∨ s.savePauses 1 sv = true) ∧ (s.ctx 1).saving = some sv := by decide

theorem wit_slices :
    let s := ctxS { ctx1 with slice := some slice1 }
    let due := slice1.start + slice1.length * Config.cyclesPerMicro
    (s.ctx 1).slice = some slice1 ∧ (s.ctx 1).saving = none ∧ (s.ctx 1).resident = true ∧ slice1.waits = false ∧ ¬ due ≤ s.now ∧
    (due ≤ ({ s with cycle := 2101 } : State).now ∧ 16 ≤ (({ s with cycle := 2101 } : State).now - due) * s.ctxClock 1) ∧ s.midInstruction 1 = false ∧ slice1.image.toNat % 2 ^ 56 % 4096 = 0 ∧
    (∀ v ∈ (s.ctx 1).caravans, ∀ i, i < 32 → (s.slot (32 * v + i)).running = false) ∧ due ≤ ({ s with cycle := 2100 } : State).now ∧
    ¬ 16 ≤ (({ s with cycle := 2100 } : State).now - due) * s.ctxClock 1 ∧
    ((ctxS { ctx1 with slice := some { slice1 with waits := true } }).ctx 1).slice.map (·.waits) = some true ∧
    ((ctxS { ctx1 with slice := some slice1, saving := some sav1 }).ctx 1).saving = some sav1 ∧ sav1.slice = true ∧
    sav1.deadline ≠ 0 ∧ sav1.deadline * Config.cyclesPerMicro < 10000 - sav1.start ∧ 0 - sav1.start ≤ sav1.deadline * Config.cyclesPerMicro := by
  decide +kernel

/-- The leaf of address 0x1000 in `tables2`, and the state in which the image of a save with a deadline goes there. -/
def tables2 : List Host.Cell := [(0, 1), (1, 0x20), (0x2000, 1), (0x2001, 0x40), (0x4000, 1), (0x4001, 0x60), (0x6000, 0x41), (0x6003, 0x08)]
def saveS : State := { ctxS { ctx1 with saving := some sav1 } with mem := tables2 }
def stack1 : Nat :=
  let t := pageAt 0x08000041 0x1000
  2 * (t.key 0 0x1000 / Config.hbmDieBytes) + Config.hbmStack (t.key 0 0x1000 / 64) % 2

/-- Which stack the image's first line lies in is open (log 8), but it lies in one. -/
theorem wit_retraining :
    saveS.savesTo stack1 = true ∧ shas saveS.retrain stack1 = false ∧ (ctxS ctx1).savesTo 0 = false ∧
    sfind { saveS with retrain := [(stack1, 0)] }.retrain stack1 = some 0 ∧ 500 * Config.cyclesPerMicro ≤ 10 ^ 6 - 0 ∧
    0 - 0 < 500 * Config.cyclesPerMicro := by
  refine ⟨?_, rfl, by decide, ?_, by decide, by decide⟩
  · have hp : saveS.pageOf ((va sav1.image + 64 * 0) % 2 ^ 56) = some (pageAt 0x08000041 0x1000) := by decide +kernel
    have hm : stack1 ∈ saveS.imageStacks 1 sav1 := by
      rw [State.imageStacks, List.mem_dedup, List.mem_filterMap]
      refine ⟨0, List.mem_range.mpr ?_, ?_⟩
      · simp only [ceilDiv, imageLen]
        omega
      · dsimp only
        rw [hp]
        rfl
    rw [State.savesTo]
    refine List.any_eq_true.mpr ⟨(1, { ctx1 with saving := some sav1 }), by simp [saveS, ctxS], ?_⟩
    exact Bool.and_eq_true_iff.mpr ⟨by decide, List.contains_iff_mem.mpr hm⟩
  · simp [sfind]

theorem wit_contextCreate :
    let s : State := { State.reset with boot := { stage := 3, fail := 0, done := 3 } }
    let free := fun (s : State) => s.boot.stage = 3 ∧ (s.ctx 5).live = false ∧ [7] ≠ [] ∧ [7].Nodup ∧ ∀ v ∈ [7], (s.car v).ctx = none
    free s ∧ ¬ free State.reset := by decide

/-- R170, R209 (log 64): a valid PLB entry and a binding record are installed; an entry with a reserved bit, and no record, are not. -/
theorem test_contextBegins :
    let e : Word := 0x8000000000401004
    let rec_ : List Byte := bytesOfNat 8 0x811 ++ bytesOfNat 8 0x400000 ++ bytesOfNat 8 0x400100 ++ bytesOfNat 8 0
    firstPlb [e, e ||| 0x40] = [(0, e)] ∧
    firstBinds [[], rec_] = [(1, { lo := 0x400000, hi := 0x400100, en := true, replay := false, prio := 0, inst := 1, count := 1, bound := true })] := by
  decide

/-! ### Host lanes, links, boot, SPDM -/

/-- Booted, with a page of 64 KiB of class 0 at address 0 whose frame is 1. -/
def bootedS : State := { base 0 0 with boot := { stage := 3, fail := 0, done := 3 }, mem := tables2 }
/-- A request on lane 0 in order. -/
def req0 : HostReq := { lane := 0, seq := 0, ctx := 0, acq := false, addr := 0x100, len := 16, w2 := 0, w3 := 0, data := [], clean := true }

theorem wit_hostRequests :
    let s := bootedS
    s.lanesUp = true ∧ State.reset.lanesUp = false ∧ s.serving ≠ some 0 ∧ req0.seq = (s.lane 0).last + 1 ∧ (5 : BitVec 32) ≠ (s.lane 0).last + 1 ∧
    (s.lane 0).held = [] ∧ ((s.accept 0 req0).lane 0).held ≠ [] ∧ req0.clean = true ∧ wbits req0.w2 63 32 = 0 ∧ req0.w3.toNat < 2 ^ 32 ∧
    fromSeq 1 (ofSource 0 (s.lane 0).sent) = [] ∧ (s.lane 0).unsent ++ (s.lane 0).waiting = [] ∧ (1 : Nat) ≠ sget 0 s.evSeq 0 := by decide

/-- Flits: a read of 16 bytes, and requests of reserved kinds. -/
theorem wit_hostFlits :
    let s := bootedS
    let kind := fun (w : Word) => requestKind ((([w] : List Word)).getD 0 0)
    let free := fun (w : Word) => let q := requestOf 0 [w] []
      s.lanesUp = true ∧ s.serving ≠ some q.lane ∧ q.seq = (s.lane q.lane).last + 1 ∧ q.clean = true ∧ (s.lane q.lane).held = []
    kind 0xF = 0 ∧ 112 ≤ kind 0x70000000 ∧ free 0x70000000 ∧ 90 < kind 0x5000F000 ∧ kind 0x5000F000 < 96 ∧ free 0x5000F000 ∧
    99 < kind 0x60004000 ∧ kind 0x60004000 < 112 := by decide

theorem wit_hostEvent :
    let e : Event := { words := [0, 0, 0, 0, 0, 0, 0, 0] }
    let s := bootedS.modLane (Source.ofWord 0).lane fun l => { l with sent := [e] }
    fromSeq 0 (ofSource 0 (s.lane (Source.ofWord 0).lane).sent) = [e] ∧ wbits (e.words.getD 1 0) 63 32 = 0 := by decide

theorem wit_hostMemory :
    let s := bootedS
    hostAligned 0x100 16 = true ∧ hostAligned 0x101 16 = false ∧
    gives ((s.accept 0 req0).hostPage 0 0x100 false) (fun x => !x.2.badAt x.1 0 0x100 16 && !shas (x.2.lane 0).buffer 0x100) = true ∧
    gives ((State.accept { s with poison := [(4, 1)] } 0 req0).hostPage 0 0x100 false) (fun x => x.2.badAt x.1 0 0x100 16) = true ∧
    stops ((s.accept 0 req0).hostPage 0 0x80000000000000 false) = true ∧ gives ((s.accept 16 req0).hostPage 0 0x100 true) (fun _ => true) = true ∧
    stops ((s.accept 16 req0).hostPage 0 0x80000000000000 true) = true ∧ gives (s.hostPage 0 0x100 true) (fun _ => true) = true ∧
    (let b := s.modLane 0 fun l => { l with buffer := (List.range 16).map fun i => (0x100 + i, 1) }
     gives ((b.accept 0 req0).hostPage 0 0x100 false) (fun x => (List.range 16).all fun i => shas (x.2.lane 0).buffer (0x100 + i)) = true) := by
  decide +kernel

theorem wit_writeWc :
    let w := bootedS.accept 32 req0
    w.lanesUp = true ∧ (w.lane 0).held[0]? = some { kind := 32, req := req0, order := 0 } ∧ (∀ x ∈ (w.lane 0).held.take 1, x.kind = 32) ∧
    gives (w.hostPage 0 0x100 true) (fun _ => true) = true := by decide +kernel

theorem wit_hostLaunch :
    let read := fun (m : List Host.Cell) (q : List LRec) (p : List Word → State → Bool) =>
      let s := { bootedS with mem := tables2 ++ m }.modCtx 0 fun c => { c with queues := [(0, q)] }
      gives ((s.accept 48 req0).hostPage 0 0x100 false) fun x =>
        !x.2.badAt x.1 0 0x100 128 && p (wordsOf 16 (x.2.homeRead x.1 0 0x100 128)) (x.2.fillRange x.1 0 0x100 128)
    7 < (8 : Word).toNat ∧ 0x140 % 128 ≠ 0 ∧ read [] [] (fun ws _ => recordBad ws) = true ∧
    read [(0x108, 1), (0x10A, 0x10)] [] (fun ws v => !recordBad ws && v.assigned 0 (placementOf (ws.getD 1 0)) &&
      decide ((sget [] (v.ctx 0).queues 0).length < 64)) = true ∧
    read [(0x108, 1), (0x10A, 0x10)] (List.replicate 64 record1) (fun ws v => !recordBad ws && v.assigned 0 (placementOf (ws.getD 1 0)) &&
      decide (64 ≤ (sget [] (v.ctx 0).queues 0).length)) = true := by decide +kernel

theorem wit_hfence :
    let s := bootedS.accept 32 { req0 with lane := 1 }
    wbits (0x10000 : Word) 63 16 ≠ 0 ∧ wbits (2 : Word) 63 16 = 0 ∧ wbit (2 : Word) 1 = true ∧ (∃ x ∈ ((s.accept 64 req0).lane 1).held, x.order < s.order) ∧
    ∀ n, n < 16 → wbit (0 : Word) n = false := by decide

theorem wit_services :
    let s := bootedS
    let f := { s with fencedPkgs := [9], ports := [(3, { Port.reset with peer := some 9, downAt := 0, state := .fenced })] }
    (∀ c ∈ (State.reset.accept 80 req0).ctxs, c.2.live = false) ∧ 9 ∉ (s.accept 82 req0).fencedPkgs ∧ 9 ∈ (f.accept 82 req0).fencedPkgs ∧
    (∃ p ∈ (f.accept 82 req0).portsTo 9, ((f.accept 82 req0).port p).downAt = 0) ∧
    (let g := { s with fencedPkgs := [9], ports := [(3, { Port.reset with peer := some 9, downAt := 7, state := .fenced })] }
     ∀ p ∈ (g.accept 82 req0).portsTo 9, ((g.accept 82 req0).port p).downAt ≠ 0) ∧
    ((s.accept 83 req0).ctx 0).live = true ∧ ((s.accept 83 req0).ctx 9).live = false ∧ wbits (1 : Word) 15 0 ≠ 0 ∧ (s.ruleCtx 0).owner = none ∧
    ((s.modRule 0 fun c => { c with owner := some 4 }).ruleCtx 0).owner = some 4 ∧ ((s.accept 90 req0).core 0).fenced = false ∧
    (((s.modCore 0 fun c => { c with fenced := true }).accept 90 req0).core 0).fenced = true ∧ wbits (0x8000 : Word) 63 15 ≠ 0 := by decide

theorem wit_pages :
    let s := { faultS tables1 false with boot := { stage := 3, fail := 0, done := 3 } }
    let pins := s.modCore 0 fun k => { k with running := [(0, [{ cmdE 0 with fetched := [(0x100, 1)] }])] }
    ((s.accept 84 req0).leafOf 0x100).isSome = true ∧ ((State.reset.accept 84 req0).leafOf 0x100) = none ∧
    (s.accept 84 req0).flushWaits 0x100 = false ∧ (State.flushWaits { pins with trans := [(0, page0)] } 0x100) = true ∧
    (State.accept { pins with trans := [(0, page0)] } 85 req0).flushWaits 0x100 = true ∧ (s.accept 85 req0).flushWaits 0x100 = false := by decide +kernel

theorem wit_links :
    let p := fun (st : PortState) (d : Nat) => ({ base 0 0 with ports := [(3, { Port.reset with peer := some 9, state := st, downAt := d })] } : State)
    ((p .up 0).port 3).state = .up ∧ ((p .resync 0).port 3).state = .resync ∧ ((p .resync 0).port 3).escrows = [] ∧ ((p .down 1).port 3).state = .down ∧
    ((p .fenced 1).port 3).state = .fenced ∧ (p .down 1).portsTo 9 ≠ [] ∧ 9 ∉ (p .down 1).fencedPkgs ∧
    (∀ k ∈ (p .down 1).portsTo 9, ((p .down 1).port k).state = .down ∧ ((p .down 1).port k).downAt ≠ 0) ∧
    (p .down 1).fenceInterval ≤ micros 0 (10 ^ 9) ∧ (p .up 0).portsTo 8 = [] := by decide +kernel

theorem wit_linkCounts :
    let s : State := { base 0 0 with ports := [(3, { Port.reset with state := .up, resends := [(4, 8)] })] }
    9 ≤ sget 0 (s.port 3).resends 4 + 1 ∧ (s.port 3).state = .up ∧ sget 0 (s.port 3).resends 5 + 1 ≤ 8 := by decide

theorem wit_temperature :
    let s := base 0 0
    let above := fun (s : State) (deg x : Nat) => ∃ q, q < 4 ∧ x < sget 0 (sset s.temps 0 deg) (4 * 0 + q)
    let hot := { s with hot := [0] }
    (above s 106 105 ∧ ¬ above s 105 105 ∧ 0 ∈ hot.hot ∧ above hot 100 99 ∧ ¬ above hot 99 99 ∧ above s 111 110) ∧
    s.clockOf 0 = 16 ∧ 8 < s.clockOf 0 ∧ s.deadlineSave = false ∧ 115 ≤ 115 ∧
    (ctxS { ctx1 with saving := some sav1 }).deadlineSave = true ∧ { s with clock := [(0, 8)] }.clockOf 0 = 8 := by
  decide +kernel

/-- A line of the device of die 0 behind its CXL port. -/
theorem wit_cxl :
    let x : TEntry := { base := 0, log := 16, leaf := 0x40047 }
    x.key 0 0 / 2 ^ 53 = 1 ∧ x.key 0 0 % 2 ^ 53 / 2 ^ 42 = 0 ∧ leafClass x.leaf ≠ 5 ∧ (base 0 0).l2Find 0 0 = none := by decide

/-- An image with a good header for stage 1 and no code. -/
def image1 : FwImage :=
  { header := [wordOfNat (0x4B534730 * 2 ^ 32 + 1 * 2 ^ 24 + 1), wordOfNat (3 * 2 ^ 32)] ++ List.replicate 62 0, code := [],
    rsa := List.replicate 384 0, slh := List.replicate 7856 0, rsaKey := List.replicate 387 0, slhKey := List.replicate 32 0 }

/-- Which keys the fuses name is open (log 9): image 1 passes exactly when both signatures verify under them. -/
theorem wit_boot :
    headerOk image1 1 = true ∧ headerOk image1 2 = false ∧ imageSvn image1 = 3 ∧ State.reset.boot.stage = 0 ∧ State.reset.boot.fail = 0 ∧
    State.imageFail { State.reset with minSvn := [(1, 4)] } image1 1 = 2 ∧ State.reset.imageFail image1 2 = 1 := by decide +kernel

theorem wit_bootPasses (hr : rsaPasses image1 = true) (hs : slhPasses image1 = true) : State.reset.imageFail image1 1 = 0 := by
  have h1 : headerOk image1 1 = true := by decide +kernel
  have h2 : ¬ imageSvn image1 < sget 0 State.reset.minSvn 1 := by decide +kernel
  simp [State.imageFail, h1, h2, hr, hs]

theorem wit_bootStages :
    let s := fun (st fail done : Nat) => ({ State.reset with boot := { stage := st, fail, done } } : State)
    (s 1 0 0).boot.stage = 1 ∧ (s 1 0 0).imageFail image1 2 = 1 ∧ (s 2 0 1).boot.done = 1 ∧ (s 2 0 1).boot.stage = 2 ∧ (s 2 5 1).boot.fail ≠ 0 := by decide

/-- The mailbox page lies at key 0: a request of 9 bytes, with the version and code given. -/
def mailbox1 : TEntry := { base := Config.mailbox, log := 30, leaf := 0x20047 }
def spdmS (version code : Byte) : State :=
  { State.reset with
    boot := { stage := 2, fail := 0, done := 2 }
    trans := [(0, mailbox1)]
    mem := [(0, 9), (8, 0x7E), (13, version), (14, code)] }
def spdm1 : SpdmReq := { param1 := 0, param2 := 0, body := [] }

theorem wit_spdm :
    let asks := fun (version code : Byte) => gives ((spdmS version code).translate 0 Config.mailbox true) (fun x =>
      let num := fun (off : Nat) => natOfBytes (x.2.homeRead x.1 0 (Config.mailbox + off) 4)
      let packet := x.2.homeRead x.1 0 (Config.mailbox + 8) (num 0)
      decide (1 ≤ num 0 ∧ num 0 ≤ 2040 ∧ num 2048 = 0 ∧
        packet = packet.take 5 ++ [version, code, spdm1.param1, spdm1.param2] ++ spdm1.body ∧ packet.getD 5 0 = version ∧ packet.getD 6 0 = code))
    (spdmS 0 0).lanesUp = true ∧ asks 0x10 0x84 = true ∧ asks 0x13 0x81 = true ∧ asks 0x13 0x84 = true ∧
    gives (State.translate { spdmS 0 0 with mem := [] } 0 Config.mailbox true) (fun x =>
      decide (natOfBytes (x.2.homeRead x.1 0 Config.mailbox 4) = 0)) = true := by decide +kernel

/-! ### Words and steps -/

theorem wit_words :
    encodeWord (.add 1 2 3) = some 0x003100B3 ∧ Instr.wf (.add 1 2 3) = true ∧ decodeWord 0x003100B3 = some (.add 1 2 3) ∧
    encodeTcw (.mzero hdr0 5) ≠ none ∧ Instr.wf (.mzero hdr0 5) = true ∧ (encodeTcw (.mzero hdr0 5)).bind decodeTcw = some (.mzero hdr0 5) := by decide

/-- Slot 0 has the next turn; `w` is the word at its PC. -/
def turnS (w : BitVec 32) : State :=
  { base 0 0 with cars := [(0, { Caravan.reset with ctx := some 0, ic := [(0x400, w)] })], sched := [.issue 0] }

theorem wit_stepRunsDecoded :
    let s := turnS addi11
    let s0 := { Claims.begun s with sched := [] }
    let s1 := Claims.chosen s0 0
    (Claims.begun s).sched = .issue 0 :: [] ∧ (Claims.begun s).boot.fail = 0 ∧ s0.nextSlot (coreOf 0) = some 0 ∧
    s0.nextSlot (coreOf 1) ≠ some 1 ∧ (s0.together 0).length ≤ 1 ∧ s0.slotReady 0 = true ∧ s0.slotReady 1 = false ∧
    (s1.slot 0).interruptible = false ∧ s0.laneOf 0 = none ∧ s1.fed 0 = true ∧
    gives ((s1.goes 0).fetchFor 0 (s1.slot 0).at_) (fun x => decide (x.1 = addi11 ∧ (x.2.slot 0).rep = none ∧ (x.2.slot 0).mismatch = 0 ∧
      (x.2.slot 0).fresh = false ∧ (x.2.slot 0).errX = [] ∧ (x.2.slot 0).errV = [])) = true ∧ decodeWord addi11 = some (.addi 1 1 1) ∧
    stops ((s1.modSlot 0 fun sl => { sl with pc := far }).fetchAt 0 far) = true ∧ decodeWord 0 = none ∧
    gives ((Claims.chosen { Claims.begun (turnS 0) with sched := [] } 0).fetchAt 0 0x1000)
      (fun x => decide (x.1 = 0 ∧ (x.2.slot 0).rep = none)) = true := by decide +kernel

/-- An interrupt is enabled at an instruction boundary; a checker is to mismatch. -/
theorem wit_stepInterrupted :
    let s := (turnS addi11).modSlot 0 fun sl => { sl with sip := 2, sie := 2 }
    let s1 := Claims.chosen { Claims.begun s with sched := [] } 0
    (s1.slot 0).interruptible = true ∧ (s1.slot 0).atBoundary = true ∧
    (let m := (turnS addi11).modSlot 0 fun sl => { sl with mismatch := 1 }
     gives ((Claims.chosen { Claims.begun m with sched := [] } 0).fetchAt 0 0x1000) (fun x => decide ((x.2.slot 0).mismatch ≠ 0)) = true) := by
  decide +kernel

/-- A member whose lane has delivered its instruction, and one whose lane waits for its resolution. -/
theorem wit_stepOfMember :
    let fed := { laneS { lane1 with nextSeq := 2, pending := none, stream := [(1, { pc := 0x1008, word := some addi11, members := [0, 1] })] } with cores := (base 0 0).cores, trans := (base 0 0).trans }
    let s1 := Claims.chosen (fed.feed 0) 0
    (s1.laneOf 0).isSome = true ∧ (fed.feed 0).slotReady 0 = true ∧ s1.fed 0 = true ∧
    gives ((s1.goes 0).fetchFor 0 (fed.slot 0).at_) (fun x => decide (x.1 = addi11)) = true ∧
    (let waits := (laneS lane1).feed 0
     waits.slotReady 0 = true ∧ (Claims.chosen waits 0).fed 0 = false) := by decide +kernel

theorem wit_stepOfEngine :
    let c := { cmdE 0 with tcw := { q0 := 0x0000000500000006, q1 := 0, q2 := 0, q3 := 0 } }
    let s := baseC 0 0 fun k => { k with queues := [(0, [c])] }
    let s0 := { Claims.begun { s with sched := [.engine 0 0] } with sched := [] }
    s0.stopped 0 = false ∧ (s0.selectEngine 0 0).isSome = true ∧ ((s0.selectEngine 0 0).map fun x => decodeTcw x.2.1.tcw) = some (some (.mzero hdr0 5)) ∧
    isEvent (.laneLockTimeout 3) = true ∧ Instr.wf (.laneLockTimeout 3) = true := by decide +kernel

theorem wit_invariants : State.reset.MemInv ∧ ∀ k, k ≠ stewardSlot → ((base 0 0).slot k).priv ≠ .m := by
  refine ⟨by unfold State.MemInv; decide, ?_⟩
  intro k hk
  by_cases h : k = 0
  · subst h; decide
  · have h' : ¬ 0 = k := fun e => h e.symm
    have : (base 0 0).slot k = Slot.reset := by
      simp [base, State.slot, sget, State.reset, h', hk]
    rw [this]
    decide

/-! ### Witnesses of the clauses added later -/

/-- Port 0 of slot 0 is bound to stream 1. -/
theorem wit_sbind :
    let s := baseS 0 0 fun sl => { sl with sbind := 9 }
    s.streamBound 0 1 1 = true ∧ s.streamBound 0 3 1 = true ∧ s.streamBound 0 0 1 = false ∧ s.streamBound 0 1 2 = false ∧
    wbit (0x8000 : Word) (4 * 3 + 3) = true ∧ wbit (0x7FFF : Word) (4 * 3 + 3) = false := by decide

/-- R235: a write that clears port 0 and names its stream at port 1 binds nothing, as the stream was bound before it. -/
theorem test_sbind :
    let s := baseS 0 0 fun sl => { sl with sbind := 9, ports := [(0, [7])] }
    (((s.writeCsr 0 0x805 0x90).slot 0).sbind = 0 ∧ ((s.writeCsr 0 0x805 0x90).slot 0).port 0 = []) ∧
    ((s.writeCsr 0 0x805 0xA9).slot 0).sbind = 0xA9 := by decide

theorem wit_vectorBound : (bindS []).bound (58 + 2) = true ∧ (bindS []).bound (59 + 1) = true ∧ (bindS []).vsrc 60 = none ∧
    ((bindS []).vsrc 1).isSome = true ∧ ∀ e ∈ ((base 0 0).core 0).errAcc, errBits e.2 ≤ 1 := by decide

theorem wit_scAtHome : gives ((base 0x100 9).atHome 0 0x100 8 .sc) (fun _ => true) = true := by decide +kernel

/-- A barrier on a replicated page. -/
theorem wit_barrierClass :
    gives (State.atHome { base 0 0 with trans := [(0, { page0 with leaf := 0x20057 })] } 0 0x100 16 .amo) (fun x => leafClass x.1.leaf == 2) = true := by
  decide +kernel

/-- The read of a block has begun. -/
def cmdV : Cmd := { cmdE 0 with fetched := [(2 ^ 31, 0)] }

/-- A block of a governed page at 2^31, with a header that is good or not; MWLOADs of it. -/
def govS (h0 : Word) : State :=
  let s := engS 0 cmdV
  { s with trans := [(0, page0), (0, page4)] }.homeWrite page4 (2 ^ 31) (bytesOfNat 8 h0.toNat)
def govL (cols : BitVec 7) (stepchk : Bool) (cvt : BitVec 2) : MwloadF :=
  { w := 0x1000000080000000, rows := 1, cols, prev := false, stepchk, cvt, sofs := 0, wstride := 0, steptag := 5 }
def govO (cvt : BitVec 2) : Option Opnd := (Claims.loaded hdr0 (govL 64 false cvt) true).opnd

theorem wit_governedLoad :
    tagOk (ptrCode 0x1000000080000000) (ptrBl 0x1000000080000000) = true ∧ ptrCode 0x1000000080000000 = 2 ∧ va 0x1000000080000000 % 256 = 0 ∧
    (govO 1).isSome = true ∧ (govO 2).isSome = true ∧ 1 ≤ ((govO 1).map (·.fmt.kd)).getD 0 := by decide +kernel

theorem wit_governedPage :
    reads (Eng.page (2 ^ 31) .read fun _ => true) (govS header1) cmdV (fun t => leafClass t.leaf == 4) = true := by decide +kernel

theorem wit_governedFetched :
    runs (Eng.fetchBlocks (Claims.loaded hdr0 (govL 64 false 1) true)) (govS header1) cmdV (fun _ _ => true) = true := by decide +kernel

theorem wit_governedHeaders :
    runs (Eng.read (2 ^ 31) 256) (govS header1) cmdV (fun hd _ => !headerBad (wordsOf 32 hd)) = true ∧
    runs (Eng.read (2 ^ 31) 256) (govS 0) cmdV (fun hd _ => headerBad (wordsOf 32 hd)) = true := by decide +kernel

theorem wit_governedBlocks :
    runs ((Claims.loaded hdr0 (govL 64 false 1) true).blocks.mapM fun a => do
      let hd ← Eng.read a 256
      let w ← Eng.read ((Claims.loaded hdr0 (govL 64 false 1) true).weights a ((wordsOf 32 hd).getD 0 0)) 1024
      pure (wordsOf 32 hd, w)) (govS header1) cmdV (fun bs _ => !headerBad (bs.headD ([], [])).1) = true := by decide +kernel

theorem wit_checkedProduct :
    productShapeBad { prod1 with chk := true } true false = false ∧ Path.fma .fp32 ≠ .int ∧ (Path.fma .fp32).is64 = false := by decide

/-- E4M3 operands: the path of MMUL.T over two tiles. -/
def pFp8 : Word := 0x3000000000001000
theorem wit_productG32 :
    (opndOf pFp8).isSome = true ∧ ((opndOf pFp8).map fun o => pathOf o o) = some (some .g32) ∧
    ((opndOf pFp8).map fun o => plainPair .g32 o o) = some true ∧ productShapeBad { prod1 with pair := true } false false = false := by decide

/-- A write whose translation is not there; and a checksum report likewise. -/
theorem wit_writesWait :
    (match Eng.writeAll [(2 ^ 34, List.replicate 8 0)] (Claims.at_ (engS 0 (cmdE 0)) (cmdE 0)) with
      | .error (.later ws missing _) => decide (ws.length = 0 ∧ missing = [2 ^ 34])
      | _ => false) = true ∧
    runs (Eng.writeAll [(va pF32, List.replicate 800 0)]) (engS 0 (cmdE 0)) (cmdE 0) (fun _ _ => true) = true := by decide +kernel

theorem wit_cpysShape : ({ cmdC with issuer := .rem 5 } : Cmd).reachesWindow = false ∧ 8 % 16 ≠ 0 := by decide

/-- An uncorrectable spread record; a GPACE descriptor with a reserved bit. -/
theorem wit_commonsErrors :
    names 0x40000000 0 .load (fun _ w => w = 0) region1 Port.reset (fun r u =>
      let u := { u with poison := [(page0.key 0 0x8000 / 64, 1)] }
      gives (u.translate (u.cur / 4 / 8) (r.reg.spreadSlot r.n 0) false) fun x => x.2.badAt x.1 0 (r.reg.spreadSlot r.n 0) 8) = true ∧
    (let s := commonsE region1 (port1 .up [])
     let s := s.homeWrite page0 0x1010 (bytesOfNat 8 (2 ^ 63))
     runs (Eng.read 0x1000 64) s cmdG (fun bs _ => wbits ((wordsOf 8 bs).getD 2 0) 63 36 != 0) = true) := by decide +kernel

/-- A descriptor with no blocks, and a misaligned one. -/
theorem wit_ruleDescriptor :
    runs (Eng.readAs .read descClass 0x2000 80) (ruleS header1 .empty) cmdR (fun bs _ => (ruleDesc (wordsOf 10 bs)).nblk == 0) = true ∧
    va 0x1040 % 128 ≠ 0 := by decide +kernel

/-- An image with the active version, in the local store. -/
theorem wit_ruleInstVersion :
    let s := ruleC 0 (wordOfNat Config.windowBase) rc1
    let s := s.modCore 0 fun k => { k with loc := [(0, 1)] }
    gives (s.release 0 .package) (fun u => gives (Act.loadRecord Config.windowBase 4096 u) fun x =>
      !imageBad x.1 && (imageSlot x.1).version == 1 && ((u.ruleCtx 0).slotAt 0 true).version == 1 && decide (x.2.ruleCtx 0 = u.ruleCtx 0)) = true := by
  decide +kernel

/-- A way that a mask changes holds a pinned sector; a TSLICE descriptor with a reserved bit. -/
theorem wit_privilegedWaits :
    let b : L2Block := { slice := 0, way := 1, page := page0, sectors := [(0, { data := [], dirty := false })] }
    let s := (mgrS 0 0).modCore 0 fun k => { k with running := [(0, [{ cmdE 0 with fetched := [(0x100, 1)] }])] }
    State.waysWait { s with l2 := [(1, [b])] } 0 2 = true ∧ (mgrS 0 0).waysWait 0 2 = false ∧
    gives (Act.loadRecord 0x40 64 { mgrS 0 0x40 with mem := [(0x47, 0x80)] }) (fun x => decide (wbits ((wordsOf 8 x.1).getD 0 0) 63 55 ≠ 0)) = true ∧
    0x48 % 64 ≠ 0 := by decide +kernel

theorem wit_flipMismatch :
    (((mgrS 0 0).modSlot 0 fun sl => { sl with wait := .flip, mismatch := 2 }).slot 0).mismatch = 2 ∧
    (((mgrS 0 0).modSlot 0 fun sl => { sl with wait := .flip }).slot 0).mismatch ≠ 2 := by decide

/-- A message waits for a page of the spill area. -/
theorem wit_spillStall :
    let s := (mailS attr1 (List.replicate 16 msg1) [] flight1).modCtx 0 fun c => { c with spillWait := [(3, 7)] }
    (3, 7) ∈ (s.ctx 0).spillWait ∧ s.spillFull 0 3 = true ∧ s.mustSpill 0 3 = true ∧ s.stall 0 = some (7, 3, 0) := by decide +kernel

theorem wit_hostHeld :
    let s := bootedS.accept 112 req0
    (s.lane req0.lane).held = [{ kind := 112, req := req0, order := 0 }] ∧ s.lanesUp = true ∧
    ({ State.reset with boot := { stage := 2, fail := 7, done := 2 } } : State).boot.fail ≠ 0 := by decide

theorem wit_clock :
    let s := { base 0 0 with clock := [(1, 12), (3, 8)] }
    (s.clock.map (·.1)).Nodup ∧ s.clockOf 1 = 12 ∧ s.clockOf 0 = 16 ∧ sget 0 s.lost 1 ≤ 16 * s.cycle ∧
    (s.pass 1).dieRuns (dieOf (coreOf (4 * 2048))) = false := by decide +kernel

/-- R461: of five cycles of the full clock, three pass at the step 12, two at the step 8, and all on the other dies. -/
theorem test_clock :
    let t := { base 0 0 with clock := [(1, 12), (3, 8)] }.pass 5
    t.now = 5 ∧ t.cycles 0 = 5 ∧ t.cycles 1 = 3 ∧ t.cycles 3 = 2 := by decide +kernel

theorem wit_bootL2 : State.reset.l2 = [] := by decide

/-- Two members that a CVSYNC has let go on together. -/
def goS : State :=
  { laneS { lane1 with nextSeq := 2, pending := none, stream := [(1, { pc := 0x1008, word := some addi11, members := [0, 1] })],
                       members := [{ member1 0 0 none with go := true }, { member1 1 4 none with go := true }] } with
    cores := (base 0 0).cores, trans := (base 0 0).trans, sched := [.issue 0] }

theorem wit_stepOfCycle :
    (Claims.begun { turnS addi11 with sched := [.cycle [0, 5, 1] [8192, 3]] }).sched = .cycle [0, 5, 1] [8192, 3] :: [] ∧
    (let s0 := { Claims.begun goS with sched := [] }
     (Claims.begun goS).sched = [.issue 0] ∧ s0.nextSlot (coreOf 0) = some 0 ∧ 1 < (s0.together 0).length) := by decide +kernel

/-- Pointers with format code 15, for VLD and VLDB; code 24, which VLDB does not load; VST of an unbound register. -/
theorem wit_vectorMemoryConv :
    let s := base 0x7800000000000100 0
    let p := Claims.xs s 1
    wbits p 63 59 = 15 ∧ tagOk 15 (wbits p 58 56) = true ∧ (s.slot 0).bound 3 = false ∧ vldbBytes 15 ≠ 0 ∧ 0x104 % vldbBytes 15 = 0 ∧
    0x102 % vldbBytes 15 ≠ 0 ∧ 0x100 % 32 = 0 ∧ gives (s.load 0 0x100 32 false) (fun _ => true) = true ∧
    gives (s.load 0 0x100 32 true) (fun _ => true) = true ∧ gives (s.load 0 0x104 (vldbBytes 15) false) (fun _ => true) = true ∧
    vldbBytes 14 = 0 ∧ (bindS []).vsrc 1 = some 5 ∧ 13 < wbits (0x7000000000000100 : Word) 63 59 := by decide +kernel

/-- VST.NT of a line that the L1 holds. -/
theorem wit_vstNtHeld :
    let s := hit 0x100 0
    (s.l1Line 0 0x100).isSome = true ∧ (∀ w, s.l1Line 0 0x100 = some w → gives (s.checkHit 0 0x100 w .store) (fun _ => true) = true) ∧
    gives (s.wtRange 0 0x100 32) (fun v => gives ((v.dropRange 0 0x100 32).ntPut 0 0x100 (bytesOfNat 16 7)) fun _ => true) = true := by
  refine ⟨by decide +kernel, ?_, by decide +kernel⟩
  intro w h
  have e : (hit 0x100 0).l1Line 0 0x100 = some { data := 7, dirty := false, cls := 0, ro := false, way := 0, bad := 0 } := by decide +kernel
  rw [e] at h
  injection h with h
  subst h
  decide +kernel

/-- A lane that waits at its instruction 1, a CVSYNC: with every member past it, and with one that is not. -/
theorem wit_settleLanes :
    let m := fun (id seq : Nat) => { member1 id (4 * id) none with seq }
    let l : Nat → Lane := fun q => { lane1 with sync := some 1, stream := [(1, { pc := 0x1004, word := none, members := [] })], members := [m 0 2, m 1 q] }
    sfind ((laneS (l 2)).car 0).lanes 1 = some (l 2) ∧ (l 2).sync = some 1 ∧ (l 2).members.all (fun m => decide (1 < m.seq)) = true ∧
    (sfind (l 2).stream 1).isSome = true ∧ (l 1).members.any (fun m => decide (m.seq ≤ 1)) = true := by decide +kernel

/-- A free lane; and the lane that a last member left in this cycle is not free. -/
theorem wit_freedLane :
    (laneS lane1).freeLane 0 = some 0 ∧ ({ laneS lane1 with freed := [(0, 0)] } : State).freeLane 0 = some 2 := by decide

/-- A message that needs room in the spill area, where a frame is free. -/
theorem wit_frame (h : Config.frameFree 0 = true) : ((mailS attr1 (List.replicate 16 msg1) [] flight1).takeFrame 0 none).1 = true := by
  show (if Config.frameFree 0 then _ else _ : Bool × State).1 = true
  rw [h]
  rfl

theorem wit_firingNoMismatch :
    let s := mailS attr1 [msg1] [] flight1
    ((s.core 3).queueAttr 2).count ≤ 4 ∧ ∀ j, j / 32 = 0 → (s.slot j).mismatch ≠ 2 := by
  refine ⟨by decide, fun j _ => ?_⟩
  cases j with
  | zero => decide
  | succ n => simp [State.slot, mailS, base, sget]; split <;> decide

/-- A conditional launch whose predicate word, at 0x100, is 0 or not, or stands in the local window. -/
def recordC (w7 : Word) (core : Option Nat) (w1 : Word) : LRec := { record1 with words := (words1.set 1 w1).set 7 w7, core }
def cond1 : Word := 0x0000001000100001

theorem wit_launchCond :
    let s := launchS
    wbit ((recordC 0x100 none cond1).words.getD 1 0) 36 = true ∧ (recordC 0x100 none 0x0000004000100001).fuse = true ∧ s.cxlDown = [] ∧ words1.length = 16 ∧
    (match s.predicate 0 (recordC 0x100 (some 0) cond1) with
      | .value v _ => v == 0
      | _ => false) = true ∧
    (match ({ s with mem := [(0x100, 1)] } : State).predicate 0 (recordC 0x100 none cond1) with
      | .value v _ => v != 0
      | _ => false) = true ∧
    (match s.predicate 0 (recordC win none cond1) with
      | .failed _ _ => true
      | _ => false) = true ∧
    (s.core 0).plbFind 0x100 = some allRights ∧ wbit allRights 0 = true ∧ inWindow 0x100 = false ∧ s.held 0 0x100 = some page0 ∧
    leafClass page0.leaf = 0 ∧ s.badAt page0 0 0x100 8 = false := by decide +kernel

/-- The running launch of `launchS` with the core that launched it. -/
theorem wit_launchEndCore :
    let r : Running := { run1 with record := { record1 with core := some 0 } }
    let s := launchS.modCtx 0 fun c => { c with launches := [r] }
    (s.ctx 0).launches.find? (fun r => r.record.id == 9 && r.pending == 0 && r.running == 0) = some r ∧ r.record.core = some 0 ∧
    0 ≤ stewardCore ∧ s.cxlDown = [] ∧ run1.record.core = none := by decide +kernel

/-- A barrier on a page of class 0, in no L2, and a landing on it. -/
theorem wit_barrierOnPage :
    let s := base 0 0
    let l : Landing := { counts := true, peer := none, bar := 0x100, dst := 0x3000, bytes := 4, core := 0, engine := 4, issuer := .loc 0, ticket := 0 }
    let u : State := { (s.barUpdate (.page 0 page0) 0x100 { bar1 with bytes := 8 }).modSlot 0 (fun sl => { sl with wait := .barrier 0x100 }) with landings := [l] }
    bar1.arrivals < 2 ^ 32 ∧ bar1.expected < 2 ^ 32 ∧ bar1.bytes < 2 ^ 28 ∧ bar1.phase < 16 ∧ bar1.high < 2 ^ 32 ∧ leafClass page0.leaf = 0 ∧ 0x100 % 16 = 0 ∧
    s.l2Find 0 0x100 = s.l2Find (dieOf 0) 0x100 ∧ sget [] s.l2 (0x100 / 256) = [] ∧ (s.l2Set (0x100 / 256)).length < 4 ∧
    u.landings[0]? = some l ∧ l.bar = 0x100 ∧ l.core = 0 ∧ l.peer = none ∧ l.counts = true ∧ inWindow 0x100 = false ∧ (u.slot 0).wait = .barrier 0x100 ∧
    u.held (sliceOf 0 / 256) 0x100 = some page0 ∧ u.badAt page0 (dieOf 0) 0x100 16 = false ∧
    (0 : Int) ≤ (({ u with landings := [] } : State).bar (.page 0 page0) l.bar).count - l.bytes + 2 ^ 27 := by decide +kernel

/-- A read of a copy, and the next element of a stream, whose translation is not there; a bulk queue that no other core's entry comes before. -/
theorem wit_copyRefused :
    let retried := fun (s : State) => match Eng.take (2 ^ 34) 16 (Claims.at_ s cmdC) with
      | .error (.retry f w) => decide (f.missing = [2 ^ 34]) && !w
      | _ => false
    retried (engS 1 cmdC) = true ∧ retried (streamS 0x10) = true ∧ (streamS 0x10).canDeliver 0 0 = some (1, 0) ∧ (base 0 0).bulkAfter 0 (cmdE 4) = false := by
  decide +kernel

/-- The sectors of a cell and of its elements are all there; or the elements, at 2^34, are not. -/
theorem wit_commonsRequests :
    let s := commonsE region1 (port1 .up [])
    let ask := fun (data : Word) (units : List Nat) => Eng.request [.cell 0x40000000, Request.elements data 8 0 2] units
    reads (ask 0x1000 [region1.spreadSlot 0 0]) s cmdG (fun _ => true) = true ∧ reads (ask 0x1000 []) s cmdG (fun _ => true) = true ∧
    (∀ units ∈ [[region1.spreadSlot 0 0], []], (match ask 0x400000000 units (Claims.at_ s cmdG) with
      | .error (.retry f w) => decide (f.missing = [2 ^ 34] ∧ f.stores = []) && !w
      | _ => false) = true) := by decide +kernel

/-- A GREAD that has read its cell, and whose destination's translation is not there. -/
theorem wit_greadLater :
    let raw := List.replicate 256 (0 : Byte)
    let c := { cmdG with fetched := keepBytes [] (2 ^ 30) raw }
    let s := commonsE region1 (port1 .up [])
    cmdG.fetchedAt (2 ^ 30) 256 = none ∧ c.fetchedAt (2 ^ 30) 256 = some raw ∧
    (match Eng.writeAll [(2 ^ 34, raw)] (Claims.at_ s c) with
      | .error (.later _ missing _) => decide (missing = [2 ^ 34, 2 ^ 34 + 64, 2 ^ 34 + 128, 2 ^ 34 + 192])
      | _ => false) = true ∧
    runs (Eng.writeAll [(0x1000, raw)]) s c (fun _ _ => true) = true := by decide +kernel

/-- A drover engine's page: its translation is held, or it is not, and the walk finds it or ends in a fault; and the hint not over. -/
theorem wit_unitPages :
    let s := commonsE region1 (port1 .up [])
    let none_ : State := { s with trans := [] }
    s.unitPage 2 0 (region1.cell 1) = some page3 ∧ s.unitWaits 2 (region1.cell 1) = false ∧ none_.unitPage 2 0 (region1.cell 1) = none ∧
    ({ none_ with hints := [(2, region1.cell 1 / 64, 5)] } : State).unitWaits 2 (region1.cell 1) = true ∧
    gives (none_.walk (sliceOf 0) (region1.cell 1) true) (fun _ => true) = false ∧
    gives ({ none_ with mem := [(0, 1), (1, 0x20), (0x2000, 1), (0x2001, 0x40), (0x4000, 1), (0x4001, 0x60), (0x6000, 0x41), (0x6003, 0x08)] }.walk (sliceOf 0) 0x100 true)
      (fun _ => true) = true := by decide +kernel

/-- A packet whose cell's page is held, and its application with and without its spread record's page; an escrow whose cell's page is not held. -/
theorem wit_packetApplied :
    let s := commonsE region1 (port1 .up [])
    let no : State := { s with trans := [(0, page3)] }
    let e : Escrow := { pkt := packet1, slot := 0, state := .returning 0 }
    let r : State := { commonsE region1 (port1 .up [e]) with trans := [] }
    gives (s.applyPacket 2 packet1 region1 page3 (s.cellWords page3 0 (region1.cell 1))) (fun _ => true) = true ∧
    stops (no.applyPacket 2 packet1 region1 page3 (s.cellWords page3 0 (region1.cell 1))) = true ∧
    r.escrow 2 7 = some e ∧ r.unitPage 2 region1.core (region1.cell e.pkt.cell) = none := by decide +kernel

/-- A region whose cells stand on a page that is not of class 3: its checks do not admit it. -/
theorem wit_defineOutside :
    described (descS 0 0x2000 1 []) (fun d v =>
      let r := descRegion d (v.ctxOf v.cur) 0
      !descBad d && gives (Act.rangeOk 0x1000 128 .load 0 (fun _ => true) v) fun a => a.1.1 && decide (a.2.regions = v.regions ∧ a.2.cur = v.cur) &&
        gives (Act.rangeOk r.base (256 * r.ncell) .store 3 (fun e => wbit e 4) a.2) fun b => !b.1.1) = true := by decide +kernel

/-- A block whose translation is not there; and a command with two blocks, whose slice passes the first for the second. -/
theorem wit_rulePassed :
    let r := run0 [0, 1]
    let s := updS header1 .empty [0, 1]
    (match Eng.blockUpdate (run0 [0]) updF1 false 0 0 (Claims.at_ { updS header1 .empty [0] with trans := [(0, page0)] } updW) with
      | .error (.retry q _) => !q.missing.isEmpty || !q.stores.isEmpty
      | _ => false) = true ∧
    (s.blockHome r 0).isSome = true ∧ r.todo.takeWhile (· < 1) = [0] ∧ sfind (s.passed r 1 0).homes 0 = s.blockHome r 0 := by decide +kernel

/-- A fault record that has been reported; its context has no progress reserve in use. -/
theorem wit_faultTold :
    let f : FaultRec := { slot := 0, info := park1, at_ := 0, stalled := none, told := true }
    let s : State := { faultS [] false with faults := [f] }
    s.faults[0]? = some f ∧ f.told = true ∧ (s.faults.filter fun f => (s.core (coreOf f.slot)).ctx == some 0) = [f] ∧ (s.ctx 0).reserveFor = none ∧
    s.stall 0 = none ∧ s.stalls 0 = [] := by decide +kernel

/-- A waiting WFI with an interrupt that is not masked, where a second mismatch has struck (R420). -/
theorem wit_wfiMismatch :
    let s := baseS 0 0 fun sl => { sl with sip := 2, sie := 2, wait := .event, mismatch := 2 }
    (s.slot 0).interruptible = true ∧ (s.slot 0).atBoundary = true ∧ (s.slot 0).wait = .event ∧ (s.slot 0).mismatch = 2 ∧
    ((s.fenceCore 0).slot 0).running = false := by decide +kernel

/-! ### Values that the spec works out -/

/-- Words that the spec's text gives beside their assembly (R64 to R78: the tables of the chapters 5, 7 to 12, 15, 17, 19). -/
theorem test_words_of_the_text :
    decodeWord 0x0040378B = some (.repi 4 1 7) ∧ decodeWord 0x0CC2042B = some (.vadd .fp32 8 16 24) ∧ decodeWord 0x0002C60B = some (.rep 5 1 4) ∧
    decodeWord 0x1400028B = some (.cvstat 5) ∧ decodeWord 0x003532FB = some (.ldaq 5 10 .package) ∧ decodeWord 0x026531FB = some (.strl 10 6 .package) ∧
    decodeWord 0x0E65307B = some (.stNt 10 6) ∧ decodeWord 0x07F1507B = some (.vld 1 2 0x3F) ∧ decodeWord 0x38B5000B = some (.hbind 10 11) ∧
    decodeWord 0x3226068B = some (.sendC 12 2 13) ∧ decodeWord 0x3EB5028B = some (.launch 5 10 11) ∧ decodeWord 0x4C0060DB = some (.vred .fp32 1 3 .sum) ∧
    decodeWord 0x8248E15B = some (.vcvt8ToFp8 .e4m3 .fp32 2 7 1 .rne true) ∧ decodeWord 0x0020047B = some (.enq 8 .matrix 2) ∧
    decodeWord 0xCC10055B = some (.vrowst 10 0 0 .dots) ∧ decodeWord 0xD400665B = some (.vdmask 12 3) ∧ decodeWord 0x4805850B = some (.stashAlloc 10 11) ∧
    decodeWord 0x06D5207B = some (.barWait 10 13 .core) ∧ decodeWord 0x08D523FB = some (.barTest 7 10 13) ∧ decodeWord 0x0C0562FB = some (.ruleAct 5 10) ∧
    decodeWord 0x08B5407B = some (.gxch 10 11) ∧ decodeWord 0x02B562FB = some (.ctxRest 5 10 11) ∧ decodeWord 0x18B5607B = some (.waysCfg 10 11) := by decide

/-- R80: the three words after a prefix `repi 4, 1, 0b111` are `vadd.fp32 v9, v17, v25` and so on. -/
theorem test_raised_word : decodeWord (raiseWord 0x0CC2042B 7 1) = some (.vadd .fp32 9 17 25) ∧ decodeWord (raiseWord 0x0CC2042B 7 3) = some (.vadd .fp32 11 19 27) := by
  decide

/-- The coord of the text after R19: package 0x014, die 1, tile (5, 3), core 3, slot 1. -/
theorem test_coord : State.coord { State.reset with pkg := 0x14 } (4 * (1 * 2048 + 5 * 128 + 3 * 8 + 3) + 1) = 0x000A2A6D := by decide

/-- R88, R89: encodings of the table, each value converted exactly. -/
theorem test_encodings :
    (Fmt.fp16.convert (Fmt.fp32.value 0x3F800000) .rne false).1 = 0x3C00 ∧ (Fmt.e4m3.convert (Fmt.fp32.value 0xC0000000) .rne false).1 = 0xC0 ∧
    (Fmt.fp64.convert (Fmt.bf16.value 0x7F80) .rne false).1 = 0x7FF0000000000000 ∧ (Fmt.fp32.convert (Fmt.fp16.value 0x8000) .rne false).1 = 0x80000000 ∧
    (Fmt.e5m2.convert (Fmt.fp32.value 0x37800000) .rne false).1 = 0x01 ∧ (Fmt.fp64.convert (Fmt.e4m3.value 0x7F) .rne false).1 = 0x7FF8000000000000 := by
  decide +kernel

/-- R247, the example: 2^24, 1, 1 and -2^24 sum to 2.0, and no flag is raised. -/
theorem test_vred :
    next (exec (.vred .fp32 1 3 .sum) (baseS 0 0 fun sl => { sl with v := [(3, ofLanes 4 [0x4B800000, 0x3F800000, 0x3F800000, 0xCB800000])] }))
      (fun t => (t.slot 0).vr 1 == 0x40000000 && (t.slot 0).vflags == 0) = true := by decide +kernel

/-- R251, the example: a lane above the BF16 maximum saturates to 0x7F7F; the flags of and nx are raised; lanes 4 to 7 are cleared. -/
theorem test_vcvt_saturates :
    next (exec (.vcvt .bf16 .fp32 3 5 .rne true) (baseS 0 0 fun sl => { sl with v := [(3, 0xFFFF <<< 112), (5, ofLanes 4 [0x7F7FFFFF, 0, 0, 0])] }))
      (fun t => (t.slot 0).vr 3 == 0x7F7F && (t.slot 0).vflags == 5) = true := by decide +kernel

/-- R252, the example: 1.0, -300.0, 500.0 and 2^-10 to E4M3 in bytes 4 to 7 of v2, saturating and not. -/
theorem test_vcvt8 :
    let s := baseS 0 0 fun sl => { sl with v := [(7, ofLanes 4 [0x3F800000, 0xC3960000, 0x43FA0000, 0x3A800000])] }
    next (exec (.vcvt8ToFp8 .e4m3 .fp32 2 7 1 .rne true) s) (fun t => (t.slot 0).vr 2 == 0x007EF93800000000 && (t.slot 0).vflags == 7) = true ∧
    next (exec (.vcvt8ToFp8 .e4m3 .fp32 2 7 1 .rne false) s) (fun t => (t.slot 0).vr 2 == 0x007FF93800000000 && (t.slot 0).vflags == 7) = true := by
  decide +kernel

/-- R64, the base specification: the signed overflow and a zero divisor; a shift by the low six bits. -/
theorem test_division :
    next (exec (.div 3 1 2) (base 0x8000000000000000 0xFFFFFFFFFFFFFFFF)) (fun t => (t.slot 0).xr 3 == 0x8000000000000000) = true ∧
    next (exec (.rem 3 1 2) (base 7 0)) (fun t => (t.slot 0).xr 3 == 7) = true ∧
    next (exec (.mulhsu 3 1 2) (base 0xFFFFFFFFFFFFFFFF 2)) (fun t => (t.slot 0).xr 3 == 0xFFFFFFFFFFFFFFFF) = true ∧
    next (exec (.sra 3 1 2) (base 0x8000000000000000 0x43)) (fun t => (t.slot 0).xr 3 == 0xF000000000000000) = true := by decide

/-- The text after R58: `lui x5, 0x80000` then `addiw x5, x5, -1` gives 0x7FFF_FFFF. -/
theorem test_li :
    next (exec (.lui 5 0x80000) (base 0 0)) (fun t => (t.slot 0).xr 5 == 0xFFFFFFFF80000000 &&
      next (exec (.addiw 5 5 0xFFF) t) fun u => (u.slot 0).xr 5 == 0x7FFFFFFF) = true := by decide

/-- R64: a jump to a register clears bit 0 of the target, and reads it before it writes the link. -/
theorem test_jalr : next (exec (.jalr 1 1 1) (base 0x2000 0)) (fun t => (t.slot 0).pc == 0x2000 && (t.slot 0).xr 1 == 0x1004) = true := by decide

/-- R123: an addition wraps within the address bits and leaves the tag byte. -/
theorem test_padd : next (exec (.paddi 3 1 1) (base 0x17FFFFFFFFFFFFFF 0)) (fun t => (t.slot 0).xr 3 == 0x1700000000000000) = true := by decide

/-- R399: EBREAK in U-mode enters S-mode at stvec with cause 3 and the PC as stval. -/
theorem test_ebreak :
    next (exec .ebreak (baseS 0 0 fun sl => { sl with stvec := 0x8000, sstatus := 2 })) (fun t => let n := t.slot 0
      n.pc == 0x8000 && n.priv == .s && n.sepc == 0x1000 && n.scause == 3 && n.stval == 0x1000 && n.sstatus == 0x20) = true := by decide

/-- R168: a store to the local window is read back by a load, and sign-extended. -/
theorem test_window :
    next (exec (.sb 1 2 0) (base win 0x80)) (fun t => next (exec (.lb 3 1 0) t) fun u => (u.slot 0).xr 3 == 0xFFFFFFFFFFFFFF80) = true := by
  decide +kernel

/-- R200: AMOADD gives the old value, wraps, and writes the home. -/
theorem test_amo :
    next (exec (.amoaddD 3 1 2 false false) { base 0x100 0xFF with mem := [(0x100, 3)] }) (fun t => (t.slot 0).xr 3 == 3 &&
      t.homeRead page0 0 0x100 2 == [2, 1]) = true := by decide +kernel

/-- R138, R139: the first claim of two participants with Cmin 4 takes 60 of 120 iterations; the indices of the first are 0, and the
second's innermost is 1. -/
theorem test_nest :
    next (exec (.nestNext 4 1) (nestS nest1 0x80000000 0)) (fun t => (t.slot 0).xr 7 == 0 && (t.slot 0).nestst == 0x0000003B80000001 &&
      next (exec (.nestNext 4 1) t) fun u => (u.slot 0).xr 7 == 1) = true := by decide +kernel

/-- R301: a threshold of 0 keeps every column. -/
theorem test_vdmask :
    next (exec (.vdmask 12 3) (baseS 0 0 fun sl => { sl with dseed := 7, v := [(3, ofLanes 4 [1, 2, 3, 0])] }))
      (fun t => (t.slot 0).vr 12 == BitVec.allOnes 128) = true := by decide +kernel

/-- R323, R325: the last arrival of a barrier completes its phase. -/
theorem test_barrier :
    next (exec (.barArrive 3 1) (barS 0 0 bar1 .none)) (fun t => (t.slot 0).xr 3 == 0 &&
      decide (t.bar (.loc 0) Config.windowBase = { bar1 with phase := 1 })) = true := by decide +kernel

/-- R84, the example: a command of engine 1 that `enq x9, matrix, v4` pushes raises cause 30 and queues nothing. -/
theorem test_enq_other_engine :
    next (exec (.enq 9 .matrix 2) (baseS 0 0 fun sl => { sl with v := [(4, 0x0015D102)] })) (fun t =>
      (t.slot 0).scause == 30 && (t.slot 0).xr 9 == 0 && ((t.core 0).queue 0).isEmpty) = true := by decide

/-- R84, the example: the header 0x0015_D002. -/
theorem test_header : ({ q0 := 0x0015D002, q1 := 0, q2 := 0, q3 := 0 } : Tcw).hdr = { prio := 2, cmsg := true, cq := 3, rm := .rtz, ov := true } := by decide

/-- R369, the table: of a weight of 45, 22 is sent and 23 kept; of a value word of -7, -4 and -3. -/
theorem test_halve :
    let h := halve ((45 : Word) :: 0 :: 0xFFFFFFFFFFFFFFF9 :: List.replicate 29 0) 1
    h.1.getD 0 0 = 23 ∧ h.2.1 = 22 ∧ h.2.2 = [0xFFFFFFFFFFFFFFFC] ∧ h.1.getD 2 0 = 0xFFFFFFFFFFFFFFFD := by decide

/-- R20, R396, R452: the package right after reset. -/
theorem test_reset : (State.reset.slot 7).dscope = 3 ∧ (State.reset.slot 7).run = .idle ∧ State.reset.pkg = 0xFFF ∧ (State.reset.slot stewardSlot).priv = .m := by
  decide

end Sys2Proof.Tests

end
end

section
/-!
SUPPORT. What the commit of an instruction changes: its slot and the lanes of its convoy (R127, R148, R151).
-/

namespace Sys2Proof.Machine

/-! ### The convoy of a slot -/

theorem State.car_modCar (s : State) (k c : Nat) (f : Caravan → Caravan) :
    (s.modCar k f).car c = if c = k then f (s.car k) else s.car c := by
  simp only [State.car, State.modCar, sget_sset]

/-- Nothing differs but lanes of convoys, the note of the lanes that are free, and whether slot `k` goes on as a stray. -/
structure State.SameButConvoy (s t : State) (k : Nat) : Prop where
  rest : t = { s with slots := t.slots, cars := t.cars, freed := t.freed }
  other : ∀ j, j ≠ k → t.slot j = s.slot j
  car : ∀ c, t.car c = { s.car c with lanes := (t.car c).lanes }
  slot : t.slot k = { s.slot k with run := (t.slot k).run }

section
variable {s t u : State} {k : Nat}

theorem State.SameButConvoy.refl : State.SameButConvoy s s k := ⟨rfl, fun _ _ => rfl, fun _ => rfl, rfl⟩

theorem State.SameButConvoy.trans (h : State.SameButConvoy s t k) (h' : State.SameButConvoy t u k) : State.SameButConvoy s u k where
  rest := by rw [h'.rest, h.rest]
  other j hj := (h'.other j hj).trans (h.other j hj)
  car c := by rw [h'.car, h.car]
  slot := by rw [h'.slot, h.slot]

theorem State.modLanes_sameButConvoy {c : Nat} {f : Caravan → Caravan} (hf : ∀ x, f x = { x with lanes := (f x).lanes }) :
    s.SameButConvoy (s.modCar c f) k where
  rest := rfl
  other _ _ := rfl
  car n := by
    rw [State.car_modCar]
    split
    · subst n; exact hf _
    · rfl
  slot := rfl

theorem State.free_sameButConvoy {freed : List (Nat × Nat)} : s.SameButConvoy { s with freed } k :=
  ⟨rfl, fun _ _ => rfl, fun _ => rfl, rfl⟩

theorem State.setLane_sameButConvoy {c n : Nat} {l : Lane} : s.SameButConvoy (s.setLane c n l) k := by
  unfold State.setLane
  split
  · exact (State.modLanes_sameButConvoy fun _ => rfl).trans State.free_sameButConvoy
  · exact State.modLanes_sameButConvoy fun _ => rfl

theorem State.leave_sameButConvoy : s.SameButConvoy (s.leave k) k := by
  unfold State.leave
  split
  · exact State.setLane_sameButConvoy
  · exact .refl

theorem State.modMember_sameButConvoy {f : Member → Member} : s.SameButConvoy (s.modMember k f) k := by
  unfold State.modMember
  split
  · exact State.setLane_sameButConvoy
  · exact .refl

theorem State.stray_sameButConvoy : s.SameButConvoy (s.modSlot k fun sl => { sl with run := .stray }) k where
  rest := rfl
  other _ hj := State.slot_modSlot_other _ _ hj
  car _ := rfl
  slot := by rw [State.slot_modSlot_same]

theorem State.bump_sameButConvoy : s.SameButConvoy (s.bump k) k := by
  unfold State.bump
  split
  · dsimp only
    split
    · split
      · exact State.modMember_sameButConvoy
      · exact State.leave_sameButConvoy.trans State.stray_sameButConvoy
    · exact State.modMember_sameButConvoy
  · exact .refl

/-- A slot that is in no convoy takes none further. -/
theorem State.bump_of_laneOf (h : s.laneOf k = none) : s.bump k = s := by
  unfold State.bump
  rw [h]

end

/-! ### The commit -/

theorem State.modSlot_congr {s : State} {k : Nat} {f g : Slot → Slot} (h : f (s.slot k) = g (s.slot k)) :
    s.modSlot k f = s.modSlot k g := by
  unfold State.modSlot
  rw [h]

section
variable {sl : Slot} {target : Option Word} {r : RepRun}

theorem Slot.commit_of_rep_none (h : sl.rep = none) :
    sl.commit target = { sl with pc := target.getD (sl.pc + 4), instret := sl.instret + 1, wait := .none } := by
  simp only [Slot.commit, h]

theorem Slot.commit_of_next (h : sl.rep = some r) (hn : r.iter + 1 < r.count) :
    sl.commit target = { sl with instret := sl.instret + 1, wait := .none, rep := some { r with iter := r.iter + 1 } } := by
  simp only [Slot.commit, h, if_pos hn]

theorem Slot.commit_of_last (h : sl.rep = some r) (hn : ¬ r.iter + 1 < r.count) :
    sl.commit target = { sl with pc := sl.pc + 8, instret := sl.instret + 1, wait := .none, rep := none } := by
  simp only [Slot.commit, h, if_neg hn]

/-- Whatever the slot repeats, a commit changes these alone. -/
theorem Slot.commit_frame : ∃ pc rep, sl.commit target = { sl with pc, instret := sl.instret + 1, wait := .none, rep } := by
  cases h : sl.rep with
  | none => exact ⟨_, _, Slot.commit_of_rep_none h⟩
  | some r =>
    by_cases hn : r.iter + 1 < r.count
    · exact ⟨_, _, Slot.commit_of_next h hn⟩
    · exact ⟨_, _, Slot.commit_of_last h hn⟩

theorem Slot.commit_run : (sl.commit target).run = sl.run := by
  obtain ⟨pc, rep, h⟩ := Slot.commit_frame (sl := sl) (target := target)
  rw [h]

end

section
variable {s : State} {k : Nat} {target : Option Word}

/-- A commit is the slot's own, and what its convoy makes of it. -/
theorem State.commit_sameButConvoy : (s.modSlot k fun sl => sl.commit target).SameButConvoy (s.commit k target) k := by
  unfold State.commit
  dsimp only
  split
  · exact State.bump_sameButConvoy
  · exact .refl

theorem State.commit_rest : s.commit k target =
    { s with slots := (s.commit k target).slots, cars := (s.commit k target).cars, freed := (s.commit k target).freed } :=
  State.commit_sameButConvoy.rest

theorem State.commit_other {j : Nat} (hj : j ≠ k) : (s.commit k target).slot j = s.slot j :=
  (State.commit_sameButConvoy.other j hj).trans (State.slot_modSlot_other _ _ hj)

theorem State.commit_car (c : Nat) : (s.commit k target).car c = { s.car c with lanes := ((s.commit k target).car c).lanes } :=
  State.commit_sameButConvoy.car c

theorem State.commit_slot :
    (s.commit k target).slot k = { (s.slot k).commit target with run := ((s.commit k target).slot k).run } := by
  rw [State.commit_sameButConvoy.slot, State.slot_modSlot_same]

/-- Within a repetition the convoy does not go on. -/
theorem State.commit_of_next {r : RepRun} (h : (s.slot k).rep = some r) (hn : r.iter + 1 < r.count) :
    s.commit k target = s.modSlot k fun sl => sl.commit target := by
  have hm : (s.slot k).moves = false := by simp [Slot.moves, h, hn]
  simp [State.commit, hm]

theorem State.commit_of_laneOf (h : s.laneOf k = none) : s.commit k target = s.modSlot k fun sl => sl.commit target := by
  unfold State.commit
  dsimp only
  split
  · exact State.bump_of_laneOf h
  · rfl

end

/-- Settles O1: the registers by the laws of the map library, the commit by what a slot's own commit and its convoy change. -/
theorem registersAndCommit : Obligations.RegistersAndCommit := by
  refine ⟨fun sl n m w v => ⟨rfl, rfl, fun hn => ?_, fun hm => ?_, ?_, fun hm => ?_, ?_, rfl⟩,
    fun s k target => ⟨State.commit_rest, fun _ => State.commit_other, State.commit_car, fun h => ?_, fun r h hn => ?_,
      fun r h hn => ?_, fun h => ?_⟩⟩
  · rw [Slot.xr_setX, if_pos ⟨rfl, hn⟩]
  · rw [Slot.xr_setX, if_neg fun h => hm h.1]
  · rw [Slot.vr_setV, if_pos rfl]
  · rw [Slot.vr_setV, if_neg hm]
  · unfold Slot.setX
    split
    · rfl
    · rfl
  · rw [State.commit_slot, Slot.commit_of_rep_none h]
  · rw [State.commit_of_next h hn]
    exact State.modSlot_congr (Slot.commit_of_next h hn)
  · rw [State.commit_slot, Slot.commit_of_last h hn]
  · rw [State.commit_of_laneOf h, State.slot_modSlot_same, Slot.commit_run]

end Sys2Proof.Machine
end

section
/-!
SUPPORT. The scalar instructions (R64, R124): one register is written and the PC goes on, or a transfer is taken.
-/

namespace Sys2Proof.Machine

/-! ### What a commit leaves alone -/

section
variable {s t : State} {k c a n : Nat} {target : Option Word}

theorem State.commit_mem : (s.commit k target).mem = s.mem := by rw [State.commit_rest]

theorem State.commit_cores : (s.commit k target).cores = s.cores := by rw [State.commit_rest]

theorem State.commit_fused : ((s.commit k target).car c).fused = (s.car c).fused := by rw [State.commit_car]

theorem Slot.xr_commit {sl : Slot} : (sl.commit target).xr n = sl.xr n := by
  obtain ⟨pc, rep, h⟩ := Slot.commit_frame (sl := sl) (target := target)
  rw [h]
  rfl

theorem State.commit_xr : ((s.commit k target).slot k).xr n = (s.slot k).xr n := by
  rw [State.commit_slot]
  exact Slot.xr_commit

/-- What a core sees in its L1 depends on the cores and on which L1s are fused. -/
theorem State.l1Byte_congr (hc : t.cores = s.cores) (hf : ∀ c, (t.car c).fused = (s.car c).fused) :
    t.l1Byte c a = s.l1Byte c a := by
  simp only [State.l1Byte, State.l1Word, State.l1Home, State.core, hc, hf]

end

theorem Slot.setX_frame (sl : Slot) (n : Nat) (w : Word) : ∃ x errX, sl.setX n w = { sl with x, errX } := by
  unfold Slot.setX
  split
  · exact ⟨_, _, rfl⟩
  · exact ⟨_, _, rfl⟩

/-! ### An instruction that writes one register -/

section
variable {s : State} {i : Instr} {rd : Reg}

/-- A commit after a change of register `rd` alone has the frame of an instruction that writes `rd`. -/
theorem frameX_commit {u : State} {target : Option Word} (hrest : u = { s with slots := u.slots })
    (hother : ∀ j, j ≠ s.cur → u.slot j = s.slot j) (hslot : ∃ x errX, u.slot s.cur = { s.slot s.cur with x, errX })
    (hx : ∀ n, n ≠ rd.toNat → (u.slot s.cur).xr n = (s.slot s.cur).xr n) : Claims.FrameX s (u.commit s.cur target) rd := by
  have hcar (c : Nat) : u.car c = s.car c := by rw [hrest]; rfl
  have hcores : (u.commit s.cur target).cores = s.cores := State.commit_cores.trans (by rw [hrest])
  refine ⟨?_, fun j hj => ?_, ?_, fun n hn => ?_, fun c => ?_, fun k => ?_, fun c a => ?_, fun c a n => ?_⟩
  · rw [State.commit_rest, hrest]
  · rw [State.commit_other hj, hother j hj]
  · obtain ⟨x, e, hx⟩ := hslot
    obtain ⟨pc, rep, hc⟩ := Slot.commit_frame (sl := u.slot s.cur) (target := target)
    rw [State.commit_slot, hc, hx]
    exact ⟨_, _, _, _, _, _, rfl⟩
  · rw [State.commit_xr, hx n hn]
  · rw [State.commit_car, hcar]
  · exact congrArg (sget 0 · k) (State.commit_mem.trans (by rw [hrest]))
  · exact State.l1Byte_congr hcores fun c => State.commit_fused.trans (by rw [hcar])
  · exact congrArg (fun m : Sparse Core => (sget .reset m c).locBytes a n) hcores

/-- A transfer or a step on of the PC has the frame of a write of x0. -/
theorem frameX_go (target : Option Word) : Claims.FrameX s (s.commit s.cur target) 0 :=
  frameX_commit rfl (fun _ _ => rfl) ⟨_, _, rfl⟩ fun _ _ => rfl

/-- A write of register `rd` and a commit have the frame of an instruction that writes `rd` alone. -/
theorem frameX_write (w : Word) (target : Option Word) :
    Claims.FrameX s ((s.modSlot s.cur fun sl => sl.setX rd.toNat w).commit s.cur target) rd := by
  refine frameX_commit rfl (fun j hj => State.slot_modSlot_other _ _ hj) ?_ fun n hn => ?_
  · rw [State.slot_modSlot_same]
    exact Slot.setX_frame _ _ _
  · rw [State.slot_modSlot_same, Slot.xr_setX, if_neg fun h => hn h.1]

/-- Every scalar instruction of one destination writes a value to it and commits. -/
theorem exec_of_scalarDest (h : Claims.scalarDest i = some rd) : ∃ w, exec i s = Claims.result s rd w := by
  cases i with
  | lui | auipc | addi | slti | sltiu | xori | ori | andi | slli | srli | srai | addiw | slliw | srliw | sraiw
  | add | sub | sll | slt | sltu | xor | srl | sra | or | and | addw | subw | sllw | srlw | sraw
  | mul | mulh | mulhsu | mulhu | div | divu | rem | remu | mulw | divw | divuw | remw | remuw
  | padd | ptag | pget | pbase | paddi | ptagi | cvstat => cases h; exact ⟨_, rfl⟩
  | _ => cases h

/-! ### Jumps and branches -/

/-- An instruction that transfers to `a`, its link written in `u`, has the frame of the link register, or raises cause 0 for a
misaligned target. -/
theorem runSlot_of_jump {act : Act Unit} {u : State} {a : Word} (ha : act s = Act.jump a u) (hcur : u.cur = s.cur)
    (hf : Claims.FrameX s (u.commit s.cur (some a)) rd) :
    ∃ t, runSlot act s = .next t ∧ (Claims.FrameX s t rd ∨ ∃ a : Word, a.toNat % 4 ≠ 0 ∧ t = s.takeTrap s.cur 0 a) := by
  unfold runSlot
  rw [ha]
  unfold Act.jump
  by_cases h : a.toNat % 4 ≠ 0
  · rw [if_pos h]
    exact ⟨_, rfl, .inr ⟨a, h, rfl⟩⟩
  · rw [if_neg h, hcur]
    exact ⟨_, rfl, .inl hf⟩

theorem runSlot_branch (r : Word → Word → Bool) (rs1 rs2 : Reg) (imm : BitVec 12) :
    ∃ t, runSlot (Act.branch r rs1 rs2 imm) s = .next t ∧
      (Claims.FrameX s t 0 ∨ ∃ a : Word, a.toNat % 4 ≠ 0 ∧ t = s.takeTrap s.cur 0 a) := by
  have hb : Act.branch r rs1 rs2 imm s =
    (if r (Claims.xs s rs1) (Claims.xs s rs2) then Act.jump (branchTarget (s.slot s.cur).at_ imm) else Act.next) s := rfl
  by_cases hr : r (Claims.xs s rs1) (Claims.xs s rs2)
  · exact runSlot_of_jump (hb.trans (by rw [if_pos hr])) rfl (frameX_go _)
  · rw [if_neg hr] at hb
    exact ⟨s.commit s.cur none, by unfold runSlot; rw [hb]; rfl, .inl (frameX_go _)⟩

end

/-- Settles O3: a scalar instruction is a write of its destination and a commit; a jump or branch is a commit at its target, with
the link written, or the trap of a misaligned one. -/
theorem scalarFrame : Obligations.ScalarFrame := by
  refine ⟨fun s i rd h => ?_, fun s i rd h => ?_⟩
  · obtain ⟨w, hw⟩ := exec_of_scalarDest (s := s) h
    exact ⟨_, hw, frameX_write w none⟩
  · cases i with
    | jal | jalr => cases h; exact runSlot_of_jump rfl rfl (frameX_write _ _)
    | beq | bne | blt | bge | bltu | bgeu => cases h; exact runSlot_branch _ _ _ _
    | _ => cases h

end Sys2Proof.Machine
end

section
/-!
SUPPORT. What a walk and the fill of an L2 change in memory (R171, R172, R179): the leaf entry, and the lines of dirty sectors that
are written back.
-/

namespace Sys2Proof.Machine

/-! ### Maps, lists and bytes -/

section
variable {α β : Type}

theorem sfind_sset (m : Sparse α) (j k : Nat) (v : α) : sfind (sset m k v) j = if j = k then some v else sfind m j := by
  induction m with
  | nil => simp only [sset, sfind, eq_comm]
  | cons e m ih =>
    unfold sset
    split
    · simp only [sfind, eq_comm]
    · split
      · next h => subst h; simp only [sfind, eq_comm]; split <;> rfl
      · next h => rw [sfind, sfind, ih]; split <;> split <;> simp_all

/-- What a map of lists reads at a key is listed there. -/
theorem mem_of_mem_sget {m : Sparse (List α)} {k : Nat} {b : α} (h : b ∈ sget [] m k) : ∃ e ∈ m, e.1 = k ∧ b ∈ e.2 := by
  induction m with
  | nil => cases h
  | cons e m ih =>
    rw [sget] at h
    split at h
    · next hk => exact ⟨e, .head _, hk, h⟩
    · obtain ⟨f, hf, hb⟩ := ih h
      exact ⟨f, .tail _ hf, hb⟩

/-- The entries of a map that `sput` gives are its old ones and the new one. -/
theorem mem_sput [DecidableEq α] {d : α} {m : Sparse α} {k : Nat} {v : α} {e : Nat × α} (h : e ∈ sput d m k v) : e ∈ m ∨ e = (k, v) := by
  unfold sput at h
  split at h
  · exact .inl (mem_sdel h)
  · exact mem_sset h

theorem mem_modFirst {p : α → Bool} {f : α → α} {l : List α} {y : α} (h : y ∈ modFirst p f l) : y ∈ l ∨ ∃ x ∈ l, p x = true ∧ y = f x := by
  induction l with
  | nil => exact .inl h
  | cons x l ih =>
    unfold modFirst at h
    split at h
    · next hp =>
      rcases List.mem_cons.1 h with rfl | h
      · exact .inr ⟨x, .head _, hp, rfl⟩
      · exact .inl (.tail _ h)
    · rcases List.mem_cons.1 h with rfl | h
      · exact .inl (.head _)
      · rcases ih h with h | ⟨z, hz, hf⟩
        · exact .inl (.tail _ h)
        · exact .inr ⟨z, .tail _ hz, hf⟩

theorem firstOf_eq_some {f : α → Option β} {l : List α} {b : β} (h : firstOf f l = some b) : ∃ a ∈ l, f a = some b := by
  induction l with
  | nil => cases h
  | cons a l ih =>
    unfold firstOf at h
    split at h
    · next c hc => exact ⟨a, .head _, hc.trans h⟩
    · obtain ⟨x, hx, hf⟩ := ih h
      exact ⟨x, .tail _ hx, hf⟩

theorem sget_putBytes_other (m : Sparse Byte) {k j : Nat} {bs : List Byte} (h : j < k ∨ k + bs.length ≤ j) :
    sget 0 (putBytes m k bs) j = sget 0 m j := by
  induction bs generalizing m k with
  | nil => rfl
  | cons b bs ih =>
    rw [List.length_cons] at h
    rw [putBytes, ih _ (by omega), sget_sput, if_neg (by omega)]

theorem bytesOfNat_length (n v : Nat) : (bytesOfNat n v).length = n := by
  induction n generalizing v with
  | zero => rfl
  | succ n ih => rw [bytesOfNat, List.length_cons, ih]

end

/-! ### The lines that an L2 may write back -/

section
variable {W : Nat → Prop}

/-- The line of every dirty sector of superblock number `n` lies in `W`. -/
def L2Block.Backed (W : Nat → Prop) (n : Nat) (b : L2Block) : Prop :=
  ∀ x ∈ b.sectors, x.2.dirty = true → ∀ k, b.page.key (b.slice / 256) (n * 256 + 64 * x.1) ≤ k →
    k < b.page.key (b.slice / 256) (n * 256 + 64 * x.1) + 64 → W k

/-- Every byte that the eviction of a dirty sector would write lies in `W`. -/
def State.Backed (W : Nat → Prop) (s : State) : Prop := ∀ e ∈ s.l2, ∀ b ∈ e.2, L2Block.Backed W e.1 b

theorem State.backed_iff {s : State} : s.Backed W ↔ ∀ k, Claims.WrittenBack s k → W k :=
  ⟨fun h _ ⟨e, he, b, hb, x, hx, hd, hl, hr⟩ => h e he b hb x hx hd _ hl hr,
    fun h e he b hb x hx hd k hl hr => h k ⟨e, he, b, hb, x, hx, hd, hl, hr⟩⟩

theorem State.Backed.sget {s : State} {n : Nat} {b : L2Block} (h : s.Backed W) (hb : b ∈ sget [] s.l2 n) : b.Backed W n := by
  obtain ⟨e, he, rfl, hm⟩ := mem_of_mem_sget hb
  exact h e he b hm

/-- A state whose L2s are those of `s`, but for the superblocks of one number. -/
theorem State.Backed.set {s t : State} {n : Nat} {bs : List L2Block} (h : s.Backed W) (hl : ∀ e ∈ t.l2, e ∈ s.l2 ∨ e = (n, bs))
    (hbs : ∀ b ∈ bs, b.Backed W n) : t.Backed W := by
  intro e he b hb
  rcases hl e he with h' | rfl
  · exact h e h' b hb
  · exact hbs b hb

/-- A write into a sector leaves the line of that sector alone to be written back, besides those that were. -/
theorem L2Block.Backed.write {n : Nat} {b : L2Block} {a : Nat} {bs : List Byte} (h : b.Backed W n)
    (ha : ∀ k, b.page.key (b.slice / 256) (n * 256 + 64 * (a / 64 % 4)) ≤ k →
      k < b.page.key (b.slice / 256) (n * 256 + 64 * (a / 64 % 4)) + 64 → W k) : (b.write a bs).Backed W n := by
  intro x hx hd k hl hr
  rcases mem_sset hx with hx | rfl
  · exact h x hx hd k hl hr
  · exact ha k hl hr

/-- A clean sector adds nothing to be written back. -/
theorem L2Block.Backed.add {n i : Nat} {b : L2Block} {x : Sector} (h : b.Backed W n) (hx : x.dirty = false) :
    L2Block.Backed W n { b with sectors := sset b.sectors i x } := by
  intro y hy hd
  rcases mem_sset hy with hy | rfl
  · exact h y hy hd
  · exact absurd hd (by simp [hx])

/-! ### What a fetch changes -/

/-- What the walk and the fill of an access leave of a state: no byte of memory changes outside `W`, nothing else is there to be
written back, and nothing but memory and what translates and caches it differs. -/
structure State.Fetches (W : Nat → Prop) (s t : State) : Prop where
  rest : t = { s with mem := t.mem, poison := t.poison, l2 := t.l2, seals := t.seals, trans := t.trans, firstTouch := t.firstTouch }
  byte : ∀ k, ¬ W k → t.byte k = s.byte k
  backed : t.Backed W

variable {s t u : State}

/-- Such a state by its parts. -/
theorem State.Fetches.of_parts {mem : Sparse Byte} {poison : Sparse (BitVec 64)} {l2 : Sparse (List L2Block)} {seals : Sparse Seal}
    {trans : List (Nat × TEntry)} {firstTouch : Sparse Nat} (hbyte : ∀ k, ¬ W k → sget 0 mem k = s.byte k)
    (hl2 : ∀ e ∈ l2, ∀ b ∈ e.2, L2Block.Backed W e.1 b) :
    s.Fetches W { s with mem, poison, l2, seals, trans, firstTouch } := ⟨rfl, hbyte, hl2⟩

theorem State.Fetches.refl (h : s.Backed W) : s.Fetches W s := ⟨rfl, fun _ _ => rfl, h⟩

theorem State.Fetches.trans (h : s.Fetches W t) (h' : t.Fetches W u) : s.Fetches W u where
  rest := by rw [h'.rest, h.rest]
  byte k hk := (h'.byte k hk).trans (h.byte k hk)
  backed := h'.backed

theorem State.Fetches.foldl {γ : Type} {f : State → γ → State} {l : List γ} (hs : s.Backed W)
    (hf : ∀ t, s.Fetches W t → ∀ c ∈ l, t.Fetches W (f t c)) : s.Fetches W (l.foldl f s) := by
  suffices h : ∀ t, s.Fetches W t → s.Fetches W (l.foldl f t) from h s (.refl hs)
  induction l with
  | nil => exact fun _ h => h
  | cons c l ih =>
    exact fun t h => ih (fun u hu d hd => hf u hu d (.tail _ hd)) _ (h.trans (hf t h c (.head _)))

theorem xorBytes_length_le (a b : List Byte) : (xorBytes a b).length ≤ a.length := by
  unfold xorBytes
  rw [List.length_zipWith]
  exact Nat.min_le_left _ _

/-- Writing a sector back writes its line at most, and that only where the sector is dirty. -/
theorem State.writeBack_fetches {b : L2Block} {a : Nat} {x : Sector} (hs : s.Backed W)
    (hx : x.dirty = true → ∀ k, b.page.key (b.slice / 256) a ≤ k → k < b.page.key (b.slice / 256) a + 64 → W k) :
    s.Fetches W (s.writeBack b a x) := by
  have hout (bs : List Byte) (hlen : bs.length ≤ 64) (hd : x.dirty = true) (k : Nat) (hk : ¬ W k) :
      sget 0 (putBytes s.mem (b.page.key (b.slice / 256) a) bs) k = s.byte k := by
    refine sget_putBytes_other _ ?_
    by_contra hin
    exact hk (hx hd k (by omega) (by omega))
  unfold State.writeBack
  split
  · exact .refl hs
  · next hd =>
    have hd : x.dirty = true := by simpa using hd
    dsimp only
    split
    · refine .of_parts (hout _ ?_ hd) hs
      exact (xorBytes_length_le _ _).trans (by rw [List.length_map, List.length_range])
    · exact .of_parts (hout _ (by rw [List.length_map, List.length_range]) hd) hs

/-- Evicting a superblock writes the lines of its dirty sectors at most. -/
theorem State.evictBlock_fetches {n : Nat} {b : L2Block} (hs : s.Backed W) (hb : b.Backed W n) : s.Fetches W (s.evictBlock n b) := by
  have hw : s.Fetches W (b.sectors.foldl (fun s x => s.writeBack b (n * 256 + 64 * x.1) x.2) s) :=
    .foldl hs fun t ht x hx => State.writeBack_fetches ht.backed (hb x hx)
  refine hw.trans ⟨rfl, fun _ _ => rfl, ?_⟩
  refine hw.backed.set (fun e he => mem_sput he) fun c hc => ?_
  exact hw.backed.sget (List.mem_of_mem_filter hc)

/-- Making room in a slice writes the lines of dirty sectors at most. -/
theorem State.l2Room_fetches {slice n : Nat} (hs : s.Backed W) (h : s.l2Room slice n = some t) : s.Fetches W t := by
  unfold State.l2Room at h
  dsimp only at h
  split at h
  · cases h; exact .refl hs
  · obtain ⟨⟨m, b⟩, he, rfl⟩ := Option.map_eq_some_iff.1 h
    refine State.evictBlock_fetches hs ?_
    have hm := List.mem_of_mem_filter (List.mem_of_getElem? he)
    obtain ⟨e, hme, hb⟩ := List.mem_flatMap.1 hm
    obtain ⟨c, hc, hbc⟩ := List.mem_map.1 hb
    cases hbc
    exact hs e (List.mem_of_mem_filter hme) b hc

/-- A superblock with a clean sector more keeps what may be written back. -/
theorem State.addSector_fetches {n : Nat} {bs : List L2Block} (hs : s.Backed W) (hbs : ∀ b ∈ bs, b.Backed W n) :
    s.Fetches W { s with l2 := sset s.l2 n bs } :=
  .of_parts (fun _ _ => rfl) (hs.set (t := { s with l2 := sset s.l2 n bs }) (fun _ he => mem_sset he) hbs)

/-- Installing a sector writes the lines of dirty sectors at most, and the new sector is clean. -/
theorem State.installL2_fetches {tr : TEntry} {die a : Nat} (hs : s.Backed W) : s.Fetches W (s.installL2 tr die a) := by
  unfold State.installL2
  split
  · exact .refl hs
  · dsimp only
    split
    · refine State.addSector_fetches hs fun b hb => ?_
      rcases mem_modFirst hb with hb | ⟨c, hc, -, rfl⟩
      · exact hs.sget hb
      · exact (hs.sget hc).add rfl
    · have hev : s.Fetches W (((sget [] s.l2 (a / 256)).filter fun b => b.slice == s.homeSlice tr die a).foldl
          (fun s b => s.evictBlock (a / 256) b) s) :=
        .foldl hs fun t ht b hb => State.evictBlock_fetches ht.backed (hs.sget (List.mem_of_mem_filter hb))
      split
      · next u hu =>
        have hr := State.l2Room_fetches hev.backed hu
        refine hev.trans (hr.trans (State.addSector_fetches hr.backed fun b hb => ?_))
        rcases List.mem_cons.1 hb with rfl | hb
        · exact L2Block.Backed.add (b := { slice := _, way := _, page := _, sectors := [] }) (fun _ h => nomatch h) rfl
        · exact hr.backed.sget hb
      · exact hev

theorem State.fillL2_fetches {tr : TEntry} {die a : Nat} (hs : s.Backed W) : s.Fetches W (s.fillL2 tr die a) := by
  unfold State.fillL2
  split
  · exact .refl hs
  · exact State.installL2_fetches hs

/-! ### The walk -/

/-- The superblock and address that hold the line of a key in an L2. -/
theorem State.physFind_eq_some {k a : Nat} {b : L2Block} (h : s.physFind k = some (a, b)) :
    a % 64 = 0 ∧ b.page.key (b.slice / 256) a = k / 64 * 64 := by
  obtain ⟨e, -, he⟩ := firstOf_eq_some h
  obtain ⟨c, -, hc⟩ := firstOf_eq_some he
  obtain ⟨x, -, hx⟩ := firstOf_eq_some hc
  dsimp only at hx
  split at hx
  · next hk => cases hx; exact ⟨by omega, hk⟩
  · cases hx

/-- What a write of `n` bytes at a key may change in memory: the bytes themselves, or the line of an L2 that takes them. -/
def State.Writable (W : Nat → Prop) (s : State) (key n : Nat) : Prop :=
  (∀ k, key ≤ k → k < key + n → W k) ∧ ((s.physFind key).isSome = true → ∀ k, k / 64 = key / 64 → W k)

/-- A write of physical memory is in memory, or is written back with the line of the L2 that takes it. -/
theorem State.physWrite_fetches {key : Nat} {bs : List Byte} (hs : s.Backed W) (hw : s.Writable W key bs.length) :
    s.Fetches W (s.physWrite key bs) := by
  obtain ⟨hbytes, hline⟩ := hw
  unfold State.physWrite
  split
  · next a b hf =>
    have hline := hline (by rw [hf]; rfl)
    obtain ⟨ha, hk⟩ := State.physFind_eq_some hf
    refine .of_parts (fun _ _ => rfl) ?_
    refine hs.set (t := { s with l2 := _ }) (fun _ he => mem_sset he) fun c hc => ?_
    rcases mem_modFirst hc with hc | ⟨d, hd, hdb, rfl⟩
    · exact hs.sget hc
    · have hdb : d = b := by simpa using hdb
      subst hdb
      refine (hs.sget hd).write fun k hl hr => hline k ?_
      have haddr : a / 256 * 256 + 64 * ((a + key % 64) / 64 % 4) = a := by omega
      rw [haddr, hk] at hl hr
      omega
  · refine .of_parts (fun k hk => sget_putBytes_other _ ?_) hs
    by_contra hin
    exact hk (hbytes k (by omega) (by omega))

/-- A slice's translation cache takes an entry, and the page may be touched for the first time. -/
theorem State.cacheTrans_fetches {c : Prop} [Decidable c] {firstTouch : Sparse Nat} {slice : Nat} {tr : TEntry} (hs : s.Backed W) :
    s.Fetches W ((if c then { s with firstTouch } else s).cacheTrans slice tr) := by
  split
  · exact .of_parts (fun _ _ => rfl) hs
  · exact .of_parts (fun _ _ => rfl) hs

/-- A walk sets accessed in the leaf entry, and changes no other byte of memory. -/
theorem State.walk_fetches {tile a : Nat} {w : Bool} {tr : TEntry} (hs : s.Backed W)
    (hw : ∀ key, s.leafKey a = .ok key → s.Writable W key 8) (h : s.walk tile a w = .ok (tr, t)) : s.Fetches W t := by
  unfold State.walk at h
  cases hk : s.leafKey a with
  | error e => rw [hk] at h; cases h
  | ok key =>
    rw [hk] at h
    simp only [bind, Except.bind, pure, Except.pure, throw, throwThe, MonadExceptOf.throw] at h
    split at h
    · cases h
    · split at h
      · cases h
      · cases h
        have hp := State.physWrite_fetches (bs := bytesOfNat 8 (s.leafAt key ||| 2 ||| if w = true then 4 else 0).toNat) hs
          (by rw [bytesOfNat_length]; exact hw key hk)
        exact hp.trans (State.cacheTrans_fetches hp.backed)

/-- What the walk for an access of core `c` at `a` may change, where no translation is held. -/
def State.WalkWritable (W : Nat → Prop) (s : State) (die a : Nat) : Prop :=
  s.held die a = none → ∀ key, s.leafKey a = .ok key → s.Writable W key 8

theorem State.translate_fetches {tile a : Nat} {w : Bool} {tr : TEntry} (hs : s.Backed W) (hw : s.WalkWritable W (tile / 256) a)
    (h : s.translate tile a w = .ok (tr, t)) : s.Fetches W t := by
  unfold State.translate at h
  split at h
  · cases h; exact .refl hs
  · next hn => exact State.walk_fetches hs (hw hn) h

theorem sliceOf_div (c : Nat) : sliceOf c / 256 = dieOf c := by
  unfold sliceOf dieOf
  omega

/-- The walk for an access of the executing slot. -/
theorem State.walked_fetches {a : Nat} {w : Bool} (hs : s.Backed W) (hw : s.WalkWritable W (dieOf (coreOf s.cur)) a) :
    s.Fetches W (s.walked a w) := by
  unfold State.walked
  split
  · exact .refl hs
  · split
    · next ht => exact State.translate_fetches hs (sliceOf_div _ ▸ hw) ht
    · exact .refl hs

end

end Sys2Proof.Machine
end

section
/-!
SUPPORT. The frame of a load (R10, R171, R178, R179): what its walk, the fill of its line, its commit and its stops change.
-/

namespace Sys2Proof.Machine

/-! ### What the access of a load changes -/

/-- What the access of a load leaves of a state: no byte of memory changes outside `W`, no byte of a local store, no accumulator and
no waiting store, no word that an L1 holds but whether its line is read-only, and no slot. -/
structure State.Loads (W : Nat → Prop) (s t : State) : Prop where
  byte : ∀ k, ¬ W k → t.byte k = s.byte k
  core : ∀ c, (t.core c).loc = (s.core c).loc ∧ (t.core c).acc = (s.core c).acc ∧ (t.core c).nt = (s.core c).nt
  l1 : ∀ c y w, sfind (s.core c).l1 y = some w → ∃ ro, sfind (t.core c).l1 y = some { w with ro }
  slots : t.slots = s.slots
  cur : t.cur = s.cur

section
variable {W : Nat → Prop} {s t u : State}

/-- A state with the same memory, cores and slots. -/
theorem State.Loads.of_same (hbyte : ∀ k, ¬ W k → t.byte k = s.byte k) (hcores : t.cores = s.cores) (hslots : t.slots = s.slots)
    (hcur : t.cur = s.cur) : s.Loads W t := by
  have hcore (c : Nat) : t.core c = s.core c := by unfold State.core; rw [hcores]
  exact ⟨hbyte, fun c => by rw [hcore]; exact ⟨rfl, rfl, rfl⟩, fun c y w h => ⟨w.ro, by rw [hcore]; exact h⟩, hslots, hcur⟩

theorem State.Loads.refl : s.Loads W s := .of_same (fun _ _ => rfl) rfl rfl rfl

theorem State.Loads.trans (h : s.Loads W t) (h' : t.Loads W u) : s.Loads W u where
  byte k hk := (h'.byte k hk).trans (h.byte k hk)
  core c := by
    obtain ⟨hl, ha, hn⟩ := h.core c
    obtain ⟨hl', ha', hn'⟩ := h'.core c
    exact ⟨hl'.trans hl, ha'.trans ha, hn'.trans hn⟩
  l1 c y w hw := by
    obtain ⟨ro, hr⟩ := h.l1 c y w hw
    obtain ⟨ro', hr'⟩ := h'.l1 c y _ hr
    exact ⟨ro', hr'⟩
  slots := h'.slots.trans h.slots
  cur := h'.cur.trans h.cur

theorem State.Fetches.loads (h : s.Fetches W t) : s.Loads W t :=
  .of_same h.byte (by rw [h.rest]) (by rw [h.rest]) (by rw [h.rest])

/-! ### Computations one after the other -/

section
variable {α β ε ε' : Type} {x : Except ε α}

theorem ok_of_bind_ok {f : α → Except ε β} {b : β} (h : x >>= f = .ok b) : ∃ a, x = .ok a ∧ f a = .ok b := by
  cases x with
  | ok a => exact ⟨a, rfl, h⟩
  | error e => cases h

theorem error_of_bind_error {f : α → Except ε β} {e : ε} (h : x >>= f = .error e) :
    x = .error e ∨ ∃ a, x = .ok a ∧ f a = .error e := by
  cases x with
  | ok a => exact .inr ⟨a, rfl, h⟩
  | error e' => cases h; exact .inl rfl

theorem mapError_error {f : ε → ε'} {e : ε'} (h : x.mapError f = .error e) : ∃ y, x = .error y ∧ e = f y := by
  cases x with
  | ok a => cases h
  | error y => cases h; exact ⟨y, rfl, rfl⟩

end

/-! ### The fill of an L1 line -/

theorem State.core_modCore (k c : Nat) (f : Core → Core) : (s.modCore k f).core c = if c = k then f (s.core k) else s.core c := by
  split
  · next h => rw [h, State.core_modCore_same]
  · next h => exact State.core_modCore_other _ _ h

/-- A word of an L1 is set where there is none, or but for whether its line is read-only. -/
theorem State.setL1_loads {c a : Nat} {w : L1Word} (hw : ∀ x, s.l1Word c a = some x → ∃ ro, w = { x with ro }) :
    s.Loads W (s.setL1 c a w) where
  byte _ _ := rfl
  core n := by
    unfold State.setL1
    rw [State.core_modCore]
    split
    · next h => subst h; exact ⟨rfl, rfl, rfl⟩
    · exact ⟨rfl, rfl, rfl⟩
  l1 n y x hx := by
    unfold State.setL1
    rw [State.core_modCore]
    split
    · next h =>
      subst h
      dsimp only
      rw [sfind_sset]
      split
      · next h =>
        subst h
        obtain ⟨ro, rfl⟩ := hw x hx
        exact ⟨ro, rfl⟩
      · exact ⟨x.ro, hx⟩
    · exact ⟨x.ro, hx⟩
  slots := rfl
  cur := rfl

theorem State.fillL1_loads {c a : Nat} {tr : TEntry} {ro : Bool} (hs : s.Backed W) : s.Loads W (s.fillL1 c a tr ro) := by
  unfold State.fillL1
  refine forRange_keeps (fun u => s.Loads W u) _ _ (fun i u hu => ?_) (State.fillL2_fetches hs).loads
  dsimp only
  split
  · next x hx =>
    split
    · exact hu
    · exact hu.trans (State.setL1_loads fun y hy => ⟨_, by rw [hx] at hy; cases hy; rfl⟩)
  · next hx => exact hu.trans (State.setL1_loads fun y hy => by rw [hx] at hy; cases hy)

/-! ### The access -/

theorem State.checkHome_fetches {c a : Nat} {tr : TEntry} (hs : s.Backed W) (hw : s.WalkWritable W (dieOf c) a)
    (h : s.checkHome c a .load = .ok (tr, t)) : s.Fetches W t := by
  obtain ⟨e, -, h⟩ := ok_of_bind_ok h
  split at h
  · cases h
  · next hu =>
    split at h
    · cases h
    · cases h; exact State.translate_fetches hs (sliceOf_div c ▸ hw) hu

theorem State.l1Room_of_room {c a : Nat} (h : Claims.Room s c a) : s.l1Room c a = .ok s := by
  unfold State.l1Room
  dsimp only
  rw [if_pos]
  rcases h with h | h
  · simp [h]
  · simp [h]

/-- A fetch leaves the room of an L1 as it was. -/
theorem State.Fetches.room {c a : Nat} (h : s.Fetches W t) (hr : Claims.Room s c a) : Claims.Room t c a := by
  have hset : t.l1Set c a = s.l1Set c a := by rw [h.rest]; rfl
  unfold Claims.Room
  rw [hset]
  exact hr

/-- How a load ends an instruction: at once, or after its walk, or by the kill of uncorrectable data. -/
inductive Stop.OfLoad (a : Nat) : Stop → Prop
  | trap (cause : Nat) (tval : Word) : Stop.OfLoad a (.trap cause tval)
  | park (p : ParkInfo) : Stop.OfLoad a (.park p)
  | trapAfter (cause : Nat) (tval : Word) : Stop.OfLoad a (.after a false (.trap cause tval))
  | kill {e : Stop} (cause : Nat) (addr : Word) (h : e.last = .kill cause addr) : Stop.OfLoad a e

theorem State.plbCheck_error {c a : Nat} {k : Acc} {e : Stop} (h : s.plbCheck c a k = .error e) : ∃ cause tval, e = .trap cause tval := by
  unfold State.plbCheck at h
  split at h
  · split at h
    · cases h
    · cases h; exact ⟨_, _, rfl⟩
  · cases h; exact ⟨_, _, rfl⟩

theorem State.l1Read_error {c a n : Nat} {e : Stop} (h : s.l1Read c a n = .error e) : ∃ addr, e = .kill 52 addr := by
  unfold State.l1Read at h
  split at h
  · cases h; exact ⟨_, rfl⟩
  · cases h

theorem State.consume_error {c a n : Nat} {tr : TEntry} {e : Stop} (h : s.consume tr c a n .load = .error e) :
    ∃ addr, e = .after a false (.kill 52 addr) := by
  unfold State.consume at h
  split at h
  · cases h; exact ⟨_, rfl⟩
  · cases h

theorem State.checkHome_error {c a : Nat} {e : Stop} (h : s.checkHome c a .load = .error e) : e.OfLoad a := by
  rcases error_of_bind_error h with h | ⟨x, -, h⟩
  · obtain ⟨cause, tval, rfl⟩ := State.plbCheck_error h
    exact .trap _ _
  · split at h
    · cases h; exact .park _
    · split at h
      · cases h; exact .trapAfter _ _
      · cases h

theorem State.checkHit_error {c a : Nat} {w : L1Word} {e : Stop} (h : s.checkHit c a w .load = .error e) : e.OfLoad a := by
  rcases error_of_bind_error h with h | ⟨x, -, h⟩
  · obtain ⟨cause, tval, rfl⟩ := State.plbCheck_error h
    exact .trap _ _
  · split at h
    · cases h; exact .trap _ _
    · cases h

/-- A load that gives its bytes has made its walk and filled its line at most. -/
theorem State.load_loads {c a n : Nat} {bs : List Byte} (hs : s.Backed W) (hw : s.WalkWritable W (dieOf c) a)
    (hr : Claims.Room s c a) (h : s.load c a n false = .ok (bs, t)) : s.Loads W t := by
  unfold State.load at h
  split at h
  · cases h; exact .refl
  · split at h
    · obtain ⟨_, -, h⟩ := ok_of_bind_ok h
      obtain ⟨_, -, h⟩ := ok_of_bind_ok h
      cases h; exact .refl
    · obtain ⟨⟨tr, u⟩, hu, h⟩ := ok_of_bind_ok h
      obtain ⟨_, -, h⟩ := ok_of_bind_ok h
      have hf := State.checkHome_fetches hs hw hu
      obtain ⟨v, hv, h⟩ := ok_of_bind_ok ((mapError_ok _ _ _).1 h)
      obtain ⟨_, -, h⟩ := ok_of_bind_ok h
      rw [State.l1Room_of_room (hf.room hr)] at hv
      cases hv
      cases h
      exact hf.loads.trans (State.fillL1_loads hf.backed)

theorem State.load_error {c a n : Nat} {e : Stop} (hs : s.Backed W) (hw : s.WalkWritable W (dieOf c) a)
    (hr : Claims.Room s c a) (h : s.load c a n false = .error e) : e.OfLoad a := by
  unfold State.load at h
  split at h
  · cases h
  · split at h
    · rcases error_of_bind_error h with h | ⟨_, -, h⟩
      · exact State.checkHit_error h
      · rcases error_of_bind_error h with h | ⟨_, -, h⟩
        · obtain ⟨addr, rfl⟩ := State.l1Read_error h
          exact .kill _ _ rfl
        · cases h
    · rcases error_of_bind_error h with h | ⟨⟨tr, u⟩, hu, h⟩
      · exact State.checkHome_error h
      · rcases error_of_bind_error h with h | ⟨_, -, h⟩
        · obtain ⟨addr, rfl⟩ := State.consume_error h
          exact .kill _ _ rfl
        · obtain ⟨x, hx, rfl⟩ := mapError_error h
          have hf := State.checkHome_fetches hs hw hu
          rw [State.l1Room_of_room (hf.room hr)] at hx
          rcases error_of_bind_error hx with hx | ⟨_, -, hx⟩
          · cases hx
          · rcases error_of_bind_error hx with hx | ⟨_, -, hx⟩
            · obtain ⟨addr, rfl⟩ := State.l1Read_error hx
              exact .kill _ _ rfl
            · cases hx

/-! ### How a load ends -/

/-- The registers of a slot are those of another. -/
structure Slot.SameRegs (a b : Slot) : Prop where
  x : a.x = b.x
  v : a.v = b.v
  vflags : a.vflags = b.vflags
  vctl : a.vctl = b.vctl

theorem Slot.SameRegs.trans {a b c : Slot} (h : a.SameRegs b) (h' : b.SameRegs c) : a.SameRegs c :=
  ⟨h.x.trans h'.x, h.v.trans h'.v, h.vflags.trans h'.vflags, h.vctl.trans h'.vctl⟩

theorem Slot.SameRegs.xr {a b : Slot} (h : a.SameRegs b) (n : Nat) : a.xr n = b.xr n := by
  unfold Slot.xr
  rw [h.x]

/-- The stop of a repetition keeps the registers. -/
theorem Slot.SameRegs.of_stopRep {a sl : Slot} (h : a.SameRegs sl.stopRep) : a.SameRegs sl := by
  refine h.trans ?_
  unfold Slot.stopRep
  split
  · exact ⟨rfl, rfl, rfl, rfl⟩
  · exact ⟨rfl, rfl, rfl, rfl⟩

theorem Slot.enterS_sameRegs (sl : Slot) (cause tval : Word) : (sl.enterS cause tval).SameRegs sl := ⟨rfl, rfl, rfl, rfl⟩

theorem Slot.enterM_sameRegs (sl : Slot) (cause tval : Word) : (sl.enterM cause tval).SameRegs sl := by
  unfold Slot.enterM Slot.setM
  constructor <;> dsimp only

/-- What a load leaves in the end: besides what its access changes, no slot but its own, and of that no register but `rd`. -/
structure State.LoadEnds (W : Nat → Prop) (s t : State) (rd : Reg) : Prop where
  byte : ∀ k, ¬ W k → t.byte k = s.byte k
  core : ∀ c, (t.core c).loc = (s.core c).loc ∧ (t.core c).acc = (s.core c).acc ∧ (t.core c).nt = (s.core c).nt
  l1 : ∀ c y w, sfind (s.core c).l1 y = some w → ∃ ro, sfind (t.core c).l1 y = some { w with ro }
  slot : ∀ k, k ≠ s.cur → t.slot k = s.slot k
  xr : ∀ m, m ≠ rd.toNat → (t.slot s.cur).xr m = (s.slot s.cur).xr m
  regs : (t.slot s.cur).v = (s.slot s.cur).v ∧ (t.slot s.cur).vflags = (s.slot s.cur).vflags ∧ (t.slot s.cur).vctl = (s.slot s.cur).vctl

variable {rd : Reg}

theorem State.Loads.slot (h : s.Loads W t) (k : Nat) : t.slot k = s.slot k := by
  unfold State.slot
  rw [h.slots]

/-- The end of a load by what it does to the slots alone. -/
theorem State.Loads.ends (h : s.Loads W u) (hmem : t.mem = u.mem) (hcores : t.cores = u.cores)
    (hslot : ∀ k, k ≠ s.cur → t.slot k = u.slot k) (hx : ∀ m, m ≠ rd.toNat → (t.slot s.cur).xr m = (u.slot s.cur).xr m)
    (hregs : (t.slot s.cur).v = (u.slot s.cur).v ∧ (t.slot s.cur).vflags = (u.slot s.cur).vflags ∧
      (t.slot s.cur).vctl = (u.slot s.cur).vctl) : s.LoadEnds W t rd := by
  have hbyte (k : Nat) : t.byte k = u.byte k := by unfold State.byte; rw [hmem]
  have hcore (c : Nat) : t.core c = u.core c := by unfold State.core; rw [hcores]
  exact
    { byte := fun k hk => (hbyte k).trans (h.byte k hk)
      core := fun c => by rw [hcore]; exact h.core c
      l1 := fun c y w hw => by rw [hcore]; exact h.l1 c y w hw
      slot := fun k hk => (hslot k hk).trans (h.slot k)
      xr := fun m hm => by rw [hx m hm, h.slot]
      regs := by rw [← h.slot]; exact hregs }

/-- A load that gives its value writes `rd` and commits. -/
theorem State.Loads.ends_of_commit (h : s.Loads W u) (v : Word) :
    s.LoadEnds W ((u.modSlot u.cur fun sl => sl.setX rd.toNat v).commit u.cur none) rd := by
  have hf : Claims.FrameX u _ rd := frameX_write v none
  obtain ⟨hrest, hslot, ⟨x, e, p, r, i, run, hs⟩, hx, -⟩ := hf
  rw [h.cur] at hrest hslot hs hx ⊢
  refine h.ends (by rw [hrest]) (by rw [hrest]) hslot hx ?_
  rw [hs]
  exact ⟨rfl, rfl, rfl⟩

/-- A load that stops leaves its convoy, and keeps its registers. -/
theorem State.Loads.ends_of_leave (h : s.Loads W u) {f : Slot → Slot} (hf : ∀ sl, (f sl).SameRegs sl) :
    s.LoadEnds W ((u.leave s.cur).modSlot s.cur f) rd := by
  have hl := State.leave_sameButConvoy (s := u) (k := s.cur)
  have hr : ((((u.leave s.cur).modSlot s.cur f)).slot s.cur).SameRegs (u.slot s.cur) := by
    rw [State.slot_modSlot_same]
    refine (hf _).trans ?_
    rw [hl.slot]
    exact ⟨rfl, rfl, rfl, rfl⟩
  refine h.ends ?_ ?_ (fun k hk => ?_) (fun m _ => hr.xr m) ⟨hr.v, hr.vflags, hr.vctl⟩
  · rw [State.modSlot_mem, hl.rest]
  · rw [State.modSlot_cores, hl.rest]
  · rw [State.slot_modSlot_other _ _ hk, hl.other k hk]

theorem State.Loads.ends_of_trap (h : s.Loads W u) (cause : Nat) (tval : Word) :
    s.LoadEnds W (u.takeTrap u.cur cause tval) rd := by
  rw [h.cur]
  unfold State.takeTrap State.enter
  refine h.ends_of_leave fun sl => ?_
  dsimp only
  split
  · exact .of_stopRep ((Slot.enterM_sameRegs _ _ _).trans ⟨rfl, rfl, rfl, rfl⟩)
  · exact .of_stopRep ((Slot.enterS_sameRegs _ _ _).trans ⟨rfl, rfl, rfl, rfl⟩)

theorem State.nonResident_loads {a : Nat} : s.Loads W (s.nonResident a) := by
  unfold State.nonResident
  split
  · dsimp only
    split
    · exact .refl
    · exact .of_same (fun _ _ => rfl) rfl rfl rfl
  · exact .refl

/-- A fault record that is sent changes nothing of this. -/
theorem State.LoadEnds.of_faults {faults : List FaultRec} (h : s.LoadEnds W t rd) : s.LoadEnds W { t with faults } rd :=
  ⟨h.byte, h.core, h.l1, h.slot, h.xr, h.regs⟩

theorem State.Loads.ends_of_park (h : s.Loads W u) (p : ParkInfo) : s.LoadEnds W (u.park u.cur p) rd := by
  rw [h.cur]
  have hl : s.Loads W (u.nonResident (va p.addr)) := h.trans State.nonResident_loads
  have hk : s.LoadEnds W (((u.nonResident (va p.addr)).leave s.cur).modSlot s.cur fun sl =>
      { sl.stopRep with run := .parked p, wait := .none, stval := p.addr, gfault := p.gfault }) rd :=
    hl.ends_of_leave fun _ => .of_stopRep ⟨rfl, rfl, rfl, rfl⟩
  exact hk.of_faults

/-- However a load stops, but by a kill, it keeps its registers. -/
theorem Stop.OfLoad.ends {a : Nat} {e : Stop} (h : e.OfLoad a) (hk : ∀ cause addr, e.last ≠ .kill cause addr) (hs : s.Backed W)
    (hw : s.WalkWritable W (dieOf (coreOf s.cur)) a) : s.LoadEnds W (e.apply s) rd := by
  cases h with
  | trap cause tval => exact State.Loads.refl.ends_of_trap cause tval
  | park p => exact State.Loads.refl.ends_of_park p
  | trapAfter cause tval => exact (State.walked_fetches hs hw).loads.ends_of_trap cause tval
  | kill cause addr h => exact absurd h (hk cause addr)

/-! ### The instruction -/

theorem exec_of_loadForms {i : Instr} {rd rs1 : Reg} {imm : BitVec 12} {n : Nat} (h : (i, n) ∈ Claims.loadForms rd rs1 imm) :
    ∃ ext, exec i s = runSlot (Act.loadOp n ext rd rs1 imm) s := by
  simp only [Claims.loadForms, List.mem_cons, List.not_mem_nil, or_false, Prod.mk.injEq] at h
  rcases h with ⟨rfl, rfl⟩ | ⟨rfl, rfl⟩ | ⟨rfl, rfl⟩ | ⟨rfl, rfl⟩ | ⟨rfl, rfl⟩ | ⟨rfl, rfl⟩ | ⟨rfl, rfl⟩
  all_goals exact ⟨_, rfl⟩

/-- A load, whatever it does, changes what its walk and its line's fill change, its destination and its slot's way on. -/
theorem loadOp_ends {n : Nat} {ext : Nat → Word} {rs1 : Reg} {imm : BitVec 12} (hs : s.Backed W)
    (hw : s.WalkWritable W (dieOf (Claims.cc s)) (Claims.ea s rs1 imm)) (hr : Claims.Room s (Claims.cc s) (Claims.ea s rs1 imm))
    (hk : ∀ e cause addr, s.load (Claims.cc s) (Claims.ea s rs1 imm) n false = .error e → e.last ≠ .kill cause addr)
    (h : runSlot (Act.loadOp n ext rd rs1 imm) s = .next t) : s.LoadEnds W t rd := by
  have hop : Act.loadOp n ext rd rs1 imm s = Act.loadNat (Claims.ea s rs1 imm) n s >>= fun r =>
    (do Act.setX rd (ext r.1); Act.next) r.2 := rfl
  unfold runSlot at h
  rw [hop] at h
  cases hl : Act.loadNat (Claims.ea s rs1 imm) n s with
  | ok r =>
    rw [hl] at h
    cases h
    unfold Act.loadNat at hl
    split at hl
    · cases hl
    · split at hl
      · next hu =>
        cases hl
        exact (State.load_loads hs hw hr hu).ends_of_commit _
      · cases hl
  | error e =>
    rw [hl] at h
    cases h
    unfold Act.loadNat at hl
    split at hl
    · cases hl
      exact State.Loads.refl.ends_of_trap _ _
    · split at hl
      · cases hl
      · next he =>
        cases hl
        exact (State.load_error hs hw hr he).ends (hk _ · · he) hs hw

end

/-- Settles O14: the frame of the access is taken outside a set of bytes that contains what may be written back, once for the set of
all bytes and once for all but the byte in question. -/
theorem loadFrame : Obligations.LoadFrame := by
  intro s t rd rs1 imm i n a hi hr hk h
  obtain ⟨ext, hx⟩ := exec_of_loadForms (s := s) hi
  rw [hx] at h
  have hends (W : Nat → Prop) (hW : ∀ k, Claims.WrittenBack s k → W k) (hw : s.WalkWritable W (dieOf (Claims.cc s)) a) :
      s.LoadEnds W t rd := loadOp_ends (State.backed_iff.2 hW) hw hr hk h
  have hall : s.LoadEnds (fun _ => True) t rd :=
    hends _ (fun _ _ => trivial) fun _ _ _ => ⟨fun _ _ _ => trivial, fun _ _ _ => trivial⟩
  have hbyte (k : Nat) (hw : s.WalkWritable (· ≠ k) (dieOf (Claims.cc s)) a) : t.byte k = s.byte k ∨ Claims.WrittenBack s k := by
    by_cases hb : Claims.WrittenBack s k
    · exact .inr hb
    · exact .inl ((hends (· ≠ k) (fun j hj hjk => hb (hjk ▸ hj)) hw).byte k fun h => h rfl)
  refine ⟨fun k hkey => hbyte k fun _ key hlk => ?_, fun hheld k => hbyte k fun hn => ?_, hall.core, hall.l1, hall.slot, hall.xr,
    hall.regs⟩
  · obtain ⟨hout, hline⟩ := hkey key hlk
    exact ⟨fun j _ _ => by omega, fun hf j hj hjk => hline hf (hjk ▸ hj)⟩
  · rw [hn] at hheld
    cases hheld

end Sys2Proof.Machine
end

section
/-!
SUPPORT. That no step takes the memory out of its canonical form (log 2): what it means for a computation that may stop, for an
effect of an instruction and for a step of an engine to keep it, and how these compose.
-/

namespace Sys2Proof.Machine

/-! ### Computations that keep the canonical form -/

section
variable {α β γ ε ε' : Type}

/-- Whatever the computation gives, if it does not stop, meets `P`. -/
def Gives (P : α → Prop) (x : Except ε α) : Prop := ∀ a, x = .ok a → P a

/-- Whatever is there meets `P`. -/
def Offers (P : α → Prop) (x : Option α) : Prop := ∀ a, x = some a → P a

theorem Gives.of_ok {P : α → Prop} {x : Except ε α} {a : α} (hx : x = .ok a) (h : Gives P x) : P a := h a hx

theorem Gives.ok {P : α → Prop} {a : α} (h : P a) : Gives P (.ok a : Except ε α) := fun _ e => Except.ok.inj e ▸ h

theorem Gives.pure {P : α → Prop} {a : α} (h : P a) : Gives P (Pure.pure a : Except ε α) := .ok h

theorem Gives.error {P : α → Prop} {e : ε} : Gives P (.error e : Except ε α) := fun _ h => nomatch h

theorem Gives.throw {P : α → Prop} {e : ε} : Gives P (MonadExcept.throw e : Except ε α) := .error

/-- One computation after another: what the first gives meets `Q`, and from there the second gives what meets `P`. -/
theorem Gives.bind {Q : α → Prop} {P : β → Prop} {x : Except ε α} {f : α → Except ε β} (hx : Gives Q x)
    (hf : ∀ a, Q a → Gives P (f a)) : Gives P (x >>= f) := by
  cases x with
  | ok a => exact hf a (hx a rfl)
  | error e => exact .error

/-- The same where what the first one gives does not matter. -/
theorem Gives.after {P : β → Prop} {x : Except ε α} {f : α → Except ε β} (hf : ∀ a, Gives P (f a)) : Gives P (x >>= f) :=
  Gives.bind (Q := fun _ => True) (fun _ _ => trivial) fun a _ => hf a

theorem Gives.fmap {Q : α → Prop} {P : β → Prop} {x : Except ε α} {f : α → β} (hx : Gives Q x) (hf : ∀ a, Q a → P (f a)) :
    Gives P (f <$> x) := by
  cases x with
  | ok a => exact .ok (hf a (hx a rfl))
  | error e => exact .error

theorem Gives.emap {Q : α → Prop} {P : β → Prop} {x : Except ε α} {f : α → β} (hx : Gives Q x) (hf : ∀ a, Q a → P (f a)) :
    Gives P (x.map f) := hx.fmap hf

theorem Gives.emapAfter {P : β → Prop} {x : Except ε α} {f : α → β} (hf : ∀ a, P (f a)) : Gives P (x.map f) :=
  Gives.emap (Q := fun _ => True) (fun _ _ => trivial) fun a _ => hf a

theorem Gives.pureBind {P : β → Prop} {a : α} {f : α → Except ε β} (h : Gives P (f a)) : Gives P (Pure.pure a >>= f) := h

theorem Gives.foldlM {P : β → Prop} {f : β → γ → Except ε β} {l : List γ} {b : β} (hf : ∀ b c, P b → Gives P (f b c)) (h : P b) :
    Gives P (l.foldlM f b) := fun _ e => foldlM_keeps P l f (fun b c b' hb hc => hf b c hb b' hc) h e

theorem Gives.mapError {P : α → Prop} {f : ε → ε'} {x : Except ε α} (h : Gives P x) : Gives P (x.mapError f) :=
  fun a e => h a ((mapError_ok f x a).1 e)

theorem Gives.inTurn {walks : γ → List (Nat × Bool)} {P : β → Prop} {f : β → γ → Except Stop β} {l : List γ} {b : β}
    (hf : ∀ b c, P b → Gives P (f b c)) (h : P b) : Gives P (inTurn walks f l b) := by
  induction l generalizing b with
  | nil => exact .ok h
  | cons c l ih =>
    unfold Machine.inTurn
    split
    · next d hd => exact (ih (hf b c h d hd)).mapError
    · exact .error

theorem Gives.kept {P : α → Prop} {a : Nat} {w : Bool} {x : Except Stop α} (h : Gives P x) : Gives P (kept a w x) := h.mapError

theorem Gives.ofWt {P : State → Prop} {k : Acc} {x : Except (Nat × WalkFault) State} (h : Gives P x) : Gives P (ofWt k x) :=
  fun s e => h s (ofWt_ok e)

theorem Offers.of_some {P : α → Prop} {x : Option α} {a : α} (hx : x = some a) (h : Offers P x) : P a := h a hx

theorem Offers.some {P : α → Prop} {a : α} (h : P a) : Offers P (some a) := fun _ e => Option.some.inj e ▸ h

theorem Offers.none {P : α → Prop} : Offers P none := fun _ h => nomatch h

theorem Offers.map {P : β → Prop} {f : α → β} {x : Option α} (h : ∀ a, P (f a)) : Offers P (x.map f) := by
  cases x with
  | some a => exact .some (h a)
  | none => exact .none

theorem Offers.firstOf {P : β → Prop} {f : α → Option β} {l : List α} (h : ∀ a, Offers P (f a)) : Offers P (firstOf f l) := by
  induction l with
  | nil => exact .none
  | cons a l ih =>
    intro b e
    unfold Machine.firstOf at e
    split at e
    · next c hc => exact h a b (hc.trans e)
    · exact ih b e

/-- What is there meets `P`, and so does what stands for it otherwise. -/
theorem Offers.getD {P : α → Prop} {x : Option α} {d : α} (h : Offers P x) (hd : P d) : P (x.getD d) := by
  cases x with
  | some a => exact h a rfl
  | none => exact hd

/-- What is there, or what is tried instead, meets `P`. -/
theorem Offers.orElse {P : α → Prop} {x y : Option α} (hx : Offers P x) (hy : Offers P y) : Offers P (x.orElse fun _ => y) := by
  cases x with
  | some a => exact hx
  | none => exact hy

theorem Gives.toOption {P : α → Prop} {x : Except ε α} (h : Gives P x) : Offers P x.toOption := by
  cases x with
  | ok a => exact .some (h a rfl)
  | error e => exact .none

end

/-- A fold over a list keeps the canonical form where every step of it does. -/
theorem foldl_keeps_memOk {γ : Type} {f : State → γ → State} {l : List γ} {s : State} (hf : ∀ s c, s.memOk → (f s c).memOk)
    (h : s.memOk) : (l.foldl f s).memOk := foldl_keeps State.memOk l f hf h

/-- A fold over a range keeps the canonical form where every step of it does. -/
theorem forRange_keeps_memOk {n : Nat} {f : Nat → State → State} {s : State} (hf : ∀ i s, s.memOk → (f i s).memOk)
    (h : s.memOk) : (forRange n f s).memOk := forRange_keeps State.memOk n f hf h

/-- The canonical form is a matter of the memory alone, whatever else of a state is set anew. -/
theorem State.memOk.mk {mem poison resv l2 seals keys ctxKeys ptRoot trans firstTouch slots cores cars freed
    before ways bulks clock landings gangs injects rules ruleRuns regions ports pkg fencedPkgs fenceInterval
    outbox toSeq toDest ctxs lastDisp dispAt order lanes evSeq faults cxlDown retrain training temps
    hot fw transcript certMsgs measMsgs pxmode boot minSvn mrs sram snaps cycle lost told
    hints free sched cur eng serving}
    (h : Memory.wf mem = true) :
    (State.mk mem poison resv l2 seals keys ctxKeys ptRoot trans firstTouch slots cores cars freed
      before ways bulks clock landings gangs injects rules ruleRuns regions ports pkg fencedPkgs fenceInterval
      outbox toSeq toDest ctxs lastDisp dispAt order lanes evSeq faults cxlDown retrain training temps
      hot fw transcript certMsgs measMsgs pxmode boot minSvn mrs sram snaps cycle lost told
      hints free sched cur eng serving).memOk := h

/-! ### Effects of an instruction -/

/-- An effect keeps the canonical form of memory. -/
def Act.Keeps {α : Type} (act : Act α) : Prop := ∀ s : State, s.memOk → Gives (fun r => r.2.memOk) (act s)

section
variable {α β : Type}

theorem Act.Keeps.pure {a : α} : Act.Keeps (Pure.pure a) := fun _ h => .ok h

theorem Act.Keeps.bind {x : Act α} {f : α → Act β} (hx : x.Keeps) (hf : ∀ a, (f a).Keeps) : Act.Keeps (x >>= f) :=
  fun s h => (hx s h).bind fun r hr => hf r.1 r.2 hr

theorem Act.Keeps.pureBind {a : α} {f : α → Act β} (h : (f a).Keeps) : Act.Keeps (Pure.pure a >>= f) := h

/-- Reading the state, and then what is done with it. -/
theorem Act.Keeps.get {f : State → Act β} (hf : ∀ s : State, s.memOk → (f s).Keeps) : Act.Keeps (MonadState.get >>= f) :=
  fun s h => hf s h s h

theorem Act.Keeps.trap {cause : Nat} {tval : Word} : Act.Keeps (Act.trap cause tval : Act α) := fun _ _ => .error

/-- Nothing comes after a trap. -/
theorem Act.Keeps.trapBind {cause : Nat} {tval : Word} {f : α → Act β} :
    Act.Keeps (Act.trap cause tval >>= f) := fun _ _ => .error

theorem Act.Keeps.wait : Act.Keeps (Act.wait : Act α) := fun _ _ => .error

/-- Nothing comes after a stall. -/
theorem Act.Keeps.waitBind {f : α → Act β} : Act.Keeps (Act.wait >>= f) := fun _ _ => .error

theorem Act.Keeps.keep {a : Nat} {w : Bool} {act : Act α} (h : act.Keeps) : Act.Keeps (Act.keep a w act) :=
  fun s hs => (h s hs).kept

theorem Act.Keeps.keepAll {ws : List (Nat × Bool)} {act : Act α} (h : act.Keeps) : Act.Keeps (Act.keepAll ws act) :=
  fun s hs => (h s hs).mapError

theorem Act.Keeps.kept {before : State} {a n : Nat} {act : Act α} (h : act.Keeps) :
    Act.Keeps (Act.kept before a n act) := h.keepAll

theorem Act.Keeps.slot : Act.Keeps Act.slot := fun _ h => .ok h

theorem Act.Keeps.x {r : Reg} : Act.Keeps (Act.x r) := fun _ h => .ok h

theorem Act.Keeps.modSlot {f : Slot → Slot} : Act.Keeps (Act.modSlot f) := fun _ h => .ok h

theorem Act.Keeps.setX {r : Reg} {w : Word} : Act.Keeps (Act.setX r w) := .modSlot

theorem Act.Keeps.mod {f : State → State} (hf : ∀ s : State, s.memOk → (f s).memOk) : Act.Keeps (Act.mod f) :=
  fun s h => .ok (hf s h)

end

section
variable {α β : Type} {c : Prop} [Decidable c] {k : α → Act β}

/-- A check that may trap, and then the rest. -/
theorem Act.Keeps.guard {cause : Nat} {tval : Word} {f : α → Act β} {k : Act β} (h : k.Keeps) :
    Act.Keeps (if c then Act.trap cause tval >>= f else k) := by
  split
  · exact .trapBind
  · exact h

/-- A condition under which the instruction waits, and then the rest. -/
theorem Act.Keeps.hold {f : α → Act β} {k : Act β} (h : k.Keeps) : Act.Keeps (if c then Act.wait >>= f else k) := by
  split
  · exact .waitBind
  · exact h

/-- Something that is done under a condition, and then the rest. -/
theorem Act.Keeps.when {x : Act PUnit} {k : PUnit → Act β} (hx : x.Keeps) (hk : ∀ r, (k r).Keeps) :
    Act.Keeps (if c then x >>= fun r => k r else k PUnit.unit) := by
  split
  · exact .bind hx hk
  · exact hk _

/-- One thing or another, and then the rest. -/
theorem Act.Keeps.branch {x y : Act α} (hx : x.Keeps) (hy : y.Keeps) (hk : ∀ r, (k r).Keeps) :
    Act.Keeps (if c then x >>= fun r => k r else y >>= fun r => k r) := by
  split
  · exact .bind hx hk
  · exact .bind hy hk

end

theorem Act.Keeps.foldlM {β γ : Type} {f : β → γ → Act β} {l : List γ} {b : β} (hf : ∀ b c, (f b c).Keeps) :
    Act.Keeps (l.foldlM f b) := by
  induction l generalizing b with
  | nil => exact .pure
  | cons c l ih => rw [List.foldlM_cons]; exact .bind (hf b c) fun _ => ih

theorem Act.Keeps.forM {α : Type} {f : α → Act Unit} {l : List α} (hf : ∀ a, (f a).Keeps) : Act.Keeps (l.forM f) := by
  induction l with
  | nil => exact .pure
  | cons a l ih => exact .bind (hf a) fun _ => ih

theorem Act.Keeps.mapM {α β : Type} {f : α → Act β} {l : List α} (hf : ∀ a, (f a).Keeps) : Act.Keeps (l.mapM f) := by
  induction l with
  | nil => rw [List.mapM_nil]; exact .pure
  | cons a l ih => rw [List.mapM_cons]; exact .bind (hf a) fun _ => .bind ih fun _ => .pure

/-! ### Steps of an engine -/

/-- A computation of an engine gives what meets `P`, and a status with which it ends comes with a memory in canonical form. -/
def Ends {α : Type} (P : α → Prop) (x : Except EngStop α) : Prop :=
  Gives P x ∧ ∀ code e, x = .error (.status code e) → e.st.memOk

section
variable {α β γ : Type} {P : α → Prop} {Q : β → Prop}

theorem Ends.ok {a : α} (h : P a) : Ends P (.ok a) := ⟨.ok h, fun _ _ e => nomatch e⟩
theorem Ends.status {code : Nat} {e : EngSt} (h : e.st.memOk) : Ends P (.error (.status code e)) :=
  ⟨.error, fun _ _ x => by cases x; exact h⟩
theorem Ends.hold : Ends P (.error .hold) := ⟨.error, fun _ _ e => nomatch e⟩
theorem Ends.retry {f : Fetched} {w : Bool} : Ends P (.error (.retry f w)) := ⟨.error, fun _ _ e => nomatch e⟩

theorem Ends.later {ws : List Written} {ms : List Nat} {got : Sparse Byte} : Ends P (.error (.later ws ms got)) :=
  ⟨.error, fun _ _ e => nomatch e⟩

theorem Ends.of_ok {x : Except EngStop α} {a : α} (h : Ends P x) (hx : x = .ok a) : P a := h.1 a hx

theorem Ends.of_status {x : Except EngStop α} {code : Nat} {y : EngSt} (h : Ends P x) (hx : x = .error (.status code y)) :
    y.st.memOk := h.2 code y hx

/-- A stop that is handed on. -/
theorem Ends.of_error {x : Except EngStop α} {y : EngStop} (h : Ends P x) (e : x = .error y) : Ends Q (.error y) :=
  ⟨.error, fun _ _ hy => h.of_status (e.trans (congrArg _ (Except.error.inj hy)))⟩

theorem Ends.bind {x : Except EngStop α} {f : α → Except EngStop β} (hx : Ends P x) (hf : ∀ a, P a → Ends Q (f a)) :
    Ends Q (x >>= f) := by
  cases x with
  | ok a => exact hf a (hx.of_ok rfl)
  | error y => exact hx.of_error rfl

theorem Ends.foldlM {f : β → γ → Except EngStop β} {l : List γ} {b : β} (hf : ∀ b c, Q b → Ends Q (f b c)) (h : Q b) :
    Ends Q (l.foldlM f b) := by
  induction l generalizing b with
  | nil => exact .ok h
  | cons c l ih => rw [List.foldlM_cons]; exact (hf b c h).bind fun b' hb => ih hb

end

/-- A step of an engine keeps the canonical form of memory, where it ends with a status too. -/
def Eng.Keeps {α : Type} (step : Eng α) : Prop := ∀ e : EngSt, e.st.memOk → Ends (fun r => r.2.st.memOk) (step e)

section
variable {α β γ : Type}

theorem Eng.Keeps.pure {a : α} : Eng.Keeps (Pure.pure a) := fun _ h => .ok h

theorem Eng.Keeps.bind {x : Eng α} {f : α → Eng β} (hx : x.Keeps) (hf : ∀ a, (f a).Keeps) : Eng.Keeps (x >>= f) :=
  fun e h => (hx e h).bind fun r hr => hf r.1 r.2 hr

theorem Eng.Keeps.pureBind {a : α} {f : α → Eng β} (h : (f a).Keeps) : Eng.Keeps (Pure.pure a >>= f) := h

/-- Reading the state, and then what is done with it. -/
theorem Eng.Keeps.st {f : State → Eng β} (hf : ∀ s : State, s.memOk → (f s).Keeps) : Eng.Keeps (Eng.st >>= f) :=
  fun e h => hf e.st h e h

theorem Eng.Keeps.status {code : Nat} : Eng.Keeps (Eng.status code : Eng α) := fun _ h => .status h

theorem Eng.Keeps.hold : Eng.Keeps (Eng.hold : Eng α) := fun _ _ => .hold

/-- Nothing comes after a step that has no effect. -/
theorem Eng.Keeps.holdBind {f : α → Eng β} : Eng.Keeps (Eng.hold >>= f) := fun _ _ => .hold

theorem Eng.Keeps.failIf {b : Bool} {code : Nat} : Eng.Keeps (Eng.failIf b code) := by
  unfold Eng.failIf
  split
  · exact .status
  · exact .pure

theorem Eng.Keeps.cmd : Eng.Keeps Eng.cmd := fun _ h => .ok h
theorem Eng.Keeps.core : Eng.Keeps Eng.core := fun _ h => .ok h

theorem Eng.Keeps.mod {f : State → State} (hf : ∀ s : State, s.memOk → (f s).memOk) : Eng.Keeps (Eng.mod f) :=
  fun e h => .ok (hf e.st h)

theorem Eng.Keeps.modCore {f : Core → Core} : Eng.Keeps (Eng.modCore f) := fun _ h => .ok h
theorem Eng.Keeps.modCmd {f : Cmd → Cmd} : Eng.Keeps (Eng.modCmd f) := fun _ h => .ok h
theorem Eng.Keeps.flag {f : Flags} : Eng.Keeps (Eng.flag f) := .modCmd
theorem Eng.Keeps.tag {p : Word} : Eng.Keeps (Eng.tag p) := .failIf

end

section
variable {α β : Type} {c : Prop} [Decidable c] {k : α → Eng β}

/-- One thing or another. -/
theorem Eng.Keeps.ite {x y : Eng β} (hx : x.Keeps) (hy : y.Keeps) : Eng.Keeps (if c then x else y) := by
  split
  · exact hx
  · exact hy

/-- Something that is done under a condition, and then the rest. -/
theorem Eng.Keeps.when {x : Eng PUnit} {k : PUnit → Eng β} (hx : x.Keeps) (hk : ∀ r, (k r).Keeps) :
    Eng.Keeps (if c then x >>= fun r => k r else k PUnit.unit) := by
  split
  · exact .bind hx hk
  · exact hk _

/-- One thing or another, and then the rest. -/
theorem Eng.Keeps.branch {x y : Eng α} (hx : x.Keeps) (hy : y.Keeps) (hk : ∀ r, (k r).Keeps) :
    Eng.Keeps (if c then x >>= fun r => k r else y >>= fun r => k r) := by
  split
  · exact .bind hx hk
  · exact .bind hy hk

end

section
variable {α β γ : Type}

theorem Eng.Keeps.foldlM {f : β → γ → Eng β} {l : List γ} {b : β} (hf : ∀ b c, (f b c).Keeps) : Eng.Keeps (l.foldlM f b) := by
  induction l generalizing b with
  | nil => exact .pure
  | cons c l ih => rw [List.foldlM_cons]; exact .bind (hf b c) fun _ => ih

theorem Eng.Keeps.forM {f : α → Eng Unit} {l : List α} (hf : ∀ a, (f a).Keeps) : Eng.Keeps (l.forM f) := by
  induction l with
  | nil => exact .pure
  | cons a l ih => exact .bind (hf a) fun _ => ih

theorem Eng.Keeps.mapM {f : α → Eng β} {l : List α} (hf : ∀ a, (f a).Keeps) : Eng.Keeps (l.mapM f) := by
  induction l with
  | nil => rw [List.mapM_nil]; exact .pure
  | cons a l ih => rw [List.mapM_cons]; exact .bind (hf a) fun _ => .bind ih fun _ => .pure

end

/-! ### What a step of the package answers -/

/-- The next state, if there is one, has its memory in canonical form. -/
def NextOk (o : Host.Outcome State Fault Refusal) : Prop := ∀ t, o = .next t → t.memOk

theorem NextOk.next {t : State} (h : t.memOk) : NextOk (.next t) := fun _ e => Host.Outcome.next.inj e ▸ h

/-- The state that a plan starts from, or the one that it answers, has its memory in canonical form. -/
def Plan.Ok : Plan → Prop
  | .run _ s | .check _ s | .cycle _ s => s.memOk
  | .out o => NextOk o

/-- The state that the fault service leaves has its memory in canonical form. -/
def Service.Ok : Service → Prop
  | .stalls s | .done s => s.memOk
  | .fails => True

/-- The state that the read of a predicate leaves has its memory in canonical form. -/
def Predicate.Ok : Predicate → Prop
  | .value _ s | .wait s | .failed _ s => s.memOk

/-- The state that a request leaves has its memory in canonical form. -/
def Served.Ok : Served → Prop
  | .done _ _ _ s | .hold s => s.memOk

section
variable {s : State}

theorem Service.Ok.of_stalls {x : Service} (h : x.Ok) (hx : x = .stalls s) : s.memOk := by subst hx; exact h
theorem Service.Ok.of_done {x : Service} (h : x.Ok) (hx : x = .done s) : s.memOk := by subst hx; exact h
theorem Predicate.Ok.of_value {x : Predicate} {w : Word} (h : x.Ok) (hx : x = .value w s) : s.memOk := by subst hx; exact h
theorem Predicate.Ok.of_wait {x : Predicate} (h : x.Ok) (hx : x = .wait s) : s.memOk := by subst hx; exact h
theorem Predicate.Ok.of_failed {x : Predicate} {n : Nat} (h : x.Ok) (hx : x = .failed n s) : s.memOk := by subst hx; exact h

theorem Served.Ok.of_done {x : Served} {n : Nat} {w : Word} {bs : List Byte} (h : x.Ok) (hx : x = .done n w bs s) : s.memOk := by
  subst hx; exact h

theorem Served.Ok.of_hold {x : Served} (h : x.Ok) (hx : x = .hold s) : s.memOk := by subst hx; exact h

end

/-! ### The operations on memory that may stop -/

section
variable {s : State} {c a n : Nat}

theorem State.walk_gives {tile : Nat} {w : Bool} (h : s.memOk) : Gives (fun r => r.2.memOk) (s.walk tile a w) :=
  fun _ => State.walk_memOk h

theorem State.translate_gives {tile : Nat} {w : Bool} (h : s.memOk) : Gives (fun r => r.2.memOk) (s.translate tile a w) :=
  fun _ => State.translate_memOk h

theorem State.wtWord_gives (h : s.memOk) : Gives State.memOk (s.wtWord c a) := fun _ => State.wtWord_memOk h
theorem State.wtRange_gives (h : s.memOk) : Gives State.memOk (s.wtRange c a n) := fun _ => State.wtRange_memOk h
theorem State.drainNt_gives {e : NtEntry} (h : s.memOk) : Gives State.memOk (s.drainNt c e) := fun _ => State.drainNt_memOk h
theorem State.drainOver_gives (h : s.memOk) : Gives State.memOk (s.drainOver c a n) := fun _ => State.drainOver_memOk h
theorem State.release_gives {sc : Scope} (h : s.memOk) : Gives State.memOk (s.release c sc) := fun _ => State.release_memOk h

theorem State.checkHome_gives {k : Acc} (h : s.memOk) : Gives (fun r => r.2.memOk) (s.checkHome c a k) :=
  fun _ => State.checkHome_memOk h

theorem State.atHome_gives {k : Acc} (h : s.memOk) : Gives (fun r => r.2.memOk) (s.atHome c a n k) := fun _ => State.atHome_memOk h

end

/-! ### The functions of the model

One lemma per function that gives a state, in the order of the model's files: `_memOk` where it gives one, `_gives`, `_offers` and
`_ends` where it may stop, `_keeps` for an effect, `_ok` for a plan or an answer, `_nextOk` for an instruction, command or event. -/

/-! ### What Machine/Ops defines -/

theorem State.modSlot_memOk {s : State} {k : Nat} {f : Slot → Slot} (h : s.memOk) : (s.modSlot k f).memOk := h

theorem State.modCore_memOk {s : State} {c : Nat} {f : Core → Core} (h : s.memOk) : (s.modCore c f).memOk := h

theorem State.modCar_memOk {s : State} {k : Nat} {f : Caravan → Caravan} (h : s.memOk) : (s.modCar k f).memOk := h

theorem State.modCtx_memOk {s : State} {k : Nat} {f : Ctx → Ctx} (h : s.memOk) : (s.modCtx k f).memOk := h

theorem State.modLane_memOk {s : State} {l : Nat} {f : HLane → HLane} (h : s.memOk) : (s.modLane l f).memOk := h

theorem State.modPort_memOk {s : State} {n : Nat} {f : Port → Port} (h : s.memOk) : (s.modPort n f).memOk := h

theorem State.event_memOk {s : State} {ctx : Nat} {src : Source} {code cause reason : Nat} {w3 w4 w5 w6 w7 : Word}
    (h : s.memOk) : (s.event ctx src code cause reason w3 w4 w5 w6 w7).memOk := by
  unfold State.event
  dsimp only
  repeat' split
  all_goals exact h

theorem State.hostOnly_memOk {s : State} {ctx : Nat} {src : Source} {code : Nat} {w3 w4 w5 w6 : Word} (h : s.memOk) :
    (s.hostOnly ctx src code w3 w4 w5 w6).memOk := h

theorem State.cxlAccess_memOk {s : State} {ctx : Nat} {t : TEntry} {a n : Nat} (h : s.memOk) :
    (s.cxlAccess ctx t a n).memOk := by
  unfold State.cxlAccess
  split
  · exact h
  · refine forRange_keeps_memOk (fun _ _ h' => ?_) h
    dsimp only
    split
    · exact State.event_memOk h'
    · exact h'

theorem State.fillRange_memOk {s : State} {t : TEntry} {die a n : Nat} (h : s.memOk) :
    (s.fillRange t die a n).memOk := by
  unfold State.fillRange
  exact forRange_keeps_memOk (fun _ _ h' => State.fillL2_memOk _ _ _ h') h

theorem State.fillL1_memOk {s : State} {c a : Nat} {t : TEntry} {ro : Bool} (h : s.memOk) :
    (s.fillL1 c a t ro).memOk := by
  unfold State.fillL1
  refine forRange_keeps_memOk (fun _ _ h' => ?_) (State.fillL2_memOk _ _ _ h)
  dsimp only
  repeat' split
  all_goals exact h'

theorem State.evictLine_gives {s : State} {c line : Nat} (h : s.memOk) : Gives State.memOk (s.evictLine c line) := by
  unfold State.evictLine
  exact .bind (.foldlM (fun _ _ h' => State.wtWord_gives h') h) fun _ h' => .pure h'

theorem State.l1Room_gives {s : State} {c a : Nat} (h : s.memOk) : Gives State.memOk (s.l1Room c a) := by
  unfold State.l1Room
  dsimp only
  split
  · exact .ok h
  · split
    · next hx => exact .ok (State.evictLine_gives h _ hx)
    · exact .error

theorem State.dropRange_memOk {s : State} {c a n : Nat} (h : s.memOk) : (s.dropRange c a n).memOk := by
  unfold State.dropRange
  exact forRange_keeps_memOk (fun _ _ h' => h') h

theorem State.acquire_memOk {s : State} {c : Nat} {sc : Scope} (h : s.memOk) : (s.acquire c sc).memOk := by
  unfold State.acquire
  split
  · exact h
  · split <;> exact h
  · exact foldl_keeps_memOk (fun _ _ h' => h') h
  · exact foldl_keeps_memOk (fun _ _ h' => h') h
  · exact foldl_keeps_memOk (fun _ _ h' => h') h

theorem Act.release_keeps {sc : Scope} : (Act.release sc).Keeps := by
  unfold Act.release
  intro _ h
  dsimp only
  split
  · next hx => exact .ok (State.release_gives h _ hx)
  · exact .error

/-- An instruction that releases first keeps the canonical form where the rest of it does. -/
theorem Act.Keeps.released {α : Type} {sc : Scope} {act : Act α} (ha : act.Keeps) : Act.Keeps (Act.released sc act) := by
  intro s h
  unfold Act.released
  split
  · next hx => exact Act.Keeps.keepAll ha _ (Act.release_keeps s h _ hx)
  · exact .error

theorem Act.acquire_keeps {sc : Scope} : (Act.acquire sc).Keeps := by
  unfold Act.acquire
  exact .mod fun _ h => State.acquire_memOk h

theorem State.putLoc_memOk {s : State} {c a : Nat} {bs : List Byte} (h : s.memOk) : (s.putLoc c a bs).memOk := by
  unfold State.putLoc
  refine .mk ?_
  split <;> exact h

theorem State.load_gives {s : State} {c a n : Nat} {ro : Bool} (h : s.memOk) :
    Gives (fun r => r.2.memOk) (s.load c a n ro) := by
  unfold State.load
  split
  · exact .ok h
  · split
    · exact .after fun _ => .after fun _ => .pure h
    · refine .bind (State.checkHome_gives h) fun ⟨_, _⟩ h' => ?_
      refine .after fun _ => .kept (.bind (State.l1Room_gives h') fun _ h'' => .after fun _ => .pure ?_)
      dsimp only
      exact State.fillL1_memOk h''

theorem State.storeL1_memOk {s : State} {c a : Nat} {line : L1Word} {bs : List Byte} (h : s.memOk) :
    (s.storeL1 c a line bs).memOk := by
  unfold State.storeL1
  exact forRange_keeps_memOk (fun _ _ h' => h') h

theorem State.store_gives {s : State} {c a : Nat} {bs : List Byte} (h : s.memOk) :
    Gives State.memOk (s.store c a bs) := by
  unfold State.store
  split
  · exact .ok (State.putLoc_memOk h)
  · dsimp only
    split
    · refine .after fun _ => .bind (.ofWt (State.drainOver_gives h)) fun _ h' => .pureBind ?_
      split
      · refine .bind (State.checkHome_gives h') fun ⟨_, _⟩ h'' => ?_
        exact .pure (State.storeL1_memOk (State.fillL1_memOk (State.cxlAccess_memOk h'')))
      · exact .pure (State.storeL1_memOk h')
    · refine .bind (State.checkHome_gives h) fun ⟨_, _⟩ h' => ?_
      refine .bind (.kept (.bind (.ofWt (State.drainOver_gives h')) fun _ h'' => State.l1Room_gives h'')) fun _ h'' => ?_
      refine .pureBind ?_
      split
      · refine .bind (State.checkHome_gives h'') fun ⟨_, _⟩ h''' => ?_
        exact .pure (State.storeL1_memOk (State.fillL1_memOk (State.cxlAccess_memOk h''')))
      · exact .pure (State.storeL1_memOk h'')

theorem State.readHome_gives {s : State} {c a n : Nat} {k : Acc} (h : s.memOk) :
    Gives (fun r => r.2.memOk) (s.readHome c a n k) := by
  unfold State.readHome
  split
  · exact .ok h
  · exact .bind (State.atHome_gives h) fun ⟨_, _⟩ h' => .after fun _ => .pure (State.fillRange_memOk h')

theorem State.writeHome_gives {s : State} {c a : Nat} {bs : List Byte} {k : Acc} (h : s.memOk) :
    Gives State.memOk (s.writeHome c a bs k) := by
  unfold State.writeHome
  split
  · exact .ok (State.putLoc_memOk h)
  · exact .bind (State.atHome_gives h) fun ⟨_, _⟩ h' => .pure (State.dropRange_memOk (State.writeFor_memOk _ _ _ _ h'))

theorem State.rmw_gives {s : State} {c a n : Nat} {k : Acc} {f : Nat → Option Nat} (h : s.memOk) :
    Gives (fun r => r.2.memOk) (s.rmw c a n k f) := by
  unfold State.rmw
  split
  · dsimp only
    split
    · exact .ok (State.putLoc_memOk h)
    · exact .ok h
  · refine .bind (State.atHome_gives h) fun ⟨_, _⟩ h' => ?_
    dsimp only
    split
    · refine .after fun _ => ?_
      split
      · exact .pure (State.dropRange_memOk (State.writeFor_memOk _ _ _ _ h'))
      · exact .pure (State.fillRange_memOk h')
    · split
      · exact .pure (State.dropRange_memOk (State.writeFor_memOk _ _ _ _ h'))
      · exact .pure (State.fillRange_memOk h')

theorem Act.load_keeps {a n : Nat} : (Act.load a n).Keeps := by
  unfold Act.load
  exact fun _ h => State.load_gives h

theorem Act.loadNat_keeps {a n : Nat} : (Act.loadNat a n).Keeps := by
  unfold Act.loadNat
  intro _ h
  dsimp only
  split
  · exact .error
  · split
    · next hx => exact .ok (State.load_gives h _ hx)
    · exact .error

theorem Act.loadRecord_keeps {a n : Nat} : (Act.loadRecord a n).Keeps := by
  unfold Act.loadRecord
  intro _ h
  refine .foldlM (fun ⟨_, _⟩ _ h' => ?_) h
  split
  · next hx =>
    have hs := State.load_gives h' _ hx
    exact .ok hs
  · exact .error

theorem Act.storeNat_keeps {a n v : Nat} : (Act.storeNat a n v).Keeps := by
  unfold Act.storeNat
  intro _ h
  dsimp only
  split
  · exact .error
  · split
    · next hx => exact .ok (State.store_gives h _ hx)
    · exact .error

theorem State.modLaunch_memOk {s : State} {ctx id : Nat} {f : Running → Running} (h : s.memOk) :
    (s.modLaunch ctx id f).memOk := h

theorem State.refuse_memOk {s : State} {f : Flight} {src : Source} {reason : Nat} {w7 : Word} (h : s.memOk) :
    (s.refuse f src reason w7).memOk := by
  unfold State.refuse
  split
  · exact h
  · dsimp only
    split
    · exact State.modLaunch_memOk (State.event_memOk h)
    · exact State.event_memOk h

theorem State.emit_memOk {s : State} {core : Nat} {f : Flight} (h : s.memOk) : (s.emit core f).memOk := by
  unfold State.emit
  split
  · exact State.refuse_memOk h
  · repeat' split
    all_goals exact h

theorem State.setLane_memOk {s : State} {car n : Nat} {l : Lane} (h : s.memOk) : (s.setLane car n l).memOk := by
  unfold State.setLane
  split <;> exact h

theorem State.leave_memOk {s : State} {k : Nat} (h : s.memOk) : (s.leave k).memOk := by
  unfold State.leave
  split
  · exact State.setLane_memOk h
  · exact h

theorem State.modMember_memOk {s : State} {k : Nat} {f : Member → Member} (h : s.memOk) : (s.modMember k f).memOk := by
  unfold State.modMember
  split
  · exact State.setLane_memOk h
  · exact h

theorem State.bump_memOk {s : State} {k : Nat} (h : s.memOk) : (s.bump k).memOk := by
  unfold State.bump
  split
  · dsimp only
    split
    · split
      · exact State.modMember_memOk h
      · exact State.modSlot_memOk (State.leave_memOk h)
    · exact State.modMember_memOk h
  · exact h

theorem State.commit_memOk {s : State} {k : Nat} {target : Option Word} (h : s.memOk) : (s.commit k target).memOk := by
  unfold State.commit
  dsimp only
  split
  · exact State.bump_memOk h
  · exact h

theorem Act.next_keeps : Act.next.Keeps := by
  unfold Act.next
  exact .mod fun _ h => State.commit_memOk h

theorem Act.jump_keeps {target : Word} : (Act.jump target).Keeps := by
  unfold Act.jump
  intro _ h
  dsimp only
  split
  · exact .error
  · exact .ok (State.commit_memOk h)

theorem State.enter_memOk {s : State} {k : Nat} {cause tval : Word} (h : s.memOk) : (s.enter k cause tval).memOk := by
  unfold State.enter
  exact State.modSlot_memOk (State.leave_memOk h)

theorem State.takeTrap_memOk {s : State} {k cause : Nat} {tval : Word} (h : s.memOk) :
    (s.takeTrap k cause tval).memOk := by
  unfold State.takeTrap
  exact State.enter_memOk h

theorem State.takeInterrupt_memOk {s : State} {k : Nat} (h : s.memOk) : (s.takeInterrupt k).memOk := by
  unfold State.takeInterrupt
  exact State.enter_memOk h

theorem State.nonResident_memOk {s : State} {a : Nat} (h : s.memOk) : (s.nonResident a).memOk := by
  unfold State.nonResident
  split
  · dsimp only
    split <;> exact h
  · exact h

theorem State.park_memOk {s : State} {k : Nat} {p : ParkInfo} (h : s.memOk) : (s.park k p).memOk := by
  unfold State.park
  exact .mk (State.modSlot_memOk (State.leave_memOk (State.nonResident_memOk h)))

theorem State.flushL1s_memOk {s : State} {cs : List Nat} (h : s.memOk) : (s.flushL1s cs).memOk := by
  unfold State.flushL1s
  refine foldl_keeps_memOk (fun _ _ h' => State.modCore_memOk (foldl_keeps_memOk (fun _ ⟨_, _⟩ h'' =>
    Offers.getD (Gives.toOption (State.wtWord_gives h'')) h'') h')) h

theorem State.unfuse_memOk {s : State} {ctx car : Nat} (h : s.memOk) : (s.unfuse ctx car).memOk := by
  unfold State.unfuse
  split
  · exact State.modCar_memOk (State.flushL1s_memOk h)
  · exact h

theorem State.cancelSlice_memOk {s : State} {ctx : Nat} (h : s.memOk) : (s.cancelSlice ctx).memOk := by
  unfold State.cancelSlice
  dsimp only
  split <;> exact h

theorem State.endFiring_memOk {s : State} {k : Nat} {killed : Bool} (h : s.memOk) : (s.endFiring k killed).memOk := by
  unfold State.endFiring
  refine State.cancelSlice_memOk ?_
  exact State.unfuse_memOk (State.modSlot_memOk (foldl_keeps_memOk (fun _ _ h' => h') (State.leave_memOk h)))

theorem State.killFiring_memOk {s : State} {k cause : Nat} {addr : Word} (h : s.memOk) :
    (s.killFiring k cause addr).memOk := by
  unfold State.killFiring
  dsimp only
  split
  · exact h
  · split
    · exact State.unfuse_memOk (foldl_keeps_memOk (fun _ _ h' => h') (State.modSlot_memOk (State.leave_memOk h)))
    · exact State.event_memOk (State.endFiring_memOk h)

theorem State.cxlError_memOk {s : State} {ctx : Nat} {addr : Word} (h : s.memOk) : (s.cxlError ctx addr).memOk := by
  unfold State.cxlError
  split
  · exact h
  · split
    · exact State.event_memOk h
    · exact h

theorem State.kill_memOk {s : State} {k cause : Nat} {addr : Word} (h : s.memOk) : (s.kill k cause addr).memOk := by
  unfold State.kill
  dsimp only
  split
  · exact State.cxlError_memOk (State.event_memOk (State.killFiring_memOk h))
  · exact State.killFiring_memOk h

theorem State.fenceCore_memOk {s : State} {k : Nat} (h : s.memOk) : (s.fenceCore k).memOk := by
  unfold State.fenceCore
  exact State.modCore_memOk (State.event_memOk (foldl_keeps_memOk (fun _ _ h' => State.killFiring_memOk h') h))

theorem State.retire_memOk {s : State} {k : Nat} (h : s.memOk) : (s.retire k).memOk := by
  unfold State.retire
  split
  · exact State.fenceCore_memOk h
  · split
    · exact State.commit_memOk h
    · exact State.modSlot_memOk (State.commit_memOk h)

theorem Stop.walks_memOk {st : Stop} {core : Nat} {s : State} (h : s.memOk) : (st.walks core s).memOk := by
  induction st generalizing s with
  | after a w e ih => exact ih (State.memOk.mk (State.walked_memOk a w (.mk h)))
  | trap | trapAt | park | kill | wait => exact h

theorem Stop.apply_memOk {st : Stop} {s : State} (h : s.memOk) : (st.apply s).memOk := by
  induction st generalizing s with
  | trap => exact State.takeTrap_memOk h
  | trapAt => exact State.takeTrap_memOk (State.modSlot_memOk h)
  | park => exact State.park_memOk h
  | kill => exact State.kill_memOk h
  | wait => exact h
  | after a w e ih => exact ih (State.walked_memOk a w h)

/-- An instruction of a slot keeps the canonical form where its effect does: every way to stop keeps it. -/
theorem runSlot_nextOk {act : Act Unit} {s : State} (ha : act.Keeps) (h : s.memOk) : NextOk (runSlot act s) := by
  refine .next ?_
  split
  · next hx => exact ha s h _ hx
  · exact Stop.apply_memOk h

/-! ### What Machine/Operands defines -/

theorem Act.pc_keeps : Act.pc.Keeps := by
  unfold Act.pc
  exact fun _ h => .ok h

theorem Act.refuse_keeps {α : Type} {i : Instr} : (Act.refuse i : Act α).Keeps := by
  unfold Act.refuse
  exact fun _ _ => .error

theorem Act.privileged_keeps {i : Instr} : (Act.privileged i).Keeps := by
  unfold Act.privileged
  intro _ h
  dsimp only
  split
  · exact .error
  · exact .ok h

theorem Act.manager_keeps {i : Instr} : (Act.manager i).Keeps := by
  unfold Act.manager
  intro _ h
  dsimp only
  split
  · exact .ok h
  · exact .error

theorem Act.v_keeps {n : Nat} : (Act.v n).Keeps := by
  unfold Act.v
  intro _ h
  dsimp only
  split
  · exact .ok h
  · exact .error

theorem Act.writable_keeps {i : Instr} {n : Nat} : (Act.writable i n).Keeps := by
  unfold Act.writable
  intro _ h
  dsimp only
  split
  · exact .error
  · exact .ok h

theorem Act.vec_keeps {i : Instr} {vd : VReg} {srcs : List VReg} {f : Rm → VWord → List VWord → VWord × Flags} :
    (Act.vec i vd srcs f).Keeps := by
  unfold Act.vec
  refine .bind (.mapM fun _ => Act.v_keeps) fun _ => ?_
  exact .bind Act.writable_keeps fun _ => .bind .slot fun _ => .bind .modSlot fun _ => Act.next_keeps

theorem Act.vec2_keeps {i : Instr} {b : Nat} {vd vs1 vs2 : VReg} {f : Rm → Nat → Nat → Nat × Flags} :
    (Act.vec2 i b vd vs1 vs2 f).Keeps := by
  unfold Act.vec2
  exact Act.vec_keeps

theorem Act.vec3_keeps {i : Instr} {b : Nat} {vd vs1 vs2 : VReg} {f : Rm → Nat → Nat → Nat → Nat × Flags} :
    (Act.vec3 i b vd vs1 vs2 f).Keeps := by
  unfold Act.vec3
  exact Act.vec_keeps

/-! ### What Machine/Memory defines -/

theorem Act.loadOp_keeps {n : Nat} {ext : Nat → Word} {rd rs1 : Reg} {imm : BitVec 12} :
    (Act.loadOp n ext rd rs1 imm).Keeps := by
  unfold Act.loadOp
  exact .bind .x fun _ => .bind Act.loadNat_keeps fun _ => .bind .setX fun _ => Act.next_keeps

theorem Act.storeOp_keeps {n : Nat} {rs1 rs2 : Reg} {imm : BitVec 12} : (Act.storeOp n rs1 rs2 imm).Keeps := by
  unfold Act.storeOp
  exact .bind .x fun _ => .bind .x fun _ => .bind Act.storeNat_keeps fun _ => Act.next_keeps

theorem execLb_nextOk {rd rs1 : Reg} {imm : BitVec 12} {s : State} (h : s.memOk) : NextOk (execLb rd rs1 imm s) :=
  runSlot_nextOk Act.loadOp_keeps h

theorem execLh_nextOk {rd rs1 : Reg} {imm : BitVec 12} {s : State} (h : s.memOk) : NextOk (execLh rd rs1 imm s) :=
  runSlot_nextOk Act.loadOp_keeps h

theorem execLw_nextOk {rd rs1 : Reg} {imm : BitVec 12} {s : State} (h : s.memOk) : NextOk (execLw rd rs1 imm s) :=
  runSlot_nextOk Act.loadOp_keeps h

theorem execLd_nextOk {rd rs1 : Reg} {imm : BitVec 12} {s : State} (h : s.memOk) : NextOk (execLd rd rs1 imm s) :=
  runSlot_nextOk Act.loadOp_keeps h

theorem execLbu_nextOk {rd rs1 : Reg} {imm : BitVec 12} {s : State} (h : s.memOk) : NextOk (execLbu rd rs1 imm s) :=
  runSlot_nextOk Act.loadOp_keeps h

theorem execLhu_nextOk {rd rs1 : Reg} {imm : BitVec 12} {s : State} (h : s.memOk) : NextOk (execLhu rd rs1 imm s) :=
  runSlot_nextOk Act.loadOp_keeps h

theorem execLwu_nextOk {rd rs1 : Reg} {imm : BitVec 12} {s : State} (h : s.memOk) : NextOk (execLwu rd rs1 imm s) :=
  runSlot_nextOk Act.loadOp_keeps h

theorem execSb_nextOk {rs1 rs2 : Reg} {imm : BitVec 12} {s : State} (h : s.memOk) : NextOk (execSb rs1 rs2 imm s) :=
  runSlot_nextOk Act.storeOp_keeps h

theorem execSh_nextOk {rs1 rs2 : Reg} {imm : BitVec 12} {s : State} (h : s.memOk) : NextOk (execSh rs1 rs2 imm s) :=
  runSlot_nextOk Act.storeOp_keeps h

theorem execSw_nextOk {rs1 rs2 : Reg} {imm : BitVec 12} {s : State} (h : s.memOk) : NextOk (execSw rs1 rs2 imm s) :=
  runSlot_nextOk Act.storeOp_keeps h

theorem execSd_nextOk {rs1 rs2 : Reg} {imm : BitVec 12} {s : State} (h : s.memOk) : NextOk (execSd rs1 rs2 imm s) :=
  runSlot_nextOk Act.storeOp_keeps h

theorem Act.memberOrder_keeps {addr : Slot → Option Nat} : (Act.memberOrder addr).Keeps := by
  unfold Act.memberOrder
  intro _ h
  dsimp only
  split
  · exact .error
  · exact .ok h

theorem Act.dscope_keeps : Act.dscope.Keeps := by
  unfold Act.dscope
  exact .bind .slot fun _ => .pure

theorem Act.atomic_keeps {n : Nat} {k : Acc} {rs1 : Reg} {aq rl : Bool} {access : Nat → Act Unit} (h : ∀ (a : Nat),
    (access a).Keeps) :
    (Act.atomic n k rs1 aq rl access).Keeps := by
  unfold Act.atomic
  refine .bind .x fun _ => .guard (.bind Act.memberOrder_keeps fun _ => ?_)
  refine .bind Act.dscope_keeps fun _ => ?_
  dsimp only
  split
  · refine .released (.bind (h _) fun _ => ?_)
    split
    · exact .bind Act.acquire_keeps fun _ => Act.next_keeps
    · exact Act.next_keeps
  · refine .bind (h _) fun _ => ?_
    split
    · exact .bind Act.acquire_keeps fun _ => Act.next_keeps
    · exact Act.next_keeps

theorem Act.amo_keeps {n : Nat} {f : Nat → Nat → Nat} {rd rs1 rs2 : Reg} {aq rl : Bool} :
    (Act.amo n f rd rs1 rs2 aq rl).Keeps := by
  unfold Act.amo
  exact Act.atomic_keeps fun _ => .bind .x fun _ => .bind (fun _ h => State.rmw_gives h) fun _ => .setX

theorem Act.lr_keeps {n : Nat} {rd rs1 : Reg} {aq rl : Bool} : (Act.lr n rd rs1 aq rl).Keeps := by
  unfold Act.lr
  exact Act.atomic_keeps fun _ => .bind (fun _ h => State.readHome_gives h) fun _ => .bind (.mod fun _ h => h) fun _ => .setX

theorem State.scHome_gives {s : State} {c a n v : Nat} (h : s.memOk) :
    Gives (fun r => r.2.memOk) (s.scHome c a n v) := by
  unfold State.scHome
  split
  · refine .ok ?_
    dsimp only
    split
    · exact State.putLoc_memOk h
    · exact h
  · refine .bind (State.atHome_gives h) fun ⟨_, _⟩ h' => .pure ?_
    dsimp only
    split
    · exact State.dropRange_memOk (State.writeFor_memOk _ _ _ _ h')
    · exact State.fillRange_memOk h'

theorem Act.sc_keeps {n : Nat} {rd rs1 rs2 : Reg} {aq rl : Bool} : (Act.sc n rd rs1 rs2 aq rl).Keeps := by
  unfold Act.sc
  refine Act.atomic_keeps fun _ => ?_
  exact .bind .x fun _ => .bind (fun _ h => State.scHome_gives h) fun _ => .bind (.mod fun _ h => h) fun _ => .setX

theorem execLrW_nextOk {rd rs1 : Reg} {aq rl : Bool} {s : State} (h : s.memOk) : NextOk (execLrW rd rs1 aq rl s) :=
  runSlot_nextOk Act.lr_keeps h

theorem execScW_nextOk {rd rs1 rs2 : Reg} {aq rl : Bool} {s : State} (h : s.memOk) :
    NextOk (execScW rd rs1 rs2 aq rl s) := runSlot_nextOk Act.sc_keeps h

theorem execAmoswapW_nextOk {rd rs1 rs2 : Reg} {aq rl : Bool} {s : State} (h : s.memOk) :
    NextOk (execAmoswapW rd rs1 rs2 aq rl s) := runSlot_nextOk Act.amo_keeps h

theorem execAmoaddW_nextOk {rd rs1 rs2 : Reg} {aq rl : Bool} {s : State} (h : s.memOk) :
    NextOk (execAmoaddW rd rs1 rs2 aq rl s) := runSlot_nextOk Act.amo_keeps h

theorem execAmoxorW_nextOk {rd rs1 rs2 : Reg} {aq rl : Bool} {s : State} (h : s.memOk) :
    NextOk (execAmoxorW rd rs1 rs2 aq rl s) := runSlot_nextOk Act.amo_keeps h

theorem execAmoandW_nextOk {rd rs1 rs2 : Reg} {aq rl : Bool} {s : State} (h : s.memOk) :
    NextOk (execAmoandW rd rs1 rs2 aq rl s) := runSlot_nextOk Act.amo_keeps h

theorem execAmoorW_nextOk {rd rs1 rs2 : Reg} {aq rl : Bool} {s : State} (h : s.memOk) :
    NextOk (execAmoorW rd rs1 rs2 aq rl s) := runSlot_nextOk Act.amo_keeps h

theorem execAmominW_nextOk {rd rs1 rs2 : Reg} {aq rl : Bool} {s : State} (h : s.memOk) :
    NextOk (execAmominW rd rs1 rs2 aq rl s) := runSlot_nextOk Act.amo_keeps h

theorem execAmomaxW_nextOk {rd rs1 rs2 : Reg} {aq rl : Bool} {s : State} (h : s.memOk) :
    NextOk (execAmomaxW rd rs1 rs2 aq rl s) := runSlot_nextOk Act.amo_keeps h

theorem execAmominuW_nextOk {rd rs1 rs2 : Reg} {aq rl : Bool} {s : State} (h : s.memOk) :
    NextOk (execAmominuW rd rs1 rs2 aq rl s) := runSlot_nextOk Act.amo_keeps h

theorem execAmomaxuW_nextOk {rd rs1 rs2 : Reg} {aq rl : Bool} {s : State} (h : s.memOk) :
    NextOk (execAmomaxuW rd rs1 rs2 aq rl s) := runSlot_nextOk Act.amo_keeps h

theorem execLrD_nextOk {rd rs1 : Reg} {aq rl : Bool} {s : State} (h : s.memOk) : NextOk (execLrD rd rs1 aq rl s) :=
  runSlot_nextOk Act.lr_keeps h

theorem execScD_nextOk {rd rs1 rs2 : Reg} {aq rl : Bool} {s : State} (h : s.memOk) :
    NextOk (execScD rd rs1 rs2 aq rl s) := runSlot_nextOk Act.sc_keeps h

theorem execAmoswapD_nextOk {rd rs1 rs2 : Reg} {aq rl : Bool} {s : State} (h : s.memOk) :
    NextOk (execAmoswapD rd rs1 rs2 aq rl s) := runSlot_nextOk Act.amo_keeps h

theorem execAmoaddD_nextOk {rd rs1 rs2 : Reg} {aq rl : Bool} {s : State} (h : s.memOk) :
    NextOk (execAmoaddD rd rs1 rs2 aq rl s) := runSlot_nextOk Act.amo_keeps h

theorem execAmoxorD_nextOk {rd rs1 rs2 : Reg} {aq rl : Bool} {s : State} (h : s.memOk) :
    NextOk (execAmoxorD rd rs1 rs2 aq rl s) := runSlot_nextOk Act.amo_keeps h

theorem execAmoandD_nextOk {rd rs1 rs2 : Reg} {aq rl : Bool} {s : State} (h : s.memOk) :
    NextOk (execAmoandD rd rs1 rs2 aq rl s) := runSlot_nextOk Act.amo_keeps h

theorem execAmoorD_nextOk {rd rs1 rs2 : Reg} {aq rl : Bool} {s : State} (h : s.memOk) :
    NextOk (execAmoorD rd rs1 rs2 aq rl s) := runSlot_nextOk Act.amo_keeps h

theorem execAmominD_nextOk {rd rs1 rs2 : Reg} {aq rl : Bool} {s : State} (h : s.memOk) :
    NextOk (execAmominD rd rs1 rs2 aq rl s) := runSlot_nextOk Act.amo_keeps h

theorem execAmomaxD_nextOk {rd rs1 rs2 : Reg} {aq rl : Bool} {s : State} (h : s.memOk) :
    NextOk (execAmomaxD rd rs1 rs2 aq rl s) := runSlot_nextOk Act.amo_keeps h

theorem execAmominuD_nextOk {rd rs1 rs2 : Reg} {aq rl : Bool} {s : State} (h : s.memOk) :
    NextOk (execAmominuD rd rs1 rs2 aq rl s) := runSlot_nextOk Act.amo_keeps h

theorem execAmomaxuD_nextOk {rd rs1 rs2 : Reg} {aq rl : Bool} {s : State} (h : s.memOk) :
    NextOk (execAmomaxuD rd rs1 rs2 aq rl s) := runSlot_nextOk Act.amo_keeps h

theorem Act.fenceAr_keeps {sc : Scope} : (Act.fenceAr sc).Keeps := by
  unfold Act.fenceAr
  exact .bind Act.release_keeps fun _ => .bind Act.acquire_keeps fun _ => Act.next_keeps

theorem execFence_nextOk {_rd _rs1 : Reg} {_imm : BitVec 12} {s : State} (h : s.memOk) :
    NextOk (execFence _rd _rs1 _imm s) := runSlot_nextOk (.bind Act.dscope_keeps fun _ => Act.fenceAr_keeps) h

theorem State.wtWhatCan_memOk {s : State} {c : Nat} (h : s.memOk) : (s.wtWhatCan c).memOk := by
  unfold State.wtWhatCan
  refine foldl_keeps_memOk (fun _ _ h' => Offers.getD (Gives.toOption (State.drainNt_gives h')) h') ?_
  refine foldl_keeps_memOk (fun _ _ h' => foldl_keeps_memOk (fun _ ⟨_, _⟩ h'' =>
    Offers.getD (Gives.toOption (State.wtWord_gives h'')) h'') h') h

theorem execFenceI_nextOk {_rd _rs1 : Reg} {_imm : BitVec 12} {s : State} (h : s.memOk) :
    NextOk (execFenceI _rd _rs1 _imm s) :=
  runSlot_nextOk (.bind (.mod fun _ h' => State.modCar_memOk (State.wtWhatCan_memOk h')) fun _ => Act.next_keeps) h

theorem Act.fused_keeps : Act.fused.Keeps := by
  unfold Act.fused
  exact fun _ h => .ok h

theorem execLdaq_nextOk {rd rs1 : Reg} {scope : Scope} {s : State} (h : s.memOk) :
    NextOk (execLdaq rd rs1 scope s) := by
  unfold execLdaq
  refine runSlot_nextOk (.bind .x fun _ => .guard (.bind Act.fused_keeps fun _ => .branch Act.loadNat_keeps (fun _ h' =>
    .emap (State.readHome_gives h') fun ⟨_, _⟩ h'' => h'') fun _ => .bind .setX fun _ => .bind Act.acquire_keeps fun _ =>
    Act.next_keeps)) h

theorem execStrl_nextOk {rs1 rs2 : Reg} {scope : Scope} {s : State} (h : s.memOk) :
    NextOk (execStrl rs1 rs2 scope s) := by
  unfold execStrl
  refine runSlot_nextOk (.bind .x fun _ => .bind .x fun _ => .guard (.released (.branch Act.storeNat_keeps (fun _ h' =>
    .emap (State.writeHome_gives h') fun _ h'' => h'') fun _ => Act.next_keeps))) h

theorem execFenceAq_nextOk {scope : Scope} {s : State} (h : s.memOk) : NextOk (execFenceAq scope s) :=
  runSlot_nextOk (.bind Act.acquire_keeps fun _ => Act.next_keeps) h

theorem execFenceRl_nextOk {scope : Scope} {s : State} (h : s.memOk) : NextOk (execFenceRl scope s) :=
  runSlot_nextOk (.bind Act.release_keeps fun _ => Act.next_keeps) h

theorem execFenceAr_nextOk {scope : Scope} {s : State} (h : s.memOk) : NextOk (execFenceAr scope s) :=
  runSlot_nextOk Act.fenceAr_keeps h

theorem Act.wtLine_keeps {a : Nat} : (Act.wtLine a).Keeps := by
  unfold Act.wtLine
  intro _ h
  dsimp only
  split
  · next hx => exact .ok (State.wtRange_gives h _ hx)
  · exact .error

theorem Act.lineOp_keeps {rs1 : Reg} {invalidate : Bool} : (Act.lineOp rs1 invalidate).Keeps := by
  unfold Act.lineOp
  refine .bind .x fun _ => .get fun _ _ => ?_
  dsimp only
  split
  · refine .bind (fun _ h => .emapAfter fun _ => h) fun _ => .bind Act.wtLine_keeps fun _ => ?_
    split
    · exact .bind (.mod fun _ h => State.dropRange_memOk h) fun _ => Act.next_keeps
    · exact Act.next_keeps
  · exact Act.next_keeps

theorem execInvl_nextOk {rs1 : Reg} {s : State} (h : s.memOk) : NextOk (execInvl rs1 s) := runSlot_nextOk Act.lineOp_keeps h

theorem execWbk_nextOk {rs1 : Reg} {s : State} (h : s.memOk) : NextOk (execWbk rs1 s) := runSlot_nextOk Act.lineOp_keeps h

theorem State.prefetch_memOk {s : State} {c a : Nat} (h : s.memOk) : (s.prefetch c a).memOk := by
  unfold State.prefetch
  split
  · exact h
  · split
    · next hx =>
      split
      · exact State.checkHome_gives h _ hx
      · split
        · next hx' => exact State.fillL1_memOk (State.l1Room_gives (State.checkHome_gives h _ hx) _ hx')
        · exact State.checkHome_gives h _ hx
    · exact State.walked_memOk _ _ h
    · exact h

theorem execPref_nextOk {rs1 : Reg} {s : State} (h : s.memOk) : NextOk (execPref rs1 s) :=
  runSlot_nextOk (.bind .x fun _ => .bind (.mod fun _ h' => State.prefetch_memOk h') fun _ => Act.next_keeps) h

theorem State.ntPut_gives {s : State} {c a : Nat} {bs : List Byte} (h : s.memOk) :
    Gives State.memOk (s.ntPut c a bs) := by
  unfold State.ntPut
  dsimp only
  split
  · refine .pureBind ?_
    split
    · exact State.drainNt_gives h
    · exact .pure h
  · split
    · split
      · refine .bind (State.drainNt_gives h) fun _ h' => .pureBind ?_
        split
        · exact State.drainNt_gives h'
        · exact .pure h'
      · refine .pureBind (.pureBind ?_)
        split
        · exact State.drainNt_gives h
        · exact .pure h
    · refine .pureBind (.pureBind ?_)
      split
      · exact State.drainNt_gives h
      · exact .pure h

theorem Act.storeNt_keeps {a n v : Nat} : (Act.storeNt a n v).Keeps := by
  unfold Act.storeNt
  intro _ h
  dsimp only
  split
  · exact .error
  · split
    · exact .ok (State.putLoc_memOk h)
    · split
      · refine .after fun _ => .bind (.ofWt (State.wtRange_gives h)) fun _ h' => .pureBind ?_
        split
        · next hx => exact .pure (State.ntPut_gives (State.dropRange_memOk h') _ hx)
        · exact .throw
      · refine .bind (State.checkHome_gives h) fun ⟨_, _⟩ h' => .pureBind ?_
        split
        · next hx => exact .pure (State.ntPut_gives (State.dropRange_memOk h') _ hx)
        · exact .throw

theorem execStNt_nextOk {rs1 rs2 : Reg} {s : State} (h : s.memOk) : NextOk (execStNt rs1 rs2 s) :=
  runSlot_nextOk (.bind .x fun _ => .bind .x fun _ => .bind Act.storeNt_keeps fun _ => Act.next_keeps) h

theorem execNtIdleDrain_nextOk {core line : Nat} {s : State} (h : s.memOk) : NextOk (execNtIdleDrain core line s) := by
  unfold execNtIdleDrain
  refine .next ?_
  split
  · exact Offers.getD (Gives.toOption (State.drainNt_gives h)) h
  · exact h

theorem Act.fpAtomic_keeps {f : Fmt} {op : Rm → FVal → FVal → FVal × Flags} {rd rs1 rs2 : Reg} :
    (Act.fpAtomic f op rd rs1 rs2).Keeps := by
  unfold Act.fpAtomic
  refine .bind .x fun _ => .bind .x fun _ => .bind .slot fun _ => .guard (.bind Act.memberOrder_keeps fun _ => ?_)
  exact .bind (fun _ h => State.rmw_gives h) fun _ => .bind .setX fun _ => .bind .modSlot fun _ => Act.next_keeps

theorem execAmofaddS_nextOk {rd rs1 rs2 : Reg} {s : State} (h : s.memOk) : NextOk (execAmofaddS rd rs1 rs2 s) :=
  runSlot_nextOk Act.fpAtomic_keeps h

theorem execAmofaddD_nextOk {rd rs1 rs2 : Reg} {s : State} (h : s.memOk) : NextOk (execAmofaddD rd rs1 rs2 s) :=
  runSlot_nextOk Act.fpAtomic_keeps h

theorem execAmofmaxS_nextOk {rd rs1 rs2 : Reg} {s : State} (h : s.memOk) : NextOk (execAmofmaxS rd rs1 rs2 s) :=
  runSlot_nextOk Act.fpAtomic_keeps h

theorem Act.vecPtr_keeps {rs1 : Reg} {accepts : Nat → Bool} : (Act.vecPtr rs1 accepts).Keeps := by
  unfold Act.vecPtr
  exact .bind .x fun _ => .guard .pure

theorem Act.vecBytes_keeps {a n : Nat} {ro : Bool} : (Act.vecBytes a n ro).Keeps := by
  unfold Act.vecBytes
  intro _ h
  dsimp only
  split
  · exact .error
  · exact State.load_gives h

theorem Act.vld_keeps {i : Instr} {vd : VReg} {rs1 : Reg} {imm : BitVec 6} {ro : Bool} :
    (Act.vld i vd rs1 imm ro).Keeps := by
  unfold Act.vld
  refine .bind Act.vecPtr_keeps fun _ => .bind Act.writable_keeps fun _ => .bind .slot fun _ => ?_
  dsimp only
  split
  · exact .bind Act.vecBytes_keeps fun _ => .bind .modSlot fun _ => Act.next_keeps
  · exact .bind Act.vecBytes_keeps fun _ => .bind .modSlot fun _ => Act.next_keeps

theorem execVld_nextOk {vd : VReg} {rs1 : Reg} {imm : BitVec 6} {s : State} (h : s.memOk) :
    NextOk (execVld vd rs1 imm s) := runSlot_nextOk Act.vld_keeps h

theorem execVldRo_nextOk {vd : VReg} {rs1 : Reg} {imm : BitVec 6} {s : State} (h : s.memOk) :
    NextOk (execVldRo vd rs1 imm s) := runSlot_nextOk Act.vld_keeps h

theorem execVst_nextOk {vs : VReg} {rs1 : Reg} {imm : BitVec 6} {s : State} (h : s.memOk) :
    NextOk (execVst vs rs1 imm s) := by
  unfold execVst
  refine runSlot_nextOk (.bind Act.v_keeps fun _ => .bind Act.vecPtr_keeps fun _ => .bind Act.storeNat_keeps fun _ =>
    .bind .modSlot fun _ => Act.next_keeps) h

theorem execVstNt_nextOk {vs : VReg} {rs1 : Reg} {imm : BitVec 6} {s : State} (h : s.memOk) :
    NextOk (execVstNt vs rs1 imm s) := by
  unfold execVstNt
  refine runSlot_nextOk (.bind Act.v_keeps fun _ => .bind Act.vecPtr_keeps fun _ => .bind Act.storeNt_keeps fun _ =>
    .bind .modSlot fun _ => Act.next_keeps) h

theorem execVldb_nextOk {vd : VReg} {rs1 : Reg} {imm : BitVec 6} {s : State} (h : s.memOk) :
    NextOk (execVldb vd rs1 imm s) := by
  unfold execVldb
  refine runSlot_nextOk (.bind Act.vecPtr_keeps fun _ => .bind Act.writable_keeps fun _ => .bind .slot fun _ =>
    .bind Act.vecBytes_keeps fun _ => .bind .modSlot fun _ => Act.next_keeps) h

/-! ### What Machine/Barrier defines -/

theorem State.barTouch_memOk {s : State} {w : BarSite} {a : Nat} (h : s.memOk) : (s.barTouch w a).memOk := by
  unfold State.barTouch
  split
  · exact h
  · exact State.fillRange_memOk h

theorem State.putBar_memOk {s : State} {w : BarSite} {a : Nat} {b : Bar} (h : s.memOk) : (s.putBar w a b).memOk := by
  unfold State.putBar
  split
  · exact State.putLoc_memOk h
  · exact State.dropRange_memOk (State.writeFor_memOk _ _ _ _ h)

theorem State.releaseWaiters_memOk {s : State} {p : Nat} (h : s.memOk) : (s.releaseWaiters p).memOk := h

theorem State.barUpdate_memOk {s : State} {w : BarSite} {a : Nat} {b : Bar} (h : s.memOk) :
    (s.barUpdate w a b).memOk := by
  unfold State.barUpdate
  dsimp only
  split
  · exact State.releaseWaiters_memOk (State.putBar_memOk h)
  · exact State.putBar_memOk h

theorem State.barCheck_memOk {s : State} {w : BarSite} {a : Nat} (h : s.memOk) : (s.barCheck w a).memOk := by
  unfold State.barCheck
  split
  · exact State.barUpdate_memOk h
  · exact State.barTouch_memOk h

theorem Act.barSite_keeps {rs1 : Reg} : (Act.barSite rs1).Keeps := by
  unfold Act.barSite
  refine .bind .x fun _ => .guard (.bind .slot fun _ => ?_)
  refine .guard (.get fun _ _ => ?_)
  dsimp only
  split
  · exact .pure
  · refine .bind (fun _ h => State.atHome_gives h) fun _ => ?_
    split
    · exact .bind (.keep .trap) fun _ => .bind (fun _ h => .emapAfter fun _ => h) fun _ => .pure
    · exact .bind (fun _ h => .emapAfter fun _ => h) fun _ => .pure

theorem execBarInit_nextOk {rs1 rs2 : Reg} {s : State} (h : s.memOk) : NextOk (execBarInit rs1 rs2 s) := by
  unfold execBarInit
  refine runSlot_nextOk (.bind Act.barSite_keeps fun ⟨_, _⟩ => .bind .x fun _ => .when (.keep .trap) fun _ =>
    .bind (.mod fun _ h' => State.putBar_memOk h') fun _ => Act.next_keeps) h

theorem execBarExpect_nextOk {rs1 rs2 : Reg} {s : State} (h : s.memOk) : NextOk (execBarExpect rs1 rs2 s) := by
  unfold execBarExpect
  refine runSlot_nextOk (.bind Act.barSite_keeps fun ⟨_, _⟩ => .bind .x fun _ => .get fun _ _ =>
    .when (.keep .trap) fun _ => .bind (.mod fun _ h' => State.barUpdate_memOk h') fun _ => Act.next_keeps) h

theorem execBarArrive_nextOk {rd rs1 : Reg} {s : State} (h : s.memOk) : NextOk (execBarArrive rd rs1 s) := by
  unfold execBarArrive
  refine runSlot_nextOk (.bind Act.barSite_keeps fun ⟨_, _⟩ => .bind Act.dscope_keeps fun _ =>
    .keep (.released (.get fun _ _ => .guard (.bind .setX fun _ => .bind (.mod fun _ h' =>
    State.barUpdate_memOk h') fun _ => Act.next_keeps)))) h

theorem Act.acquireLandings_keeps {sc : Scope} : (Act.acquireLandings sc).Keeps := by
  unfold Act.acquireLandings
  exact Act.acquire_keeps

theorem execBarWait_nextOk {rs1 rs2 : Reg} {scope : Scope} {s : State} (h : s.memOk) :
    NextOk (execBarWait rs1 rs2 scope s) := by
  unfold execBarWait
  refine runSlot_nextOk ?_ h
  refine .bind .slot fun _ => ?_
  split
  · exact .bind Act.acquireLandings_keeps fun _ => Act.next_keeps
  · refine .bind Act.barSite_keeps fun ⟨_, _⟩ => .bind .x fun _ => .get fun _ _ => ?_
    split
    · exact .bind .modSlot fun _ => .mod fun _ h' => State.barCheck_memOk h'
    · exact .bind (.mod fun _ h' => State.barCheck_memOk h') fun _ => .bind Act.acquireLandings_keeps fun _ => Act.next_keeps

theorem execBarTest_nextOk {rd rs1 rs2 : Reg} {s : State} (h : s.memOk) : NextOk (execBarTest rd rs1 rs2 s) := by
  unfold execBarTest
  refine runSlot_nextOk ?_ h
  refine .bind Act.barSite_keeps fun ⟨_, _⟩ => .bind .x fun _ => .get fun _ _ => .bind .setX fun _ => ?_
  refine .bind (.mod fun _ h' => State.barCheck_memOk h') fun _ => ?_
  dsimp only
  split
  · exact .bind Act.dscope_keeps fun _ => .bind Act.acquireLandings_keeps fun _ => Act.next_keeps
  · exact Act.next_keeps

/-! ### What Machine/System defines -/

theorem State.bindPort_memOk {old : State} {k : Nat} {v : Word} {s : State} {p : Nat} (h1 : s.memOk) :
    (old.bindPort k v s p).memOk := by
  unfold State.bindPort
  dsimp only
  repeat' split
  all_goals exact h1

theorem State.writeSbind_memOk {s : State} {k : Nat} {v : Word} (h : s.memOk) : (s.writeSbind k v).memOk := by
  unfold State.writeSbind
  exact foldl_keeps_memOk (fun _ _ h' => State.bindPort_memOk h') h

theorem State.writeCsr_memOk {s : State} {k csr : Nat} {v : Word} (h : s.memOk) : (s.writeCsr k csr v).memOk := by
  unfold State.writeCsr
  dsimp only
  split
  · exact h
  · exact h
  · split <;> exact h
  · exact h
  · exact h
  · exact State.writeSbind_memOk h
  · exact h
  · exact h
  · exact h
  · exact h
  · exact h
  · exact h
  · exact h
  · exact h
  · exact h
  · exact h
  · exact h
  · exact h
  · exact h
  · split <;> exact h
  · exact h
  · split <;> exact h
  · exact h
  · split <;> exact h

theorem Act.csrOp_keeps {i : Instr} {rd : Reg} {csr : BitVec 12} {writes : Bool} {f : Word → Word} :
    (Act.csrOp i rd csr writes f).Keeps := by
  unfold Act.csrOp
  refine .get fun _ _ => .when Act.refuse_keeps fun _ => ?_
  exact .when (.mod fun _ h => State.writeCsr_memOk h) fun _ => .bind .setX fun _ => Act.next_keeps

theorem execCsrrw_nextOk {rd rs1 : Reg} {csr : BitVec 12} {s : State} (h : s.memOk) :
    NextOk (execCsrrw rd rs1 csr s) := runSlot_nextOk (.bind .x fun _ => Act.csrOp_keeps) h

theorem execCsrrs_nextOk {rd rs1 : Reg} {csr : BitVec 12} {s : State} (h : s.memOk) :
    NextOk (execCsrrs rd rs1 csr s) := runSlot_nextOk (.bind .x fun _ => Act.csrOp_keeps) h

theorem execCsrrc_nextOk {rd rs1 : Reg} {csr : BitVec 12} {s : State} (h : s.memOk) :
    NextOk (execCsrrc rd rs1 csr s) := runSlot_nextOk (.bind .x fun _ => Act.csrOp_keeps) h

theorem execCsrrwi_nextOk {rd uimm : BitVec 5} {csr : BitVec 12} {s : State} (h : s.memOk) :
    NextOk (execCsrrwi rd uimm csr s) := runSlot_nextOk Act.csrOp_keeps h

theorem execCsrrsi_nextOk {rd uimm : BitVec 5} {csr : BitVec 12} {s : State} (h : s.memOk) :
    NextOk (execCsrrsi rd uimm csr s) := runSlot_nextOk Act.csrOp_keeps h

theorem execCsrrci_nextOk {rd uimm : BitVec 5} {csr : BitVec 12} {s : State} (h : s.memOk) :
    NextOk (execCsrrci rd uimm csr s) := runSlot_nextOk Act.csrOp_keeps h

theorem execEcall_nextOk {s : State} (h : s.memOk) : NextOk (execEcall s) := runSlot_nextOk (.bind .slot fun _ => .trap) h

theorem execEbreak_nextOk {s : State} (h : s.memOk) : NextOk (execEbreak s) :=
  runSlot_nextOk (.bind Act.pc_keeps fun _ => .trap) h

theorem execSret_nextOk {s : State} (h : s.memOk) : NextOk (execSret s) :=
  runSlot_nextOk (.bind Act.privileged_keeps fun _ => .modSlot) h

theorem execMret_nextOk {s : State} (h : s.memOk) : NextOk (execMret s) :=
  runSlot_nextOk (.get fun _ _ => .when Act.refuse_keeps fun _ => .modSlot) h

theorem execWfi_nextOk {s : State} (h : s.memOk) : NextOk (execWfi s) := by
  unfold execWfi
  refine runSlot_nextOk ?_ h
  refine .bind Act.privileged_keeps fun _ => .bind .slot fun _ => ?_
  split
  · exact Act.next_keeps
  · exact .modSlot

theorem execSoftwareInterrupt_nextOk {slot : Nat} {s : State} (h : s.memOk) :
    NextOk (execSoftwareInterrupt slot s) := by
  unfold execSoftwareInterrupt
  refine .next ?_
  dsimp only
  split
  · split
    · split
      · exact State.takeInterrupt_memOk (State.retire_memOk h)
      · exact State.retire_memOk h
    · split
      · exact State.takeInterrupt_memOk (State.retire_memOk h)
      · exact State.retire_memOk h
    · split
      · exact State.takeInterrupt_memOk h
      · exact h
  · exact h

theorem execIllegalInstruction_nextOk {word : BitVec 32} {s : State} (h : s.memOk) :
    NextOk (execIllegalInstruction word s) := runSlot_nextOk .trap h

theorem State.fetchAt_gives {s : State} {k : Nat} {pc : Word} (h : s.memOk) :
    Gives (fun r => r.2.memOk) (s.fetchAt k pc) := by
  unfold State.fetchAt
  dsimp only
  split
  · exact .error
  · split
    · exact .ok h
    · split
      · exact .ok h
      · refine .bind (State.checkHome_gives h) fun ⟨_, _⟩ h' => ?_
        exact .after fun _ => .pure (State.modCar_memOk (State.fillL2_memOk _ _ _ h'))

theorem State.fetchFor_gives {s : State} {k : Nat} {pc : Word} (h : s.memOk) :
    Gives (fun r => r.2.memOk) (s.fetchFor k pc) := by
  unfold State.fetchFor
  split
  · exact .emapAfter fun _ => h
  · exact State.fetchAt_gives h

theorem execInstructionFetchFault_nextOk {s : State} (h : s.memOk) : NextOk (execInstructionFetchFault s) := by
  refine runSlot_nextOk (fun t h' => ?_) h
  split
  · next hx => exact .ok (State.fetchFor_gives h' _ hx)
  · exact .error

/-! ### What Machine/Rep defines -/

theorem Act.ptr1_keeps {f : Word → Word} {rd rs1 : Reg} : (Act.ptr1 f rd rs1).Keeps := by
  unfold Act.ptr1
  exact .bind .x fun _ => .bind .setX fun _ => Act.next_keeps

theorem execPadd_nextOk {rd rs1 rs2 : Reg} {s : State} (h : s.memOk) : NextOk (execPadd rd rs1 rs2 s) :=
  runSlot_nextOk (.bind .x fun _ => Act.ptr1_keeps) h

theorem execPtag_nextOk {rd rs1 rs2 : Reg} {s : State} (h : s.memOk) : NextOk (execPtag rd rs1 rs2 s) :=
  runSlot_nextOk (.bind .x fun _ => Act.ptr1_keeps) h

theorem execPaddi_nextOk {rd rs1 : Reg} {imm : BitVec 12} {s : State} (h : s.memOk) :
    NextOk (execPaddi rd rs1 imm s) := runSlot_nextOk Act.ptr1_keeps h

theorem execPtagi_nextOk {rd rs1 : Reg} {tag : BitVec 8} {s : State} (h : s.memOk) :
    NextOk (execPtagi rd rs1 tag s) := runSlot_nextOk Act.ptr1_keeps h

theorem execPget_nextOk {rd rs1 : Reg} {s : State} (h : s.memOk) : NextOk (execPget rd rs1 s) :=
  runSlot_nextOk Act.ptr1_keeps h

theorem execPbase_nextOk {rd rs1 : Reg} {s : State} (h : s.memOk) : NextOk (execPbase rd rs1 s) :=
  runSlot_nextOk Act.ptr1_keeps h

theorem Act.prefixOp_keeps {i : Instr} {n : Act Nat} {stride : BitVec 2} {fields : BitVec 3} (h : n.Keeps) :
    (Act.prefixOp i n stride fields).Keeps := by
  unfold Act.prefixOp
  refine .get fun _ _ => .bind (fun _ h' => State.fetchFor_gives h') fun _ => .keepAll ?_
  split
  · exact Act.refuse_keeps
  · exact fun _ _ => .error
  · refine .bind h fun _ => .guard ?_
    dsimp only
    split
    · split
      · exact .trapBind
      · split
        · exact .mod fun _ h' => State.modMember_memOk (State.bump_memOk h')
        · exact .mod fun _ h' => State.bump_memOk (State.bump_memOk h')
    · split
      · exact .trapBind
      · split
        · exact .mod fun _ h' => State.modMember_memOk (State.bump_memOk h')
        · exact .mod fun _ h' => State.bump_memOk (State.bump_memOk h')

theorem execRepi_nextOk {n : BitVec 12} {stride : BitVec 2} {fields : BitVec 3} {s : State} (h : s.memOk) :
    NextOk (execRepi n stride fields s) := runSlot_nextOk (Act.prefixOp_keeps .pure) h

theorem execRep_nextOk {rs1 : Reg} {stride : BitVec 2} {fields : BitVec 3} {s : State} (h : s.memOk) :
    NextOk (execRep rs1 stride fields s) := runSlot_nextOk (Act.prefixOp_keeps (.bind .x fun _ => .pure)) h

theorem execNestSet_nextOk {rs1 : Reg} {s : State} (h : s.memOk) : NextOk (execNestSet rs1 s) := by
  unfold execNestSet
  refine runSlot_nextOk ?_ h
  refine .bind .x fun _ => .guard (.get fun _ _ => ?_)
  refine .bind Act.load_keeps fun _ => ?_
  dsimp only
  split
  · exact .kept .trap
  · exact .bind .modSlot fun _ => Act.next_keeps

theorem execNestStat_nextOk {rd : Reg} {s : State} (h : s.memOk) : NextOk (execNestStat rd s) := by
  unfold execNestStat
  refine runSlot_nextOk ?_ h
  refine .bind .slot fun _ => ?_
  dsimp only
  split
  · exact .bind .setX fun _ => Act.next_keeps
  · split
    · exact .trapBind
    · exact .bind (fun _ h' => State.readHome_gives h') fun _ => .bind .setX fun _ => Act.next_keeps

theorem Act.claim_keeps {d : BitVec 256} : (Act.claim d).Keeps := by
  unfold Act.claim
  exact .guard (.bind (fun _ h => State.rmw_gives h) fun _ => .pure)

theorem Act.draw4_keeps : Act.draw4.Keeps := by
  unfold Act.draw4
  exact fun _ h => .ok h

theorem Act.nestGive_keeps {rd : Reg} {rem nxt : Nat} : (Act.nestGive rd rem nxt).Keeps := by
  unfold Act.nestGive
  exact .bind .slot fun _ => .branch .pure Act.draw4_keeps fun _ => .bind .modSlot fun _ => Act.next_keeps

theorem execNestNext_nextOk {rd : Reg} {off : BitVec 17} {s : State} (h : s.memOk) :
    NextOk (execNestNext rd off s) := by
  unfold execNestNext
  refine runSlot_nextOk ?_ h
  refine .bind .slot fun _ => .bind Act.pc_keeps fun _ => ?_
  dsimp only
  split
  · exact Act.nestGive_keeps
  · split
    · exact Act.jump_keeps
    · refine .bind Act.memberOrder_keeps fun _ => .bind Act.claim_keeps fun ⟨_, _⟩ => ?_
      split
      · exact Act.jump_keeps
      · exact Act.nestGive_keeps

/-! ### What Machine/Convoy defines -/

theorem State.attach_memOk {s : State} {k n : Nat} {l : Lane} {seq : Nat} (h : s.memOk) :
    (s.attach k n l seq).memOk := by
  unfold State.attach
  exact State.modSlot_memOk (State.setLane_memOk h)

theorem State.joinNow_memOk {s : State} {k target n : Nat} {l : Lane} {seq : Nat} (h : s.memOk) :
    (s.joinNow k target n l seq).memOk := by
  unfold State.joinNow
  split
  · exact h
  · split
    · exact State.fenceCore_memOk h
    · exact State.modSlot_memOk (State.attach_memOk h)

theorem State.joinExisting_memOk {s : State} {car : Nat} (h : s.memOk) : (s.joinExisting car).memOk := by
  unfold State.joinExisting
  refine foldl_keeps_memOk (fun _ ⟨_, _⟩ h' => ?_) h
  split
  · exact State.joinNow_memOk h'
  · exact h'

theorem State.joinOpen_memOk {s : State} {car : Nat} (h : s.memOk) : (s.joinOpen car).memOk := by
  unfold State.joinOpen
  split
  · refine foldl_keeps_memOk (fun _ ⟨_, _⟩ h' => ?_) h
    split
    · exact State.joinNow_memOk h'
    · exact State.joinNow_memOk h'
  · exact h

theorem State.serveJoins_memOk {s : State} {car : Nat} (h : s.memOk) : (s.serveJoins car).memOk := by
  unfold State.serveJoins
  split
  · exact h
  · exact foldl_keeps_memOk (fun _ _ h' => State.joinOpen_memOk h') (State.joinExisting_memOk h)

theorem State.serveAll_memOk {s : State} (h : s.memOk) : s.serveAll.memOk := by
  unfold State.serveAll
  exact foldl_keeps_memOk (fun _ _ h' => State.serveJoins_memOk h') h

theorem State.placeFiring_memOk {s : State} {k h : Nat} (hs : s.memOk) : (s.placeFiring k h).memOk := by
  unfold State.placeFiring
  dsimp only
  split
  · exact State.attach_memOk (State.serveJoins_memOk hs)
  · split
    · exact State.attach_memOk (State.serveJoins_memOk hs)
    · exact State.modSlot_memOk (State.serveJoins_memOk hs)

theorem State.laneFetch_memOk {s : State} {l : Lane} {pc : Word} (h : s.memOk) : (s.laneFetch l pc).2.memOk := by
  unfold State.laneFetch
  split
  · next hx => exact Offers.firstOf (fun _ => Gives.toOption (State.fetchAt_gives h)) _ hx
  · exact h

theorem State.deliver_offers {s : State} {car n : Nat} (h : s.memOk) : Offers State.memOk (s.deliver car n) := by
  unfold State.deliver
  split
  · exact .none
  · split
    · split
      · exact .some (State.serveJoins_memOk (State.modCar_memOk (State.laneFetch_memOk h)))
      · exact .none
    · exact .none

theorem State.deliverTo_memOk {s : State} {car n q fuel : Nat} (h : s.memOk) : (s.deliverTo car n q fuel).memOk := by
  induction fuel generalizing s with
  | zero => exact h
  | succ fuel ih =>
    unfold State.deliverTo
    split
    · split
      · exact h
      · split
        · next hx => exact ih (State.deliver_offers h _ hx)
        · exact h
    · exact h

theorem State.refetch_memOk {s : State} {car n q : Nat} (h : s.memOk) : (s.refetch car n q).memOk := by
  unfold State.refetch
  split
  · split
    · split
      · exact h
      · exact State.modCar_memOk (State.laneFetch_memOk h)
    · exact h
  · exact h

theorem State.feed_memOk {s : State} {k : Nat} (h : s.memOk) : (s.feed k).memOk := by
  unfold State.feed
  split
  · exact h
  · dsimp only
    split
    · split
      · exact State.refetch_memOk (State.deliverTo_memOk (State.refetch_memOk (State.deliverTo_memOk h)))
      · exact State.refetch_memOk (State.deliverTo_memOk h)
    · split
      · exact State.refetch_memOk (State.deliverTo_memOk (State.refetch_memOk (State.deliverTo_memOk h)))
      · exact State.refetch_memOk (State.deliverTo_memOk h)

theorem State.goes_memOk {s : State} {k : Nat} (h : s.memOk) : (s.goes k).memOk := by
  unfold State.goes
  split
  · exact h
  · exact State.modMember_memOk h

theorem State.holdAt_memOk {s : State} {k : Nat} {rep : Option RepRun} (h : s.memOk) : (s.holdAt k rep).memOk := by
  unfold State.holdAt
  exact State.modMember_memOk h

theorem Act.joinOp_keeps {off : BitVec 17} {variant : Bool} : (Act.joinOp off variant).Keeps := by
  unfold Act.joinOp
  refine .bind .slot fun _ => .bind Act.pc_keeps fun _ => .get fun _ _ => .guard ?_
  refine .bind (.mod fun _ h => State.serveJoins_memOk h) fun _ => .get fun _ _ => ?_
  dsimp only
  split
  · exact .mod fun _ h => State.modSlot_memOk (State.attach_memOk h)
  · split
    · exact .mod fun _ h => State.modSlot_memOk (State.attach_memOk h)
    · split
      · exact .bind .modSlot fun _ => Act.next_keeps
      · exact .modSlot

theorem execJoin_nextOk {off : BitVec 17} {s : State} (h : s.memOk) : NextOk (execJoin off s) :=
  runSlot_nextOk Act.joinOp_keeps h

theorem execJoinT_nextOk {off : BitVec 17} {s : State} (h : s.memOk) : NextOk (execJoinT off s) :=
  runSlot_nextOk Act.joinOp_keeps h

theorem execLeave_nextOk {s : State} (h : s.memOk) : NextOk (execLeave s) := by
  unfold execLeave
  refine runSlot_nextOk ?_ h
  refine .bind Act.next_keeps fun _ => .mod fun _ h' => ?_
  split
  · exact State.modSlot_memOk (State.leave_memOk h')
  · exact h'

theorem execCvsync_nextOk {s : State} (h : s.memOk) : NextOk (execCvsync s) :=
  runSlot_nextOk (.bind .slot fun _ => .bind Act.next_keeps fun _ => .mod fun _ h' => State.holdAt_memOk h') h

theorem execCvstat_nextOk {rd : Reg} {s : State} (h : s.memOk) : NextOk (execCvstat rd s) :=
  runSlot_nextOk (.get fun _ _ => .bind .setX fun _ => Act.next_keeps) h

theorem execConvoyGatherEnd_nextOk {caravan lane : Nat} {s : State} (h : s.memOk) :
    NextOk (execConvoyGatherEnd caravan lane s) := by
  unfold execConvoyGatherEnd
  refine .next ?_
  repeat' split
  all_goals exact h

theorem execLaneResolve_nextOk {caravan lane : Nat} {s : State} (h : s.memOk) :
    NextOk (execLaneResolve caravan lane s) := by
  unfold execLaneResolve
  refine .next ?_
  split
  · exact h
  · split
    · exact h
    · exact foldl_keeps_memOk (fun _ _ h' => h') (State.setLane_memOk h)

theorem execJoinWaitAttach_nextOk {caravan : Nat} {s : State} (h : s.memOk) :
    NextOk (execJoinWaitAttach caravan s) := by
  unfold execJoinWaitAttach
  exact .next (State.serveJoins_memOk h)

/-! ### What Machine/Firing defines -/

theorem execHbind_nextOk {rs1 rs2 : Reg} {s : State} (h : s.memOk) : NextOk (execHbind rs1 rs2 s) := by
  unfold execHbind
  refine runSlot_nextOk ?_ h
  refine .bind .x fun _ => .bind .x fun _ => .guard ?_
  dsimp only
  split
  · exact .trapBind
  · refine .get fun _ _ => .bind Act.load_keeps fun _ => ?_
    split
    · exact .kept .trap
    · exact .bind (.mod fun _ h' => h') fun _ => Act.next_keeps

theorem execQctl_nextOk {rs1 rs2 : Reg} {s : State} (h : s.memOk) : NextOk (execQctl rs1 rs2 s) :=
  runSlot_nextOk (.bind .x fun _ => .bind .x fun _ => .guard (.bind (.mod fun _ h' => h') fun _ => Act.next_keeps)) h

theorem execQstat_nextOk {rd rs1 : Reg} {s : State} (h : s.memOk) : NextOk (execQstat rd rs1 s) :=
  runSlot_nextOk (.bind .x fun _ => .guard (.get fun _ _ => .bind .setX fun _ => Act.next_keeps)) h

theorem Act.sendOp_keeps {rs1 : Reg} {g : BitVec 4} {cap : Option Reg} : (Act.sendOp rs1 g cap).Keeps := by
  unfold Act.sendOp
  refine .bind .x fun _ => .guard (.bind (.mapM fun _ => Act.v_keeps) fun _ => ?_)
  refine .bind .slot fun _ => ?_
  dsimp only
  split
  · split
    · exact .waitBind
    · exact .trapBind
  · refine .get fun _ _ => ?_
    split
    · exact .bind .x fun _ => .pureBind (.bind .modSlot fun _ => Act.next_keeps)
    · exact .pureBind (.bind .modSlot fun _ => Act.next_keeps)

theorem execSend_nextOk {rs1 : Reg} {g : BitVec 4} {s : State} (h : s.memOk) : NextOk (execSend rs1 g s) :=
  runSlot_nextOk Act.sendOp_keeps h

theorem execSendC_nextOk {rs1 : Reg} {g : BitVec 4} {cap : Reg} {s : State} (h : s.memOk) :
    NextOk (execSendC rs1 g cap s) := runSlot_nextOk Act.sendOp_keeps h

theorem Act.releaseBuffer_keeps : Act.releaseBuffer.Keeps := by
  unfold Act.releaseBuffer
  exact .bind Act.release_keeps fun _ => .modSlot

theorem execSealF_nextOk {s : State} (h : s.memOk) : NextOk (execSealF s) :=
  runSlot_nextOk (.bind Act.releaseBuffer_keeps fun _ => .bind .modSlot fun _ => Act.next_keeps) h

theorem execDone_nextOk {s : State} (h : s.memOk) : NextOk (execDone s) := by
  unfold execDone
  refine runSlot_nextOk (.bind Act.releaseBuffer_keeps fun _ => .bind .modSlot fun _ => .mod fun _ h' =>
    State.endFiring_memOk h') h

theorem State.enqueueLaunch_memOk {s : State} {ctx q : Nat} {ws : List Word} {ccont : Word} {core : Option Nat}
    {lane : Nat} {stage : BitVec 8} (h : s.memOk) :
    (s.enqueueLaunch ctx q ws ccont core lane stage).2.memOk := h

theorem execLaunch_nextOk {rd rs1 rs2 : Reg} {s : State} (h : s.memOk) : NextOk (execLaunch rd rs1 rs2 s) := by
  unfold execLaunch
  refine runSlot_nextOk ?_ h
  refine .bind .x fun _ => .bind .x fun _ => .guard ?_
  dsimp only
  split
  · exact .trapBind
  · refine .released (.get fun _ _ => ?_)
    refine .bind Act.loadRecord_keeps fun _ => .kept ?_
    split
    · exact .trapBind
    · refine .get fun _ _ => ?_
      split
      · exact .trapBind
      · split
        · exact .waitBind
        · refine .bind .slot fun _ => ?_
          exact .bind (fun _ h' => .ok (State.enqueueLaunch_memOk h')) fun _ => .bind .setX fun _ => Act.next_keeps

theorem Act.sigOp_keeps {rs1 rs2 : Reg} {f : Word → Word → Word} : (Act.sigOp rs1 rs2 f).Keeps := by
  unfold Act.sigOp
  refine .bind .x fun _ => ?_
  exact .bind .x fun _ => .guard (.bind Act.release_keeps fun _ => .bind (.mod fun _ h => h) fun _ => Act.next_keeps)

theorem execSigset_nextOk {rs1 rs2 : Reg} {s : State} (h : s.memOk) : NextOk (execSigset rs1 rs2 s) :=
  runSlot_nextOk Act.sigOp_keeps h

theorem execSigclr_nextOk {rs1 rs2 : Reg} {s : State} (h : s.memOk) : NextOk (execSigclr rs1 rs2 s) :=
  runSlot_nextOk Act.sigOp_keeps h

theorem execSigtest_nextOk {rd rs1 rs2 : Reg} {s : State} (h : s.memOk) : NextOk (execSigtest rd rs1 rs2 s) := by
  unfold execSigtest
  refine runSlot_nextOk (.bind .x fun _ => .bind .x fun _ => .guard (.get fun _ _ => .bind .setX fun _ =>
    .bind Act.acquire_keeps fun _ => Act.next_keeps)) h

theorem execStashAlloc_nextOk {rd rs1 : Reg} {s : State} (h : s.memOk) : NextOk (execStashAlloc rd rs1 s) := by
  unfold execStashAlloc
  refine runSlot_nextOk ?_ h
  refine .bind .x fun _ => .get fun _ _ => ?_
  dsimp only
  split
  · exact .bind .setX fun _ => Act.next_keeps
  · exact .bind .setX fun _ => .bind (.mod fun _ h' => h') fun _ => Act.next_keeps

theorem execStashFree_nextOk {rs1 : Reg} {s : State} (h : s.memOk) : NextOk (execStashFree rs1 s) :=
  runSlot_nextOk (.bind .x fun _ => .bind (.mod fun _ h' => h') fun _ => Act.next_keeps) h

theorem execMessageDepart_nextOk {slot : Nat} {s : State} (h : s.memOk) : NextOk (execMessageDepart slot s) := by
  unfold execMessageDepart
  refine .next ?_
  split
  · split
    · exact State.emit_memOk h
    · exact h
  · exact h

theorem State.resolveAt_memOk {s : State} {k : Nat} (h : s.memOk) : (s.resolveAt k).memOk := by
  unfold State.resolveAt
  split
  · exact h
  · dsimp only
    split
    · exact h
    · exact State.refuse_memOk h

theorem execStageResolve_nextOk {k : Nat} {s : State} (h : s.memOk) : NextOk (execStageResolve k s) := by
  unfold execStageResolve
  exact .next (State.resolveAt_memOk h)

theorem State.takeFrame_memOk {s : State} {ctx : Nat} {oldest : Option (Nat × Word)} (h : s.memOk) :
    (s.takeFrame ctx oldest).2.memOk := by
  unfold State.takeFrame
  dsimp only
  repeat' split
  all_goals exact h

theorem State.endSpillWait_memOk {s : State} {ctx core : Nat} (h : s.memOk) : (s.endSpillWait ctx core).memOk := by
  unfold State.endSpillWait
  split <;> exact h

theorem State.growSpill_memOk {s : State} {ctx core : Nat} (h : s.memOk) : (s.growSpill ctx core).2.memOk := by
  unfold State.growSpill
  dsimp only
  split
  · exact h
  · split
    · exact State.modCtx_memOk (State.takeFrame_memOk h)
    · split
      · exact State.takeFrame_memOk h
      · exact State.modCtx_memOk (State.takeFrame_memOk h)

theorem State.arrived_memOk {s : State} {ctx core : Nat} (h : s.memOk) : (s.arrived ctx core).memOk := by
  unfold State.arrived
  split
  · exact h
  · exact State.endSpillWait_memOk h

theorem State.settleSpills_memOk {s : State} (h : s.memOk) : s.settleSpills.memOk := by
  unfold State.settleSpills
  exact foldl_keeps_memOk (fun _ ⟨_, _⟩ h' => foldl_keeps_memOk (fun _ ⟨_, _⟩ h'' => State.arrived_memOk h'') h') h

theorem State.putMessage_memOk {s : State} {f : Flight} {spill : Bool} (h : s.memOk) :
    (s.putMessage f spill).memOk := by
  unfold State.putMessage
  dsimp only
  split <;> exact h

theorem State.unfuseAt_memOk {s : State} {f : Flight} (h : s.memOk) : (s.unfuseAt f).memOk := by
  unfold State.unfuseAt
  split
  · exact State.unfuse_memOk h
  · exact h

theorem execMessageArrive_nextOk {k : Nat} {s : State} (h : s.memOk) : NextOk (execMessageArrive k s) := by
  unfold execMessageArrive
  refine .next ?_
  split
  · exact h
  · split
    · exact h
    · dsimp only
      split
      · exact State.arrived_memOk (State.unfuseAt_memOk (State.refuse_memOk h))
      · split
        · split
          · exact State.arrived_memOk (State.putMessage_memOk (.mk (State.growSpill_memOk h)))
          · exact State.growSpill_memOk h
        · exact State.arrived_memOk (State.putMessage_memOk h)

theorem execSpillReturn_nextOk {core queue : Nat} {s : State} (h : s.memOk) :
    NextOk (execSpillReturn core queue s) := by
  unfold execSpillReturn
  refine .next ?_
  dsimp only
  repeat' split
  all_goals exact h

theorem State.restartSlice_memOk {s : State} {ctx : Nat} (h : s.memOk) : (s.restartSlice ctx).memOk := h

theorem State.startFiring_memOk {s : State} {c k q : Nat} (h : s.memOk) : (s.startFiring c k q).memOk := by
  unfold State.startFiring
  exact State.placeFiring_memOk (State.restartSlice_memOk (State.acquire_memOk (foldl_keeps_memOk (fun _ _ h' => h') h)))

theorem execFiringStart_nextOk {core : Nat} {s : State} (h : s.memOk) : NextOk (execFiringStart core s) := by
  unfold execFiringStart
  refine .next ?_
  split
  · exact h
  · split
    · exact State.startFiring_memOk h
    · exact h

theorem State.makePresent_offers {s : State} {a : Nat} (h : s.memOk) : Offers State.memOk (s.makePresent a) := by
  unfold State.makePresent
  split
  · exact .none
  · dsimp only
    split
    · exact .none
    · split
      · exact .some h
      · exact .some (State.physWrite_memOk _ _ (State.nonResident_memOk h))

theorem State.servePage_ok {s : State} {ctx a : Nat} {oldest : Option (Nat × Word)} (h : s.memOk) :
    (s.servePage ctx a oldest).Ok := by
  unfold State.servePage
  split
  · exact trivial
  · next hx =>
    split
    · exact State.makePresent_offers h _ hx
    · dsimp only
      split
      · exact Offers.getD (State.makePresent_offers (State.takeFrame_memOk h)) (State.takeFrame_memOk h)
      · exact State.takeFrame_memOk h

theorem State.migration_memOk {s : State} {unit ctx core a : Nat} (h : s.memOk) :
    (s.migration unit ctx core a).memOk := by
  unfold State.migration
  split <;> exact h

/-- The fault service, where it is asked at all. -/
theorem State.servePage_or_fails_ok {s : State} {c : Prop} [Decidable c] {ctx a : Nat} {old : Option (Nat × Word)}
    (h : s.memOk) : (if c then s.servePage ctx a old else .fails).Ok := by
  split
  · exact State.servePage_ok h
  · exact trivial

theorem State.serviced_memOk {s : State} {unit ctx core a : Nat} {f : WalkFault} (h : s.memOk) :
    (s.serviced unit ctx core a f).memOk := by
  unfold State.serviced
  split
  · exact State.migration_memOk h
  · split
    · next hx => exact (State.servePage_or_fails_ok h).of_done hx
    · next hx => exact (State.servePage_or_fails_ok h).of_stalls hx
    · exact h

theorem State.predicateRead_ok {s : State} {ctx : Nat} {host : Bool} {t : TEntry} {a : Nat} (h : s.memOk) :
    (s.predicateRead ctx host t a).Ok := by
  unfold State.predicateRead
  split
  · exact h
  · split
    · exact State.cxlError_memOk h
    · exact State.fillRange_memOk h

theorem State.predicate_ok {s : State} {ctx : Nat} {r : LRec} (h : s.memOk) : (s.predicate ctx r).Ok := by
  unfold State.predicate
  dsimp only
  split
  · exact h
  · split
    · split
      · exact State.migration_memOk h
      · split
        · next hx =>
          split
          · next hx' =>
            have hs := State.translate_gives ((State.servePage_or_fails_ok h).of_done hx) _ hx'
            exact State.predicateRead_ok hs
          · exact (State.servePage_or_fails_ok h).of_done hx
        · next hx => exact (State.servePage_or_fails_ok h).of_stalls hx
        · exact h
    · next hx => exact State.predicateRead_ok (State.translate_gives h _ hx)

theorem State.dispatchAs_memOk {s : State} {ctx q : Nat} {r : LRec} {ended : Option Nat} (h : s.memOk) :
    (s.dispatchAs ctx q r ended).memOk := by
  unfold State.dispatchAs
  refine .mk ?_
  split
  · exact foldl_keeps_memOk (fun _ _ h' => State.modCar_memOk (State.flushL1s_memOk h')) h
  · exact h

theorem State.dispatchHead_memOk {s : State} {ctx q : Nat} {r : LRec} (h : s.memOk) :
    (s.dispatchHead ctx q r).2.memOk := by
  unfold State.dispatchHead
  split
  · split
    · next hx =>
      have hs := Predicate.Ok.of_wait (State.predicate_ok h) hx
      exact hs
    · next hx =>
      have hs := Predicate.Ok.of_value (State.predicate_ok h) hx
      exact State.dispatchAs_memOk hs
    · next hx =>
      have hs := Predicate.Ok.of_failed (State.predicate_ok h) hx
      exact State.event_memOk (State.dispatchAs_memOk hs)
  · exact State.dispatchAs_memOk h

theorem State.dispatchFirst_memOk {s : State} {cs : List Nat} (h : s.memOk) : (s.dispatchFirst cs).memOk := by
  induction cs generalizing s with
  | nil => exact h
  | cons c cs ih =>
    unfold State.dispatchFirst
    split
    · exact ih h
    · dsimp only
      split
      · exact State.dispatchHead_memOk h
      · exact ih (State.dispatchHead_memOk h)

theorem execLaunchDispatch_nextOk {s : State} (h : s.memOk) : NextOk (execLaunchDispatch s) := by
  unfold execLaunchDispatch
  refine .next ?_
  split
  · exact h
  · exact State.dispatchFirst_memOk h

theorem execLaunchEnd_nextOk {ctx id : Nat} {s : State} (h : s.memOk) : NextOk (execLaunchEnd ctx id s) := by
  unfold execLaunchEnd
  refine .next ?_
  split
  · exact h
  · dsimp only
    split
    · split
      · exact State.emit_memOk (foldl_keeps_memOk (fun _ _ h' => State.unfuse_memOk h') h)
      · exact foldl_keeps_memOk (fun _ _ h' => State.unfuse_memOk h') h
    · exact State.hostOnly_memOk (foldl_keeps_memOk (fun _ _ h' => State.unfuse_memOk h') h)

/-! ### What Machine/Engine defines -/

theorem State.statusEvent_memOk {s : State} {c : Cmd} {e pos code : Nat} (h : s.memOk) :
    (s.statusEvent c e pos code).memOk := by
  unfold State.statusEvent
  exact State.event_memOk h

theorem State.report_memOk {s : State} {c : Cmd} {e pos code : Nat} (h : s.memOk) : (s.report c e pos code).memOk := by
  unfold State.report
  dsimp only
  split
  · refine State.emit_memOk ?_
    split
    · split
      · exact h
      · split
        · exact h
        · exact State.statusEvent_memOk h
    · split
      · exact State.statusEvent_memOk h
      · exact h
  · split
    · split
      · exact h
      · split
        · exact h
        · exact State.statusEvent_memOk h
    · split
      · exact State.statusEvent_memOk h
      · exact h

theorem Act.enqueue_keeps {rd : Reg} {e : Engine} {t : Tcw} {ports : List Nat} : (Act.enqueue rd e t ports).Keeps := by
  unfold Act.enqueue
  refine .guard (.released ?_)
  exact .get fun _ _ => .hold (.bind (.mod fun _ h => h) fun _ => .bind .modSlot fun _ => .bind .setX fun _ => Act.next_keeps)

theorem execEnq_nextOk {rd : Reg} {e : Engine} {p : BitVec 5} {s : State} (h : s.memOk) :
    NextOk (execEnq rd e p s) := runSlot_nextOk (.bind Act.v_keeps fun _ => .bind Act.v_keeps fun _ => Act.enqueue_keeps) h

theorem execEnqm_nextOk {rd : Reg} {e : Engine} {rs2 : Reg} {s : State} (h : s.memOk) :
    NextOk (execEnqm rd e rs2 s) :=
  runSlot_nextOk (.bind .x fun _ => .guard (.get fun _ _ => .bind Act.load_keeps fun _ => .kept Act.enqueue_keeps)) h

theorem execEqwait_nextOk {e : Engine} {s : State} (h : s.memOk) : NextOk (execEqwait e s) := by
  unfold execEqwait
  refine runSlot_nextOk ?_ h
  refine .get fun _ _ => .hold ?_
  dsimp only
  split
  · exact .mod fun _ h' => State.takeTrap_memOk h'
  · exact .bind Act.acquire_keeps fun _ => Act.next_keeps

theorem execEqstat_nextOk {rd : Reg} {e : Engine} {s : State} (h : s.memOk) : NextOk (execEqstat rd e s) :=
  runSlot_nextOk (.get fun _ _ => .bind .setX fun _ => Act.next_keeps) h

theorem State.setCmd_memOk {s : State} {g : EngSel} {c : Cmd} (h : s.memOk) : (s.setCmd g c).memOk := by
  unfold State.setCmd
  split <;> exact h

theorem State.dropCmd_memOk {s : State} {g : EngSel} {c : Cmd} (h : s.memOk) : (s.dropCmd g c).memOk := by
  unfold State.dropCmd
  split <;> exact h

theorem State.pinBlock_memOk {s : State} {core : Nat} {x : Nat × TEntry} {up : Bool} (h : s.memOk) :
    (s.pinBlock core x up).memOk := by
  unfold State.pinBlock
  exact State.homeWrite_memOk _ _ _ h

theorem State.endRead_memOk {s : State} {c : Cmd} (h : s.memOk) : (s.endRead c).memOk := by
  unfold State.endRead
  exact foldl_keeps_memOk (fun _ ⟨_, _⟩ h' => State.pinBlock_memOk h') h

theorem State.finish_memOk {s : State} {g : EngSel} {c : Cmd} {code : Nat} (h : s.memOk) :
    (s.finish g c code).memOk := by
  unfold State.finish
  exact State.report_memOk (State.dropCmd_memOk (State.endRead_memOk h))

theorem Eng.page_keeps {a : Nat} {k : EngAcc} {cls : Nat → Bool} : (Eng.page a k cls).Keeps := by
  unfold Eng.page
  intro _ h
  dsimp only
  split
  · exact .status h
  · split
    · exact .status h
    · split
      · split
        · exact .status h
        · split
          · exact .retry
          · split
            · split
              · exact .status h
              · exact .ok h
            · split
              · exact .status h
              · exact .ok h
      · split
        · exact .status h
        · split
          · exact .retry
          · split
            · split
              · exact .status h
              · exact .ok h
            · split
              · exact .status h
              · exact .ok h

theorem State.engineConsume_memOk {s : State} {c : Cmd} {a : Word} (h : s.memOk) : (s.engineConsume c a).memOk := by
  unfold State.engineConsume
  refine State.cxlError_memOk (State.event_memOk ?_)
  split
  · exact State.killFiring_memOk h
  · exact h

theorem State.unitRead_memOk {s : State} {ctx core : Nat} {t : TEntry} {a n : Nat} (h : s.memOk) :
    (s.unitRead ctx core t a n).2.memOk := by
  unfold State.unitRead
  dsimp only
  split
  · exact .mk (State.cxlError_memOk (State.event_memOk h))
  · exact State.fillRange_memOk h

theorem Eng.sector_keeps {a n : Nat} {t : TEntry} : (Eng.sector a n t).Keeps := by
  unfold Eng.sector
  intro _ h
  dsimp only
  split
  · exact .ok (.mk (State.engineConsume_memOk h))
  · exact .ok (State.fillRange_memOk h)

theorem Eng.fetch_keeps {spans : List (Nat × Nat)} : (Eng.fetch spans).Keeps := by
  unfold Eng.fetch
  intro _ h
  dsimp only
  split
  · exact .ok h
  · exact .retry

theorem Eng.request_keeps {rs : List Request} {units : List Nat} : (Eng.request rs units).Keeps := by
  unfold Eng.request
  intro _ h
  dsimp only
  split
  · exact .ok h
  · exact .retry

theorem Eng.readAs_keeps {k : EngAcc} {cls : Nat → Bool} {a n : Nat} : (Eng.readAs k cls a n).Keeps := by
  unfold Eng.readAs
  refine .when Eng.request_keeps fun _ => .foldlM fun _ ⟨_, _⟩ => .bind .cmd fun _ => ?_
  split
  · exact .pure
  · exact .bind Eng.page_keeps fun _ => .bind Eng.sector_keeps fun _ => .pure

theorem Eng.writeAs_keeps {k : EngAcc} {cls : Nat → Bool} {a : Nat} {bs : List Byte} :
    (Eng.writeAs k cls a bs).Keeps := by
  unfold Eng.writeAs
  refine .bind (.foldlM fun _ ⟨_, _⟩ => .bind Eng.page_keeps fun _ => .bind .cmd fun _ => .bind (.mod fun _ h =>
    State.writeFor_memOk _ _ _ _ h) fun _ => .pure) fun _ => ?_
  exact .pure

theorem writePiece_ends {y : EngSt × List Written × List Nat} {p : (Nat × List Byte) × Nat} (h : y.1.st.memOk) :
    Ends (fun r => r.1.st.memOk) (writePiece y p) := by
  unfold writePiece
  split
  · next hx =>
    have hs := Ends.of_ok (Eng.page_keeps _ h) hx
    exact .ok (State.writeFor_memOk _ _ _ _ hs)
  · exact .ok h
  · next hx => exact .of_error (Eng.page_keeps _ h) hx

theorem Eng.writeAll_keeps {xs : List (Nat × List Byte)} : (Eng.writeAll xs).Keeps := by
  unfold Eng.writeAll
  intro _ h
  dsimp only
  split
  · next hx =>
    split
    · have hs := Ends.of_ok (hx := hx) <| by
        refine .foldlM (Q := fun r : EngSt × List Written × List Nat => r.1.st.memOk) (fun ⟨_, _, _⟩ ⟨_, _⟩ h' =>
          writePiece_ends h') h
      exact .ok hs
    · exact .later
  · next hx =>
    refine .of_error (.foldlM (Q := fun r : EngSt × List Written × List Nat => r.1.st.memOk) (fun ⟨_, _, _⟩ ⟨_, _⟩ h' =>
      writePiece_ends h') h) hx

theorem Eng.read_keeps {a n : Nat} : (Eng.read a n).Keeps := by
  unfold Eng.read
  exact Eng.readAs_keeps

theorem refuseAt_memOk {core : Nat} {w : Bool} {x : State × Cmd} {a : Nat} (h : x.1.memOk) : (refuseAt core w x a).1.memOk := by
  obtain ⟨s, c⟩ := x
  unfold refuseAt
  dsimp only
  split
  · exact h
  · split
    · next hx => exact State.walk_memOk h hx
    · split
      · next hx => exact (State.servePage_or_fails_ok h).of_done hx
      · next hx => exact (State.servePage_or_fails_ok h).of_stalls hx
      · dsimp only
        split
        · exact State.hostOnly_memOk h
        · exact h

theorem State.fillFetched_memOk {s : State} {core : Nat} {old got : Sparse Byte} (h : s.memOk) :
    (s.fillFetched core old got).memOk := by
  unfold State.fillFetched
  refine foldl_keeps_memOk (fun _ _ h' => ?_) h
  split
  · exact State.fillL2_memOk _ _ _ h'
  · exact h'

theorem State.refuseRemote_memOk {s : State} {g : EngSel} {c : Cmd} {f : Fetched} {write : Bool} (h : s.memOk) :
    (s.refuseRemote g c f write).memOk := by
  unfold State.refuseRemote
  refine State.setCmd_memOk ?_
  refine foldl_keeps (fun r : State × Cmd => r.1.memOk) _ _ (fun ⟨_, _⟩ _ h' => refuseAt_memOk h') ?_
  refine foldl_keeps (fun r : State × Cmd => r.1.memOk) _ _ (fun ⟨_, _⟩ _ h' => refuseAt_memOk h') ?_
  exact foldl_keeps_memOk (fun _ ⟨_, _⟩ h' => State.pinBlock_memOk h') (State.fillFetched_memOk h)

theorem State.refuseWrites_memOk {s : State} {g : EngSel} {c : Cmd} {ws : List Written} {missing : List Nat}
    {got : Sparse Byte} (h : s.memOk) :
    (s.refuseWrites g c ws missing got).memOk := by
  unfold State.refuseWrites
  exact State.refuseRemote_memOk (foldl_keeps_memOk (fun _ _ h' => State.writeFor_memOk _ _ _ _ h') h)

/-- However a step of an engine stops, the state that it leaves keeps the canonical form. -/
theorem State.stopStep_memOk {s : State} {g : EngSel} {c : Cmd} {x : EngStop} (h : s.memOk)
    (hx : Ends (α := EngSt) (fun e => e.st.memOk) (.error x)) : (s.stopStep g c x).memOk := by
  cases x with
  | status code e => exact State.finish_memOk (hx.of_status rfl)
  | retry f w => exact State.refuseRemote_memOk h
  | later ws ms got => exact State.refuseWrites_memOk h
  | hold => exact h

theorem State.runStep_memOk {s : State} {g : EngSel} {c : Cmd} {step : Eng (Option Nat)} (h : s.memOk) (hk : step.Keeps) :
    (s.runStep g c step).memOk := by
  have hs := hk { st := s, cmd := c } h
  unfold State.runStep
  split
  · next hx => exact State.setCmd_memOk (State.endRead_memOk (hs.of_ok hx))
  · next hx => exact State.finish_memOk (hs.of_ok hx)
  · next hx => exact State.stopStep_memOk h (hs.of_error hx)

/-- A command keeps the canonical form where its step does. -/
theorem runCmd_nextOk {step : Eng (Option Nat)} {s : State} (hk : step.Keeps) (h : s.memOk) : NextOk (runCmd step s) := by
  refine .next ?_
  split
  · exact h
  · split
    · exact h
    · exact State.runStep_memOk h hk

theorem execRetryAfterResend_nextOk {k : Nat} {s : State} (h : s.memOk) : NextOk (execRetryAfterResend k s) := by
  unfold execRetryAfterResend
  refine .next ?_
  split
  · split
    · exact State.setCmd_memOk h
    · exact h
  · exact h

theorem execRemoteCommandArrive_nextOk {k : Nat} {s : State} (h : s.memOk) : NextOk (execRemoteCommandArrive k s) := by
  unfold execRemoteCommandArrive
  refine .next ?_
  split
  · exact h
  · split
    · exact h
    · split
      · exact h
      · dsimp only
        split
        · exact State.refuse_memOk h
        · split
          · exact State.event_memOk h
          · split <;> exact h

theorem execBulkForward_nextOk {core : Nat} {s : State} (h : s.memOk) : NextOk (execBulkForward core s) := by
  unfold execBulkForward
  refine .next ?_
  split
  · exact h
  · dsimp only
    split <;> exact h

/-! ### What Machine/Vector defines -/

theorem execVadd_nextOk {et : ElemTy} {vd vs1 vs2 : VReg} {s : State} (h : s.memOk) :
    NextOk (execVadd et vd vs1 vs2 s) := runSlot_nextOk Act.vec2_keeps h

theorem execVsub_nextOk {et : ElemTy} {vd vs1 vs2 : VReg} {s : State} (h : s.memOk) :
    NextOk (execVsub et vd vs1 vs2 s) := runSlot_nextOk Act.vec2_keeps h

theorem execVmul_nextOk {et : ElemTy} {vd vs1 vs2 : VReg} {s : State} (h : s.memOk) :
    NextOk (execVmul et vd vs1 vs2 s) := runSlot_nextOk Act.vec2_keeps h

theorem execVfma_nextOk {et : ElemTy} {vd vs1 vs2 : VReg} {s : State} (h : s.memOk) :
    NextOk (execVfma et vd vs1 vs2 s) := runSlot_nextOk Act.vec3_keeps h

theorem execVfnma_nextOk {et : ElemTy} {vd vs1 vs2 : VReg} {s : State} (h : s.memOk) :
    NextOk (execVfnma et vd vs1 vs2 s) := runSlot_nextOk Act.vec3_keeps h

theorem execVmin_nextOk {et : ElemTy} {vd vs1 vs2 : VReg} {s : State} (h : s.memOk) :
    NextOk (execVmin et vd vs1 vs2 s) := runSlot_nextOk Act.vec2_keeps h

theorem execVmax_nextOk {et : ElemTy} {vd vs1 vs2 : VReg} {s : State} (h : s.memOk) :
    NextOk (execVmax et vd vs1 vs2 s) := runSlot_nextOk Act.vec2_keeps h

theorem execVcmplt_nextOk {et : ElemTy} {vd vs1 vs2 : VReg} {s : State} (h : s.memOk) :
    NextOk (execVcmplt et vd vs1 vs2 s) := runSlot_nextOk Act.vec2_keeps h

theorem execVcmple_nextOk {et : ElemTy} {vd vs1 vs2 : VReg} {s : State} (h : s.memOk) :
    NextOk (execVcmple et vd vs1 vs2 s) := runSlot_nextOk Act.vec2_keeps h

theorem execVcmpeq_nextOk {et : ElemTy} {vd vs1 vs2 : VReg} {s : State} (h : s.memOk) :
    NextOk (execVcmpeq et vd vs1 vs2 s) := runSlot_nextOk Act.vec2_keeps h

theorem execVand_nextOk {vd vs1 vs2 : VReg} {s : State} (h : s.memOk) : NextOk (execVand vd vs1 vs2 s) :=
  runSlot_nextOk Act.vec_keeps h

theorem execVor_nextOk {vd vs1 vs2 : VReg} {s : State} (h : s.memOk) : NextOk (execVor vd vs1 vs2 s) :=
  runSlot_nextOk Act.vec_keeps h

theorem execVxor_nextOk {vd vs1 vs2 : VReg} {s : State} (h : s.memOk) : NextOk (execVxor vd vs1 vs2 s) :=
  runSlot_nextOk Act.vec_keeps h

theorem execVshl_nextOk {et : ElemTy} {vd vs1 vs2 : VReg} {s : State} (h : s.memOk) :
    NextOk (execVshl et vd vs1 vs2 s) := runSlot_nextOk Act.vec2_keeps h

theorem execVshr_nextOk {et : ElemTy} {vd vs1 vs2 : VReg} {s : State} (h : s.memOk) :
    NextOk (execVshr et vd vs1 vs2 s) := runSlot_nextOk Act.vec2_keeps h

theorem execVshra_nextOk {et : ElemTy} {vd vs1 vs2 : VReg} {s : State} (h : s.memOk) :
    NextOk (execVshra et vd vs1 vs2 s) := runSlot_nextOk Act.vec2_keeps h

theorem execVsel_nextOk {et : ElemTy} {vd vs1 vs2 : VReg} {s : State} (h : s.memOk) :
    NextOk (execVsel et vd vs1 vs2 s) := runSlot_nextOk Act.vec3_keeps h

theorem execVshuf_nextOk {et : ElemTy} {vd vs1 vs2 : VReg} {s : State} (h : s.memOk) :
    NextOk (execVshuf et vd vs1 vs2 s) := runSlot_nextOk Act.vec_keeps h

theorem execVzip_nextOk {et : ElemTy} {vd vs1 vs2 : VReg} {s : State} (h : s.memOk) :
    NextOk (execVzip et vd vs1 vs2 s) := runSlot_nextOk Act.vec_keeps h

theorem execVunzip_nextOk {et : ElemTy} {vd vs1 vs2 : VReg} {s : State} (h : s.memOk) :
    NextOk (execVunzip et vd vs1 vs2 s) := runSlot_nextOk Act.vec_keeps h

theorem execVred_nextOk {et : ElemTy} {vd vs1 : VReg} {kind : RedKind} {s : State} (h : s.memOk) :
    NextOk (execVred et vd vs1 kind s) := runSlot_nextOk Act.vec_keeps h

theorem execVdiv_nextOk {et : ElemTy} {vd vs1 vs2 : VReg} {s : State} (h : s.memOk) :
    NextOk (execVdiv et vd vs1 vs2 s) := runSlot_nextOk Act.vec2_keeps h

theorem execVsf_nextOk {et : ElemTy} {vd vs1 : VReg} {kind : SfKind} {s : State} (h : s.memOk) :
    NextOk (execVsf et vd vs1 kind s) := runSlot_nextOk Act.vec_keeps h

theorem execVcvt_nextOk {dst src : ElemTy} {vd vs1 : VReg} {rm : Rm} {ov : Bool} {s : State} (h : s.memOk) :
    NextOk (execVcvt dst src vd vs1 rm ov s) := runSlot_nextOk Act.vec_keeps h

theorem execVcvt8ToFp8_nextOk {k : Fp8Kind} {w : WideKind} {vd vs1 : VReg} {group : BitVec 3} {rm : Rm} {ov : Bool}
    {s : State} (h : s.memOk) :
    NextOk (execVcvt8ToFp8 k w vd vs1 group rm ov s) := runSlot_nextOk Act.vec_keeps h

theorem execVcvt8FromFp8_nextOk {k : Fp8Kind} {w : WideKind} {vd vs1 : VReg} {group : BitVec 3} {s : State} (h : s.memOk) :
    NextOk (execVcvt8FromFp8 k w vd vs1 group s) := runSlot_nextOk Act.vec_keeps h

theorem execVins_nextOk {et : ElemTy} {vd : VReg} {xs : Reg} {lane : BitVec 6} {s : State} (h : s.memOk) :
    NextOk (execVins et vd xs lane s) := runSlot_nextOk (.bind .x fun _ => Act.vec_keeps) h

theorem execVext_nextOk {et : ElemTy} {xd : Reg} {vs1 : VReg} {lane : BitVec 6} {s : State} (h : s.memOk) :
    NextOk (execVext et xd vs1 lane s) :=
  runSlot_nextOk (.bind Act.v_keeps fun _ => .bind .modSlot fun _ => .bind .setX fun _ => Act.next_keeps) h

theorem execVbcast_nextOk {et : ElemTy} {vd : VReg} {xs : Reg} {s : State} (h : s.memOk) :
    NextOk (execVbcast et vd xs s) := runSlot_nextOk (.bind .x fun _ => Act.vec_keeps) h

/-! ### What Machine/Copy defines -/

theorem Eng.take_keeps {a n : Nat} : (Eng.take a n).Keeps := by
  unfold Eng.take
  refine .bind .cmd fun _ => .foldlM fun _ ⟨_, _⟩ => ?_
  split
  · exact .bind .core fun _ => .pure
  · split
    · exact .pure
    · exact .bind Eng.page_keeps fun _ => .bind Eng.sector_keeps fun _ => .pure

theorem Eng.sendLanding_keeps {b : BarRef} {a n : Nat} : (Eng.sendLanding b a n).Keeps := by
  unfold Eng.sendLanding
  refine .bind .cmd fun _ => ?_
  split
  · exact .mod fun _ h => h
  · exact .pure

theorem Eng.put_keeps {b : BarRef} {a : Nat} {bs : List Byte} : (Eng.put b a bs).Keeps := by
  unfold Eng.put
  refine .bind .cmd fun _ => .bind ?_ fun _ => .pure
  refine .foldlM fun _ ⟨_, _⟩ => ?_
  dsimp only
  split
  · exact .bind (.mod fun _ h => State.putLoc_memOk h) fun _ => .bind Eng.sendLanding_keeps fun _ => .pure
  · refine .bind Eng.page_keeps fun _ => ?_
    exact .bind (.mod fun _ h => State.writeFor_memOk _ _ _ _ h) fun _ => .bind Eng.sendLanding_keeps fun _ => .pure

theorem Eng.checkBar_keeps {b : BarRef} : (Eng.checkBar b).Keeps := by
  unfold Eng.checkBar
  refine .bind .cmd fun _ => ?_
  split
  · dsimp only
    split
    · exact .failIf
    · refine .bind .core fun _ => .bind .failIf fun _ => .st fun _ _ => ?_
      split
      · exact fun _ _ => .retry
      · exact .failIf
  · exact .pure

theorem Eng.beginCopy_keeps {b : BarRef} : (Eng.beginCopy b).Keeps := by
  unfold Eng.beginCopy
  exact .bind .cmd fun _ => .bind .failIf fun _ => .bind Eng.checkBar_keeps fun _ => .pure

theorem Eng.endCopy_keeps {b : BarRef} {total o n : Nat} {away : Bool} :
    (Eng.endCopy b total o n away).Keeps := by
  unfold Eng.endCopy
  refine .bind .cmd fun _ => ?_
  split
  · exact .bind .modCmd fun _ => .pure
  · split
    · exact .hold
    · exact .pure

theorem Eng.pieces_keeps {len : Nat → Nat} {act : Nat → Nat → Eng Unit} {fuel o : Nat} (ha : ∀ a b, (act a b).Keeps) :
    (Eng.pieces len act fuel o).Keeps := by
  induction fuel generalizing o with
  | zero => exact .hold
  | succ fuel ih =>
    intro e h
    unfold Eng.pieces
    dsimp only
    split
    · exact .hold
    · split
      · exact ih e h
      · split
        · next hx => exact .ok ((ha _ _ e h).of_ok hx)
        · split
          · exact ih e h
          · exact .retry
        · next hx => exact (ha _ _ e h).of_error hx

theorem Eng.reading_keeps {α : Type} {len src : Nat → Nat} {act : Nat → Nat → Eng α} (h : ∀ a b, (act a b).Keeps) :
    (Eng.reading len src act).Keeps := by
  unfold Eng.reading
  intro _ h'
  dsimp only
  split
  · next hx =>
    have hs := Ends.of_ok (h _ _ _ h') hx
    exact .ok hs
  · exact .retry
  · next hx => exact .of_error (h _ _ _ h') hx

theorem Eng.inOrder_keeps {len src : Nat → Nat} {act : Nat → Nat → Eng Unit} (h : ∀ a b, (act a b).Keeps) :
    (Eng.inOrder len src act).Keeps := by
  unfold Eng.inOrder
  exact .bind (Eng.reading_keeps fun _ _ => h _ _) fun ⟨_, _, _⟩ => .pure

theorem Eng.copyStep_keeps {b : BarRef} {total : Nat} {next : Eng (Nat × Nat)} {away : Bool} (h : next.Keeps) :
    (Eng.copyStep b total next away).Keeps := by
  unfold Eng.copyStep
  refine .bind .cmd fun _ => ?_
  split
  · exact Eng.endCopy_keeps
  · exact .bind h fun ⟨_, _⟩ => Eng.endCopy_keeps

theorem Eng.anyOrder_keeps {b : BarRef} {total : Nat} {len : Nat → Nat} {act : Nat → Nat → Eng Unit} (h : ∀ a b,
    (act a b).Keeps) :
    (Eng.anyOrder b total len act).Keeps := by
  unfold Eng.anyOrder
  exact Eng.copyStep_keeps (.bind .cmd fun _ => Eng.pieces_keeps fun _ _ => h _ _)

theorem Eng.linear_keeps {b : BarRef} {dst : Word} {total : Nat} {get : Nat → Nat → Eng (List Byte)} (h : ∀ a b,
    (get a b).Keeps) :
    (Eng.linear b dst total get).Keeps := by
  unfold Eng.linear
  exact Eng.anyOrder_keeps fun _ _ => .bind (h _ _) fun _ => Eng.put_keeps

theorem Eng.copy_keeps {b : BarRef} {total : Nat} {len src dst : Nat → Nat} : (Eng.copy b total len src dst).Keeps := by
  unfold Eng.copy
  exact Eng.copyStep_keeps (Eng.inOrder_keeps fun _ _ => .bind Eng.take_keeps fun _ => Eng.put_keeps)

theorem Eng.pattern_keeps {pattern : Word} {o n : Nat} : (Eng.pattern pattern o n).Keeps := by
  unfold Eng.pattern
  refine .bind .cmd fun _ => ?_
  dsimp only
  split
  · exact .pureBind (.bind .modCmd fun _ => .pure)
  · exact .bind Eng.take_keeps fun _ => .bind .modCmd fun _ => .pure

theorem execCpy_nextOk {_h : TcwHdr} {b : BarRef} {src dst : Word} {bytes : BitVec 40} {s : State} (h : s.memOk) :
    NextOk (execCpy _h b src dst bytes s) :=
  runCmd_nextOk (.bind .tag fun _ => .bind .tag fun _ => .bind Eng.beginCopy_keeps fun _ => Eng.copy_keeps) h

theorem execFill_nextOk {_h : TcwHdr} {b : BarRef} {dst pattern : Word} {bytes : BitVec 40} {s : State} (h : s.memOk) :
    NextOk (execFill _h b dst pattern bytes s) := by
  unfold execFill
  refine runCmd_nextOk (.bind .tag fun _ => .bind .tag fun _ => .bind .failIf fun _ => .bind Eng.beginCopy_keeps fun _ =>
    Eng.linear_keeps fun _ _ => Eng.pattern_keeps) h

theorem execCpy2d_nextOk {_h : TcwHdr} {b : BarRef} {f : Copy2F} {s : State} (h : s.memOk) :
    NextOk (execCpy2d _h b f s) := by
  unfold execCpy2d
  refine runCmd_nextOk (.bind .tag fun _ => .bind .tag fun _ => .bind .failIf fun _ => .bind Eng.beginCopy_keeps fun _ =>
    Eng.copy_keeps) h

theorem execCpyt_nextOk {_h : TcwHdr} {b : BarRef} {f : Copy2F} {s : State} (h : s.memOk) :
    NextOk (execCpyt _h b f s) := by
  unfold execCpyt
  refine runCmd_nextOk (.bind .tag fun _ => .bind .tag fun _ => .bind .failIf fun _ => .bind Eng.beginCopy_keeps fun _ =>
    Eng.anyOrder_keeps fun _ _ => .branch Eng.take_keeps .pure fun _ => Eng.put_keeps) h

theorem execCpys_nextOk {_h : TcwHdr} {b : BarRef} {src : Word} {bytes : BitVec 40} {stream : BitVec 2} {s : State}
    (h : s.memOk) : NextOk (execCpys _h b src bytes stream s) := by
  unfold execCpys
  refine runCmd_nextOk ?_ h
  refine .bind .tag fun _ => .bind .cmd fun _ => .bind .failIf fun _ => .bind Eng.beginCopy_keeps fun _ => ?_
  dsimp only
  split
  · refine .st fun _ _ => ?_
    split
    · exact .holdBind
    · refine .bind (Eng.reading_keeps fun _ _ => Eng.take_keeps) fun ⟨_, _, _⟩ => ?_
      exact .bind (.mod fun _ h' => h') fun _ => .bind Eng.sendLanding_keeps fun _ => Eng.endCopy_keeps
  · exact Eng.endCopy_keeps

theorem execCpyg_nextOk {_h : TcwHdr} {b : BarRef} {index src dst : Word} {count : BitVec 8} {elembytes : BitVec 3}
    {s : State} (h : s.memOk) :
    NextOk (execCpyg _h b index src dst count elembytes s) := by
  unfold execCpyg
  refine runCmd_nextOk (.bind .tag fun _ => .bind .tag fun _ => .bind .tag fun _ => .bind .failIf fun _ =>
    .bind Eng.beginCopy_keeps fun _ => Eng.anyOrder_keeps fun _ _ => .bind Eng.take_keeps fun _ =>
    .bind Eng.take_keeps fun _ => Eng.put_keeps) h

theorem Eng.noWindow_keeps {ps : List Word} : (Eng.noWindow ps).Keeps := by
  unfold Eng.noWindow
  exact .failIf

theorem Eng.checkRemote_keeps {dpkg : BitVec 12} {remote : Bool} : (Eng.checkRemote dpkg remote).Keeps := by
  unfold Eng.checkRemote
  exact .st fun _ _ => .bind .failIf fun _ => .failIf

theorem Eng.ship_keeps {b : BarRef} {a n peer : Nat} : (Eng.ship b a n peer).Keeps := by
  unfold Eng.ship
  exact .bind .core fun _ => .bind .failIf fun _ => .bind .cmd fun _ => .mod fun _ h => h

theorem Eng.bulkStep_keeps {b : BarRef} {src dst : Word} {total : Nat} {dpkg : BitVec 12} {remote : Bool} :
    (Eng.bulkStep b src dst total dpkg remote).Keeps := by
  unfold Eng.bulkStep
  refine .st fun _ _ => ?_
  split
  · exact Eng.copyStep_keeps (Eng.inOrder_keeps fun _ _ => .bind Eng.take_keeps fun _ => Eng.ship_keeps)
  · exact Eng.copy_keeps

theorem execBcpy_nextOk {_h : TcwHdr} {b : BarRef} {src dst : Word} {bytes : BitVec 40} {dpkg : BitVec 12} {remote : Bool}
    {s : State} (h : s.memOk) :
    NextOk (execBcpy _h b src dst bytes dpkg remote s) := by
  unfold execBcpy
  refine runCmd_nextOk (.bind .tag fun _ => .bind .tag fun _ => .bind Eng.checkRemote_keeps fun _ =>
    .bind Eng.noWindow_keeps fun _ => .bind Eng.beginCopy_keeps fun _ => Eng.bulkStep_keeps) h

theorem execBfill_nextOk {_h : TcwHdr} {b : BarRef} {dst pattern : Word} {bytes : BitVec 40} {s : State} (h : s.memOk) :
    NextOk (execBfill _h b dst pattern bytes s) := by
  unfold execBfill
  refine runCmd_nextOk (.bind .tag fun _ => .bind .tag fun _ => .bind .failIf fun _ => .bind Eng.noWindow_keeps fun _ =>
    .bind Eng.beginCopy_keeps fun _ => Eng.linear_keeps fun _ _ => Eng.pattern_keeps) h

theorem State.modLanded_memOk {s : State} {l : Landing} {f : Cmd → Cmd} (h : s.memOk) : (s.modLanded l f).memOk := by
  unfold State.modLanded
  dsimp only
  split <;> exact h

theorem State.barOf_gives {s : State} {l : Landing} (h : s.memOk) : Gives (fun r => r.2.memOk) (s.barOf l) := by
  unfold State.barOf
  split
  · exact .ok h
  · exact .emap (State.translate_gives h) fun ⟨_, _⟩ h' => h'

theorem State.landingBar_memOk {s : State} {l : Landing} {w : BarSite} (h : s.memOk) : (s.landingBar l w).2.memOk := by
  unfold State.landingBar
  dsimp only
  split
  · exact h
  · exact State.unitRead_memOk h

theorem State.performLanding_memOk {s : State} {l : Landing} (h : s.memOk) : (s.performLanding l).memOk := by
  unfold State.performLanding
  split
  · exact State.modLanded_memOk h
  · split
    · exact State.serviced_memOk h
    · next hx =>
      dsimp only
      split
      · have hs := State.barOf_gives h _ hx
        exact State.modLanded_memOk (State.barUpdate_memOk (State.landingBar_memOk hs))
      · have hs := State.barOf_gives h _ hx
        exact .mk (State.modLanded_memOk (State.landingBar_memOk hs))

theorem execLanding_nextOk {k : Nat} {s : State} (h : s.memOk) : NextOk (execLanding k s) := by
  unfold execLanding
  refine .next ?_
  split
  · exact h
  · split
    · exact h
    · exact State.performLanding_memOk h

theorem State.shipped_memOk {s : State} {k : Nat} (h : s.memOk) : (s.shipped k).memOk := by
  unfold State.shipped
  split <;> exact h

/-! ### What Machine/Commons defines -/

theorem State.unitCell_memOk {s : State} {ctx core : Nat} {t : TEntry} {a : Nat} (h : s.memOk) :
    (s.unitCell ctx core t a).2.memOk := by
  unfold State.unitCell
  exact State.unitRead_memOk h

theorem State.putCell_memOk {s : State} {ctx : Nat} {t : TEntry} {a : Nat} {ws : List Word} (h : s.memOk) :
    (s.putCell ctx t a ws).memOk := by
  unfold State.putCell
  exact State.writeFor_memOk _ _ _ _ h

theorem State.modRegion_memOk {s : State} {rn : Nat} {f : Region → Region} (h : s.memOk) :
    (s.modRegion rn f).memOk := h

theorem State.clearSpread_gives {s : State} {r : Region} {n : Nat} (h : s.memOk) :
    Gives State.memOk (s.clearSpread r n) := by
  unfold State.clearSpread
  dsimp only
  split
  · exact .error
  · next hx => exact .ok (State.writeFor_memOk _ _ _ _ (State.translate_gives h _ hx))

theorem State.sendPacket_memOk {s : State} {port : Nat} {p : Packet} (h : s.memOk) : (s.sendPacket port p).2.memOk := h

theorem State.exchange_memOk {s : State} {rn : Nat} {r : Region} {n k : Nat} {t : TEntry} (h : s.memOk) :
    (s.exchange rn r n k t).2.memOk := by
  unfold State.exchange
  dsimp only
  split
  · exact State.unitCell_memOk h
  · exact State.modRegion_memOk (State.modPort_memOk (State.sendPacket_memOk (State.putCell_memOk (State.unitCell_memOk h))))

theorem State.escrowDone_memOk {s : State} {port : Nat} {seq : BitVec 32} (h : s.memOk) :
    (s.escrowDone port seq).memOk := by
  unfold State.escrowDone
  refine foldl_keeps_memOk (fun _ ⟨_, _⟩ h' => ?_) h
  split
  · exact State.retire_memOk h'
  · exact h'

theorem State.dropEscrow_memOk {s : State} {port : Nat} {seq : BitVec 32} (h : s.memOk) :
    (s.dropEscrow port seq).memOk := by
  unfold State.dropEscrow
  exact State.escrowDone_memOk h

theorem State.modEscrow_memOk {s : State} {port : Nat} {seq : BitVec 32} {f : Escrow → Escrow} (h : s.memOk) :
    (s.modEscrow port seq f).memOk := h

theorem Act.cell_keeps {rs1 : Reg} {k : Acc} {wordOk : Region → Nat → Bool} : (Act.cell rs1 k wordOk).Keeps := by
  unfold Act.cell
  refine .bind .x fun _ => .guard ?_
  dsimp only
  split
  · exact .trapBind
  · refine .get fun _ h => ?_
    split
    · exact .trapBind
    · split
      · exact fun _ _ => .error
      · next hx =>
        have hs := State.translate_gives h _ hx
        refine .bind (.mod fun _ _ => hs) fun _ => ?_
        split
        · refine .bind (.keep .trap) fun _ => ?_
          split
          · exact .keep .trap
          · split
            · exact .bind (.keep .trap) fun _ => .bind (fun _ h' => .emapAfter fun _ => h') fun _ => .pure
            · exact .bind (fun _ h' => .emapAfter fun _ => h') fun _ => .pure
        · split
          · exact .keep .trap
          · split
            · exact .bind (.keep .trap) fun _ => .bind (fun _ h' => .emapAfter fun _ => h') fun _ => .pure
            · exact .bind (fun _ h' => .emapAfter fun _ => h') fun _ => .pure

theorem Act.deposit_keeps {rs1 rs2 : Reg} {wordOk : Region → Nat → Bool} : (Act.deposit rs1 rs2 wordOk).Keeps := by
  unfold Act.deposit
  refine .bind Act.cell_keeps fun _ => .bind .x fun _ => ?_
  exact .get fun _ _ => .when (.keep .trap) fun _ => .bind (.mod fun _ h => State.putCell_memOk h) fun _ => Act.next_keeps

theorem execGdepx_nextOk {rs1 rs2 : Reg} {s : State} (h : s.memOk) : NextOk (execGdepx rs1 rs2 s) :=
  runSlot_nextOk Act.deposit_keeps h

theorem execGdepw_nextOk {rs1 rs2 : Reg} {s : State} (h : s.memOk) : NextOk (execGdepw rs1 rs2 s) :=
  runSlot_nextOk Act.deposit_keeps h

theorem execGest_nextOk {rd rs1 : Reg} {s : State} (h : s.memOk) : NextOk (execGest rd rs1 s) :=
  runSlot_nextOk (.bind Act.cell_keeps fun _ => .get fun _ _ => .bind .setX fun _ => Act.next_keeps) h

theorem execGspread_nextOk {rd rs1 : Reg} {s : State} (h : s.memOk) : NextOk (execGspread rd rs1 s) := by
  unfold execGspread
  refine runSlot_nextOk ?_ h
  refine .bind Act.cell_keeps fun _ => .get fun _ h' => ?_
  dsimp only
  split
  · exact .keep fun _ _ => .error
  · next hx =>
    have hs := State.translate_gives h' _ hx
    refine .bind (.mod fun _ _ => hs) fun _ => .bind (.keep fun _ h'' => .emapAfter fun _ => h'') fun _ => ?_
    exact .bind (.mod fun _ h'' => State.fillRange_memOk h'') fun _ => .bind .setX fun _ => Act.next_keeps

theorem execGmass_nextOk {rd rs1 : Reg} {s : State} (h : s.memOk) : NextOk (execGmass rd rs1 s) :=
  runSlot_nextOk (.bind Act.cell_keeps fun _ => .get fun _ _ => .bind .setX fun _ => Act.next_keeps) h

theorem execGxch_nextOk {rs1 rs2 : Reg} {s : State} (h : s.memOk) : NextOk (execGxch rs1 rs2 s) := by
  unfold execGxch
  refine runSlot_nextOk ?_ h
  refine .bind Act.cell_keeps fun _ => .bind .x fun _ => .when (.keep .trap) fun _ => .get fun _ h' => ?_
  refine .when (.keep .wait) fun _ => ?_
  split
  · exact Act.next_keeps
  · refine .bind (.mod fun _ _ => State.exchange_memOk h') fun _ => ?_
    split
    · exact Act.next_keeps
    · exact .modSlot

theorem Act.rangeOk_keeps {a n : Nat} {k : Acc} {cls : Nat} {right : Word → Bool} :
    (Act.rangeOk a n k cls right).Keeps := by
  unfold Act.rangeOk
  refine .foldlM fun ⟨_, _⟩ _ => ?_
  dsimp only
  split
  · exact .pure
  · refine .get fun _ h => ?_
    split
    · split
      · exact .pure
      · split
        · exact .keepAll fun _ _ => .error
        · next hx => exact .bind (.mod fun _ _ => (State.translate_gives h _ hx)) fun _ => .pure
    · split
      · exact .pure
      · split
        · exact .keepAll fun _ _ => .error
        · next hx => exact .bind (.mod fun _ _ => (State.translate_gives h _ hx)) fun _ => .pure

theorem Act.initCells_keeps {r : Region} {tag : Nat} : (Act.initCells r tag).Keeps := by
  unfold Act.initCells
  refine .forM fun _ => .get fun _ h => ?_
  split
  · exact fun _ _ => .error
  · next hx =>
    split
    · exact fun _ _ => .error
    · next hx' => exact .mod fun _ _ => (State.clearSpread_gives (State.putCell_memOk (State.translate_gives h _ hx)) _ hx')

theorem Act.define_keeps {d : List Word} {a : Nat} : (Act.define d a).Keeps := by
  unfold Act.define
  refine .get fun _ _ => .bind Act.rangeOk_keeps fun ⟨_, _⟩ => .keepAll (.guard ?_)
  dsimp only
  split
  · exact .trapBind
  · refine .bind Act.rangeOk_keeps fun ⟨_, _⟩ => .keepAll ?_
    split
    · exact .trapBind
    · refine .bind Act.rangeOk_keeps fun ⟨_, _⟩ => .keepAll ?_
      split
      · exact .trapBind
      · exact .bind Act.initCells_keeps fun _ => .bind (.mod fun _ h => h) fun _ => Act.next_keeps

theorem Act.commonsCfg_keeps {i : Instr} {rs1 : Reg} : (Act.commonsCfg i rs1).Keeps := by
  unfold Act.commonsCfg
  refine .bind Act.privileged_keeps fun _ => .bind .x fun _ => .released (.guard ?_)
  refine .get fun _ _ => .bind Act.loadRecord_keeps fun _ => .kept (.guard ?_)
  dsimp only
  split
  · exact Act.define_keeps
  · refine .get fun _ h => ?_
    split
    · exact .trap
    · split
      · exact .trapBind
      · split
        · exact .mod fun _ h' => h'
        · split
          · exact fun _ _ => .error
          · next hx =>
            refine .bind ?_ fun _ => Act.next_keeps
            refine .mod fun _ _ => ?_
            split
            · have hs := State.writeHome_gives h _ hx
              exact hs
            · have hs := State.writeHome_gives h _ hx
              exact hs

theorem execCommonsCfgDefine_nextOk {rs1 : Reg} {s : State} (h : s.memOk) : NextOk (execCommonsCfgDefine rs1 s) :=
  runSlot_nextOk Act.commonsCfg_keeps h

theorem execCommonsCfgRemove_nextOk {rs1 : Reg} {s : State} (h : s.memOk) : NextOk (execCommonsCfgRemove rs1 s) :=
  runSlot_nextOk Act.commonsCfg_keeps h

theorem execCommonsCfgReport_nextOk {rs1 : Reg} {s : State} (h : s.memOk) : NextOk (execCommonsCfgReport rs1 s) :=
  runSlot_nextOk Act.commonsCfg_keeps h

theorem Eng.cellRange_keeps {cells : Word} {n : Nat} : (Eng.cellRange cells n).Keeps := by
  unfold Eng.cellRange
  refine .st fun _ _ => .bind .cmd fun _ => ?_
  dsimp only
  split
  · exact .status
  · exact .bind .failIf fun _ => .pure

theorem Eng.cellCheck_keeps {cells data : Word} {n : Nat} : (Eng.cellCheck cells data n).Keeps := by
  unfold Eng.cellCheck
  exact .bind .tag fun _ => .bind .tag fun _ => .bind .failIf fun _ => .bind Eng.cellRange_keeps fun ⟨_, _, _⟩ => .pure

theorem Eng.amount_keeps {h : TcwHdr} {code q : Nat} {scale : ℤ} {bits : Nat} :
    (Eng.amount h code q scale bits).Keeps := by
  unfold Eng.amount
  split
  · exact .pure
  · exact .bind .flag fun _ => .pure

theorem Eng.elements_keeps {data : Word} {z j nval : Nat} : (Eng.elements data z j nval).Keeps := by
  unfold Eng.elements
  exact .bind Eng.read_keeps fun _ => .pure

theorem Eng.endCell_keeps {n code : Nat} : (Eng.endCell n code).Keeps := by
  unfold Eng.endCell
  refine .bind .cmd fun _ => ?_
  split
  · exact .bind .modCmd fun _ => .pure
  · exact .pure

theorem execGseed_nextOk {h : TcwHdr} {cells src : Word} {ncells : BitVec 24} {steptag w0 : BitVec 32} {s : State}
    (hs : s.memOk) : NextOk (execGseed h cells src ncells steptag w0 s) := by
  unfold execGseed
  refine runCmd_nextOk ?_ hs
  refine .bind Eng.cellCheck_keeps fun ⟨_, _, _, _⟩ => .bind .failIf fun _ => .bind .cmd fun _ => ?_
  refine .bind Eng.request_keeps fun _ => .bind Eng.page_keeps fun _ => .bind Eng.elements_keeps fun _ => ?_
  refine .bind (.mapM fun _ => Eng.amount_keeps) fun _ => .st fun _ h' => ?_
  dsimp only
  split
  · exact fun _ _ => .retry
  · next hx =>
    have hs' := State.clearSpread_gives (State.putCell_memOk h') _ hx
    exact .bind (.mod fun _ _ => hs') fun _ => Eng.endCell_keeps

theorem execGdepR_nextOk {h : TcwHdr} {cells src : Word} {ncells : BitVec 24} {dw : Word} {s : State} (hs : s.memOk) :
    NextOk (execGdepR h cells src ncells dw s) := by
  unfold execGdepR
  refine runCmd_nextOk (.bind Eng.cellCheck_keeps fun ⟨_, _, _, _⟩ => .bind .cmd fun _ => .bind Eng.request_keeps fun _ =>
    .bind Eng.page_keeps fun _ => .bind Eng.elements_keeps fun _ => .bind (.mapM fun _ => Eng.amount_keeps) fun _ =>
    .bind Eng.sector_keeps fun _ => .st fun _ _ => .branch (.mod fun _ h' => State.putCell_memOk h') .modCmd fun _ =>
    .bind .cmd fun _ => Eng.endCell_keeps) hs

theorem execGread_nextOk {h : TcwHdr} {cells dst : Word} {ncells : BitVec 24} {s : State} (hs : s.memOk) :
    NextOk (execGread h cells dst ncells s) := by
  unfold execGread
  refine runCmd_nextOk ?_ hs
  refine .bind Eng.cellCheck_keeps fun ⟨_, _, _, _⟩ => .bind .cmd fun _ => ?_
  dsimp only
  split
  · refine .pureBind (.bind .modCmd fun _ => ?_)
    split
    · exact .bind Eng.writeAll_keeps fun _ => .bind .modCmd fun _ => Eng.endCell_keeps
    · refine .bind ?_ fun _ => .bind Eng.writeAll_keeps fun _ => .bind .modCmd fun _ => Eng.endCell_keeps
      refine .mapM fun _ => .bind .flag fun _ => ?_
      split
      · exact .pure
      · exact .bind .flag fun _ => .pure
  · refine .bind Eng.page_keeps fun _ => .bind Eng.sector_keeps fun _ => .bind .modCmd fun _ => ?_
    split
    · exact .bind Eng.writeAll_keeps fun _ => .bind .modCmd fun _ => Eng.endCell_keeps
    · refine .bind ?_ fun _ => .bind Eng.writeAll_keeps fun _ => .bind .modCmd fun _ => Eng.endCell_keeps
      refine .mapM fun _ => .bind .flag fun _ => ?_
      split
      · exact .pure
      · exact .bind .flag fun _ => .pure

theorem execGpace_nextOk {_h : TcwHdr} {region : Word} {mode : BitVec 2} {share : BitVec 8} {s : State} (h : s.memOk) :
    NextOk (execGpace _h region mode share s) := by
  unfold execGpace
  refine runCmd_nextOk ?_ h
  refine .bind .tag fun _ => .bind .failIf fun _ => .bind Eng.read_keeps fun _ => .bind .failIf fun _ => ?_
  refine .st fun _ _ => .bind .cmd fun _ => ?_
  split
  · exact .status
  · exact .bind .failIf fun _ => .bind (.mod fun _ h' => h') fun _ => .pure

theorem State.unitRefused_memOk {s : State} {port ctx core a : Nat} (h : s.memOk) :
    (s.unitRefused port ctx core a).memOk := by
  unfold State.unitRefused
  split
  · exact h
  · dsimp only
    split
    · next hx => exact State.walk_gives (.mk h) _ hx
    · exact State.serviced_memOk h

theorem execDroverExchange_nextOk {port region : Nat} {s : State} (h : s.memOk) :
    NextOk (execDroverExchange port region s) := by
  unfold execDroverExchange
  refine .next ?_
  split
  · exact h
  · dsimp only
    split
    · exact h
    · split
      · exact h
      · split
        · exact h
        · split
          · exact State.unitRefused_memOk h
          · exact State.exchange_memOk h

theorem State.applyPacket_gives {s : State} {port : Nat} {p : Packet} {r : Region} {t : TEntry} {ws : List Word} (h : s.memOk) :
    Gives State.memOk (s.applyPacket port p r t ws) := by
  unfold State.applyPacket
  dsimp only
  split
  · exact .ok (State.putCell_memOk h)
  · split
    · exact .error
    · exact .ok (State.putCell_memOk (State.writeFor_memOk _ _ _ _ h))

theorem State.packet_gives {s : State} {port : Nat} {p : Packet} (h : s.memOk) :
    Gives State.memOk (s.packet port p) := by
  unfold State.packet
  split
  · exact .ok h
  · split
    · exact .ok h
    · split
      · exact .error
      · dsimp only
        split
        · exact .error
        · next hx =>
          have hs := Gives.of_ok (P := State.memOk) hx <| by
            split
            · exact State.applyPacket_gives (State.unitCell_memOk h)
            · exact .ok (State.unitCell_memOk h)
          exact .ok hs

theorem State.nextPacket_memOk {s : State} {port : Nat} (h : s.memOk) : (s.nextPacket port).memOk := by
  unfold State.nextPacket
  split
  · exact h
  · split
    · exact h
    · split
      · next hx => exact State.packet_gives (State.modPort_memOk h) _ hx
      · exact State.unitRefused_memOk h

theorem execDroverPacketReceive_nextOk {port : Nat} {p : Packet} {s : State} (h : s.memOk) :
    NextOk (execDroverPacketReceive port p s) := by
  unfold execDroverPacketReceive
  refine .next ?_
  split
  · exact h
  · exact State.nextPacket_memOk h

theorem State.resolve_memOk {s : State} {port : Nat} {seq : BitVec 32} {r : Reply} (h : s.memOk) :
    (s.resolve port seq r).memOk := by
  unfold State.resolve
  split
  · exact State.dropEscrow_memOk h
  · exact h
  · exact h
  · exact h

theorem execEscrowResolve_nextOk {port : Nat} {seq : BitVec 32} {r : Reply} {s : State} (h : s.memOk) :
    NextOk (execEscrowResolve port seq r s) := by
  unfold execEscrowResolve
  refine .next ?_
  split
  · exact h
  · split
    · exact State.resolve_memOk h
    · exact h

theorem execEscrowReturn_nextOk {port : Nat} {seq : BitVec 32} {s : State} (h : s.memOk) :
    NextOk (execEscrowReturn port seq s) := by
  unfold execEscrowReturn
  refine .next ?_
  split
  · exact h
  · split
    · split
      · exact State.unitRefused_memOk h
      · dsimp only
        split
        · refine State.modRegion_memOk ?_
          split
          · exact State.putCell_memOk (State.dropEscrow_memOk (State.unitCell_memOk h))
          · exact State.modRegion_memOk (State.dropEscrow_memOk (State.unitCell_memOk h))
        · split
          · exact State.modRegion_memOk (State.putCell_memOk (State.dropEscrow_memOk (State.unitCell_memOk h)))
          · exact State.modRegion_memOk (State.dropEscrow_memOk (State.unitCell_memOk h))
    · exact h

theorem execEscrowEarlyResend_nextOk {port : Nat} {seq : BitVec 32} {s : State} (h : s.memOk) :
    NextOk (execEscrowEarlyResend port seq s) := by
  unfold execEscrowEarlyResend
  refine .next ?_
  split
  · exact h
  · split
    · split
      · exact h
      · exact .mk (State.modEscrow_memOk (State.sendPacket_memOk h))
    · exact h

/-! ### What Machine/Matrix defines -/

theorem State.repairAcc_memOk {s : State} {core : Nat} {p : Nat → Bool} (h : s.memOk) : (s.repairAcc core p).memOk := by
  unfold State.repairAcc
  split <;> exact h

theorem State.repairW_memOk {s : State} {core : Nat} {p : Nat → Bool} (h : s.memOk) : (s.repairW core p).memOk := by
  unfold State.repairW
  split <;> exact h

theorem Eng.consumeAcc_keeps {ixs : Nat → Bool} : (Eng.consumeAcc ixs).Keeps := by
  unfold Eng.consumeAcc
  refine .bind .cmd fun _ => .bind (.mod fun _ h => State.repairAcc_memOk h) fun _ => .bind .core fun _ => ?_
  split
  · exact .mod fun _ h => State.engineConsume_memOk h
  · exact .pure

theorem Eng.conv_keeps {f : Fmt} {x : FVal} {rm : Rm} {ov : Bool} : (Eng.conv f x rm ov).Keeps := by
  unfold Eng.conv
  exact .bind .flag fun _ => .pure

theorem Eng.elems_keeps {p : Word} {stride i k0 n rlimit climit : Nat} {rm : Rm} {ov : Bool} :
    (Eng.elems p stride i k0 n rlimit climit rm ov).Keeps := by
  unfold Eng.elems
  exact .bind Eng.read_keeps fun _ => .branch (.mapM fun _ => Eng.conv_keeps) .pure fun _ => .pure

theorem Eng.scaleRow_keeps {p : Word} {bl sofs stride i k0 n rlimit climit : Nat} :
    (Eng.scaleRow p bl sofs stride i k0 n rlimit climit).Keeps := by
  unfold Eng.scaleRow
  split
  · exact .pure
  · refine .bind ?_ fun _ => .pure
    refine .mapM fun _ => ?_
    dsimp only
    split
    · exact .bind Eng.read_keeps fun _ => .pure
    · exact .pure

theorem Eng.scaleCol_keeps {p : Word} {bl sofs stride b j0 n rlimit climit : Nat} :
    (Eng.scaleCol p bl sofs stride b j0 n rlimit climit).Keeps := by
  unfold Eng.scaleCol
  exact .bind Eng.read_keeps fun _ => .pure

theorem Eng.fetchBlocks_keeps {r : TileRec} : (Eng.fetchBlocks r).Keeps := by
  unfold Eng.fetchBlocks
  intro _ h
  dsimp only
  split
  · exact .ok h
  · exact .retry

theorem Eng.governedTile_keeps {r : TileRec} {f : Fmt} : (Eng.governedTile r f).Keeps := by
  unfold Eng.governedTile
  refine .bind Eng.fetchBlocks_keeps fun _ => ?_
  refine .bind (.mapM fun ⟨_, _⟩ => .bind Eng.read_keeps fun _ => .bind .failIf fun _ => .bind .failIf fun _ =>
    Eng.read_keeps) fun _ => ?_
  exact .bind (.mapM fun _ => .mapM fun _ => Eng.conv_keeps) fun _ => .pure

theorem Eng.readTile_keeps {r : TileRec} {o : Opnd} : (Eng.readTile r o).Keeps := by
  unfold Eng.readTile
  dsimp only
  split
  · refine .bind Eng.page_keeps fun _ => ?_
    split
    · exact Eng.governedTile_keeps
    · refine .bind Eng.fetch_keeps fun _ => .bind ?_ fun _ => .bind (.mapM fun _ => Eng.scaleCol_keeps) fun _ => .pure
      refine .mapM fun _ => .bind Eng.elems_keeps fun _ => ?_
      split
      · exact .mapM fun _ => Eng.conv_keeps
      · split
        · exact .mapM fun _ => Eng.conv_keeps
        · exact .pure
  · refine .bind Eng.fetch_keeps fun _ => .bind (.mapM fun _ => Eng.elems_keeps) fun _ => ?_
    exact .bind (.mapM fun _ => .bind Eng.read_keeps fun _ => .pure) fun _ => .pure
  · refine .bind Eng.fetch_keeps fun _ => ?_
    exact .bind (.mapM fun _ => Eng.elems_keeps) fun _ => .bind (.mapM fun _ => Eng.scaleCol_keeps) fun _ => .pure

theorem Eng.loadTile_keeps {r : TileRec} {o : Opnd} : (Eng.loadTile r o).Keeps := by
  unfold Eng.loadTile
  exact .bind Eng.readTile_keeps fun _ => .bind .core fun _ => .bind .modCore fun _ => .pure

theorem Eng.needTile_keeps {r : TileRec} {o : Opnd} : (Eng.needTile r o).Keeps := by
  unfold Eng.needTile
  refine .bind .core fun _ => ?_
  split
  · exact .pure
  · exact .bind Eng.readTile_keeps fun _ => .bind .core fun _ => .bind .modCore fun _ => .pure

theorem Eng.consumeTile_keeps {h : Nat} : (Eng.consumeTile h).Keeps := by
  unfold Eng.consumeTile
  refine .bind .cmd fun _ => .bind (.mod fun _ h' => State.repairW_memOk h') fun _ => .bind .core fun _ => ?_
  split
  · exact .mod fun _ h' => State.engineConsume_memOk h'
  · exact .pure

theorem Eng.resident_keeps : Eng.resident.Keeps := by
  unfold Eng.resident
  refine .bind .core fun _ => .bind .cmd fun _ => ?_
  split
  · split
    · exact .pure
    · exact .status
  · exact .pure
  · exact .status

theorem stepMwload_keeps {h : TcwHdr} {f : MwloadF} : (stepMwload h f).Keeps := by
  unfold stepMwload
  refine .bind .tag fun _ => .bind Eng.page_keeps fun _ => .bind .failIf fun _ => ?_
  dsimp only
  split
  · exact .status
  · refine .bind .failIf fun _ => .bind .failIf fun _ => ?_
    exact .bind .failIf fun _ => .bind Eng.loadTile_keeps fun ⟨_, _⟩ => .bind .cmd fun _ => .bind .modCore fun _ => .pure

theorem execMwload_nextOk {h : TcwHdr} {f : MwloadF} {s : State} (hs : s.memOk) : NextOk (execMwload h f s) :=
  runCmd_nextOk stepMwload_keeps hs

theorem Eng.updateTarget_keeps {t : Target} {f : Nat → Nat → Nat → Nat × Flags} : (Eng.updateTarget t f).Keeps := by
  unfold Eng.updateTarget
  exact .bind Eng.consumeAcc_keeps fun _ => .bind .core fun _ => .bind .flag fun _ => .modCore

theorem Eng.checkBlock_keeps {t : Target} {b : Nat} {d : Nat → Nat → ℤ} : (Eng.checkBlock t b d).Keeps := by
  unfold Eng.checkBlock
  refine .bind .core fun _ => ?_
  dsimp only
  split
  · exact .pure
  · exact .bind .modCore fun _ => .bind .failIf fun _ => .bind .modCore fun _ => .pure

theorem Eng.addResidue_keeps {t : Target} {rm : Rm} {ov : Bool} {b : Nat} {d : Nat → Nat → ℤ} {ea eb : Nat → Nat}
    {rec : Nat → Nat × Nat} :
    (Eng.addResidue t rm ov b d ea eb rec).Keeps := by
  unfold Eng.addResidue
  exact .bind Eng.checkBlock_keeps fun _ => .bind Eng.updateTarget_keeps fun _ => .modCore

theorem Eng.longBlock_keeps {t : Target} {fa fw : OpFmt} {rm : Rm} {ov ends : Bool} {b : Nat} {a w : Nat → OpList} :
    (Eng.longBlock t fa fw rm ov ends b a w).Keeps := by
  unfold Eng.longBlock
  refine .bind .cmd fun _ => ?_
  dsimp only
  split
  · exact .bind Eng.addResidue_keeps fun _ => .modCmd
  · exact .modCmd

theorem Eng.shortBlocks_keeps {t : Target} {fa fw : OpFmt} {bl : Nat} {rm : Rm} {ov : Bool} {first n : Nat}
    {a w : Nat → OpList} {rec : Nat → Nat × Nat} :
    (Eng.shortBlocks t fa fw bl rm ov first n a w rec).Keeps := by
  unfold Eng.shortBlocks
  exact .forM fun _ => Eng.addResidue_keeps

theorem Eng.scaled_keeps {f : OpFmt} {x : Nat × Nat} : (Eng.scaled f x).Keeps := by
  unfold Eng.scaled
  split
  · exact .pure
  · exact .bind Eng.conv_keeps fun _ => .pure

theorem Eng.sumRound_keeps {l : List FVal} : (Eng.sumRound l).Keeps := by
  unfold Eng.sumRound
  exact .bind .flag fun _ => .pure

theorem Eng.fma32_keeps {a b : FVal} {c : Nat} : (Eng.fma32 a b c).Keeps := by
  unfold Eng.fma32
  exact .bind .flag fun _ => .pure

theorem Eng.checksums_keeps {t : Target} {fa fw : OpFmt} {a w : Nat → OpList} {n : Nat} :
    (Eng.checksums t fa fw a w n).Keeps := by
  unfold Eng.checksums
  refine .bind (.mapM fun _ => .mapM fun ⟨_, _⟩ => Eng.scaled_keeps) fun _ => ?_
  refine .bind (.mapM fun _ => .mapM fun ⟨_, _⟩ => Eng.scaled_keeps) fun _ => ?_
  refine .bind (.mapM fun _ => Eng.sumRound_keeps) fun _ => .forM fun _ => .forM fun _ => ?_
  refine .bind Eng.sumRound_keeps fun _ => ?_
  refine .bind (.forM fun _ => .bind .core fun _ => .bind Eng.fma32_keeps fun _ => .modCore) fun _ => ?_
  exact .forM fun _ => .bind .core fun _ => .bind Eng.fma32_keeps fun _ => .modCore

theorem Eng.kStep_keeps {f : ProductF} {rm : Rm} {ov : Bool} {p : Path} {oa ow : Opnd} {h step : Nat} {last : Bool} :
    (Eng.kStep f rm ov p oa ow h step last).Keeps := by
  unfold Eng.kStep
  refine .bind Eng.fetch_keeps fun _ => ?_
  refine .bind (.mapM fun _ => .bind Eng.elems_keeps fun _ => .bind Eng.scaleRow_keeps fun _ => .pure) fun _ => ?_
  refine .bind Eng.consumeTile_keeps fun _ => .when .modCore fun _ => .bind .core fun _ => .bind .cmd fun _ => ?_
  refine .when .modCmd fun _ => ?_
  dsimp only
  split
  · split
    · refine .bind Eng.longBlock_keeps fun _ => ?_
      split
      · exact Eng.checksums_keeps
      · exact .pure
    · refine .bind Eng.shortBlocks_keeps fun _ => ?_
      split
      · exact Eng.checksums_keeps
      · exact .pure
  · refine .bind Eng.updateTarget_keeps fun _ => ?_
    split
    · exact Eng.checksums_keeps
    · exact .pure

theorem Eng.productPath_keeps {f : ProductF} {oa ow : Opnd} : (Eng.productPath f oa ow).Keeps := by
  unfold Eng.productPath
  split
  · exact .status
  · exact .bind .failIf fun _ => .bind .failIf fun _ => .bind .failIf fun _ => .pure

theorem Eng.endStep_keeps {f : ProductF} {step : Nat} {r : TileRec} : (Eng.endStep f step r).Keeps := by
  unfold Eng.endStep
  split
  · exact .bind .modCmd fun _ => .pure
  · exact .bind .cmd fun _ => .bind .modCore fun _ => .pure

theorem stepMmulF_keeps {h : TcwHdr} {f : ProductF} : (stepMmulF h f).Keeps := by
  unfold stepMmulF
  refine .bind .tag fun _ => .bind .tag fun _ => .bind Eng.resident_keeps fun _ => ?_
  split
  · refine .bind .failIf fun _ => .bind Eng.productPath_keeps fun _ => .bind .cmd fun _ => ?_
    dsimp only
    split
    · exact .bind Eng.needTile_keeps fun _ => .pureBind (.bind Eng.kStep_keeps fun _ => Eng.endStep_keeps)
    · exact .bind Eng.loadTile_keeps fun ⟨_, _⟩ => .bind Eng.kStep_keeps fun _ => Eng.endStep_keeps
  · exact .status

theorem execMmulF_nextOk {h : TcwHdr} {f : ProductF} {s : State} (hs : s.memOk) : NextOk (execMmulF h f s) :=
  runCmd_nextOk stepMmulF_keeps hs

theorem stepMmulG_keeps {h : TcwHdr} {f : ProductF} : (stepMmulG h f).Keeps := by
  unfold stepMmulG
  refine .bind .tag fun _ => .bind .tag fun _ => ?_
  split
  · refine .bind Eng.productPath_keeps fun _ => ?_
    exact .bind .cmd fun _ => .bind Eng.loadTile_keeps fun ⟨_, _⟩ => .bind Eng.kStep_keeps fun _ => Eng.endStep_keeps
  · exact .status

theorem execMmulG_nextOk {h : TcwHdr} {f : ProductF} {s : State} (hs : s.memOk) : NextOk (execMmulG h f s) :=
  runCmd_nextOk stepMmulG_keeps hs

theorem execMmulT_nextOk {h : TcwHdr} {f : ProductF} {s : State} (hs : s.memOk) : NextOk (execMmulT h f s) := by
  unfold execMmulT
  refine runCmd_nextOk ?_ hs
  refine .bind .tag fun _ => .bind Eng.resident_keeps fun _ => ?_
  split
  · split
    · exact .status
    · refine .bind .failIf fun _ => .bind .failIf fun _ => .bind .failIf fun _ => .bind Eng.needTile_keeps fun _ => ?_
      refine .bind Eng.fetch_keeps fun _ => .bind (.mapM fun _ => Eng.elems_keeps) fun _ => ?_
      refine .bind Eng.consumeTile_keeps fun _ => ?_
      exact .bind .modCore fun _ => .bind .core fun _ => .bind Eng.updateTarget_keeps fun _ => .pure
  · exact .status

theorem execMouter_nextOk {h : TcwHdr} {f : ProductF} {s : State} (hs : s.memOk) : NextOk (execMouter h f s) := by
  unfold execMouter
  refine runCmd_nextOk ?_ hs
  refine .bind .tag fun _ => .bind .tag fun _ => ?_
  split
  · split
    · exact .status
    · refine .bind .failIf fun _ => .bind .failIf fun _ => .bind Eng.fetch_keeps fun _ => ?_
      refine .bind (.mapM fun _ => Eng.elems_keeps) fun _ => .bind (.mapM fun _ => Eng.elems_keeps) fun _ => ?_
      exact .bind .modCore fun _ => .bind Eng.updateTarget_keeps fun _ => .pure
  · exact .status

theorem execMzero_nextOk {_h : TcwHdr} {accmask : BitVec 4} {s : State} (h : s.memOk) :
    NextOk (execMzero _h accmask s) := runCmd_nextOk (.bind .modCore fun _ => .pure) h

theorem Eng.moveCheck_keeps {f : AccMoveF} {load : Bool} : (Eng.moveCheck f load).Keeps := by
  unfold Eng.moveCheck
  refine .bind .tag fun _ => ?_
  split
  · exact .status
  · exact .bind .failIf fun _ => .bind .failIf fun _ => .bind .failIf fun _ => .pure

theorem execMstore_nextOk {h : TcwHdr} {f : AccMoveF} {s : State} (hs : s.memOk) : NextOk (execMstore h f s) := by
  unfold execMstore
  refine runCmd_nextOk (.bind Eng.moveCheck_keeps fun _ => .bind Eng.consumeAcc_keeps fun _ => .bind .core fun _ =>
    .bind (.mapM fun _ => .bind (.mapM fun _ => .branch Eng.conv_keeps .pure fun _ => .pure) fun _ => .pure) fun _ =>
    .bind Eng.writeAll_keeps fun _ => .pure) hs

theorem execMaccld_nextOk {_h : TcwHdr} {f : AccMoveF} {s : State} (h : s.memOk) : NextOk (execMaccld _h f s) := by
  unfold execMaccld
  refine runCmd_nextOk ?_ h
  refine .bind Eng.moveCheck_keeps fun _ => .bind Eng.fetch_keeps fun _ => ?_
  refine .bind (.mapM fun _ => Eng.read_keeps) fun _ => .bind ?_ fun _ => .bind .modCore fun _ => .pure
  refine .mapM fun _ => .mapM fun _ => ?_
  dsimp only
  split
  · exact Eng.conv_keeps
  · exact .pure

theorem execMscale_nextOk {h : TcwHdr} {scales : Word} {acc : BitVec 2} {rows : BitVec 8} {s : State} (hs : s.memOk) :
    NextOk (execMscale h scales acc rows s) := by
  unfold execMscale
  refine runCmd_nextOk (.bind .tag fun _ => .bind .failIf fun _ => .bind .failIf fun _ => .bind Eng.fetch_keeps fun _ =>
    .bind Eng.read_keeps fun _ => .bind .modCore fun _ => .bind Eng.updateTarget_keeps fun _ => .pure) hs

theorem execMres_nextOk {_h : TcwHdr} {dst : Word} {acc : BitVec 2} {rows : BitVec 8} {s : State} (h : s.memOk) :
    NextOk (execMres _h dst acc rows s) := by
  unfold execMres
  refine runCmd_nextOk (.bind .tag fun _ => .bind .failIf fun _ => .bind .core fun _ => .bind Eng.writeAll_keeps fun _ =>
    .pure) h

theorem execMpatch_nextOk {_h : TcwHdr} {acc : BitVec 2} {row col : BitVec 6} {value : BitVec 32} {s : State} (h : s.memOk) :
    NextOk (execMpatch _h acc row col value s) := runCmd_nextOk (.bind .modCore fun _ => .pure) h

theorem Eng.residual_keeps {pred : Nat} {xs : List FVal} {tol : ℤ} : (Eng.residual pred xs tol).Keeps := by
  unfold Eng.residual
  exact .bind Eng.sumRound_keeps fun _ => .bind .flag fun _ => .pure

theorem execMchk_nextOk {_h : TcwHdr} {report : Word} {acc : BitVec 2} {pair : Bool} {tol : BitVec 8} {s : State}
    (h : s.memOk) : NextOk (execMchk _h report acc pair tol s) := by
  unfold execMchk
  refine runCmd_nextOk (.bind .tag fun _ => .bind .failIf fun _ => .bind .failIf fun _ => .bind .failIf fun _ =>
    .bind .core fun _ => .bind .failIf fun _ => .bind Eng.consumeAcc_keeps fun _ => .bind .core fun _ =>
    .bind (.mapM fun _ => Eng.residual_keeps) fun _ => .bind (.mapM fun _ => .branch Eng.sumRound_keeps .pure fun _ =>
    Eng.residual_keeps) fun _ => .bind Eng.writeAll_keeps fun _ => .pure) h

theorem State.noGang_memOk {s : State} {desc : Nat} (h : s.memOk) : (s.noGang desc).memOk := by
  unfold State.noGang
  refine foldl_keeps_memOk (fun _ _ h' => ?_) h
  split
  · exact State.finish_memOk h'
  · exact h'

theorem State.formGang_memOk {s : State} {desc : Nat} {d0 : Word} {die : Nat} (h : s.memOk) :
    (s.formGang desc d0 die).memOk := by
  unfold State.formGang
  dsimp only
  split
  · exact State.noGang_memOk h
  · split
    · exact h
    · refine foldl_keeps_memOk (fun _ _ h' => ?_) h
      split
      · exact State.setCmd_memOk h'
      · exact h'

theorem Eng.gangSums_keeps {h : TcwHdr} {d : List Word} {core : Nat} : (Eng.gangSums h d core).Keeps := by
  unfold Eng.gangSums
  dsimp only
  split
  · split
    · refine .bind Eng.fetch_keeps fun _ => ?_
      refine .bind (.mapM fun _ => .bind Eng.elems_keeps fun _ => .bind Eng.scaleRow_keeps fun _ => .pure) fun _ => ?_
      refine .bind (.mapM fun _ => Eng.elems_keeps) fun _ => .bind (.mapM fun _ => Eng.scaleCol_keeps) fun _ => ?_
      refine .bind .modCore fun _ => ?_
      split
      · exact Eng.shortBlocks_keeps
      · exact Eng.updateTarget_keeps
    · exact .status
  · exact .status

theorem State.gangArrived_memOk {s : State} {core : Nat} {gangdesc : Word} (h : s.memOk) :
    (s.gangArrived core gangdesc).memOk := by
  unfold State.gangArrived
  split
  · exact State.formGang_memOk h
  · exact h

theorem Eng.gang_keeps {h : TcwHdr} {gangdesc : Word} : (Eng.gang h gangdesc).Keeps := by
  unfold Eng.gang
  refine .bind .cmd fun _ => ?_
  split
  · exact .bind Eng.gangSums_keeps fun _ => .pure
  · refine .bind .tag fun _ => .bind .failIf fun _ => .bind Eng.read_keeps fun _ => .bind .failIf fun _ => ?_
    refine .bind .tag fun _ => .bind .tag fun _ => ?_
    split
    · split
      · exact .status
      · exact .bind .failIf fun _ => .bind .failIf fun _ => .bind .modCore fun _ => .bind (.mod fun _ h' => h') fun _ => .pure
    · exact .status

theorem execMgang_nextOk {h : TcwHdr} {gangdesc : Word} {s : State} (hs : s.memOk) : NextOk (execMgang h gangdesc s) := by
  have hc := runCmd_nextOk (Eng.gang_keeps (h := h) (gangdesc := gangdesc)) hs
  unfold execMgang
  split
  · next t hx =>
    refine .next (Offers.getD ?_ (hc t hx))
    exact .map fun _ => State.gangArrived_memOk (hc t hx)
  · exact hc

theorem execGangFormationTimeout_nextOk {desc : Nat} {s : State} (h : s.memOk) :
    NextOk (execGangFormationTimeout desc s) := by
  unfold execGangFormationTimeout
  refine .next ?_
  split
  · exact State.noGang_memOk h
  · exact h

/-! ### What Machine/Rule defines -/

theorem Eng.govRead_keeps {a n : Nat} : (Eng.govRead a n).Keeps := by
  unfold Eng.govRead
  exact Eng.readAs_keeps

theorem Eng.govWrite_keeps {a : Nat} {bs : List Byte} : (Eng.govWrite a bs).Keeps := by
  unfold Eng.govWrite
  exact Eng.writeAs_keeps

theorem Eng.checkRange_keeps {k : EngAcc} {cls : Nat → Bool} {a n : Nat} : (Eng.checkRange k cls a n).Keeps := by
  unfold Eng.checkRange
  exact .bind Eng.request_keeps fun _ => .forM fun ⟨_, _⟩ => .bind Eng.page_keeps fun _ => .pure

theorem Eng.descriptor_keeps {region : Word} {first count : Nat} {trace : Bool} :
    (Eng.descriptor region first count trace).Keeps := by
  unfold Eng.descriptor
  exact .bind .failIf fun _ => .bind Eng.readAs_keeps fun _ => .st fun _ _ => .bind .cmd fun _ => .bind .failIf fun _ => .pure

theorem Eng.fl_keeps {α : Type} {m : Fl α} : (Eng.fl m).Keeps := by
  unfold Eng.fl
  exact .bind .cmd fun _ => .bind .modCmd fun _ => .pure

theorem Eng.gradCell_keeps {a i : Nat} : (Eng.gradCell a i).Keeps := by
  unfold Eng.gradCell
  refine .bind .core fun _ => .bind .failIf fun _ => ?_
  exact .bind Eng.page_keeps fun _ => .bind Eng.sector_keeps fun _ => .bind Eng.sector_keeps fun _ => .pure

theorem Eng.gradients_keeps {grad : Word} {b n nval q : Nat} : (Eng.gradients grad b n nval q).Keeps := by
  unfold Eng.gradients
  split
  · exact .bind Eng.read_keeps fun _ => .pure
  · exact .bind Eng.read_keeps fun _ => .pure
  · exact .mapM fun _ => .bind Eng.gradCell_keeps fun ⟨_, _⟩ => .bind .flag fun _ => Eng.conv_keeps

theorem Eng.blockUpdate_keeps {run : RuleRun} {f : UpdF} {traced : Bool} {b slice : Nat} :
    (Eng.blockUpdate run f traced b slice).Keeps := by
  unfold Eng.blockUpdate
  refine .bind Eng.checkRange_keeps fun _ => .bind Eng.govRead_keeps fun _ => ?_
  refine .ite .pure (.ite .pure (.ite .pure (.st fun _ _ => .ite .pure (.ite .pure ?_))))
  refine .bind Eng.request_keeps fun _ => .bind Eng.gradients_keeps fun _ => ?_
  refine .bind Eng.govRead_keeps fun _ => .bind Eng.govRead_keeps fun _ => .bind Eng.govRead_keeps fun _ => ?_
  refine .bind Eng.govRead_keeps fun _ => .bind Eng.govRead_keeps fun _ => ?_
  refine .bind Eng.fl_keeps fun _ => .bind Eng.fl_keeps fun _ => .bind Eng.fl_keeps fun _ => .bind Eng.fl_keeps fun _ => ?_
  refine .bind Eng.fl_keeps fun _ => .branch Eng.fl_keeps .pure fun _ => ?_
  refine .bind Eng.fl_keeps fun _ => .bind (.mapM fun _ => Eng.conv_keeps) fun _ => ?_
  refine .branch (.mapM fun _ => Eng.conv_keeps) .pure fun _ => .branch Eng.fl_keeps .pure fun _ => ?_
  refine .when Eng.checkRange_keeps fun _ => ?_
  refine .bind Eng.govWrite_keeps fun _ => .bind Eng.govWrite_keeps fun _ => .bind Eng.govWrite_keeps fun _ => ?_
  refine .ite (.bind Eng.govWrite_keeps fun _ => .bind Eng.govWrite_keeps fun _ => .bind Eng.govWrite_keeps fun _ => ?_) ?_ <;>
    exact .ite (.st fun _ _ => .bind Eng.writeAs_keeps fun _ => .bind (.mod fun _ h => h) fun _ => .pure) .pure

theorem Eng.gradRegion_keeps {grad : Word} {first count : Nat} : (Eng.gradRegion grad first count).Keeps := by
  unfold Eng.gradRegion
  split
  · exact .pure
  · refine .st fun _ _ => .bind .cmd fun _ => ?_
    split
    · exact .status
    · exact .bind .failIf fun _ => .pure

theorem Eng.startRun_keeps {desc : List Word} {first n : Nat} : (Eng.startRun desc first n).Keeps := by
  unfold Eng.startRun
  exact .bind .cmd fun _ => .bind (.mod fun _ h => h) fun _ => .pure

theorem Eng.startUpd_keeps {f : UpdF} {traced : Bool} : (Eng.startUpd f traced).Keeps := by
  unfold Eng.startUpd
  refine .bind .tag fun _ => .bind .tag fun _ => .bind .failIf fun _ => ?_
  exact .bind .failIf fun _ => .bind Eng.descriptor_keeps fun _ => .bind Eng.gradRegion_keeps fun _ => Eng.startRun_keeps

theorem execUpd_nextOk {_h : TcwHdr} {f : UpdF} {s : State} (h : s.memOk) : NextOk (execUpd _h f s) :=
  runCmd_nextOk Eng.startUpd_keeps h

theorem execUpdT_nextOk {_h : TcwHdr} {f : UpdF} {s : State} (h : s.memOk) : NextOk (execUpdT _h f s) :=
  runCmd_nextOk Eng.startUpd_keeps h

theorem State.setRun_memOk {s : State} {r : RuleRun} (h : s.memOk) : (s.setRun r).memOk := h

theorem Eng.bwdBlock_keeps {d : RuleDesc} {adjoint : Word} {b kk slice : Nat} {h : List Word} {rec : List Byte} :
    (Eng.bwdBlock d adjoint b kk slice h rec).Keeps := by
  unfold Eng.bwdBlock
  dsimp only
  split
  · exact .pure
  · split
    · exact .pure
    · refine .st fun _ _ => ?_
      split
      · exact .pure
      · split
        · exact .pure
        · refine .bind Eng.readAs_keeps fun _ => ?_
          refine .bind (.foldlM fun _ _ => .bind (.foldlM fun _ _ => .bind Eng.readAs_keeps fun _ => Eng.fl_keeps) fun _ =>
            .pure) fun _ => ?_
          exact .pure

theorem Eng.startBwd_keeps {region adjoint rgrad : Word} {first n : Nat} :
    (Eng.startBwd region adjoint rgrad first n).Keeps := by
  unfold Eng.startBwd
  refine .bind .tag fun _ => ?_
  exact .bind .tag fun _ => .bind .tag fun _ => .bind .failIf fun _ => .bind Eng.descriptor_keeps fun _ => Eng.startRun_keeps

theorem execMetaBwd_nextOk {_h : TcwHdr} {region adjoint rgrad : Word} {first : BitVec 17} {count : BitVec 12}
    {_kk : BitVec 3} {s : State} (h : s.memOk) :
    NextOk (execMetaBwd _h region adjoint rgrad first count _kk s) := runCmd_nextOk Eng.startBwd_keeps h

theorem Eng.blockBwd_keeps {r : RuleRun} {adjoint rgrad : Word} {kk b slice : Nat} :
    (Eng.blockBwd r adjoint rgrad kk b slice).Keeps := by
  unfold Eng.blockBwd
  refine .bind Eng.checkRange_keeps fun _ => .bind Eng.govRead_keeps fun _ => ?_
  dsimp only
  split
  · refine .bind Eng.checkRange_keeps fun _ => ?_
    exact .bind Eng.readAs_keeps fun _ => .bind Eng.bwdBlock_keeps fun _ => .bind Eng.writeAs_keeps fun _ => .pure
  · exact .pure

theorem Eng.startQuar_keeps {region : Word} {first n : Nat} : (Eng.startQuar region first n).Keeps := by
  unfold Eng.startQuar
  exact .bind .tag fun _ => .bind .failIf fun _ => .bind Eng.descriptor_keeps fun _ => Eng.startRun_keeps

theorem execQuarClr_nextOk {_h : TcwHdr} {region : Word} {first : BitVec 24} {count : BitVec 25} {s : State} (h : s.memOk) :
    NextOk (execQuarClr _h region first count s) := runCmd_nextOk Eng.startQuar_keeps h

theorem Eng.blockClear_keeps {r : RuleRun} {b : Nat} : (Eng.blockClear r b).Keeps := by
  unfold Eng.blockClear
  exact .bind Eng.checkRange_keeps fun _ => .bind Eng.govRead_keeps fun _ => .bind Eng.govWrite_keeps fun _ => .pure

theorem execRuleQ_nextOk {_h : TcwHdr} {dst : Word} {rulectx : BitVec 3} {s : State} (h : s.memOk) :
    NextOk (execRuleQ _h dst rulectx s) := by
  unfold execRuleQ
  refine runCmd_nextOk (.bind .tag fun _ => .bind .failIf fun _ => .st fun _ _ => .bind .cmd fun _ => .bind .failIf fun _ =>
    .bind Eng.page_keeps fun _ => .st fun _ _ => .bind Eng.writeAs_keeps fun _ => .pure) h

theorem Cmd.blockStep_keeps {c : Cmd} {r : RuleRun} {b slice : Nat} : (c.blockStep r b slice).Keeps := by
  unfold Cmd.blockStep
  split
  · exact Eng.blockUpdate_keeps
  · exact Eng.blockUpdate_keeps
  · exact Eng.blockBwd_keeps
  · exact Eng.blockClear_keeps
  · exact .pure

theorem execRuleBlockUpdate_nextOk {slice : Nat} {s : State} (h : s.memOk) : NextOk (execRuleBlockUpdate slice s) := by
  refine .next ?_
  split
  · exact h
  · next r g c b _ =>
    have hs := Cmd.blockStep_keeps (c := c) (r := s.passed r b slice) (b := b) (slice := slice) { st := s, cmd := c } h
    dsimp only
    split
    · next hx => exact State.setRun_memOk (State.setCmd_memOk (hs.of_ok hx))
    · next hx => exact State.setRun_memOk (State.setCmd_memOk (hs.of_status hx))
    · exact State.setRun_memOk (State.refuseRemote_memOk h)
    · next hx => exact State.stopStep_memOk h (hs.of_error hx)

theorem Eng.reportRun_keeps {c : Cmd} {r : RuleRun} : (Eng.reportRun c r).Keeps := by
  unfold Eng.reportRun
  split
  · exact .pure
  · exact .bind Eng.page_keeps fun _ => .when Eng.writeAs_keeps fun _ => .st fun _ _ => .pure

theorem execRuleReport_nextOk {k : Nat} {s : State} (h : s.memOk) : NextOk (execRuleReport k s) := by
  unfold execRuleReport
  refine .next ?_
  split
  · exact h
  · dsimp only
    split
    · next hx =>
      refine State.report_memOk (State.dropCmd_memOk ?_)
      refine .mk ?_
      split
      · have hs := Ends.of_ok (Eng.reportRun_keeps _ h) hx
        exact hs
      · have hs := Ends.of_ok (Eng.reportRun_keeps _ h) hx
        exact hs
    · next hx =>
      refine State.report_memOk (State.dropCmd_memOk ?_)
      refine .mk ?_
      split
      · have hs := Ends.of_status (Eng.reportRun_keeps _ h) hx
        exact hs
      · have hs := Ends.of_status (Eng.reportRun_keeps _ h) hx
        exact hs
    · next hx => exact State.stopStep_memOk h (.of_error (Eng.reportRun_keeps _ h) hx)

theorem Act.ruleContext_keeps {rs1 : Reg} : (Act.ruleContext rs1).Keeps := by
  unfold Act.ruleContext
  exact .bind .x fun _ => .get fun _ _ => .guard .pure

theorem State.extendMr_memOk {s : State} {n : Nat} {x : BitVec 384} (h : s.memOk) : (s.extendMr n x).memOk := h

theorem execRuleInst_nextOk {rs1 rs2 : Reg} {s : State} (h : s.memOk) : NextOk (execRuleInst rs1 rs2 s) := by
  unfold execRuleInst
  refine runSlot_nextOk ?_ h
  refine .bind Act.privileged_keeps fun _ => .bind Act.ruleContext_keeps fun _ => .bind .x fun _ => .guard ?_
  refine .released (.get fun _ _ => ?_)
  refine .hold (.bind Act.loadRecord_keeps fun _ => ?_)
  refine .kept (.guard ?_)
  dsimp only
  split
  · exact .trapBind
  · exact .bind (.mod fun _ h' => h') fun _ => Act.next_keeps

theorem execRuleAct_nextOk {rd rs1 : Reg} {s : State} (h : s.memOk) : NextOk (execRuleAct rd rs1 s) := by
  unfold execRuleAct
  refine runSlot_nextOk ?_ h
  refine .bind Act.privileged_keeps fun _ => .bind Act.ruleContext_keeps fun _ => .get fun _ _ => .hold ?_
  dsimp only
  split
  · exact .trapBind
  · exact .bind (.mod fun _ h' => h') fun _ => .modSlot

theorem State.exchangeDone_memOk {s : State} {rc : Nat} (h : s.memOk) : (s.exchangeDone rc).memOk := by
  unfold State.exchangeDone
  refine foldl_keeps_memOk (fun _ ⟨_, _⟩ h' => ?_) h
  dsimp only
  split
  · split
    · exact h'
    · split
      · exact State.fenceCore_memOk h'
      · exact State.retire_memOk h'
  · exact h'

theorem execRuleActExchange_nextOk {rulectx slice : Nat} {s : State} (h : s.memOk) :
    NextOk (execRuleActExchange rulectx slice s) := by
  unfold execRuleActExchange
  refine .next ?_
  split
  · dsimp only
    split
    · exact State.exchangeDone_memOk h
    · exact h
  · exact h

theorem State.ruleStoreError_memOk {s : State} {rc slice : Nat} {active : Bool} (h : s.memOk) :
    (s.ruleStoreError rc slice active).memOk := by
  unfold State.ruleStoreError
  dsimp only
  split
  · exact State.event_memOk h
  · exact h

/-! ### What Machine/Training defines -/

theorem execVrowst_nextOk {vd : VReg} {acc : BitVec 2} {group : BitVec 4} {mode : RowMode} {s : State} (h : s.memOk) :
    NextOk (execVrowst vd acc group mode s) := by
  unfold execVrowst
  refine runSlot_nextOk ?_ h
  refine .bind Act.writable_keeps fun _ => .bind Act.writable_keeps fun _ => .bind Act.writable_keeps fun _ => ?_
  refine .get fun _ _ => ?_
  dsimp only
  split
  · split
    · exact .waitBind
    · split
      · refine .bind (fun _ _ => .error) fun _ => .bind (.mod fun _ h' => State.repairAcc_memOk h') fun _ => ?_
        exact .get fun _ _ => .bind .modSlot fun _ => Act.next_keeps
      · refine .bind (.mod fun _ h' => State.repairAcc_memOk h') fun _ => ?_
        exact .get fun _ _ => .bind .modSlot fun _ => Act.next_keeps
  · split
    · refine .bind (fun _ _ => .error) fun _ => ?_
      exact .bind (.mod fun _ h' => State.repairAcc_memOk h') fun _ => .get fun _ _ => .bind .modSlot fun _ => Act.next_keeps
    · exact .bind (.mod fun _ h' => State.repairAcc_memOk h') fun _ => .get fun _ _ => .bind .modSlot fun _ => Act.next_keeps

theorem execVdmask_nextOk {vd vs1 : VReg} {s : State} (h : s.memOk) : NextOk (execVdmask vd vs1 s) :=
  runSlot_nextOk (.bind .slot fun _ => Act.vec_keeps) h

/-! ### What Machine/Privileged defines -/

theorem State.resumeSlot_memOk {s : State} {k : Nat} (h : s.memOk) : (s.resumeSlot k).memOk := by
  unfold State.resumeSlot
  split <;> exact h

theorem Act.slotResume_keeps {i : Instr} {rs1 : Reg} : (Act.slotResume i rs1).Keeps := by
  unfold Act.slotResume
  refine .bind Act.privileged_keeps fun _ => .bind .x fun _ => .guard (.get fun _ _ => ?_)
  refine .when Act.refuse_keeps fun _ => ?_
  exact .branch (.mod fun _ h => State.resumeSlot_memOk h) (.mod fun _ h => h) fun _ => Act.next_keeps

theorem execSlotResume_nextOk {rs1 : Reg} {s : State} (h : s.memOk) : NextOk (execSlotResume rs1 s) :=
  runSlot_nextOk Act.slotResume_keeps h

theorem execSlotResumeSsip_nextOk {rs1 : Reg} {s : State} (h : s.memOk) : NextOk (execSlotResumeSsip rs1 s) :=
  runSlot_nextOk Act.slotResume_keeps h

theorem execSlotKill_nextOk {rs1 : Reg} {s : State} (h : s.memOk) : NextOk (execSlotKill rs1 s) := by
  unfold execSlotKill
  refine runSlot_nextOk ?_ h
  refine .bind Act.privileged_keeps fun _ => .bind .x fun _ => .guard (.get fun _ _ => ?_)
  refine .when Act.refuse_keeps fun _ => .bind (.mod fun _ h' => State.killFiring_memOk h') fun _ => ?_
  split
  · exact Act.next_keeps
  · exact .pure

theorem Act.plbIndex_keeps {rs1 : Reg} : (Act.plbIndex rs1).Keeps := by
  unfold Act.plbIndex
  exact .bind .x fun _ => .guard .pure

theorem execPlbFill_nextOk {rs1 rs2 : Reg} {s : State} (h : s.memOk) : NextOk (execPlbFill rs1 rs2 s) := by
  unfold execPlbFill
  refine runSlot_nextOk (.bind Act.privileged_keeps fun _ => .bind Act.manager_keeps fun _ =>
    .bind Act.plbIndex_keeps fun _ => .bind .x fun _ => .get fun _ _ => .bind Act.loadNat_keeps fun _ =>
    .when (.kept .trap) fun _ => .bind (.mod fun _ h' => h') fun _ => Act.next_keeps) h

theorem execPlbInv_nextOk {rs1 : Reg} {s : State} (h : s.memOk) : NextOk (execPlbInv rs1 s) := by
  unfold execPlbInv
  refine runSlot_nextOk (.bind Act.privileged_keeps fun _ => .bind Act.manager_keeps fun _ =>
    .bind Act.plbIndex_keeps fun _ => .bind (.mod fun _ h' => h') fun _ => Act.next_keeps) h

theorem State.pgFlush_memOk {s : State} {a : Nat} (h : s.memOk) : (s.pgFlush a).memOk := by
  unfold State.pgFlush
  dsimp only
  split
  · exact State.nonResident_memOk h
  · refine .mk (State.evictBlocks_memOk _ ?_)
    refine foldl_keeps_memOk (fun _ ⟨_, _⟩ h' => ?_) h
    refine foldl_keeps_memOk (fun _ ⟨_, _⟩ h'' => ?_) h'
    split
    · exact Offers.getD (Gives.toOption (State.wtWord_gives h'')) h''
    · exact h''

theorem execPgFlush_nextOk {rs1 : Reg} {s : State} (h : s.memOk) : NextOk (execPgFlush rs1 s) := by
  unfold execPgFlush
  refine runSlot_nextOk (.bind Act.privileged_keeps fun _ => .bind Act.manager_keeps fun _ => .bind .x fun _ =>
    .get fun _ _ => .hold (.bind (.mod fun _ h' => State.pgFlush_memOk h') fun _ => Act.next_keeps)) h

theorem State.setWays_memOk {s : State} {slice : Nat} {m : BitVec 16} (h : s.memOk) : (s.setWays slice m).memOk := by
  unfold State.setWays
  exact .mk (foldl_keeps_memOk (fun _ _ h' => .mk (State.putKey_memOk _ _ h')) (.mk (State.evictBlocks_memOk _ h)))

theorem execWaysCfg_nextOk {rs1 rs2 : Reg} {s : State} (h : s.memOk) : NextOk (execWaysCfg rs1 rs2 s) := by
  unfold execWaysCfg
  refine runSlot_nextOk ?_ h
  refine .bind Act.privileged_keeps fun _ => .bind Act.manager_keeps fun _ => .bind .x fun _ => .bind .x fun _ => ?_
  refine .guard ?_
  dsimp only
  split
  · exact .trapBind
  · refine .get fun _ _ => ?_
    split
    · exact .waitBind
    · exact .bind (.mod fun _ h' => State.setWays_memOk h') fun _ => Act.next_keeps

theorem execMinj_nextOk {rs1 rs2 : Reg} {s : State} (h : s.memOk) : NextOk (execMinj rs1 rs2 s) := by
  unfold execMinj
  refine runSlot_nextOk ?_ h
  refine .bind Act.privileged_keeps fun _ => .get fun _ _ => .when Act.refuse_keeps fun _ => .bind .x fun _ => ?_
  refine .bind .x fun _ => .guard ?_
  dsimp only
  split
  · exact .trapBind
  · exact .bind (.mod fun _ h' => h') fun _ => .modSlot

theorem State.flip_memOk {s : State} {i : Inject} (h : s.memOk) : (s.flip i).memOk := by
  unfold State.flip
  dsimp only
  repeat' split
  all_goals exact h

theorem execMinjFlip_nextOk {k : Nat} {s : State} (h : s.memOk) : NextOk (execMinjFlip k s) := by
  unfold execMinjFlip
  refine .next ?_
  split
  · exact h
  · split
    · exact h
    · dsimp only
      split
      · exact State.retire_memOk (State.flip_memOk h)
      · exact State.flip_memOk h

theorem State.checkImage_gives {s : State} {core a n : Nat} (h : s.memOk) :
    Gives State.memOk (s.checkImage core a n) := by
  unfold State.checkImage
  refine .inTurn (fun _ _ h' => ?_) h
  dsimp only
  split
  · exact .error
  · split
    · exact .error
    · next hx =>
      split
      · have hs := State.checkHome_gives h' _ hx
        exact .ok hs
      · exact .error

theorem State.writePieces_gives {s : State} {core a : Nat} {bs : List Byte} (h : s.memOk) :
    Gives State.memOk (s.writePieces core a bs) := by
  unfold State.writePieces
  exact .inTurn (fun _ _ h' => State.writeHome_gives h') h

theorem State.readPieces_gives {s : State} {core a n : Nat} (h : s.memOk) :
    Gives (fun r => r.2.memOk) (s.readPieces core a n) := by
  unfold State.readPieces
  exact .inTurn (fun ⟨_, _⟩ _ h' => .bind (State.readHome_gives h') fun ⟨_, _⟩ h'' => .pure h'') h

theorem State.writeImage_gives {s : State} {core a : Nat} {n : Snap} (h : s.memOk) :
    Gives State.memOk (s.writeImage core a n) := by
  unfold State.writeImage
  refine .bind (State.writePieces_gives h) fun _ h' => ?_
  exact .foldlM (fun _ _ h'' => .bind (State.writePieces_gives h'') fun _ h''' => State.writePieces_gives h''') h'

theorem State.imageIntact_gives {s : State} {core a ctx counter chunks : Nat} {header : List Byte} (h : s.memOk) :
    Gives (fun r => r.2.memOk) (s.imageIntact core a ctx counter chunks header) := by
  unfold State.imageIntact
  refine .inTurn (fun ⟨_, _⟩ _ h' => .bind (State.readPieces_gives h') fun ⟨_, _⟩ h'' =>
    .bind (.mapError (State.readPieces_gives h'')) fun ⟨_, _⟩ h''' => .pure h''') h

theorem State.stepBack_memOk {s : State} {k n : Nat} (h : s.memOk) : (s.stepBack k n).memOk := by
  unfold State.stepBack
  split <;> exact h

theorem State.beforeSync_memOk {s : State} {k : Nat} (h : s.memOk) : (s.beforeSync k).memOk := by
  unfold State.beforeSync
  split
  · split
    · exact h
    · exact h
    · exact State.modSlot_memOk (State.stepBack_memOk h)
    · exact State.modSlot_memOk (State.stepBack_memOk h)
  · exact h

theorem State.stopSlot_memOk {s : State} {k : Nat} (h : s.memOk) : (s.stopSlot k).memOk := by
  unfold State.stopSlot
  dsimp only
  split
  · split
    · exact State.modSlot_memOk (State.stepBack_memOk (State.beforeSync_memOk (State.retire_memOk h)))
    · exact State.modSlot_memOk (State.beforeSync_memOk (State.retire_memOk h))
  · split
    · exact State.modSlot_memOk (State.stepBack_memOk (State.beforeSync_memOk h))
    · exact State.modSlot_memOk (State.beforeSync_memOk h)

theorem State.releaseBest_memOk {s : State} {c : Nat} (h : s.memOk) : (s.releaseBest c).memOk := by
  unfold State.releaseBest
  refine foldl_keeps_memOk (fun _ _ h' => Offers.getD (Gives.toOption (State.drainNt_gives h')) h') ?_
  exact foldl_keeps_memOk (fun _ ⟨_, _⟩ h' => Offers.getD (Gives.toOption (State.wtWord_gives h')) h') h

theorem State.stopCtx_memOk {s : State} {ctx : Nat} {sv : Saving} (h : s.memOk) : (s.stopCtx ctx sv).memOk := by
  unfold State.stopCtx
  refine State.modCtx_memOk (foldl_keeps_memOk (fun _ _ h' => State.releaseBest_memOk h') ?_)
  refine foldl_keeps_memOk (fun _ _ h' => ?_) h
  split
  · exact State.stopSlot_memOk h'
  · exact h'

theorem State.unstopCtx_memOk {s : State} {ctx : Nat} (h : s.memOk) : (s.unstopCtx ctx).memOk := h

theorem State.settleLandings_memOk {s : State} {cores : List Nat} (h : s.memOk) : (s.settleLandings cores).memOk := by
  unfold State.settleLandings
  exact foldl_keeps_memOk (fun _ _ h' => State.performLanding_memOk h') h

theorem State.resolveOf_memOk {s : State} {k : Nat} (h : s.memOk) : (s.resolveOf k).memOk := by
  unfold State.resolveOf
  refine foldl_keeps_memOk (fun _ _ h' => ?_) h
  split
  · exact State.resolveAt_memOk h'
  · exact h'

theorem State.departAll_memOk {s : State} {k : Nat} (h : s.memOk) : (s.departAll k).memOk := by
  unfold State.departAll
  refine foldl_keeps_memOk (fun _ _ h' => State.resolveOf_memOk (State.emit_memOk h')) ?_
  exact State.modSlot_memOk (State.resolveOf_memOk h)

theorem State.settle_memOk {s : State} {ctx : Nat} (h : s.memOk) : (s.settle ctx).memOk := by
  unfold State.settle
  exact State.settleLandings_memOk (foldl_keeps_memOk (fun _ _ h' => State.departAll_memOk h') h)

theorem State.flushCars_memOk {s : State} {cars : List Nat} (h : s.memOk) : (s.flushCars cars).memOk := by
  unfold State.flushCars
  exact State.flushL1s_memOk h

theorem State.vacate_memOk {s : State} {cars : List Nat} (h : s.memOk) : (s.vacate cars).memOk := by
  unfold State.vacate
  refine .mk (foldl_keeps_memOk (fun _ _ h' => h') ?_)
  exact foldl_keeps_memOk (fun _ _ h' => h') (foldl_keeps_memOk (fun _ _ h' => h') (State.flushCars_memOk h))

theorem State.deadline_memOk {s : State} {ctx : Nat} {sv : Saving} (h : s.memOk) : (s.deadline ctx sv).memOk := by
  unfold State.deadline
  split
  · exact State.event_memOk h
  · exact h

theorem State.completeSave_gives {s : State} {core ctx : Nat} {sv : Saving} (h : s.memOk) :
    Gives State.memOk (s.completeSave core ctx sv) := by
  unfold State.completeSave
  refine .bind (State.checkImage_gives (State.settle_memOk h)) fun _ h' => ?_
  refine .bind (State.writeImage_gives h') fun _ h'' => ?_
  exact .pure (State.deadline_memOk (State.modCtx_memOk (State.vacate_memOk h'')))

theorem Act.beginSave_keeps {x : Nat} {sv : Saving} : (Act.beginSave x sv).Keeps := by
  unfold Act.beginSave
  refine .get fun _ h => ?_
  dsimp only
  split
  · exact .mod fun _ _ => State.stopCtx_memOk h
  · split
    · exact .mod fun _ _ => Stop.apply_memOk (State.stopCtx_memOk h)
    · exact .mod fun _ h' => Stop.apply_memOk h'

theorem execCtxSave_nextOk {rs1 rs2 : Reg} {s : State} (h : s.memOk) : NextOk (execCtxSave rs1 rs2 s) := by
  unfold execCtxSave
  refine runSlot_nextOk ?_ h
  refine .bind Act.privileged_keeps fun _ => .bind Act.manager_keeps fun _ => .bind .x fun _ => .bind .x fun _ => ?_
  refine .get fun _ h' => .when Act.refuse_keeps fun _ => .hold ?_
  dsimp only
  split
  · exact Act.beginSave_keeps
  · split
    · exact .wait
    · split
      · next hx => exact .bind (.mod fun _ _ => (State.completeSave_gives h' _ hx)) fun _ => Act.next_keeps
      · split
        · exact .mod fun _ h'' => Stop.apply_memOk h''
        · exact .mod fun _ h'' => Stop.apply_memOk h''
        · exact .mod fun _ h'' => Stop.apply_memOk h''

theorem State.bringBack_memOk {s : State} {ctx : Nat} (h : s.memOk) : (s.bringBack ctx).memOk := by
  unfold State.bringBack
  exact State.modCtx_memOk (foldl_keeps_memOk (fun _ ⟨_, _⟩ h' => h') h)

theorem State.install_memOk {s : State} {n : Snap} (h : s.memOk) : (s.install n).memOk := by
  unfold State.install
  refine foldl_keeps_memOk (fun _ _ h' => State.unfuse_memOk h') (State.bringBack_memOk ?_)
  refine State.modCtx_memOk (.mk ?_)
  refine foldl_keeps_memOk (fun _ ⟨_, _⟩ h' => h') (foldl_keeps_memOk (fun _ _ h' => State.acquire_memOk h') ?_)
  refine foldl_keeps_memOk (fun _ ⟨_, _⟩ h' => h') ?_
  exact foldl_keeps_memOk (fun _ ⟨_, _⟩ h' => h') (foldl_keeps_memOk (fun _ ⟨_, _⟩ h' => h') (State.flushCars_memOk h))

theorem State.restoreImage_gives {s : State} {core ctx a : Nat} (h : s.memOk) :
    Gives (fun r => r.2.memOk) (s.restoreImage core ctx a) := by
  unfold State.restoreImage
  split
  · exact .pure h
  · split
    · exact .pure h
    · refine .bind (State.readPieces_gives h) fun ⟨_, _⟩ h' => ?_
      dsimp only
      split
      · exact .pure h'
      · split
        · exact .pure h'
        · split
          · exact .pure h'
          · split
            · exact .pure h'
            · refine .bind (.mapError (State.imageIntact_gives h')) fun ⟨_, _⟩ h'' => ?_
              split
              · exact .pure (State.install_memOk h'')
              · exact .pure h''

theorem execCtxRest_nextOk {rd rs1 rs2 : Reg} {s : State} (h : s.memOk) : NextOk (execCtxRest rd rs1 rs2 s) := by
  unfold execCtxRest
  refine runSlot_nextOk ?_ h
  refine .bind Act.privileged_keeps fun _ => .bind Act.manager_keeps fun _ => .bind .x fun _ => .bind .x fun _ => ?_
  refine .when Act.refuse_keeps fun _ => .get fun _ h' => ?_
  split
  · exact fun _ _ => .error
  · next hx => exact .bind (.mod fun _ _ => (State.restoreImage_gives h' _ hx)) fun _ => .bind .setX fun _ => Act.next_keeps

theorem execTslice_nextOk {rs1 rs2 : Reg} {s : State} (h : s.memOk) : NextOk (execTslice rs1 rs2 s) := by
  unfold execTslice
  refine runSlot_nextOk (.bind Act.privileged_keeps fun _ => .bind Act.manager_keeps fun _ => .bind .x fun _ =>
    .bind .x fun _ => .when Act.refuse_keeps fun _ => .guard (.get fun _ _ => .bind Act.loadRecord_keeps fun _ =>
    .when (.kept Act.refuse_keeps) fun _ => .get fun _ _ => .bind (.mod fun _ h' => h') fun _ => Act.next_keeps)) h

theorem State.restoreBy_gives {s : State} {core ctx a : Nat} {plb : Sparse Word} (h : s.memOk) :
    Gives (fun r => r.2.memOk) (s.restoreBy core ctx a plb) := by
  unfold State.restoreBy
  refine .bind (State.restoreImage_gives h) fun ⟨_, _⟩ h' => .pure ?_
  dsimp only
  split <;> exact h'

theorem State.afterSlice_memOk {s : State} {ctx : Nat} {t : Slice} {plb : Sparse Word} (h : s.memOk) :
    (s.afterSlice ctx t plb).memOk := by
  unfold State.afterSlice
  dsimp only
  split
  · exact h
  · split
    · next hx =>
      split
      · exact State.restoreBy_gives (State.modCtx_memOk h) _ hx
      · have hs := State.restoreBy_gives (State.modCtx_memOk h) _ hx
        exact State.event_memOk hs
    · split
      · exact Stop.walks_memOk h
      · exact State.event_memOk (Stop.walks_memOk h)

theorem State.finishSlice_memOk {s : State} {ctx : Nat} {t : Slice} {sv : Saving} (h : s.memOk) :
    (s.finishSlice ctx t sv).memOk := by
  unfold State.finishSlice
  split
  · exact h
  · split
    · next hx => exact State.afterSlice_memOk (State.completeSave_gives h _ hx)
    · dsimp only
      split
      · exact State.serviced_memOk (Stop.walks_memOk h)
      · exact Stop.walks_memOk h
      · exact State.modCtx_memOk (State.unstopCtx_memOk (Stop.walks_memOk h))

theorem execTsliceExpiry_nextOk {ctx : Nat} {s : State} (h : s.memOk) : NextOk (execTsliceExpiry ctx s) := by
  unfold execTsliceExpiry
  refine .next ?_
  dsimp only
  split
  · split
    · exact State.finishSlice_memOk h
    · exact h
  · split
    · exact h
    · split
      · exact h
      · exact State.stopCtx_memOk h
  · split <;> exact h
  · exact h

theorem execSaveDeadlineExpiry_nextOk {ctx : Nat} {s : State} (h : s.memOk) :
    NextOk (execSaveDeadlineExpiry ctx s) := by
  unfold execSaveDeadlineExpiry
  refine .next ?_
  dsimp only
  split
  · split
    · exact State.finishSlice_memOk h
    · exact h
  · exact h

theorem execHbmRetrainRequest_nextOk {stack : Nat} {s : State} (h : s.memOk) :
    NextOk (execHbmRetrainRequest stack s) := by
  unfold execHbmRetrainRequest
  refine .next ?_
  repeat' split
  all_goals exact h

theorem execHbmRetrainRun_nextOk {stack : Nat} {s : State} (h : s.memOk) : NextOk (execHbmRetrainRun stack s) := by
  unfold execHbmRetrainRun
  refine .next ?_
  repeat' split
  all_goals exact h

theorem State.faultEvent_memOk {s : State} {f : FaultRec} (h : s.memOk) : (s.faultEvent f).memOk := by
  unfold State.faultEvent
  exact State.event_memOk h

theorem execFaultRecord_nextOk {k : Nat} {s : State} (h : s.memOk) : NextOk (execFaultRecord k s) := by
  unfold execFaultRecord
  refine .next ?_
  split
  · exact h
  · dsimp only
    split
    · exact h
    · split
      · exact h
      · split
        · next hx =>
          have hs := (State.servePage_or_fails_ok h).of_done hx
          exact State.resumeSlot_memOk hs
        · next hx =>
          have hs := (State.servePage_or_fails_ok h).of_stalls hx
          exact hs
        · exact State.faultEvent_memOk h

theorem execStallLimitExpiry_nextOk {ctx : Nat} {s : State} (h : s.memOk) : NextOk (execStallLimitExpiry ctx s) := by
  unfold execStallLimitExpiry
  refine .next ?_
  split
  · exact h
  · dsimp only
    split <;> exact h

theorem execContextCreate_nextOk {c : CtxSpec} {s : State} (h : s.memOk) : NextOk (execContextCreate c s) := by
  unfold execContextCreate
  refine .next ?_
  split
  · exact h
  · refine State.modCtx_memOk ?_
    exact foldl_keeps_memOk (fun _ _ h' => h') (foldl_keeps_memOk (fun _ _ h' => h') (State.vacate_memOk h))

/-! ### What Machine/Host defines -/

theorem State.respond_memOk {s : State} {r : HostReq} {status : Nat} {result : Word} {data : List Byte} (h : s.memOk) :
    (s.respond r status result data).memOk := h

theorem Served.status_ok {code : Nat} {s : State} (h : s.memOk) : (Served.status code s).Ok := h

theorem State.attempt_memOk {s : State} {lane : Nat} {perform : State → Held → Served} (h : s.memOk) (h1 : ∀ t x, t.memOk →
    (perform t x).Ok) :
    (s.attempt lane perform).memOk := by
  unfold State.attempt
  split
  · exact h
  · split
    · next hx =>
      have hs := Served.Ok.of_hold (h1 _ _ h) hx
      exact hs
    · next hx =>
      have hs := Served.Ok.of_done (h1 _ _ h) hx
      exact hs

theorem State.serve_memOk {s : State} {kind : Nat} {r : HostReq} {perform : State → Held → Served} (h : s.memOk)
    (h1 : ∀ t x, t.memOk → (perform t x).Ok) : (s.serve kind r perform).memOk := by
  unfold State.serve
  split
  · exact h
  · split
    · exact State.attempt_memOk h fun _ _ h' => h1 _ _ h'
    · split
      · exact h
      · split
        · exact h
        · split
          · exact State.attempt_memOk h fun _ _ h' => h1 _ _ h'
          · exact h

theorem State.hostWalk_gives {s : State} {lane a : Nat} {write : Bool} (h : s.memOk) :
    Gives (fun r => r.2.memOk) (s.hostWalk lane a write) := by
  unfold State.hostWalk
  split
  · exact .error
  · next hx =>
    have hs := State.translate_gives (.mk h) _ hx
    exact .ok hs

theorem State.hostTranslate_gives {s : State} {lane a : Nat} {write : Bool} (h : s.memOk) :
    Gives (fun r => r.2.memOk) (s.hostTranslate lane a write) := by
  unfold State.hostTranslate
  split
  · next hx => exact .ok (State.hostWalk_gives h _ hx)
  · split
    · next hx =>
      have hs := Offers.of_some (P := State.memOk) hx <| by
        split
        · exact State.makePresent_offers (.mk h)
        · exact .none
      exact State.hostWalk_gives hs
    · exact .error

theorem State.hostPage_gives {s : State} {lane a : Nat} {write : Bool} (h : s.memOk) :
    Gives (fun r => r.2.memOk) (s.hostPage lane a write) := by
  unfold State.hostPage
  split
  · exact .error
  · split
    · exact .error
    · next hx =>
      dsimp only
      split
      · exact .error
      · split
        · exact .error
        · have hs := State.hostTranslate_gives h _ hx
          exact .ok hs

theorem State.fillBuffer_memOk {s : State} {lane : Nat} {t : TEntry} {a len : Nat} (h : s.memOk) :
    (s.fillBuffer lane t a len).memOk := h

theorem State.hostRead_memOk {s : State} {ctx lane : Nat} {t : TEntry} {a n : Nat} (h : s.memOk) :
    (s.hostRead ctx lane t a n).2.2.memOk := by
  unfold State.hostRead
  dsimp only
  split
  · exact State.cxlAccess_memOk (.mk h)
  · exact State.fillRange_memOk h

theorem performRead_ok {s : State} {h : Held} (hs : s.memOk) : (performRead s h).Ok := by
  unfold performRead
  dsimp only
  split
  · exact hs
  · split
    · exact hs
    · next hx =>
      have ht := State.hostPage_gives hs _ hx
      split
      · exact ht
      · dsimp only [Served.Ok]
        split
        · exact State.modLane_memOk (State.hostRead_memOk ht)
        · split
          · exact State.hostRead_memOk ht
          · exact State.fillBuffer_memOk (State.hostRead_memOk ht)

theorem execRead_nextOk {r : HostReq} {s : State} (h : s.memOk) : NextOk (execRead r s) := by
  unfold execRead
  exact .next (State.serve_memOk h fun _ _ h' => performRead_ok h')

theorem State.hostWrite_memOk {s : State} {r : HostReq} {t : TEntry} (h : s.memOk) : (s.hostWrite r t).memOk := by
  unfold State.hostWrite
  exact State.modLane_memOk (State.writeFor_memOk _ _ _ _ h)

theorem performWrite_ok {s : State} {h : Held} (hs : s.memOk) : (performWrite s h).Ok := by
  unfold performWrite
  dsimp only
  split
  · exact Served.status_ok hs
  · split
    · exact Served.status_ok hs
    · next hx => exact Served.status_ok (State.hostWrite_memOk (State.hostPage_gives hs _ hx))

theorem execWrite_nextOk {r : HostReq} {s : State} (h : s.memOk) : NextOk (execWrite r s) := by
  unfold execWrite
  exact .next (State.serve_memOk h fun _ _ h' => performWrite_ok h')

theorem execWriteWc_nextOk {r : HostReq} {s : State} (h : s.memOk) : NextOk (execWriteWc r s) := by
  unfold execWriteWc
  refine .next ?_
  split
  · exact h
  · split
    · exact h
    · dsimp only
      split
      · exact h
      · split
        · exact h
        · next hx => exact State.hostPage_gives h _ hx

theorem execWriteWcPerform_nextOk {lane k : Nat} {s : State} (h : s.memOk) : NextOk (execWriteWcPerform lane k s) := by
  unfold execWriteWcPerform
  refine .next ?_
  dsimp only
  split
  · exact h
  · split
    · exact h
    · split
      · exact h
      · next hx => exact State.modLane_memOk (State.hostWrite_memOk (State.hostPage_gives h _ hx))

theorem performLaunch_ok {s : State} {h : Held} (hs : s.memOk) : (performLaunch s h).Ok := by
  unfold performLaunch
  dsimp only
  split
  · exact hs
  · split
    · exact hs
    · next hx =>
      have ht := State.hostPage_gives hs _ hx
      split
      · exact State.hostRead_memOk ht
      · split
        · exact State.hostRead_memOk ht
        · exact State.enqueueLaunch_memOk (State.hostRead_memOk ht)

theorem execHostLaunch_nextOk {r : HostReq} {s : State} (h : s.memOk) : NextOk (execHostLaunch r s) := by
  unfold execHostLaunch
  exact .next (State.serve_memOk h fun _ _ h' => performLaunch_ok h')

theorem performHfence_ok {s : State} {h : Held} (hs : s.memOk) : (performHfence s h).Ok := by
  unfold performHfence
  split
  · exact Served.status_ok hs
  · dsimp only
    split
    · exact hs
    · exact Served.status_ok hs

theorem execHfence_nextOk {r : HostReq} {s : State} (h : s.memOk) : NextOk (execHfence r s) := by
  unfold execHfence
  exact .next (State.serve_memOk h fun _ _ h' => performHfence_ok h')

theorem execLinkResendTimeout_nextOk {port : Nat} {flit : BitVec 32} {s : State} (h : s.memOk) :
    NextOk (execLinkResendTimeout port flit s) := by
  unfold execLinkResendTimeout
  refine .next ?_
  dsimp only
  split <;> exact h

theorem execLaneLockTimeout_nextOk {port : Nat} {s : State} (h : s.memOk) : NextOk (execLaneLockTimeout port s) := by
  unfold execLaneLockTimeout
  exact .next h

theorem execLinkRestored_nextOk {port : Nat} {s : State} (h : s.memOk) : NextOk (execLinkRestored port s) := by
  unfold execLinkRestored
  exact .next h

theorem State.resyncEscrow_memOk {s : State} {port : Nat} {last : BitVec 32} {map : BitVec 64} {e : Escrow} (h : s.memOk) :
    (s.resyncEscrow port last map e).memOk := by
  unfold State.resyncEscrow
  split
  · exact h
  · split
    · exact State.dropEscrow_memOk h
    · exact h
  · split
    · exact State.dropEscrow_memOk h
    · exact h
  · split
    · exact State.dropEscrow_memOk h
    · exact h

theorem execResyncComplete_nextOk {port : Nat} {last : BitVec 32} {map : BitVec 64} {s : State} (h : s.memOk) :
    NextOk (execResyncComplete port last map s) := by
  unfold execResyncComplete
  refine .next ?_
  split
  · exact h
  · exact State.modPort_memOk (foldl_keeps_memOk (fun _ _ h' => State.resyncEscrow_memOk h') h)

theorem State.doubtEvent_memOk {s : State} {port pkg rn n : Nat} (h : s.memOk) :
    (s.doubtEvent port pkg rn n).memOk := by
  unfold State.doubtEvent
  split
  · exact h
  · exact State.event_memOk h

theorem State.fencePort_memOk {s : State} {pkg port : Nat} (h : s.memOk) : (s.fencePort pkg port).memOk := by
  unfold State.fencePort
  exact foldl_keeps_memOk (fun _ _ h' => State.doubtEvent_memOk h') h

theorem State.packageEvent_memOk {s : State} {src : Source} {code : Nat} {w3 w6 : Word} (h : s.memOk) :
    (s.packageEvent src code w3 w6).memOk := h

theorem State.fenceTraffic_memOk {s : State} {pkg : Nat} (h : s.memOk) : (s.fenceTraffic pkg).memOk := by
  unfold State.fenceTraffic
  exact foldl_keeps_memOk (fun _ _ h' => State.refuse_memOk h') h

theorem State.fencePeer_memOk {s : State} {pkg : Nat} (h : s.memOk) : (s.fencePeer pkg).memOk := by
  unfold State.fencePeer
  split
  · exact h
  · exact State.packageEvent_memOk (State.fenceTraffic_memOk (foldl_keeps_memOk (fun _ _ h' => State.fencePort_memOk h') h))

theorem execFenceIntervalExpiry_nextOk {pkg : Nat} {s : State} (h : s.memOk) :
    NextOk (execFenceIntervalExpiry pkg s) := by
  unfold execFenceIntervalExpiry
  refine .next ?_
  split
  · exact State.fencePeer_memOk h
  · exact h

theorem State.linksUp_memOk {s : State} (h : s.memOk) : s.linksUp.memOk := by
  unfold State.linksUp
  exact foldl_keeps_memOk (fun _ _ h' => h') h

theorem performSetid_ok {s : State} {h : Held} (hs : s.memOk) : (performSetid s h).Ok := by
  unfold performSetid
  split
  · exact Served.status_ok hs
  · refine Served.status_ok (State.linksUp_memOk ?_)
    refine .mk ?_
    split
    · exact foldl_keeps_memOk (fun _ _ h' => State.fencePeer_memOk h') hs
    · exact hs

theorem execSetid_nextOk {r : HostReq} {s : State} (h : s.memOk) : NextOk (execSetid r s) := by
  unfold execSetid
  exact .next (State.serve_memOk h fun _ _ h' => performSetid_ok h')

theorem performFence_ok {s : State} {h : Held} (hs : s.memOk) : (performFence s h).Ok := by
  unfold performFence
  split
  · exact Served.status_ok hs
  · exact Served.status_ok (State.fencePeer_memOk hs)

theorem execServiceFence_nextOk {r : HostReq} {s : State} (h : s.memOk) : NextOk (execServiceFence r s) := by
  unfold execServiceFence
  exact .next (State.serve_memOk h fun _ _ h' => performFence_ok h')

theorem performAdmit_ok {s : State} {h : Held} (hs : s.memOk) : (performAdmit s h).Ok := by
  unfold performAdmit
  dsimp only
  split
  · exact Served.status_ok hs
  · split
    · exact Served.status_ok hs
    · split
      · exact hs
      · exact Served.status_ok (.mk (foldl_keeps_memOk (fun _ _ h' => h') hs))

theorem execAdmitPeer_nextOk {r : HostReq} {s : State} (h : s.memOk) : NextOk (execAdmitPeer r s) := by
  unfold execAdmitPeer
  exact .next (State.serve_memOk h fun _ _ h' => performAdmit_ok h')

theorem performLimits_ok {s : State} {h : Held} (hs : s.memOk) : (performLimits s h).Ok := by
  unfold performLimits
  split
  · exact Served.status_ok hs
  · exact Served.status_ok hs

theorem execLimits_nextOk {r : HostReq} {s : State} (h : s.memOk) : NextOk (execLimits r s) := by
  unfold execLimits
  exact .next (State.serve_memOk h fun _ _ h' => performLimits_ok h')

theorem State.setHo_memOk {s : State} {a : Nat} {leaf : Word} {v : Nat} (h : s.memOk) : (s.setHo a leaf v).memOk := by
  unfold State.setHo
  refine forRange_keeps_memOk (fun _ _ h' => ?_) h
  split
  · exact State.physWrite_memOk _ _ h'
  · exact h'

theorem State.hostFlush_memOk {s : State} {a : Nat} (h : s.memOk) : (s.hostFlush a).memOk := by
  unfold State.hostFlush
  exact .mk (State.pgFlush_memOk h)

theorem State.releaseEngines_memOk {s : State} (h : s.memOk) : s.releaseEngines.memOk := h

theorem State.resumePage_memOk {s : State} {a : Nat} {leaf : Word} (h : s.memOk) : (s.resumePage a leaf).memOk := by
  unfold State.resumePage
  refine foldl_keeps_memOk (fun _ ⟨_, _⟩ h' => ?_) h
  dsimp only
  split
  · split
    · exact State.resumeSlot_memOk h'
    · exact h'
  · exact h'
  · exact h'
  · exact h'
  · exact h'

theorem performGive_ok {s : State} {h : Held} (hs : s.memOk) : (performGive s h).Ok := by
  unfold performGive
  dsimp only
  split
  · exact Served.status_ok hs
  · split
    · exact hs
    · refine Served.status_ok ?_
      exact State.releaseEngines_memOk (State.resumePage_memOk (State.hostFlush_memOk (State.setHo_memOk hs)))

theorem execGive_nextOk {r : HostReq} {s : State} (h : s.memOk) : NextOk (execGive r s) := by
  unfold execGive
  exact .next (State.serve_memOk h fun _ _ h' => performGive_ok h')

theorem performTake_ok {s : State} {h : Held} (hs : s.memOk) : (performTake s h).Ok := by
  unfold performTake
  dsimp only
  split
  · exact Served.status_ok hs
  · split
    · exact hs
    · exact Served.status_ok (State.hostFlush_memOk (State.setHo_memOk hs))

theorem execTake_nextOk {r : HostReq} {s : State} (h : s.memOk) : NextOk (execTake r s) := by
  unfold execTake
  exact .next (State.serve_memOk h fun _ _ h' => performTake_ok h')

theorem performPxmode_ok {s : State} {h : Held} (hs : s.memOk) : (performPxmode s h).Ok := by
  unfold performPxmode
  split
  · exact Served.status_ok hs
  · split
    · exact Served.status_ok hs
    · exact Served.status_ok hs

theorem execPxmode_nextOk {r : HostReq} {s : State} (h : s.memOk) : NextOk (execPxmode r s) := by
  unfold execPxmode
  exact .next (State.serve_memOk h fun _ _ h' => performPxmode_ok h')

theorem performMint_ok {s : State} {h : Held} (hs : s.memOk) : (performMint s h).Ok := by
  unfold performMint
  dsimp only
  split
  · exact Served.status_ok hs
  · split
    · exact Served.status_ok hs
    · exact hs

theorem execMint_nextOk {r : HostReq} {s : State} (h : s.memOk) : NextOk (execMint r s) := by
  unfold execMint
  exact .next (State.serve_memOk h fun _ _ h' => performMint_ok h')

theorem performRulectx_ok {s : State} {h : Held} (hs : s.memOk) : (performRulectx s h).Ok := by
  unfold performRulectx
  dsimp only
  split
  · exact Served.status_ok hs
  · split
    · exact Served.status_ok hs
    · exact Served.status_ok hs

theorem execRulectx_nextOk {r : HostReq} {s : State} (h : s.memOk) : NextOk (execRulectx r s) := by
  unfold execRulectx
  exact .next (State.serve_memOk h fun _ _ h' => performRulectx_ok h')

theorem performClearfail_ok {s : State} {h : Held} (hs : s.memOk) : (performClearfail s h).Ok := by
  unfold performClearfail
  split
  · exact Served.status_ok hs
  · exact Served.status_ok hs

theorem execClearfail_nextOk {r : HostReq} {s : State} (h : s.memOk) : NextOk (execClearfail r s) := by
  unfold execClearfail
  exact .next (State.serve_memOk h fun _ _ h' => performClearfail_ok h')

theorem performUnfencecore_ok {s : State} {h : Held} (hs : s.memOk) : (performUnfencecore s h).Ok := by
  unfold performUnfencecore
  dsimp only
  split
  · exact Served.status_ok hs
  · split
    · exact Served.status_ok hs
    · exact Served.status_ok hs

theorem execUnfencecore_nextOk {r : HostReq} {s : State} (h : s.memOk) : NextOk (execUnfencecore r s) := by
  unfold execUnfencecore
  exact .next (State.serve_memOk h fun _ _ h' => performUnfencecore_ok h')

theorem State.stateReq_memOk {s : State} {r : HostReq} {answer : Nat × Word × List Byte} (h : s.memOk) :
    (s.stateReq r answer).memOk := by
  unfold State.stateReq
  split <;> exact h

theorem execStateLastSeq_nextOk {r : HostReq} {s : State} (h : s.memOk) : NextOk (execStateLastSeq r s) := by
  unfold execStateLastSeq
  exact .next (State.stateReq_memOk h)

theorem execStateNextEventSeq_nextOk {r : HostReq} {s : State} (h : s.memOk) : NextOk (execStateNextEventSeq r s) := by
  unfold execStateNextEventSeq
  exact .next (State.stateReq_memOk h)

theorem State.replay_memOk {s : State} {r : HostReq} (h : s.memOk) : (s.replay r).2.memOk := by
  unfold State.replay
  dsimp only
  repeat' split
  all_goals exact h

theorem execStateReplay_nextOk {r : HostReq} {s : State} (h : s.memOk) : NextOk (execStateReplay r s) := by
  unfold execStateReplay
  refine .next ?_
  split
  · exact h
  · exact State.respond_memOk (State.replay_memOk h)

theorem execStateBootStatus_nextOk {r : HostReq} {s : State} (h : s.memOk) : NextOk (execStateBootStatus r s) := by
  unfold execStateBootStatus
  refine .next ?_
  split <;> exact h

theorem performMalformed_ok {s : State} {_h : Held} (h : s.memOk) : (performMalformed s _h).Ok := by
  unfold performMalformed
  exact Served.status_ok h

theorem requestMeaning_nextOk {kind : Nat} {r : HostReq} {s : State} (h : s.memOk) :
    NextOk (requestMeaning kind r s) := by
  unfold requestMeaning
  split
  · exact execRead_nextOk h
  · exact execWrite_nextOk h
  · exact execWriteWc_nextOk h
  · exact execHostLaunch_nextOk h
  · exact execHfence_nextOk h
  · exact execSetid_nextOk h
  · exact execServiceFence_nextOk h
  · exact execAdmitPeer_nextOk h
  · exact execLimits_nextOk h
  · exact execGive_nextOk h
  · exact execTake_nextOk h
  · exact execPxmode_nextOk h
  · exact execMint_nextOk h
  · exact execRulectx_nextOk h
  · exact execClearfail_nextOk h
  · exact execUnfencecore_nextOk h
  · exact execStateLastSeq_nextOk h
  · exact execStateNextEventSeq_nextOk h
  · exact execStateReplay_nextOk h
  · exact execStateBootStatus_nextOk h
  · refine .next ?_
    split
    · exact h
    · exact State.serve_memOk h fun _ _ h' => performMalformed_ok h'

theorem hostRequest_nextOk {lane : Nat} {ws : List Word} {data : List Byte} {s : State} (h : s.memOk) :
    NextOk (hostRequest lane ws data s) := by
  unfold hostRequest
  exact requestMeaning_nextOk h

theorem execUcieModuleFailover_nextOk {die module : Nat} {s : State} (h : s.memOk) :
    NextOk (execUcieModuleFailover die module s) := by
  unfold execUcieModuleFailover
  exact .next (foldl_keeps_memOk (fun _ _ h' => h') h)

theorem execCxlLinkFailure_nextOk {die : Nat} {s : State} (h : s.memOk) : NextOk (execCxlLinkFailure die s) := by
  unfold execCxlLinkFailure
  refine .next ?_
  split <;> exact h

theorem State.stopAt_memOk {s : State} {celsius : Nat} (h : s.memOk) : (s.stopAt celsius).memOk := by
  unfold State.stopAt
  split <;> exact h

theorem State.throttle_memOk {s : State} {q : Sensor} {celsius : Nat} (h : s.memOk) : (s.throttle q celsius).memOk := by
  unfold State.throttle
  dsimp only
  repeat' split
  all_goals exact h

theorem execThermalThrottle_nextOk {q : Sensor} {celsius : Nat} {s : State} (h : s.memOk) :
    NextOk (execThermalThrottle q celsius s) := by
  unfold execThermalThrottle
  exact .next (State.stopAt_memOk (State.throttle_memOk h))

theorem execThermalStop_nextOk {celsius : Nat} {s : State} (h : s.memOk) : NextOk (execThermalStop celsius s) := by
  unfold execThermalStop
  exact .next (State.stopAt_memOk h)

/-! ### What Machine/Boot defines -/

theorem State.advanceSvn_memOk {s : State} {img : FwImage} {stage : Nat} (h : s.memOk) :
    (s.advanceSvn img stage).memOk := by
  unfold State.advanceSvn
  split <;> exact h

theorem State.bootFail_memOk {s : State} {code : Nat} (h : s.memOk) : (s.bootFail code).memOk := h

theorem State.runSteward_memOk {s : State} {pc : Nat} (h : s.memOk) : (s.runSteward pc).memOk := h

theorem execBootStage0_nextOk {img : FwImage} {s : State} (h : s.memOk) : NextOk (execBootStage0 img s) := by
  unfold execBootStage0
  refine .next ?_
  split
  · exact h
  · dsimp only
    split
    · exact h
    · exact State.runSteward_memOk (.mk (State.advanceSvn_memOk h))

theorem State.installKeys_memOk {s : State} (h : s.memOk) : s.installKeys.memOk := h

theorem State.setTable_memOk {s : State} {table index next : Nat} (h : s.memOk) :
    (s.setTable table index next).memOk := by
  unfold State.setTable
  exact State.physWrite_memOk _ _ h

theorem State.layTables_memOk {s : State} {root mail : Nat} (h : s.memOk) : (s.layTables root mail).memOk := by
  unfold State.layTables
  exact State.physWrite_memOk _ _ (State.setTable_memOk (State.setTable_memOk (State.setTable_memOk h)))

theorem State.mapFw_memOk {s : State} {root region size cls : Nat} (h : s.memOk) :
    (s.mapFw root region size cls).memOk := by
  unfold State.mapFw
  exact foldl_keeps_memOk (fun _ _ h' => State.physWrite_memOk _ _ h') h

theorem State.loadHbm_memOk {s : State} {img : FwImage} {plan : BootPlan} (h : s.memOk) :
    (s.loadHbm img plan).memOk := by
  unfold State.loadHbm
  exact .mk (State.modCore_memOk (State.mapFw_memOk (State.physWrite_memOk _ _ h)))

theorem State.shareFw_memOk {s : State} {plan : BootPlan} {size : Nat} (h : s.memOk) : (s.shareFw plan size).memOk := by
  unfold State.shareFw
  exact .mk (foldl_keeps_memOk (fun _ _ h' => h') (State.modCore_memOk (State.mapFw_memOk h)))

theorem execBootStage1_nextOk {img : FwImage} {hbmOk cxlOk : Bool} {serials : List Word} {plan : BootPlan} {s : State}
    (h : s.memOk) : NextOk (execBootStage1 img hbmOk cxlOk serials plan s) := by
  unfold execBootStage1
  refine .next ?_
  split
  · exact h
  · split
    · exact h
    · split
      · exact h
      · dsimp only
        split
        · exact State.bootFail_memOk (State.loadHbm_memOk (State.installKeys_memOk (State.layTables_memOk h)))
        · refine .mk (State.shareFw_memOk ?_)
          refine State.advanceSvn_memOk (State.extendMr_memOk ?_)
          exact State.extendMr_memOk (State.loadHbm_memOk (State.installKeys_memOk (State.layTables_memOk h)))

theorem execBootStage2_nextOk {s : State} (h : s.memOk) : NextOk (execBootStage2 s) := by
  unfold execBootStage2
  refine .next ?_
  split <;> exact h

theorem State.mailboxPage_offers {s : State} (h : s.memOk) : Offers (fun r => r.2.memOk) s.mailboxPage := by
  unfold State.mailboxPage
  split
  · next hx => exact .some (State.translate_gives h _ hx)
  · exact .none

theorem State.postMail_memOk {s : State} {t : TEntry} {a : List Byte} (h : s.memOk) : (s.postMail t a).memOk := by
  unfold State.postMail
  exact State.homeWrite_memOk _ _ _ (State.releaseBest_memOk (State.homeWrite_memOk _ _ _ (State.homeWrite_memOk _ _ _ h)))

theorem State.takeMail_offers {s : State} (h : s.memOk) : Offers (fun r => r.2.1.memOk) s.takeMail := by
  unfold State.takeMail
  split
  · exact .none
  · split
    · exact .none
    · next hx =>
      dsimp only
      split
      · exact .none
      · have hs := State.mailboxPage_offers h _ hx
        exact .some hs

theorem State.spdmBegin_memOk {s : State} {code : Byte} (h : s.memOk) : (s.spdmBegin code).memOk := by
  unfold State.spdmBegin
  dsimp only
  split
  · refine .mk ?_
    split <;> exact h
  · refine .mk ?_
    split <;> exact h

theorem State.spdmEnd_memOk {s : State} {code : Byte} {sign : Bool} {messages : List Byte} (h : s.memOk) :
    (s.spdmEnd code sign messages).memOk := by
  unfold State.spdmEnd
  split <;> exact h

theorem State.spdm_memOk {s : State} {code : Byte} {q : SpdmReq} {sign : Bool} {draws : Nat} {response : List Byte}
    (h : s.memOk) : (s.spdm code q sign draws response).memOk := by
  unfold State.spdm
  split
  · exact h
  · next hx =>
    split
    · exact h
    · have hs := State.takeMail_offers h _ hx
      exact State.postMail_memOk (.mk (State.spdmEnd_memOk (State.spdmBegin_memOk hs)))

theorem execGetVersion_nextOk {q : SpdmReq} {s : State} (h : s.memOk) : NextOk (execGetVersion q s) := by
  unfold execGetVersion
  exact .next (State.spdm_memOk h)

theorem execGetCapabilities_nextOk {q : SpdmReq} {s : State} (h : s.memOk) : NextOk (execGetCapabilities q s) := by
  unfold execGetCapabilities
  exact .next (State.spdm_memOk h)

theorem execNegotiateAlgorithms_nextOk {q : SpdmReq} {s : State} (h : s.memOk) :
    NextOk (execNegotiateAlgorithms q s) := by
  unfold execNegotiateAlgorithms
  exact .next (State.spdm_memOk h)

theorem execGetDigests_nextOk {q : SpdmReq} {s : State} (h : s.memOk) : NextOk (execGetDigests q s) := by
  unfold execGetDigests
  exact .next (State.spdm_memOk h)

theorem execGetCertificate_nextOk {q : SpdmReq} {s : State} (h : s.memOk) : NextOk (execGetCertificate q s) := by
  unfold execGetCertificate
  exact .next (State.spdm_memOk h)

theorem execChallenge_nextOk {q : SpdmReq} {s : State} (h : s.memOk) : NextOk (execChallenge q s) := by
  unfold execChallenge
  exact .next (State.spdm_memOk h)

theorem execGetMeasurements_nextOk {q : SpdmReq} {s : State} (h : s.memOk) : NextOk (execGetMeasurements q s) := by
  unfold execGetMeasurements
  exact .next (State.spdm_memOk h)

theorem State.mail_nextOk {s : State} (h : s.memOk) : NextOk s.mail := by
  unfold State.mail
  split
  · exact .next h
  · next hx =>
    dsimp only
    split
    · have hs := State.takeMail_offers h _ hx
      exact .next (State.postMail_memOk hs)
    · split
      · exact execGetVersion_nextOk h
      · exact execGetCapabilities_nextOk h
      · exact execNegotiateAlgorithms_nextOk h
      · exact execGetDigests_nextOk h
      · exact execGetCertificate_nextOk h
      · exact execChallenge_nextOk h
      · exact execGetMeasurements_nextOk h
      · have hs := State.takeMail_offers h _ hx
        exact .next (State.postMail_memOk hs)

/-! ### What Machine/Choose defines -/

theorem State.startCmd_memOk {s : State} {g : EngSel} {c : Cmd} (h : s.memOk) : (s.startCmd g c).memOk := by
  unfold State.startCmd
  dsimp only
  split <;> exact h

theorem State.selectEngine_offers {s : State} {core e : Nat} (h : s.memOk) :
    Offers (fun r => r.2.2.memOk) (s.selectEngine core e) := by
  unfold State.selectEngine
  exact .map fun _ => State.startCmd_memOk h

theorem State.selectBulk_offers {s : State} {b : Nat} (h : s.memOk) :
    Offers (fun r => r.2.2.memOk) (s.selectBulk b) := by
  unfold State.selectBulk
  exact .map fun _ => State.startCmd_memOk h

/-! ### What Machine/Issue defines -/

theorem Plan.done_ok {s : State} (h : s.memOk) : (Plan.done s).Ok := by
  unfold Plan.done
  exact .next h

theorem State.repair_memOk {s : State} {k : Nat} {w : BitVec 32} (h : s.memOk) : (s.repair k w).memOk := by
  unfold State.repair
  dsimp only
  split <;> exact h

theorem State.checked_nextOk {s : State} {k : Nat} {o : Host.Outcome State Fault Refusal} (h : s.memOk) (ho : NextOk o) :
    NextOk (s.checked k o) := by
  unfold State.checked
  split
  · next t =>
    have ht := ho t rfl
    split
    · exact .next ht
    · split
      · exact .next (State.fenceCore_memOk h)
      · exact .next ht
  · exact ho

theorem State.issueWord_ok {s : State} {k : Nat} {w : BitVec 32} (h : s.memOk) : (s.issueWord k w).Ok := by
  unfold State.issueWord
  dsimp only
  split
  · exact h
  · split
    · exact h
    · split
      · exact Plan.done_ok (State.kill_memOk h)
      · split
        · split
          · refine State.modSlot_memOk ?_
            split
            · exact h
            · exact State.repair_memOk h
          · split
            · exact h
            · exact State.repair_memOk h
        · split
          · refine State.modSlot_memOk ?_
            split
            · exact h
            · exact State.repair_memOk h
          · split
            · exact h
            · exact State.repair_memOk h

theorem State.issueNow_ok {s : State} {k : Nat} (h : s.memOk) : (s.issueNow k).Ok := by
  unfold State.issueNow
  split
  · exact Plan.done_ok h
  · dsimp only
    split
    · exact execSoftwareInterrupt_nextOk h
    · split
      · exact Plan.done_ok h
      · split
        · exact State.goes_memOk h
        · next hx => exact State.issueWord_ok (State.fetchFor_gives (State.goes_memOk (State.modCore_memOk (.mk h))) _ hx)

theorem State.inCycle_ok {s : State} {ks cs : List Nat} (h : s.memOk) : (s.inCycle ks cs).Ok := by
  unfold State.inCycle
  exact .mk (foldl_keeps_memOk (fun _ _ h' => State.feed_memOk h') h)

theorem State.issue_ok {s : State} {k : Nat} (h : s.memOk) : (s.issue k).Ok := by
  unfold State.issue
  split
  · exact Plan.done_ok h
  · split
    · exact State.inCycle_ok h
    · exact State.issueNow_ok (State.feed_memOk h)

theorem State.refuseCmd_memOk {s : State} {g : EngSel} {c : Cmd} (h : s.memOk) : (s.refuseCmd g c).memOk := by
  unfold State.refuseCmd
  exact State.finish_memOk h

theorem planCmd_ok {x : Option (EngSel × Cmd × State)} {s : State} (hx : Offers (fun r => r.2.2.memOk) x) (h : s.memOk) :
    (planCmd x s).Ok := by
  unfold planCmd
  split
  · exact .next h
  · have hs := hx _ rfl
    split
    · exact hs
    · exact .next (State.refuseCmd_memOk hs)

theorem State.planEngine_ok {c e : Nat} {s : State} (h : s.memOk) : (State.planEngine c e s).Ok := by
  unfold State.planEngine
  split
  · exact Plan.done_ok h
  · split
    · exact planCmd_ok (.map fun _ => h) h
    · exact planCmd_ok (State.selectEngine_offers h) h

theorem State.planBulk_ok {b : Nat} {s : State} (h : s.memOk) : (State.planBulk b s).Ok := by
  unfold State.planBulk
  split
  · exact planCmd_ok (.some h) h
  · exact planCmd_ok (State.selectBulk_offers h) h

theorem heldMeaning_nextOk {h : Held} {s : State} (hs : s.memOk) : NextOk (heldMeaning h s) := by
  unfold heldMeaning
  split
  · exact execRead_nextOk hs
  · exact execWrite_nextOk hs
  · exact execHostLaunch_nextOk hs
  · exact execHfence_nextOk hs
  · exact execSetid_nextOk hs
  · exact execServiceFence_nextOk hs
  · exact execAdmitPeer_nextOk hs
  · exact execLimits_nextOk hs
  · exact execGive_nextOk hs
  · exact execTake_nextOk hs
  · exact execPxmode_nextOk hs
  · exact execMint_nextOk hs
  · exact execRulectx_nextOk hs
  · exact execClearfail_nextOk hs
  · exact execUnfencecore_nextOk hs
  · exact execWriteWcPerform_nextOk hs
  · exact .next (State.serve_memOk hs fun _ _ h' => performMalformed_ok h')

theorem State.serveHeld_ok {s : State} {lane : Nat} (h : s.memOk) : (s.serveHeld lane).Ok := by
  unfold State.serveHeld
  split
  · exact heldMeaning_nextOk h
  · exact Plan.done_ok h

theorem State.evict_memOk {s : State} {c line : Nat} (h : s.memOk) : (s.evict c line).memOk := by
  unfold State.evict
  exact Offers.getD (Gives.toOption (State.evictLine_gives h)) h

theorem State.inbound_memOk {s : State} {pkg : Nat} {f : Flight} (h : s.memOk) : (s.inbound pkg f).memOk := by
  unfold State.inbound
  split <;> exact h

theorem State.plan_ok {s : State} {m : Move} (h : s.memOk) : (s.plan m).Ok := by
  unfold State.plan
  split
  · split
    · exact h
    · exact h
    · exact h
    · exact h
    · split
      · exact hostRequest_nextOk h
      · exact Plan.done_ok h
    · exact Plan.done_ok h
  · split
    · split
      · exact h
      · exact Plan.done_ok h
    · exact State.issue_ok h
    · exact State.inCycle_ok h
    · exact State.planEngine_ok h
    · exact State.planBulk_ok h
    · exact Plan.done_ok h
    · exact Plan.done_ok (State.evict_memOk h)
    · exact Plan.done_ok (State.inbound_memOk h)
    · exact Plan.done_ok (Offers.getD (State.deliver_offers h) h)
    · exact State.serveHeld_ok h
    · exact hostRequest_nextOk h
    · exact Plan.done_ok h
    · exact Plan.done_ok h
    · exact Plan.done_ok h
    · exact Plan.done_ok h
    · exact State.mail_nextOk h
    · exact Plan.done_ok h
    · exact Plan.done_ok (State.nextPacket_memOk h)
    · exact Plan.done_ok (State.shipped_memOk h)
    · exact Plan.done_ok (State.ruleStoreError_memOk h)
    · exact Plan.done_ok h
    · exact Plan.done_ok (State.evictBlocks_memOk _ h)
    · exact Plan.done_ok h

theorem State.tick_memOk {s : State} (h : s.memOk) : s.tick.memOk := by
  unfold State.tick
  exact State.serveAll_memOk (State.settleSpills_memOk h)

/-! ### What Machine/Scalar defines -/

theorem Act.op2_keeps {f : Word → Word → Word} {rd rs1 rs2 : Reg} : (Act.op2 f rd rs1 rs2).Keeps := by
  unfold Act.op2
  exact .bind .x fun _ => .bind .x fun _ => .bind .setX fun _ => Act.next_keeps

theorem Act.op1_keeps {f : Word → Word} {rd rs1 : Reg} : (Act.op1 f rd rs1).Keeps := by
  unfold Act.op1
  exact .bind .x fun _ => .bind .setX fun _ => Act.next_keeps

theorem Act.branch_keeps {r : Word → Word → Bool} {rs1 rs2 : Reg} {imm : BitVec 12} :
    (Act.branch r rs1 rs2 imm).Keeps := by
  unfold Act.branch
  refine .bind .x fun _ => .bind .x fun _ => .bind Act.pc_keeps fun _ => ?_
  split
  · exact Act.jump_keeps
  · exact Act.next_keeps

theorem execLui_nextOk {rd : Reg} {imm : BitVec 20} {s : State} (h : s.memOk) : NextOk (execLui rd imm s) :=
  runSlot_nextOk (.bind .setX fun _ => Act.next_keeps) h

theorem execAuipc_nextOk {rd : Reg} {imm : BitVec 20} {s : State} (h : s.memOk) : NextOk (execAuipc rd imm s) :=
  runSlot_nextOk (.bind Act.pc_keeps fun _ => .bind .setX fun _ => Act.next_keeps) h

theorem execJal_nextOk {rd : Reg} {imm : BitVec 20} {s : State} (h : s.memOk) : NextOk (execJal rd imm s) :=
  runSlot_nextOk (.bind Act.pc_keeps fun _ => .bind .setX fun _ => Act.jump_keeps) h

theorem execJalr_nextOk {rd rs1 : Reg} {imm : BitVec 12} {s : State} (h : s.memOk) :
    NextOk (execJalr rd rs1 imm s) :=
  runSlot_nextOk (.bind Act.pc_keeps fun _ => .bind .x fun _ => .bind .setX fun _ => Act.jump_keeps) h

theorem execBeq_nextOk {rs1 rs2 : Reg} {imm : BitVec 12} {s : State} (h : s.memOk) :
    NextOk (execBeq rs1 rs2 imm s) := runSlot_nextOk Act.branch_keeps h

theorem execBne_nextOk {rs1 rs2 : Reg} {imm : BitVec 12} {s : State} (h : s.memOk) :
    NextOk (execBne rs1 rs2 imm s) := runSlot_nextOk Act.branch_keeps h

theorem execBlt_nextOk {rs1 rs2 : Reg} {imm : BitVec 12} {s : State} (h : s.memOk) :
    NextOk (execBlt rs1 rs2 imm s) := runSlot_nextOk Act.branch_keeps h

theorem execBge_nextOk {rs1 rs2 : Reg} {imm : BitVec 12} {s : State} (h : s.memOk) :
    NextOk (execBge rs1 rs2 imm s) := runSlot_nextOk Act.branch_keeps h

theorem execBltu_nextOk {rs1 rs2 : Reg} {imm : BitVec 12} {s : State} (h : s.memOk) :
    NextOk (execBltu rs1 rs2 imm s) := runSlot_nextOk Act.branch_keeps h

theorem execBgeu_nextOk {rs1 rs2 : Reg} {imm : BitVec 12} {s : State} (h : s.memOk) :
    NextOk (execBgeu rs1 rs2 imm s) := runSlot_nextOk Act.branch_keeps h

theorem execAddi_nextOk {rd rs1 : Reg} {imm : BitVec 12} {s : State} (h : s.memOk) :
    NextOk (execAddi rd rs1 imm s) := runSlot_nextOk Act.op1_keeps h

theorem execSlti_nextOk {rd rs1 : Reg} {imm : BitVec 12} {s : State} (h : s.memOk) :
    NextOk (execSlti rd rs1 imm s) := runSlot_nextOk Act.op1_keeps h

theorem execSltiu_nextOk {rd rs1 : Reg} {imm : BitVec 12} {s : State} (h : s.memOk) :
    NextOk (execSltiu rd rs1 imm s) := runSlot_nextOk Act.op1_keeps h

theorem execXori_nextOk {rd rs1 : Reg} {imm : BitVec 12} {s : State} (h : s.memOk) :
    NextOk (execXori rd rs1 imm s) := runSlot_nextOk Act.op1_keeps h

theorem execOri_nextOk {rd rs1 : Reg} {imm : BitVec 12} {s : State} (h : s.memOk) : NextOk (execOri rd rs1 imm s) :=
  runSlot_nextOk Act.op1_keeps h

theorem execAndi_nextOk {rd rs1 : Reg} {imm : BitVec 12} {s : State} (h : s.memOk) :
    NextOk (execAndi rd rs1 imm s) := runSlot_nextOk Act.op1_keeps h

theorem execSlli_nextOk {rd rs1 : Reg} {sh : BitVec 6} {s : State} (h : s.memOk) : NextOk (execSlli rd rs1 sh s) :=
  runSlot_nextOk Act.op1_keeps h

theorem execSrli_nextOk {rd rs1 : Reg} {sh : BitVec 6} {s : State} (h : s.memOk) : NextOk (execSrli rd rs1 sh s) :=
  runSlot_nextOk Act.op1_keeps h

theorem execSrai_nextOk {rd rs1 : Reg} {sh : BitVec 6} {s : State} (h : s.memOk) : NextOk (execSrai rd rs1 sh s) :=
  runSlot_nextOk Act.op1_keeps h

theorem execAddiw_nextOk {rd rs1 : Reg} {imm : BitVec 12} {s : State} (h : s.memOk) :
    NextOk (execAddiw rd rs1 imm s) := runSlot_nextOk Act.op1_keeps h

theorem execSlliw_nextOk {rd rs1 : Reg} {sh : BitVec 5} {s : State} (h : s.memOk) : NextOk (execSlliw rd rs1 sh s) :=
  runSlot_nextOk Act.op1_keeps h

theorem execSrliw_nextOk {rd rs1 : Reg} {sh : BitVec 5} {s : State} (h : s.memOk) : NextOk (execSrliw rd rs1 sh s) :=
  runSlot_nextOk Act.op1_keeps h

theorem execSraiw_nextOk {rd rs1 : Reg} {sh : BitVec 5} {s : State} (h : s.memOk) : NextOk (execSraiw rd rs1 sh s) :=
  runSlot_nextOk Act.op1_keeps h

theorem execAdd_nextOk {rd rs1 rs2 : Reg} {s : State} (h : s.memOk) : NextOk (execAdd rd rs1 rs2 s) :=
  runSlot_nextOk Act.op2_keeps h

theorem execSll_nextOk {rd rs1 rs2 : Reg} {s : State} (h : s.memOk) : NextOk (execSll rd rs1 rs2 s) :=
  runSlot_nextOk Act.op2_keeps h

theorem execSlt_nextOk {rd rs1 rs2 : Reg} {s : State} (h : s.memOk) : NextOk (execSlt rd rs1 rs2 s) :=
  runSlot_nextOk Act.op2_keeps h

theorem execSltu_nextOk {rd rs1 rs2 : Reg} {s : State} (h : s.memOk) : NextOk (execSltu rd rs1 rs2 s) :=
  runSlot_nextOk Act.op2_keeps h

theorem execXor_nextOk {rd rs1 rs2 : Reg} {s : State} (h : s.memOk) : NextOk (execXor rd rs1 rs2 s) :=
  runSlot_nextOk Act.op2_keeps h

theorem execSrl_nextOk {rd rs1 rs2 : Reg} {s : State} (h : s.memOk) : NextOk (execSrl rd rs1 rs2 s) :=
  runSlot_nextOk Act.op2_keeps h

theorem execOr_nextOk {rd rs1 rs2 : Reg} {s : State} (h : s.memOk) : NextOk (execOr rd rs1 rs2 s) :=
  runSlot_nextOk Act.op2_keeps h

theorem execAnd_nextOk {rd rs1 rs2 : Reg} {s : State} (h : s.memOk) : NextOk (execAnd rd rs1 rs2 s) :=
  runSlot_nextOk Act.op2_keeps h

theorem execSub_nextOk {rd rs1 rs2 : Reg} {s : State} (h : s.memOk) : NextOk (execSub rd rs1 rs2 s) :=
  runSlot_nextOk Act.op2_keeps h

theorem execSra_nextOk {rd rs1 rs2 : Reg} {s : State} (h : s.memOk) : NextOk (execSra rd rs1 rs2 s) :=
  runSlot_nextOk Act.op2_keeps h

theorem execMul_nextOk {rd rs1 rs2 : Reg} {s : State} (h : s.memOk) : NextOk (execMul rd rs1 rs2 s) :=
  runSlot_nextOk Act.op2_keeps h

theorem execMulh_nextOk {rd rs1 rs2 : Reg} {s : State} (h : s.memOk) : NextOk (execMulh rd rs1 rs2 s) :=
  runSlot_nextOk Act.op2_keeps h

theorem execMulhsu_nextOk {rd rs1 rs2 : Reg} {s : State} (h : s.memOk) : NextOk (execMulhsu rd rs1 rs2 s) :=
  runSlot_nextOk Act.op2_keeps h

theorem execMulhu_nextOk {rd rs1 rs2 : Reg} {s : State} (h : s.memOk) : NextOk (execMulhu rd rs1 rs2 s) :=
  runSlot_nextOk Act.op2_keeps h

theorem execDiv_nextOk {rd rs1 rs2 : Reg} {s : State} (h : s.memOk) : NextOk (execDiv rd rs1 rs2 s) :=
  runSlot_nextOk Act.op2_keeps h

theorem execDivu_nextOk {rd rs1 rs2 : Reg} {s : State} (h : s.memOk) : NextOk (execDivu rd rs1 rs2 s) :=
  runSlot_nextOk Act.op2_keeps h

theorem execRem_nextOk {rd rs1 rs2 : Reg} {s : State} (h : s.memOk) : NextOk (execRem rd rs1 rs2 s) :=
  runSlot_nextOk Act.op2_keeps h

theorem execRemu_nextOk {rd rs1 rs2 : Reg} {s : State} (h : s.memOk) : NextOk (execRemu rd rs1 rs2 s) :=
  runSlot_nextOk Act.op2_keeps h

theorem execAddw_nextOk {rd rs1 rs2 : Reg} {s : State} (h : s.memOk) : NextOk (execAddw rd rs1 rs2 s) :=
  runSlot_nextOk Act.op2_keeps h

theorem execSllw_nextOk {rd rs1 rs2 : Reg} {s : State} (h : s.memOk) : NextOk (execSllw rd rs1 rs2 s) :=
  runSlot_nextOk Act.op2_keeps h

theorem execSrlw_nextOk {rd rs1 rs2 : Reg} {s : State} (h : s.memOk) : NextOk (execSrlw rd rs1 rs2 s) :=
  runSlot_nextOk Act.op2_keeps h

theorem execSubw_nextOk {rd rs1 rs2 : Reg} {s : State} (h : s.memOk) : NextOk (execSubw rd rs1 rs2 s) :=
  runSlot_nextOk Act.op2_keeps h

theorem execSraw_nextOk {rd rs1 rs2 : Reg} {s : State} (h : s.memOk) : NextOk (execSraw rd rs1 rs2 s) :=
  runSlot_nextOk Act.op2_keeps h

theorem execMulw_nextOk {rd rs1 rs2 : Reg} {s : State} (h : s.memOk) : NextOk (execMulw rd rs1 rs2 s) :=
  runSlot_nextOk Act.op2_keeps h

theorem execDivw_nextOk {rd rs1 rs2 : Reg} {s : State} (h : s.memOk) : NextOk (execDivw rd rs1 rs2 s) :=
  runSlot_nextOk Act.op2_keeps h

theorem execDivuw_nextOk {rd rs1 rs2 : Reg} {s : State} (h : s.memOk) : NextOk (execDivuw rd rs1 rs2 s) :=
  runSlot_nextOk Act.op2_keeps h

theorem execRemw_nextOk {rd rs1 rs2 : Reg} {s : State} (h : s.memOk) : NextOk (execRemw rd rs1 rs2 s) :=
  runSlot_nextOk Act.op2_keeps h

theorem execRemuw_nextOk {rd rs1 rs2 : Reg} {s : State} (h : s.memOk) : NextOk (execRemuw rd rs1 rs2 s) :=
  runSlot_nextOk Act.op2_keeps h

/-! ### What Machine/Dispatch defines -/

/-- Every instruction, command and event keeps the canonical form: one lemma per row of the table. -/
theorem exec_nextOk {i : Instr} {s : State} (h : s.memOk) : NextOk (exec i s) := by
  cases i with
  | lui => exact execLui_nextOk h
  | auipc => exact execAuipc_nextOk h
  | jal => exact execJal_nextOk h
  | jalr => exact execJalr_nextOk h
  | beq => exact execBeq_nextOk h
  | bne => exact execBne_nextOk h
  | blt => exact execBlt_nextOk h
  | bge => exact execBge_nextOk h
  | bltu => exact execBltu_nextOk h
  | bgeu => exact execBgeu_nextOk h
  | lb => exact execLb_nextOk h
  | lh => exact execLh_nextOk h
  | lw => exact execLw_nextOk h
  | ld => exact execLd_nextOk h
  | lbu => exact execLbu_nextOk h
  | lhu => exact execLhu_nextOk h
  | lwu => exact execLwu_nextOk h
  | sb => exact execSb_nextOk h
  | sh => exact execSh_nextOk h
  | sw => exact execSw_nextOk h
  | sd => exact execSd_nextOk h
  | addi => exact execAddi_nextOk h
  | slti => exact execSlti_nextOk h
  | sltiu => exact execSltiu_nextOk h
  | xori => exact execXori_nextOk h
  | ori => exact execOri_nextOk h
  | andi => exact execAndi_nextOk h
  | slli => exact execSlli_nextOk h
  | srli => exact execSrli_nextOk h
  | srai => exact execSrai_nextOk h
  | addiw => exact execAddiw_nextOk h
  | slliw => exact execSlliw_nextOk h
  | srliw => exact execSrliw_nextOk h
  | sraiw => exact execSraiw_nextOk h
  | add => exact execAdd_nextOk h
  | sll => exact execSll_nextOk h
  | slt => exact execSlt_nextOk h
  | sltu => exact execSltu_nextOk h
  | xor => exact execXor_nextOk h
  | srl => exact execSrl_nextOk h
  | or => exact execOr_nextOk h
  | and => exact execAnd_nextOk h
  | sub => exact execSub_nextOk h
  | sra => exact execSra_nextOk h
  | mul => exact execMul_nextOk h
  | mulh => exact execMulh_nextOk h
  | mulhsu => exact execMulhsu_nextOk h
  | mulhu => exact execMulhu_nextOk h
  | div => exact execDiv_nextOk h
  | divu => exact execDivu_nextOk h
  | rem => exact execRem_nextOk h
  | remu => exact execRemu_nextOk h
  | addw => exact execAddw_nextOk h
  | sllw => exact execSllw_nextOk h
  | srlw => exact execSrlw_nextOk h
  | subw => exact execSubw_nextOk h
  | sraw => exact execSraw_nextOk h
  | mulw => exact execMulw_nextOk h
  | divw => exact execDivw_nextOk h
  | divuw => exact execDivuw_nextOk h
  | remw => exact execRemw_nextOk h
  | remuw => exact execRemuw_nextOk h
  | fence rd rs1 imm => exact execFence_nextOk (_rd := rd) (_rs1 := rs1) (_imm := imm) h
  | fenceI rd rs1 imm => exact execFenceI_nextOk (_rd := rd) (_rs1 := rs1) (_imm := imm) h
  | lrW => exact execLrW_nextOk h
  | scW => exact execScW_nextOk h
  | amoswapW => exact execAmoswapW_nextOk h
  | amoaddW => exact execAmoaddW_nextOk h
  | amoxorW => exact execAmoxorW_nextOk h
  | amoandW => exact execAmoandW_nextOk h
  | amoorW => exact execAmoorW_nextOk h
  | amominW => exact execAmominW_nextOk h
  | amomaxW => exact execAmomaxW_nextOk h
  | amominuW => exact execAmominuW_nextOk h
  | amomaxuW => exact execAmomaxuW_nextOk h
  | lrD => exact execLrD_nextOk h
  | scD => exact execScD_nextOk h
  | amoswapD => exact execAmoswapD_nextOk h
  | amoaddD => exact execAmoaddD_nextOk h
  | amoxorD => exact execAmoxorD_nextOk h
  | amoandD => exact execAmoandD_nextOk h
  | amoorD => exact execAmoorD_nextOk h
  | amominD => exact execAmominD_nextOk h
  | amomaxD => exact execAmomaxD_nextOk h
  | amominuD => exact execAmominuD_nextOk h
  | amomaxuD => exact execAmomaxuD_nextOk h
  | csrrw => exact execCsrrw_nextOk h
  | csrrs => exact execCsrrs_nextOk h
  | csrrc => exact execCsrrc_nextOk h
  | csrrwi => exact execCsrrwi_nextOk h
  | csrrsi => exact execCsrrsi_nextOk h
  | csrrci => exact execCsrrci_nextOk h
  | padd => exact execPadd_nextOk h
  | ptag => exact execPtag_nextOk h
  | pget => exact execPget_nextOk h
  | pbase => exact execPbase_nextOk h
  | paddi => exact execPaddi_nextOk h
  | ptagi => exact execPtagi_nextOk h
  | repi => exact execRepi_nextOk h
  | rep => exact execRep_nextOk h
  | nestSet => exact execNestSet_nextOk h
  | nestStat => exact execNestStat_nextOk h
  | nestNext => exact execNestNext_nextOk h
  | join => exact execJoin_nextOk h
  | joinT => exact execJoinT_nextOk h
  | cvstat => exact execCvstat_nextOk h
  | send => exact execSend_nextOk h
  | sendC => exact execSendC_nextOk h
  | hbind => exact execHbind_nextOk h
  | qctl => exact execQctl_nextOk h
  | qstat => exact execQstat_nextOk h
  | launch => exact execLaunch_nextOk h
  | sigset => exact execSigset_nextOk h
  | sigclr => exact execSigclr_nextOk h
  | sigtest => exact execSigtest_nextOk h
  | stashAlloc => exact execStashAlloc_nextOk h
  | stashFree => exact execStashFree_nextOk h
  | vadd => exact execVadd_nextOk h
  | vsub => exact execVsub_nextOk h
  | vmul => exact execVmul_nextOk h
  | vfma => exact execVfma_nextOk h
  | vfnma => exact execVfnma_nextOk h
  | vmin => exact execVmin_nextOk h
  | vmax => exact execVmax_nextOk h
  | vcmple => exact execVcmple_nextOk h
  | vand => exact execVand_nextOk h
  | vor => exact execVor_nextOk h
  | vxor => exact execVxor_nextOk h
  | vshl => exact execVshl_nextOk h
  | vshr => exact execVshr_nextOk h
  | vshra => exact execVshra_nextOk h
  | vcmplt => exact execVcmplt_nextOk h
  | vcmpeq => exact execVcmpeq_nextOk h
  | vsel => exact execVsel_nextOk h
  | vshuf => exact execVshuf_nextOk h
  | vzip => exact execVzip_nextOk h
  | vunzip => exact execVunzip_nextOk h
  | vred => exact execVred_nextOk h
  | vdiv => exact execVdiv_nextOk h
  | vsf => exact execVsf_nextOk h
  | vcvt => exact execVcvt_nextOk h
  | vcvt8ToFp8 => exact execVcvt8ToFp8_nextOk h
  | vcvt8FromFp8 => exact execVcvt8FromFp8_nextOk h
  | vins => exact execVins_nextOk h
  | vext => exact execVext_nextOk h
  | vbcast => exact execVbcast_nextOk h
  | vrowst => exact execVrowst_nextOk h
  | vdmask => exact execVdmask_nextOk h
  | enq => exact execEnq_nextOk h
  | enqm => exact execEnqm_nextOk h
  | eqwait => exact execEqwait_nextOk h
  | eqstat => exact execEqstat_nextOk h
  | barInit => exact execBarInit_nextOk h
  | barExpect => exact execBarExpect_nextOk h
  | barArrive => exact execBarArrive_nextOk h
  | barWait => exact execBarWait_nextOk h
  | barTest => exact execBarTest_nextOk h
  | ldaq => exact execLdaq_nextOk h
  | strl => exact execStrl_nextOk h
  | fenceAq => exact execFenceAq_nextOk h
  | fenceRl => exact execFenceRl_nextOk h
  | fenceAr => exact execFenceAr_nextOk h
  | invl => exact execInvl_nextOk h
  | wbk => exact execWbk_nextOk h
  | stNt => exact execStNt_nextOk h
  | pref => exact execPref_nextOk h
  | amofaddS => exact execAmofaddS_nextOk h
  | amofaddD => exact execAmofaddD_nextOk h
  | amofmaxS => exact execAmofmaxS_nextOk h
  | gdepx => exact execGdepx_nextOk h
  | gdepw => exact execGdepw_nextOk h
  | gest => exact execGest_nextOk h
  | gspread => exact execGspread_nextOk h
  | gxch => exact execGxch_nextOk h
  | gmass => exact execGmass_nextOk h
  | vld => exact execVld_nextOk h
  | vst => exact execVst_nextOk h
  | vstNt => exact execVstNt_nextOk h
  | vldRo => exact execVldRo_nextOk h
  | vldb => exact execVldb_nextOk h
  | ctxSave => exact execCtxSave_nextOk h
  | ctxRest => exact execCtxRest_nextOk h
  | plbFill => exact execPlbFill_nextOk h
  | plbInv => exact execPlbInv_nextOk h
  | tslice => exact execTslice_nextOk h
  | ruleInst => exact execRuleInst_nextOk h
  | ruleAct => exact execRuleAct_nextOk h
  | minj => exact execMinj_nextOk h
  | slotResume => exact execSlotResume_nextOk h
  | slotResumeSsip => exact execSlotResumeSsip_nextOk h
  | slotKill => exact execSlotKill_nextOk h
  | commonsCfgDefine => exact execCommonsCfgDefine_nextOk h
  | commonsCfgRemove => exact execCommonsCfgRemove_nextOk h
  | commonsCfgReport => exact execCommonsCfgReport_nextOk h
  | pgFlush => exact execPgFlush_nextOk h
  | waysCfg => exact execWaysCfg_nextOk h
  | mwload => exact execMwload_nextOk h
  | mmulF => exact execMmulF_nextOk h
  | mmulT => exact execMmulT_nextOk h
  | mouter => exact execMouter_nextOk h
  | mmulG => exact execMmulG_nextOk h
  | mzero hdr => exact execMzero_nextOk (_h := hdr) h
  | mstore => exact execMstore_nextOk h
  | maccld hdr => exact execMaccld_nextOk (_h := hdr) h
  | mchk hdr => exact execMchk_nextOk (_h := hdr) h
  | mpatch hdr => exact execMpatch_nextOk (_h := hdr) h
  | mgang => exact execMgang_nextOk h
  | mres hdr => exact execMres_nextOk (_h := hdr) h
  | mscale => exact execMscale_nextOk h
  | cpy hdr => exact execCpy_nextOk (_h := hdr) h
  | cpy2d hdr => exact execCpy2d_nextOk (_h := hdr) h
  | cpyt hdr => exact execCpyt_nextOk (_h := hdr) h
  | cpys hdr => exact execCpys_nextOk (_h := hdr) h
  | cpyg hdr => exact execCpyg_nextOk (_h := hdr) h
  | fill hdr => exact execFill_nextOk (_h := hdr) h
  | bcpy hdr => exact execBcpy_nextOk (_h := hdr) h
  | bfill hdr => exact execBfill_nextOk (_h := hdr) h
  | upd hdr => exact execUpd_nextOk (_h := hdr) h
  | updT hdr => exact execUpdT_nextOk (_h := hdr) h
  | metaBwd hdr _ _ _ _ _ kk => exact execMetaBwd_nextOk (_h := hdr) (_kk := kk) h
  | quarClr hdr => exact execQuarClr_nextOk (_h := hdr) h
  | ruleQ hdr => exact execRuleQ_nextOk (_h := hdr) h
  | gseed => exact execGseed_nextOk h
  | gdepR => exact execGdepR_nextOk h
  | gread => exact execGread_nextOk h
  | gpace hdr => exact execGpace_nextOk (_h := hdr) h
  | illegalInstruction => exact execIllegalInstruction_nextOk h
  | read => exact execRead_nextOk h
  | write => exact execWrite_nextOk h
  | writeWc => exact execWriteWc_nextOk h
  | hostLaunch => exact execHostLaunch_nextOk h
  | hfence => exact execHfence_nextOk h
  | setid => exact execSetid_nextOk h
  | mint => exact execMint_nextOk h
  | rulectx => exact execRulectx_nextOk h
  | give => exact execGive_nextOk h
  | take => exact execTake_nextOk h
  | pxmode => exact execPxmode_nextOk h
  | stateBootStatus => exact execStateBootStatus_nextOk h
  | bootStage0 => exact execBootStage0_nextOk h
  | bootStage1 => exact execBootStage1_nextOk h
  | contextCreate => exact execContextCreate_nextOk h
  | droverPacketReceive => exact execDroverPacketReceive_nextOk h
  | escrowResolve => exact execEscrowResolve_nextOk h
  | messageArrive => exact execMessageArrive_nextOk h
  | ntIdleDrain => exact execNtIdleDrain_nextOk h
  | minjFlip => exact execMinjFlip_nextOk h
  | gangFormationTimeout => exact execGangFormationTimeout_nextOk h
  | bulkForward => exact execBulkForward_nextOk h
  | landing => exact execLanding_nextOk h
  | retryAfterResend => exact execRetryAfterResend_nextOk h
  | ruleBlockUpdate => exact execRuleBlockUpdate_nextOk h
  | ruleReport => exact execRuleReport_nextOk h
  | ruleActExchange => exact execRuleActExchange_nextOk h
  | droverExchange => exact execDroverExchange_nextOk h
  | escrowReturn => exact execEscrowReturn_nextOk h
  | escrowEarlyResend => exact execEscrowEarlyResend_nextOk h
  | messageDepart => exact execMessageDepart_nextOk h
  | stageResolve => exact execStageResolve_nextOk h
  | remoteCommandArrive => exact execRemoteCommandArrive_nextOk h
  | spillReturn => exact execSpillReturn_nextOk h
  | firingStart => exact execFiringStart_nextOk h
  | convoyGatherEnd => exact execConvoyGatherEnd_nextOk h
  | laneResolve => exact execLaneResolve_nextOk h
  | joinWaitAttach => exact execJoinWaitAttach_nextOk h
  | launchEnd => exact execLaunchEnd_nextOk h
  | faultRecord => exact execFaultRecord_nextOk h
  | softwareInterrupt => exact execSoftwareInterrupt_nextOk h
  | stallLimitExpiry => exact execStallLimitExpiry_nextOk h
  | tsliceExpiry => exact execTsliceExpiry_nextOk h
  | saveDeadlineExpiry => exact execSaveDeadlineExpiry_nextOk h
  | hbmRetrainRequest => exact execHbmRetrainRequest_nextOk h
  | hbmRetrainRun => exact execHbmRetrainRun_nextOk h
  | writeWcPerform => exact execWriteWcPerform_nextOk h
  | serviceFence => exact execServiceFence_nextOk h
  | admitPeer => exact execAdmitPeer_nextOk h
  | limits => exact execLimits_nextOk h
  | clearfail => exact execClearfail_nextOk h
  | unfencecore => exact execUnfencecore_nextOk h
  | stateLastSeq => exact execStateLastSeq_nextOk h
  | stateNextEventSeq => exact execStateNextEventSeq_nextOk h
  | stateReplay => exact execStateReplay_nextOk h
  | ucieModuleFailover => exact execUcieModuleFailover_nextOk h
  | linkResendTimeout => exact execLinkResendTimeout_nextOk h
  | laneLockTimeout => exact execLaneLockTimeout_nextOk h
  | linkRestored => exact execLinkRestored_nextOk h
  | resyncComplete => exact execResyncComplete_nextOk h
  | fenceIntervalExpiry => exact execFenceIntervalExpiry_nextOk h
  | cxlLinkFailure => exact execCxlLinkFailure_nextOk h
  | thermalThrottle => exact execThermalThrottle_nextOk h
  | thermalStop => exact execThermalStop_nextOk h
  | getVersion => exact execGetVersion_nextOk h
  | getCapabilities => exact execGetCapabilities_nextOk h
  | negotiateAlgorithms => exact execNegotiateAlgorithms_nextOk h
  | getDigests => exact execGetDigests_nextOk h
  | getCertificate => exact execGetCertificate_nextOk h
  | challenge => exact execChallenge_nextOk h
  | getMeasurements => exact execGetMeasurements_nextOk h
  | ecall => exact execEcall_nextOk h
  | ebreak => exact execEbreak_nextOk h
  | sret => exact execSret_nextOk h
  | wfi => exact execWfi_nextOk h
  | mret => exact execMret_nextOk h
  | leave => exact execLeave_nextOk h
  | cvsync => exact execCvsync_nextOk h
  | done => exact execDone_nextOk h
  | sealF => exact execSealF_nextOk h
  | launchDispatch => exact execLaunchDispatch_nextOk h
  | bootStage2 => exact execBootStage2_nextOk h
  | instructionFetchFault => exact execInstructionFetchFault_nextOk h

/-! ### What the package does next -/

/-- What the package does by itself plans from a state whose memory is in canonical form, or answers one. -/
def Auto.Keeps (m : Auto) : Prop := ∀ s : State, s.memOk → (m s).Ok

/-- Every one of a list of moves does. -/
def AllKeep (l : List Auto) : Prop := ∀ m ∈ l, m.Keeps

section
variable {α : Type} {m : Auto} {l l' : List Auto} {as : List α}

theorem AllKeep.nil : AllKeep [] := fun _ h => nomatch h

theorem AllKeep.one (h : m.Keeps) : AllKeep [m] := List.forall_mem_singleton.2 h

theorem AllKeep.append (h : AllKeep l) (h' : AllKeep l') : AllKeep (l ++ l') := List.forall_mem_append.2 ⟨h, h'⟩

theorem AllKeep.ite {c : Prop} [Decidable c] (h : AllKeep l) (h' : AllKeep l') : AllKeep (if c then l else l') := by
  split
  · exact h
  · exact h'

theorem AllKeep.map {f : α → Auto} (h : ∀ a, (f a).Keeps) : AllKeep (as.map f) := List.forall_mem_map.2 fun a _ => h a

theorem AllKeep.flatMap {f : α → List Auto} (h : ∀ a, AllKeep (f a)) : AllKeep (as.flatMap f) :=
  List.forall_mem_flatMap.2 fun a _ => h a

theorem AllKeep.filterMap {f : α → Option Auto} (h : ∀ a, Offers Auto.Keeps (f a)) : AllKeep (as.filterMap f) :=
  List.forall_mem_filterMap.2 fun a _ m hm => h a m hm

/-- The move of a list whose turn it is. -/
theorem AllKeep.pick {s : State} (h : AllKeep l) : Offers Auto.Keeps (s.pick l) := fun _ hm => h _ (List.mem_of_getElem? hm)

end

theorem Auto.Keeps.event {f : State → Host.Outcome State Fault Refusal} (hf : ∀ s : State, s.memOk → NextOk (f s)) :
    (autoEvent f).Keeps := fun _ h => hf _ h

theorem Auto.Keeps.done {f : State → State} (hf : ∀ s : State, s.memOk → (f s).memOk) : Auto.Keeps fun s => Plan.done (f s) :=
  fun _ h => .next (hf _ h)

section
variable {s : State}

theorem State.launchMoves_keep : AllKeep s.launchMoves :=
  .append (.ite (.one (.event fun _ => execLaunchDispatch_nextOk)) .nil) <|
  .flatMap fun _ => .map fun _ => .event fun _ => execLaunchEnd_nextOk

theorem State.messageMoves_keep : AllKeep s.messageMoves := by
  refine .append (.append (.map fun _ => .event fun _ => execStageResolve_nextOk) (.map fun k => ?_)) <|
    .map fun _ => .event fun _ => execMessageDepart_nextOk
  split
  · exact .event fun _ => execRemoteCommandArrive_nextOk
  · exact .event fun _ => execMessageArrive_nextOk

theorem State.coreMoves_keep : AllKeep s.coreMoves := by
  refine .flatMap fun e => .append (.append (.append (.append ?_ ?_) ?_) ?_) ?_
  · exact .ite (.one (.event fun _ => execFiringStart_nextOk)) .nil
  · exact .map fun _ => .event fun _ => execSpillReturn_nextOk
  · exact .map fun _ => .event fun _ => execNtIdleDrain_nextOk
  · exact .map fun _ _ => State.planEngine_ok
  · exact .ite .nil (.one (.event fun _ => execBulkForward_nextOk))

theorem State.engineMoves_keep : AllKeep s.engineMoves := by
  refine .append (.append (.append (.append ?_ ?_) ?_) ?_) ?_
  · exact .map fun _ _ => State.planBulk_ok
  · exact .map fun _ => .event fun _ => execLanding_nextOk
  · exact .map fun _ => .event fun _ => execGangFormationTimeout_nextOk
  · exact .map fun _ => .event fun _ => execRetryAfterResend_nextOk
  · exact .map fun _ => .event fun _ => execMinjFlip_nextOk

theorem State.caravanMoves_keep : AllKeep s.caravanMoves :=
  .flatMap fun _ => .append
    (.flatMap fun _ => .append (.ite (.one (.event fun _ => execConvoyGatherEnd_nextOk)) .nil)
      (.ite (.one (.event fun _ => execLaneResolve_nextOk)) .nil))
    (.ite .nil (.one (.event fun _ => execJoinWaitAttach_nextOk)))

theorem State.ruleMoves_keep : AllKeep s.ruleMoves := by
  refine .append (.append ?_ ?_) ?_
  · exact .map fun _ => .event fun _ => execRuleBlockUpdate_nextOk
  · exact .map fun _ => .event fun _ => execRuleReport_nextOk
  · exact .flatMap fun _ => .map fun _ => .event fun _ => execRuleActExchange_nextOk

theorem State.escrowMoves_keep : AllKeep s.escrowMoves := by
  refine .filterMap fun e => ?_
  split
  · split
    · exact .some (.event fun _ => execEscrowReturn_nextOk)
    · exact .none
  · split
    · exact .some (.event fun _ => execEscrowEarlyResend_nextOk)
    · exact .none
  · exact .none
  · exact .none

theorem State.ctxMoves_keep : AllKeep s.ctxMoves := by
  refine .append (.append (.append (.append ?_ ?_) (.flatMap fun e => .append ?_ ?_)) ?_) ?_
  · exact .map fun _ => .event fun _ => execFaultRecord_nextOk
  · exact .map fun _ => .event fun _ => execSoftwareInterrupt_nextOk
  · have hex := AllKeep.one (.event fun _ => execTsliceExpiry_nextOk (ctx := e.1))
    split
    · exact .ite hex .nil
    · exact .ite hex .nil
  · split
    · exact .ite (.one (.event fun _ => execStallLimitExpiry_nextOk)) .nil
    · exact .nil
  · exact .map fun _ => .event fun _ => execHbmRetrainRun_nextOk
  · exact .map fun _ => .done fun _ h => h

theorem State.hostMoves_keep : AllKeep s.hostMoves := by
  refine .append (.append (.append (.filterMap fun e => ?_) ?_) ?_) ?_
  · split
    · refine .some ?_
      split
      · exact .event fun _ => execWriteWcPerform_nextOk
      · exact fun _ => State.serveHeld_ok
    · exact .none
  · exact .map fun _ => .done fun _ => State.modLane_memOk
  · exact .map fun _ => .done fun _ => State.nextPacket_memOk
  · exact .map fun _ => .event fun _ => execFenceIntervalExpiry_nextOk

theorem State.autoMoves_keep : AllKeep s.autoMoves :=
  (((((((launchMoves_keep.append messageMoves_keep).append coreMoves_keep).append engineMoves_keep).append caravanMoves_keep).append
    ruleMoves_keep).append escrowMoves_keep).append ctxMoves_keep).append hostMoves_keep

theorem State.issueMoves_keep : AllKeep s.issueMoves := .map fun _ _ => State.issue_ok

theorem State.autoMove_keeps : Offers Auto.Keeps s.autoMove := by
  unfold State.autoMove
  split
  · exact State.autoMoves_keep.pick.orElse State.issueMoves_keep.pick
  · exact State.issueMoves_keep.pick.orElse State.autoMoves_keep.pick

/-- The plan of a turn starts from a state whose memory is in canonical form. -/
theorem State.turn_ok (h : s.memOk) : s.turn.Ok := by
  have ht := State.tick_memOk h
  unfold State.turn
  dsimp only
  split
  · exact State.plan_ok (.mk ht)
  · split
    · exact .next ht
    · split
      · next hm => exact State.autoMove_keeps _ hm _ ht
      · exact .next ht

/-! ### The step -/

theorem Plan.one_nextOk {p : Plan} (h : p.Ok) : NextOk p.one := by
  cases p with
  | run i s => exact exec_nextOk h
  | check i s => exact State.checked_nextOk h (exec_nextOk h)
  | cycle as s => exact .next h
  | out o => exact h

theorem CycleAct.run_nextOk {a : CycleAct} (h : s.memOk) : NextOk (a.run s) := by
  unfold CycleAct.run
  split
  · exact Plan.one_nextOk (State.issueNow_ok h)
  · split
    · exact execFiringStart_nextOk h
    · exact .next h

theorem oneByOne_nextOk {as : List CycleAct} (h : s.memOk) : NextOk (oneByOne CycleAct.run as s) := by
  induction as generalizing s with
  | nil => exact .next h
  | cons a as ih =>
    have ha := CycleAct.run_nextOk (a := a) h
    unfold oneByOne
    split
    · next t ht => exact ih (ha t ht)
    · exact ha

theorem step_nextOk (h : s.memOk) : NextOk (step s) := by
  have ht := State.turn_ok h
  unfold step
  split
  · next hp => rw [hp] at ht; exact oneByOne_nextOk ht
  · exact Plan.one_nextOk ht

end

/-- Settles O59: the invariant is carried through every function that a step is made of, from `putBytes`, which alone writes
memory, to `exec`, the choice of the next move and `step`. -/
theorem stepKeepsMemoryCanonical : Obligations.StepKeepsMemoryCanonical :=
  fun _ t h ht => step_nextOk h t ht

end Sys2Proof.Machine
end

section
/-!
SUPPORT. What a word decodes to is well formed (R60, R73 to R75, R139): one lemma for each table of the decoder. A table makes the checks
of `Instr.wf` on the rows that have any; every other row is well formed by definition, which `rfl` sees.
-/

namespace Sys2Proof.Machine

/-! ### The instructions whose fields the spec checks -/

section
variable (et dst src : ElemTy) (vd vs1 vs2 lane6 : VReg) (rd : Reg) (g : BitVec 3) (wide : WideKind) (fp : Fp8Kind) (rm : Rm) (ov : Bool)

@[simp] theorem wf_nestNext (off : BitVec 17) : (Instr.nestNext rd off).wf = (1 ≤ rd.toNat && rd.toNat ≤ 28) := rfl
@[simp] theorem wf_vfma : (Instr.vfma et vd vs1 vs2).wf = et.isFloat := rfl
@[simp] theorem wf_vfnma : (Instr.vfnma et vd vs1 vs2).wf = et.isFloat := rfl
@[simp] theorem wf_vdiv : (Instr.vdiv et vd vs1 vs2).wf = et.isFloat := rfl
@[simp] theorem wf_vshl : (Instr.vshl et vd vs1 vs2).wf = !et.isFloat := rfl
@[simp] theorem wf_vshr : (Instr.vshr et vd vs1 vs2).wf = !et.isFloat := rfl
@[simp] theorem wf_vshra : (Instr.vshra et vd vs1 vs2).wf = !et.isFloat := rfl
@[simp] theorem wf_vsf (kind : SfKind) : (Instr.vsf et vd vs1 kind).wf = kind.accepts et := rfl
@[simp] theorem wf_vcvt : (Instr.vcvt dst src vd vs1 rm ov).wf = decide (dst ≠ src) := rfl
@[simp] theorem wf_vcvt8ToFp8 : (Instr.vcvt8ToFp8 fp wide vd vs1 g rm ov).wf = decide (g.toNat < wide.groups) := rfl
@[simp] theorem wf_vcvt8FromFp8 : (Instr.vcvt8FromFp8 fp wide vd vs1 g).wf = decide (g.toNat < wide.groups) := rfl
@[simp] theorem wf_vins : (Instr.vins et vd rd lane6).wf = decide (lane6.toNat < et.lanes) := rfl
@[simp] theorem wf_vext : (Instr.vext et rd vs1 lane6).wf = decide (lane6.toNat < et.lanes) := rfl
@[simp] theorem wf_vrowst (acc : BitVec 2) (group : BitVec 4) (mode : RowMode) :
    (Instr.vrowst vd acc group mode).wf = decide (vd.toNat ≤ 61) := rfl

end

/-! ### The tables of the decoder -/

/-- What a table of the decoder answers, if it answers, is well formed. -/
def DecodesWf (x : Option Instr) : Prop := Offers (fun i => i.wf = true) x

@[simp] theorem decodesWf_some {i : Instr} : DecodesWf (some i) ↔ i.wf = true := by simp [DecodesWf, Offers]

@[simp] theorem decodesWf_none : DecodesWf none := Offers.none

@[simp] theorem decodesWf_ifZero {b : Bool} {i : Instr} : DecodesWf (ifZero b i) ↔ (b = true → i.wf = true) := by
  cases b <;> simp [ifZero]

@[simp] theorem decodesWf_ite {c : Prop} [Decidable c] {x y : Option Instr} :
    DecodesWf (if c then x else y) ↔ (c → DecodesWf x) ∧ (¬ c → DecodesWf y) := by
  split <;> simp [*]

@[simp] theorem decodesWf_map {α : Type} {x : Option α} {f : α → Instr} :
    DecodesWf (x.map f) ↔ ∀ a, x = some a → (f a).wf = true := by
  cases x <;> simp

@[simp] theorem decodesWf_bind {α : Type} {x : Option α} {f : α → Option Instr} :
    DecodesWf (x.bind f) ↔ ∀ a, x = some a → DecodesWf (f a) := by
  cases x <;> simp

theorem elemTyOfBits_injective : Function.Injective ElemTy.ofBits := by decide

section
variable (w : BitVec 32)

theorem decodeLoad_wf : DecodesWf (decodeLoad w) := by unfold decodeLoad; split <;> simp <;> rfl

theorem decodeStore_wf : DecodesWf (decodeStore w) := by unfold decodeStore; split <;> simp <;> rfl

theorem decodeBranch_wf : DecodesWf (decodeBranch w) := by unfold decodeBranch; split <;> simp <;> rfl

theorem decodeOp_wf : DecodesWf (decodeOp w) := by unfold decodeOp; split <;> simp <;> rfl

theorem decodeOp32_wf : DecodesWf (decodeOp32 w) := by unfold decodeOp32; split <;> simp <;> rfl

theorem decodeMiscMem_wf : DecodesWf (decodeMiscMem w) := by unfold decodeMiscMem; split <;> simp <;> rfl

theorem decodeOpImm_wf : DecodesWf (decodeOpImm w) := by
  unfold decodeOpImm
  split
  case h_8 => split <;> simp <;> intros <;> rfl
  all_goals simp <;> intros <;> rfl

theorem decodeOpImm32_wf : DecodesWf (decodeOpImm32 w) := by
  unfold decodeOpImm32
  split
  case h_3 => split <;> simp <;> intros <;> rfl
  all_goals simp <;> intros <;> rfl

theorem decodeAmo_wf : DecodesWf (decodeAmo w) := by unfold decodeAmo; split <;> simp <;> intros <;> rfl

theorem decodeSystem_wf : DecodesWf (decodeSystem w) := by
  unfold decodeSystem
  split
  case h_1 => split_ifs <;> simp <;> rfl
  all_goals simp <;> rfl

theorem decodeCustom0A_wf : DecodesWf (decodeCustom0A w) := by unfold decodeCustom0A; split <;> simp <;> intros <;> rfl

theorem decodeCustom0_wf : DecodesWf (decodeCustom0 w) := by
  unfold decodeCustom0
  split
  case h_1 => exact decodeCustom0A_wf w
  case h_6 => split <;> simp <;> intros <;> rfl
  all_goals simp +contextual <;> intros <;> rfl

theorem decodeCustom1_wf : DecodesWf (decodeCustom1 w) := by unfold decodeCustom1; split <;> simp <;> intros <;> rfl

theorem decodeVcvt8_wf : DecodesWf (decodeVcvt8 w) := by simp +contextual [decodeVcvt8]

theorem decodeCustom2_wf : DecodesWf (decodeCustom2 w) := by
  unfold decodeCustom2
  split
  case h_8 => simp [etOf, elemTyOfBits_injective.eq_iff]
  case h_9 => exact decodeVcvt8_wf w
  all_goals simp +contextual <;> intros <;> rfl

theorem decodeVm_wf : DecodesWf (decodeVm w) := by
  simp only [decodeVm, decodesWf_ite, decodesWf_none, implies_true, true_and]
  intro
  split <;> simp <;> rfl

theorem decodeCustom3A_wf : DecodesWf (decodeCustom3A w) := by
  unfold decodeCustom3A
  split <;> simp [withEngine, withScope] <;> intros <;> rfl

theorem decodeCustom3_wf : DecodesWf (decodeCustom3 w) := by simp [decodeCustom3, decodeVm_wf, decodeCustom3A_wf]

theorem decodesWf_decodeWord : DecodesWf (decodeWord w) := by
  unfold decodeWord
  split
  case h_19 => simp
  all_goals simp [decodeBranch_wf, decodeLoad_wf, decodeStore_wf, decodeOpImm_wf, decodeOpImm32_wf, decodeOp_wf, decodeOp32_wf,
    decodeMiscMem_wf, decodeAmo_wf, decodeSystem_wf, decodeCustom0_wf, decodeCustom1_wf, decodeCustom2_wf, decodeCustom3_wf] <;>
    intros <;> rfl

end

theorem decodeWord_wf {w : BitVec 32} {i : Instr} (h : decodeWord w = some i) : i.wf = true := decodesWf_decodeWord w i h

end Sys2Proof.Machine
end

section
/-!
SUPPORT. The package right after reset (R20, R131, R136, R148, R299, R396, R452).
-/

namespace Sys2Proof.Machine

/-- Every slot begins at its reset values, the steward's in M-mode (R393). -/
theorem State.slot_reset (k : Nat) :
    State.reset.slot k = if k = stewardSlot then { Slot.reset with priv := .m } else Slot.reset := rfl

theorem State.reset_memInv : State.reset.MemInv := by unfold State.MemInv; decide

theorem State.reset_modeInv : State.reset.ModeInv := by
  refine ⟨fun k hk => ?_, nofun⟩
  rw [State.slot_reset, if_neg hk]
  decide

/-- Settles O53: reset lists nothing, so that every part reads as its default; of a slot only the mode depends on which it is. -/
theorem resetState : Obligations.ResetState := by
  refine ⟨⟨State.reset_memInv, State.reset_modeInv⟩, fun k => ?_, fun _ => ?_, fun _ => rfl, fun _ => rfl, fun _ => rfl, fun _ => rfl, rfl,
    rfl, fun _ => rfl, rfl⟩
  · rw [State.slot_reset]
    split
    all_goals
      exact ⟨rfl, rfl, fun n => by simp [Slot.xr, Slot.reset], fun _ => rfl, rfl, rfl, rfl, rfl, rfl, rfl, rfl, rfl, rfl, rfl, rfl, rfl,
        rfl, rfl⟩
  · exact ⟨rfl, rfl, rfl, rfl, rfl, rfl, rfl⟩

end Sys2Proof.Machine
end

section
/-!
SUPPORT. What a step runs (R18, R23, R60, R127, R148, R265, R400): the plan of a slot that issues, of a cycle in which several issue, and
of a turn.
-/

namespace Sys2Proof.Machine

/-! ### A slot in no convoy -/

section
variable {s : State} {k : Nat} (h : s.laneOf k = none)
include h

theorem State.laneWord_of_stray (pc : Nat) : s.laneWord k pc = none := by simp [State.laneWord, h]

theorem State.feed_of_stray : s.feed k = s := by simp [State.feed, h]

theorem State.fed_of_stray : s.fed k = true := by simp [State.fed, State.delivered, h, State.laneWord_of_stray h]

theorem State.together_of_stray : s.together k = [] := by simp [State.together, h]

theorem State.goes_of_stray : s.goes k = s := by simp [State.goes, State.together_of_stray h]

theorem State.fetchFor_of_stray (pc : Word) : s.fetchFor k pc = s.fetchAt k pc := by simp [State.fetchFor, State.laneWord_of_stray h]

end

/-- The choice of a slot leaves the convoys as they are. -/
theorem State.laneOf_chosen (s : State) (k j : Nat) : (Claims.chosen s k).laneOf j = s.laneOf j := rfl

/-! ### The plan of a slot that issues -/

section
variable {s : State} {k : Nat}

theorem State.issueNow_of_not_ready (h : s.slotReady k = false) : s.issueNow k = .done s := by simp [State.issueNow, h]

/-- A slot that is ready acts in the state in which its core has chosen it. -/
theorem State.issueNow_of_ready (h : s.slotReady k = true) :
    s.issueNow k =
      let t := Claims.chosen s k
      if (t.slot k).interruptible && (t.slot k).atBoundary then .out (execSoftwareInterrupt k t)
      else if !t.fed k then .done t
      else match (t.goes k).fetchFor k ((t.goes k).slot k).at_ with
        | .error _ => .run .instructionFetchFault (t.goes k)
        | .ok (w, u) => u.issueWord k w := by
  simp only [State.issueNow, h]
  rfl

theorem State.issueNow_of_interrupt (hr : s.slotReady k = true)
    (hi : ((Claims.chosen s k).slot k).interruptible = true ∧ ((Claims.chosen s k).slot k).atBoundary = true) :
    s.issueNow k = .out (execSoftwareInterrupt k (Claims.chosen s k)) := by
  obtain ⟨hint, hbound⟩ := hi
  simp [State.issueNow_of_ready hr, hint, hbound]

section
variable (hr : s.slotReady k = true)
  (hi : ¬ (((Claims.chosen s k).slot k).interruptible = true ∧ ((Claims.chosen s k).slot k).atBoundary = true))
include hr hi

theorem State.issueNow_of_not_fed (hf : (Claims.chosen s k).fed k = false) : s.issueNow k = .done (Claims.chosen s k) := by
  rw [State.issueNow_of_ready hr]
  simp only [Bool.and_eq_true, if_neg hi, hf]
  rfl

section
variable (hf : (Claims.chosen s k).fed k = true)
include hf

theorem State.issueNow_of_error {e : Stop}
    (h : ((Claims.chosen s k).goes k).fetchFor k (((Claims.chosen s k).goes k).slot k).at_ = .error e) :
    s.issueNow k = .run .instructionFetchFault ((Claims.chosen s k).goes k) := by
  rw [State.issueNow_of_ready hr]
  simp only [Bool.and_eq_true, if_neg hi, hf, h]
  rfl

theorem State.issueNow_of_fetched {w : BitVec 32} {u : State}
    (h : ((Claims.chosen s k).goes k).fetchFor k (((Claims.chosen s k).goes k).slot k).at_ = .ok (w, u)) :
    s.issueNow k = u.issueWord k w := by
  rw [State.issueNow_of_ready hr]
  simp only [Bool.and_eq_true, if_neg hi, hf, h]
  rfl

end

end

theorem State.issueWord_of_illegal {w : BitVec 32} (h : decodeWord ((s.slot k).raised w) = none) :
    s.issueWord k w = .run (.illegalInstruction w) s := by simp [State.issueWord, h]

/-- A word that decodes runs where no register of the slot has an error, under the checker where that is to mismatch (R420). -/
theorem State.issueWord_of_decoded {w : BitVec 32} {i : Instr} (h : decodeWord ((s.slot k).raised w) = some i)
    (hx : (s.slot k).errX = []) (hv : (s.slot k).errV = []) :
    s.issueWord k w =
      let t := if (s.slot k).fresh then s.modSlot k fun sl => sl.begin i else s
      if (s.slot k).mismatch ≠ 0 then .check i t else .run i t := by
  simp [State.issueWord, h, decodeWord_wf h, Slot.readsBad, errBad, hx, hv]

theorem State.issueWord_ne_cycle {w : BitVec 32} (as : List CycleAct) (t : State) : s.issueWord k w ≠ .cycle as t := by
  unfold State.issueWord Plan.done
  dsimp only
  split
  · nofun
  · split_ifs <;> nofun

theorem State.issueNow_ne_cycle (as : List CycleAct) (t : State) : s.issueNow k ≠ .cycle as t := by
  unfold State.issueNow Plan.done
  dsimp only
  split
  · nofun
  · split
    · nofun
    · split
      · nofun
      · split
        · nofun
        · exact State.issueWord_ne_cycle as t

end

/-! ### The slots that issue in one cycle -/

section
variable {s : State} {c j k : Nat} {g ks : List Nat}

theorem coreOf_turn (c n : Nat) : coreOf (4 * c + n % 4) = c := by unfold coreOf; omega

theorem State.mem_of_firstOf (h : s.firstOf g c = some k) : coreOf k = c ∧ k ∈ g ∧ s.canIssue k = true := by
  have hp := List.find?_some h
  obtain ⟨i, -, rfl⟩ := List.mem_map.1 (List.mem_of_find?_eq_some h)
  simp only [Bool.and_eq_true, List.contains_iff_mem] at hp
  exact ⟨coreOf_turn _ _, hp⟩

/-- Among slots of which one is ready, its core finds one. -/
theorem State.firstOf_isSome (hg : k ∈ g) (h : s.canIssue k = true) : (s.firstOf g (coreOf k)).isSome = true := by
  unfold State.firstOf
  rw [List.find?_isSome]
  refine ⟨k, List.mem_map.2 ⟨(k + 3 - (s.core (coreOf k)).turn % 4) % 4, by simp; omega, ?_⟩, by simp [hg, h]⟩
  unfold coreOf
  omega

/-- The slots of a list that their cores choose (R18). -/
def State.chosenOf (s : State) (ks : List Nat) : List Nat := ks.filter fun k => s.nextSlot (coreOf k) == some k

/-- The slot of a core that issues in a cycle: the one that must go on with others, else the one that is chosen (R18, R162). -/
def State.issuerOf (s : State) (ks : List Nat) (c : Nat) : Option Nat :=
  match s.firstOf ((s.chosenOf ks).flatMap s.together) c with
  | some k => some k
  | none => (s.chosenOf ks).find? fun k => coreOf k == c

theorem State.mem_chosenOf : k ∈ s.chosenOf ks ↔ k ∈ ks ∧ s.nextSlot (coreOf k) = some k := by simp [State.chosenOf]

/-- The issuer of a core is a slot of it, and is chosen, or ready and let go with one that is. -/
theorem State.of_issuerOf (h : s.issuerOf ks c = some j) :
    coreOf j = c ∧ (j ∈ s.chosenOf ks ∨ (s.canIssue j = true ∧ ∃ k, k ∈ s.chosenOf ks ∧ j ∈ s.together k)) := by
  unfold State.issuerOf at h
  split at h
  · next hf =>
    cases h
    obtain ⟨hc, hg, hi⟩ := State.mem_of_firstOf hf
    exact ⟨hc, .inr ⟨hi, List.mem_flatMap.1 hg⟩⟩
  · exact ⟨by simpa using List.find?_some h, .inl (List.mem_of_find?_eq_some h)⟩

theorem State.issuers_eq (s : State) (ks : List Nat) :
    s.issuers ks = ((s.chosenOf ks ++ (s.chosenOf ks).flatMap s.together).map coreOf).dedup.filterMap (s.issuerOf ks) := rfl

theorem State.of_mem_issuers (h : j ∈ s.issuers ks) : s.issuerOf ks (coreOf j) = some j := by
  rw [State.issuers_eq] at h
  obtain ⟨c, -, hc⟩ := List.mem_filterMap.1 h
  rwa [(State.of_issuerOf hc).1]

/-- Each core with a slot that is chosen, or ready and let go with one that is, has an issuer. -/
theorem State.exists_issuer (hk : k ∈ s.chosenOf ks) (hj : j = k ∨ (j ∈ s.together k ∧ s.canIssue j = true)) :
    ∃ i ∈ s.issuers ks, coreOf i = coreOf j := by
  have hcore : coreOf j ∈ ((s.chosenOf ks ++ (s.chosenOf ks).flatMap s.together).map coreOf).dedup := by
    refine List.mem_dedup.2 (List.mem_map_of_mem (List.mem_append.2 ?_))
    rcases hj with rfl | ⟨hj, -⟩
    · exact .inl hk
    · exact .inr (List.mem_flatMap.2 ⟨k, hk, hj⟩)
  have hsome : (s.issuerOf ks (coreOf j)).isSome = true := by
    unfold State.issuerOf
    split
    · rfl
    · next hnone =>
      rcases hj with rfl | ⟨hj, hi⟩
      · exact List.find?_isSome.2 ⟨j, hk, by simp⟩
      · have := State.firstOf_isSome (List.mem_flatMap.2 ⟨k, hk, hj⟩) hi
        simp [hnone] at this
  obtain ⟨i, hi⟩ := Option.isSome_iff_exists.1 hsome
  exact ⟨i, State.issuers_eq s ks ▸ List.mem_filterMap.2 ⟨_, hcore, hi⟩, (State.of_issuerOf hi).1⟩

end

/-! ### The acts of one cycle -/

/-- The firings that start in a cycle (R214). -/
def State.starts (s : State) (cs : List Nat) : List CycleAct :=
  cs.dedup.filterMap fun c => if c < numCores then (s.idleSlot c).map (CycleAct.start c) else none

/-- What happens in a cycle in which slots issue and cores start firings, in the order of the slots (R145, R146). -/
def State.cycleActs (s : State) (ks cs : List Nat) : List CycleAct :=
  ((s.issuers ks).map CycleAct.issue ++ s.starts cs).insertionSort fun a b => a.slot ≤ b.slot

/-- The state in which each core of a cycle makes its choice: what each slot needs has been delivered (R148). -/
def State.fedAll (s : State) (ks : List Nat) : State := (ks ++ ks.flatMap s.together).foldl (fun s k => s.feed k) s

theorem State.inCycle_eq (s : State) (ks cs : List Nat) :
    s.inCycle ks cs = .cycle ((s.fedAll ks).cycleActs ks cs) { s.fedAll ks with before := some (s.fedAll ks).cars } := rfl

section
variable {s : State} {ks cs : List Nat} {c j k : Nat}

theorem State.cycleActs_sorted : (s.cycleActs ks cs).Pairwise fun a b => a.slot ≤ b.slot := by
  have : Std.Total fun a b : CycleAct => a.slot ≤ b.slot := ⟨fun a b => Nat.le_total a.slot b.slot⟩
  have : IsTrans CycleAct fun a b => a.slot ≤ b.slot := ⟨fun _ _ _ => Nat.le_trans⟩
  exact List.pairwise_insertionSort _ _

theorem State.issue_mem_cycleActs : .issue j ∈ s.cycleActs ks cs ↔ j ∈ s.issuers ks := by
  have hstart : CycleAct.issue j ∉ s.starts cs := by
    unfold State.starts
    rw [List.mem_filterMap]
    rintro ⟨c, -, h⟩
    split at h
    · simp at h
    · cases h
  simp [State.cycleActs, List.mem_insertionSort, hstart]

theorem State.start_mem_cycleActs : .start c k ∈ s.cycleActs ks cs ↔ c ∈ cs ∧ c < numCores ∧ s.idleSlot c = some k := by
  have hstart : CycleAct.start c k ∈ s.starts cs ↔ c ∈ cs ∧ c < numCores ∧ s.idleSlot c = some k := by
    unfold State.starts
    rw [List.mem_filterMap]
    constructor
    · rintro ⟨d, hd, h⟩
      split at h
      · next hn =>
        obtain ⟨i, hi, he⟩ := Option.map_eq_some_iff.1 h
        cases he
        exact ⟨List.mem_dedup.1 hd, hn, hi⟩
      · cases h
    · rintro ⟨hc, hn, hi⟩
      exact ⟨c, List.mem_dedup.2 hc, by simp [hn, hi]⟩
  simp [State.cycleActs, List.mem_insertionSort, hstart]

end

/-! ### The step -/

section
variable {s s0 : State} {m : Move} {rest : List Move} {k c e : Nat} {i : Instr} {ks cs : List Nat}

theorem step_of_turn {p : Plan} (h : s.turn = p) (hp : ∀ as t, p ≠ .cycle as t) : step s = p.one := by
  unfold step
  rw [h]
  split
  · exact absurd rfl (hp _ _)
  · rfl

theorem step_of_cycle {as : List CycleAct} {t : State} (h : s.turn = .cycle as t) : step s = oneByOne CycleAct.run as t := by
  unfold step
  rw [h]

/-- Where a move is scheduled, the turn is its plan, once the step has begun. -/
theorem State.turn_of_sched (h : (Claims.begun s).sched = m :: rest) : s.turn = State.plan { Claims.begun s with sched := rest } m := by
  have ht : s.tick.sched = m :: rest := h
  simp only [State.turn, ht]
  rfl

theorem State.plan_issue (h : s.boot.fail = 0) : s.plan (.issue k) = s.issue k := by simp [State.plan, h]

theorem State.plan_cycle (h : s.boot.fail = 0) : s.plan (.cycle ks cs) = s.inCycle ks cs := by simp [State.plan, h]

theorem State.plan_engine (h : s.boot.fail = 0) : s.plan (.engine c e) = State.planEngine c e s := by simp [State.plan, h]

theorem State.plan_event (h : s.boot.fail = 0) (hw : i.wf = true) (he : isEvent i = true) : s.plan (.event i) = .run i s := by
  simp [State.plan, h, hw, he]

theorem State.issue_of_not_next (h : s.nextSlot (coreOf k) ≠ some k) : s.issue k = .done s := by simp [State.issue, h]

theorem State.issue_alone (h : s.nextSlot (coreOf k) = some k) (ht : (s.together k).length ≤ 1) : s.issue k = (s.feed k).issueNow k := by
  simp [State.issue, h, Nat.not_lt.2 ht]

theorem State.issue_together (h : s.nextSlot (coreOf k) = some k) (ht : 1 < (s.together k).length) : s.issue k = s.inCycle [k] [] := by
  simp [State.issue, h, ht]

theorem State.planEngine_of_selected {r : EngSel × Cmd × State} (he : e < 4) (hs : s.stopped c = false) (h : s.selectEngine c e = some r) :
    State.planEngine c e s = planCmd (some r) s := by
  simp [State.planEngine, Nat.not_le.2 he, hs, h]

end

/-! ### What a step runs -/

/-- What a slot does that has fetched its word (R60, R127, R420). -/
theorem State.issueWord_runs (u : State) (k : Nat) (w : BitVec 32) :
    (decodeWord ((u.slot k).raised w) = none → (u.issueWord k w).one = exec (.illegalInstruction w) u) ∧
    ∀ i, decodeWord ((u.slot k).raised w) = some i → (u.slot k).errX = [] → (u.slot k).errV = [] →
      let v := if (u.slot k).fresh then u.modSlot k fun sl => sl.begin i else u
      ((u.slot k).mismatch = 0 → (u.issueWord k w).one = exec i v) ∧
      ((u.slot k).mismatch ≠ 0 → (u.issueWord k w).one = v.checked v.cur (exec i v)) := by
  refine ⟨fun h => by rw [State.issueWord_of_illegal h]; rfl, fun i h hx hv => ⟨fun hm => ?_, fun hm => ?_⟩⟩
  · rw [State.issueWord_of_decoded h hx hv]
    simp only [hm]
    rfl
  · rw [State.issueWord_of_decoded h hx hv]
    simp only [if_pos hm]
    rfl

section
variable {s s0 : State} {m : Move} {ks cs : List Nat} {k : Nat} (hturn : s.turn = s0.plan m) (hfail : s0.boot.fail = 0)
include hturn hfail

theorem step_of_issue (hm : m = .issue k) (hn : s0.nextSlot (coreOf k) = some k) (ht : (s0.together k).length ≤ 1) :
    step s = ((s0.feed k).issueNow k).one := by
  rw [hm, State.plan_issue hfail, State.issue_alone hn ht] at hturn
  exact step_of_turn hturn State.issueNow_ne_cycle

theorem step_of_issue_not_next (hm : m = .issue k) (hn : s0.nextSlot (coreOf k) ≠ some k) : step s = .next s0 := by
  rw [hm, State.plan_issue hfail, State.issue_of_not_next hn] at hturn
  exact step_of_turn hturn nofun

theorem step_of_event {i : Instr} (hm : m = .event i) (hw : i.wf = true) (he : isEvent i = true) : step s = exec i s0 := by
  rw [hm, State.plan_event hfail hw he] at hturn
  exact step_of_turn hturn nofun

/-- An engine's turn runs the command that it selects, or refuses its word (R84, R265). -/
theorem step_of_engine {c e : Nat} {g : EngSel} {d : Cmd} {u : State} (hm : m = .engine c e) (he : e < 4) (hs : s0.stopped c = false)
    (hsel : s0.selectEngine c e = some (g, d, u)) :
    (∀ i, decodeTcw d.tcw = some i → step s = exec i u) ∧ (decodeTcw d.tcw = none → step s = .next (u.refuseCmd g d)) := by
  rw [hm, State.plan_engine hfail, State.planEngine_of_selected he hs hsel] at hturn
  refine ⟨fun i hi => ?_, fun hi => ?_⟩
  · simp only [planCmd, hi] at hturn
    exact step_of_turn hturn nofun
  · simp only [planCmd, hi] at hturn
    exact step_of_turn hturn nofun

/-- A cycle of several slots, or a slot that a CVSYNC has let go on with others (R162), lets its acts happen one after the other. -/
theorem step_of_inCycle
    (hm : m = .cycle ks cs ∨
      (cs = [] ∧ ∃ k, ks = [k] ∧ m = .issue k ∧ s0.nextSlot (coreOf k) = some k ∧ 1 < (s0.together k).length)) :
    step s = oneByOne CycleAct.run ((s0.fedAll ks).cycleActs ks cs) { s0.fedAll ks with before := some (s0.fedAll ks).cars } := by
  have hplan : s0.plan m = s0.inCycle ks cs := by
    rcases hm with rfl | ⟨rfl, k, rfl, rfl, hn, ht⟩
    · exact State.plan_cycle hfail
    · rw [State.plan_issue hfail, State.issue_together hn ht]
  rw [hplan, State.inCycle_eq] at hturn
  exact step_of_cycle hturn

end

section
variable {s : State} {ks cs : List Nat} {j k : Nat}

/-- Two acts of a cycle by which slots of one core issue are one. -/
theorem State.cycleActs_one_per_core (hj : .issue j ∈ s.cycleActs ks cs) (hk : .issue k ∈ s.cycleActs ks cs)
    (h : coreOf j = coreOf k) : j = k := by
  have hj := State.of_mem_issuers (State.issue_mem_cycleActs.1 hj)
  have hk := State.of_mem_issuers (State.issue_mem_cycleActs.1 hk)
  exact Option.some.inj (hj.symm.trans (h ▸ hk))

theorem State.of_issue_mem_cycleActs (hj : .issue j ∈ s.cycleActs ks cs) :
    (j ∈ ks ∧ s.nextSlot (coreOf j) = some j) ∨
      (s.canIssue j = true ∧ ∃ k, (k ∈ ks ∧ s.nextSlot (coreOf k) = some k) ∧ j ∈ s.together k) := by
  obtain ⟨-, h⟩ := State.of_issuerOf (State.of_mem_issuers (State.issue_mem_cycleActs.1 hj))
  simpa only [State.mem_chosenOf] using h

theorem State.exists_issue_mem_cycleActs (hk : k ∈ ks ∧ s.nextSlot (coreOf k) = some k)
    (hj : j = k ∨ (j ∈ s.together k ∧ s.canIssue j = true)) : ∃ i, .issue i ∈ s.cycleActs ks cs ∧ coreOf i = coreOf j := by
  obtain ⟨i, hi, hcore⟩ := State.exists_issuer (State.mem_chosenOf.2 hk) hj
  exact ⟨i, State.issue_mem_cycleActs.2 hi, hcore⟩

end

/-- Settles O57: a slot that issues by the cases of `issueNow`, and a turn by the plan of its move; the acts of a cycle are
`cycleActs`. -/
theorem stepRunsDecoded : Obligations.StepRunsDecoded := by
  refine ⟨fun f k => ⟨fun hr => ?_, fun hr hi => ?_, fun h => ?_, fun hr hi hf => ?_, fun hr hi hf => ⟨fun e he => ?_, fun w u hu => ?_⟩⟩,
    fun s m rest hsched hfail => ?_⟩
  · rw [State.issueNow_of_not_ready hr]; rfl
  · rw [State.issueNow_of_interrupt hr hi]; rfl
  · have hc := (State.laneOf_chosen f k k).trans h
    exact ⟨State.feed_of_stray h, State.fed_of_stray hc, State.goes_of_stray hc, State.fetchFor_of_stray hc⟩
  · rw [State.issueNow_of_not_fed hr hi hf]; rfl
  · rw [State.issueNow_of_error hr hi hf he]; rfl
  · rw [State.issueNow_of_fetched hr hi hf hu]
    exact State.issueWord_runs u k w
  · have hturn := State.turn_of_sched hsched
    exact ⟨fun k => step_of_issue hturn hfail, fun k => step_of_issue_not_next hturn hfail, fun c e g d u => step_of_engine hturn hfail,
      fun ks cs hm => ⟨_, State.cycleActs_sorted, fun j k => State.cycleActs_one_per_core, fun j => State.of_issue_mem_cycleActs,
        fun k j => State.exists_issue_mem_cycleActs, fun c k => State.start_mem_cycleActs, step_of_inCycle hturn hfail hm⟩,
      fun i => step_of_event hturn hfail⟩

end Sys2Proof.Machine
end

section
/-!
SUPPORT. The fields of a 32-bit word (R64, R68): for each format, a word is the one put together from given fields
where each of its fields is the given one; and the codes that stand in fields (R69, R74, R75, R295).
-/

namespace Sys2Proof.Machine

/-! ### Words put together from fields -/

/-- A word is two parts put together where its upper and its lower bits are these. -/
theorem eq_append_iff {a b : Nat} {x : BitVec a} {y : BitVec b} {w : BitVec (a + b)} :
    w = x ++ y ↔ w.extractLsb' b a = x ∧ w.extractLsb' 0 b = y := by
  constructor
  · rintro rfl
    exact ⟨BitVec.extractLsb'_append_eq_left, BitVec.extractLsb'_append_eq_right⟩
  · rintro ⟨rfl, rfl⟩
    exact BitVec.extractLsb'_append_extractLsb'.symm

theorem extractLsb'_extractLsb' {v : Nat} (x : BitVec v) {s n t m : Nat} (h : t + m ≤ n) :
    (x.extractLsb' s n).extractLsb' t m = x.extractLsb' (s + t) m := by
  ext i hi
  simp [show t + i < n by omega, Nat.add_assoc]

section
variable {w : BitVec 32}

variable {rs2 rs1 rd : BitVec 5} {f3 : BitVec 3} {op : BitVec 7}

theorem fmtR_eq_iff {f7 : BitVec 7} : fmtR f7 rs2 rs1 f3 rd op = w ↔
    f7Of w = f7.toNat ∧ rs2Of w = rs2 ∧ rs1Of w = rs1 ∧ f3Of w = f3.toNat ∧ rdOf w = rd ∧ (fld w 0 7).toNat = op.toNat := by
  have h (w : BitVec (7 + 5 + 5 + 3 + 5 + 7)) : w = f7 ++ rs2 ++ rs1 ++ f3 ++ rd ++ op ↔ _ := eq_append_iff
  refine eq_comm.trans ((h w).trans ?_)
  simp +decide only [eq_append_iff, extractLsb'_extractLsb', and_assoc, f3Of, f7Of, BitVec.toNat_inj]
  rfl

theorem fmtI_eq_iff {imm : BitVec 12} : fmtI imm rs1 f3 rd op = w ↔
    immIOf w = imm ∧ rs1Of w = rs1 ∧ f3Of w = f3.toNat ∧ rdOf w = rd ∧ (fld w 0 7).toNat = op.toNat := by
  have h (w : BitVec (12 + 5 + 3 + 5 + 7)) : w = imm ++ rs1 ++ f3 ++ rd ++ op ↔ _ := eq_append_iff
  refine eq_comm.trans ((h w).trans ?_)
  simp +decide only [eq_append_iff, extractLsb'_extractLsb', and_assoc, f3Of, BitVec.toNat_inj]
  rfl

theorem fmtU_eq_iff {imm : BitVec 20} : fmtU imm rd op = w ↔ fld w 12 20 = imm ∧ rdOf w = rd ∧ (fld w 0 7).toNat = op.toNat := by
  have h (w : BitVec (20 + 5 + 7)) : w = imm ++ rd ++ op ↔ _ := eq_append_iff
  refine eq_comm.trans ((h w).trans ?_)
  simp +decide only [eq_append_iff, extractLsb'_extractLsb', and_assoc, BitVec.toNat_inj]
  rfl

theorem fmtO_eq_iff {off : BitVec 17} : fmtO off f3 rd = w ↔
    off17Of w = off ∧ f3Of w = f3.toNat ∧ rdOf w = rd ∧ (fld w 0 7).toNat = (0x0B : BitVec 7).toNat := by
  have h (w : BitVec (17 + 3 + 5 + 7)) : w = off ++ f3 ++ rd ++ (0x0B : BitVec 7) ↔ _ := eq_append_iff
  refine eq_comm.trans ((h w).trans ?_)
  simp +decide only [eq_append_iff, extractLsb'_extractLsb', and_assoc, f3Of, BitVec.toNat_inj]
  rfl

theorem fmtSh6_eq_iff {hi sh : BitVec 6} : fmtSh6 hi sh rs1 f3 rd = w ↔
    fld w 26 6 = hi ∧ fld w 20 6 = sh ∧ rs1Of w = rs1 ∧ f3Of w = f3.toNat ∧ rdOf w = rd ∧ (fld w 0 7).toNat = (0x13 : BitVec 7).toNat := by
  have h (w : BitVec (6 + 6 + 5 + 3 + 5 + 7)) : w = hi ++ sh ++ rs1 ++ f3 ++ rd ++ (0x13 : BitVec 7) ↔ _ := eq_append_iff
  refine eq_comm.trans ((h w).trans ?_)
  simp +decide only [eq_append_iff, extractLsb'_extractLsb', and_assoc, f3Of, BitVec.toNat_inj]
  rfl

theorem immSOf_eq_iff {imm : BitVec 12} : immSOf w = imm ↔ fld w 25 7 = imm.extractLsb' 5 7 ∧ fld w 7 5 = imm.extractLsb' 0 5 := by
  have h (imm : BitVec (7 + 5)) : imm = fld w 25 7 ++ fld w 7 5 ↔ _ := eq_append_iff
  refine eq_comm.trans ((h imm).trans (and_congr eq_comm eq_comm))

theorem fmtS_eq_iff {imm : BitVec 12} : fmtS imm rs2 rs1 f3 op = w ↔
    immSOf w = imm ∧ rs2Of w = rs2 ∧ rs1Of w = rs1 ∧ f3Of w = f3.toNat ∧ (fld w 0 7).toNat = op.toNat := by
  have h (w : BitVec (7 + 5 + 5 + 3 + 5 + 7)) :
    w = imm.extractLsb' 5 7 ++ rs2 ++ rs1 ++ f3 ++ imm.extractLsb' 0 5 ++ op ↔ _ := eq_append_iff
  refine eq_comm.trans ((h w).trans ?_)
  simp +decide only [eq_append_iff, extractLsb'_extractLsb', immSOf_eq_iff, and_assoc, f3Of, BitVec.toNat_inj]
  exact ⟨fun ⟨hhi, hrs2, hrs1, hf3, hlo, hop⟩ => ⟨hhi, hlo, hrs2, hrs1, hf3, hop⟩,
    fun ⟨hhi, hlo, hrs2, hrs1, hf3, hop⟩ => ⟨hhi, hrs2, hrs1, hf3, hlo, hop⟩⟩

theorem immBOf_eq_iff {imm : BitVec 12} : immBOf w = imm ↔
    fld w 31 1 = imm.extractLsb' 11 1 ∧ fld w 7 1 = imm.extractLsb' 10 1 ∧ fld w 25 6 = imm.extractLsb' 4 6 ∧
      fld w 8 4 = imm.extractLsb' 0 4 := by
  have h (imm : BitVec (1 + 1 + 6 + 4)) : imm = fld w 31 1 ++ fld w 7 1 ++ fld w 25 6 ++ fld w 8 4 ↔ _ := eq_append_iff
  refine eq_comm.trans ((h imm).trans ?_)
  simp +decide only [eq_append_iff, extractLsb'_extractLsb', and_assoc]
  exact and_congr eq_comm (and_congr eq_comm (and_congr eq_comm eq_comm))

theorem fmtB_eq_iff {imm : BitVec 12} : fmtB imm rs2 rs1 f3 = w ↔
    immBOf w = imm ∧ rs2Of w = rs2 ∧ rs1Of w = rs1 ∧ f3Of w = f3.toNat ∧ (fld w 0 7).toNat = (0x63 : BitVec 7).toNat := by
  have h (w : BitVec (1 + 6 + 5 + 5 + 3 + 4 + 1 + 7)) : w = imm.extractLsb' 11 1 ++ imm.extractLsb' 4 6 ++ rs2 ++ rs1 ++ f3
    ++ imm.extractLsb' 0 4 ++ imm.extractLsb' 10 1 ++ (0x63 : BitVec 7) ↔ _ := eq_append_iff
  refine eq_comm.trans ((h w).trans ?_)
  simp +decide only [eq_append_iff, extractLsb'_extractLsb', immBOf_eq_iff, and_assoc, f3Of, BitVec.toNat_inj]
  exact ⟨fun ⟨h12, h10, hrs2, hrs1, hf3, h4, h11, hop⟩ => ⟨h12, h11, h10, h4, hrs2, hrs1, hf3, hop⟩,
    fun ⟨h12, h11, h10, h4, hrs2, hrs1, hf3, hop⟩ => ⟨h12, h10, hrs2, hrs1, hf3, h4, h11, hop⟩⟩

theorem immJOf_eq_iff {imm : BitVec 20} : immJOf w = imm ↔
    fld w 31 1 = imm.extractLsb' 19 1 ∧ fld w 12 8 = imm.extractLsb' 11 8 ∧ fld w 20 1 = imm.extractLsb' 10 1 ∧
      fld w 21 10 = imm.extractLsb' 0 10 := by
  have h (imm : BitVec (1 + 8 + 1 + 10)) : imm = fld w 31 1 ++ fld w 12 8 ++ fld w 20 1 ++ fld w 21 10 ↔ _ := eq_append_iff
  refine eq_comm.trans ((h imm).trans ?_)
  simp +decide only [eq_append_iff, extractLsb'_extractLsb', and_assoc]
  exact and_congr eq_comm (and_congr eq_comm (and_congr eq_comm eq_comm))

theorem fmtJ_eq_iff {imm : BitVec 20} : fmtJ imm rd = w ↔ immJOf w = imm ∧ rdOf w = rd ∧ (fld w 0 7).toNat = (0x6F : BitVec 7).toNat := by
  have h (w : BitVec (1 + 10 + 1 + 8 + 5 + 7)) : w = imm.extractLsb' 19 1 ++ imm.extractLsb' 0 10 ++ imm.extractLsb' 10 1
    ++ imm.extractLsb' 11 8 ++ rd ++ (0x6F : BitVec 7) ↔ _ := eq_append_iff
  refine eq_comm.trans ((h w).trans ?_)
  simp +decide only [eq_append_iff, extractLsb'_extractLsb', immJOf_eq_iff, and_assoc, BitVec.toNat_inj]
  exact ⟨fun ⟨h20, h10, h11, h19, hrd, hop⟩ => ⟨h20, h19, h11, h10, hrd, hop⟩,
    fun ⟨h20, h19, h11, h10, hrd, hop⟩ => ⟨h20, h10, h11, h19, hrd, hop⟩⟩

theorem eq_bitOf_iff {x : BitVec 1} {b : Bool} : x = bitOf b ↔ decide (x = 1#1) = b := by revert x b; decide

theorem fmtAmo_eq_iff {f5 : BitVec 5} {aq rl : Bool} : fmtAmo f5 aq rl rs2 rs1 f3 rd = w ↔
    (fld w 27 5).toNat = f5.toNat ∧ decide (fld w 26 1 = 1#1) = aq ∧ decide (fld w 25 1 = 1#1) = rl ∧ rs2Of w = rs2 ∧ rs1Of w = rs1 ∧
      f3Of w = f3.toNat ∧ rdOf w = rd ∧ (fld w 0 7).toNat = (0x2F : BitVec 7).toNat := by
  have h (w : BitVec (5 + 1 + 1 + 5 + 5 + 3 + 5 + 7)) :
    w = f5 ++ bitOf aq ++ bitOf rl ++ rs2 ++ rs1 ++ f3 ++ rd ++ (0x2F : BitVec 7) ↔ _ := eq_append_iff
  refine eq_comm.trans ((h w).trans ?_)
  simp +decide only [eq_append_iff, extractLsb'_extractLsb', and_assoc, f3Of, BitVec.toNat_inj, ← eq_bitOf_iff]
  rfl

theorem fmtV_eq_iff {vop : BitVec 4} {et : BitVec 3} {vs2 vs1 vd : BitVec 6} : fmtV vop et vs2 vs1 vd op = w ↔
    (fld w 28 4).toNat = vop.toNat ∧ fld w 25 3 = et ∧ vs2Of w = vs2 ∧ vs1Of w = vs1 ∧ vdOf w = vd ∧ (fld w 0 7).toNat = op.toNat := by
  have h (w : BitVec (4 + 3 + 6 + 6 + 6 + 7)) : w = vop ++ et ++ vs2 ++ vs1 ++ vd ++ op ↔ _ := eq_append_iff
  refine eq_comm.trans ((h w).trans ?_)
  simp +decide only [eq_append_iff, extractLsb'_extractLsb', and_assoc, BitVec.toNat_inj]
  rfl

theorem fmtVC_eq_iff {vop : BitVec 4} {a b : BitVec 3} {rm : BitVec 2} {ov : Bool} {vs1 vd : BitVec 6} : fmtVC vop a b rm ov vs1 vd = w ↔
    (fld w 28 4).toNat = vop.toNat ∧ fld w 25 3 = a ∧ fld w 22 3 = b ∧ fld w 20 2 = rm ∧ decide (fld w 19 1 = 1#1) = ov ∧ vs1Of w = vs1 ∧
      vdOf w = vd ∧ (fld w 0 7).toNat = (0x5B : BitVec 7).toNat := by
  have h (w : BitVec (4 + 3 + 3 + 2 + 1 + 6 + 6 + 7)) :
    w = vop ++ a ++ b ++ rm ++ bitOf ov ++ vs1 ++ vd ++ (0x5B : BitVec 7) ↔ _ := eq_append_iff
  refine eq_comm.trans ((h w).trans ?_)
  simp +decide only [eq_append_iff, extractLsb'_extractLsb', and_assoc, BitVec.toNat_inj, ← eq_bitOf_iff]
  rfl

theorem fmtVM_eq_iff {vd imm : BitVec 6} {kind : BitVec 3} : fmtVM vd imm rs1 kind = w ↔
    fld w 26 6 = vd ∧ fld w 20 6 = imm ∧ rs1Of w = rs1 ∧ f3Of w = (5 : BitVec 3).toNat ∧
      (fld w 9 3).toNat = kind.toNat ∧ fld w 7 2 = 0 ∧ (fld w 0 7).toNat = (0x7B : BitVec 7).toNat := by
  have h (w : BitVec (6 + 6 + 5 + 3 + 3 + 2 + 7)) :
    w = vd ++ imm ++ rs1 ++ (5 : BitVec 3) ++ kind ++ (0 : BitVec 2) ++ (0x7B : BitVec 7) ↔ _ := eq_append_iff
  refine eq_comm.trans ((h w).trans ?_)
  simp +decide only [eq_append_iff, extractLsb'_extractLsb', and_assoc, f3Of, BitVec.toNat_inj]
  rfl

end

/-! ### The codes of the fields (R69, R74, R75, R295) -/

theorem elemTy_ofBits_eq_iff {b : BitVec 3} {et : ElemTy} : b = et.toBits ↔ ElemTy.ofBits b = et := by
  revert b; cases et <;> decide

theorem rm_ofBits_eq_iff {b : BitVec 2} {rm : Rm} : b = rm.toBits ↔ Rm.ofBits b = rm := by
  revert b; cases rm <;> decide

theorem scope_ofBits_eq_iff {b : BitVec 5} {sc : Scope} : b = sc.toBits ↔ Scope.ofBits? b = some sc := by
  revert b; cases sc <;> decide

theorem engine_ofBits_eq_iff {b : BitVec 5} {e : Engine} : b = e.toBits ↔ Engine.ofBits? b = some e := by
  revert b; cases e <;> decide

theorem redKind_ofBits_eq_iff {b : BitVec 6} {k : RedKind} : b = k.toBits ↔ RedKind.ofBits? b = some k := by
  revert b; cases k <;> decide

theorem sfKind_ofBits_eq_iff {b : BitVec 6} {k : SfKind} : b = k.toBits ↔ SfKind.ofBits? b = some k := by
  revert b; cases k <;> decide

theorem rowMode_ofBits_eq_iff {b : BitVec 6} {m : RowMode} : b = m.toBits ↔ RowMode.ofBits? b = some m := by
  revert b; cases m <;> decide

theorem fp8Kind_ofBit_eq_iff {b : BitVec 1} {k : Fp8Kind} : b = k.toBit ↔ Fp8Kind.ofBit b = k := by
  revert b; cases k <;> decide

theorem wideKind_ofBit_eq_iff {b : BitVec 1} {k : WideKind} : b = k.toBit ↔ WideKind.ofBit b = k := by
  revert b; cases k <;> decide

/-! ### Fields that consist of fields -/

section
variable {w : BitVec 32}

/-- A field that is two parts put together is two fields side by side. -/
theorem fld_eq_append_iff (lo a b : Nat) {x : BitVec a} {y : BitVec b} :
    fld w lo (a + b) = x ++ y ↔ fld w (lo + b) a = x ∧ fld w lo b = y := by
  rw [eq_append_iff, fld, extractLsb'_extractLsb' _ (by omega), extractLsb'_extractLsb' _ (by omega)]
  rfl

theorem etOf_eq_iff {et : ElemTy} : fld w 25 3 = et.toBits ↔ etOf w = et := elemTy_ofBits_eq_iff

theorem immIOf_eq_append_iff {x : BitVec 4} {y : BitVec 8} : immIOf w = x ++ y ↔ fld w 28 4 = x ∧ fld w 20 8 = y := fld_eq_append_iff 20 4 8

theorem rdOf_eq_append_iff {x : BitVec 2} {y : BitVec 3} : rdOf w = x ++ y ↔ fld w 10 2 = x ∧ fld w 7 3 = y := fld_eq_append_iff 7 2 3

theorem rs2Of_eq_append_iff {x : BitVec 1} {y : BitVec 4} : rs2Of w = x ++ y ↔ fld w 24 1 = x ∧ fld w 20 4 = y := fld_eq_append_iff 20 1 4

theorem vs1Of_eq_append_iff {x : BitVec 1} {y : BitVec 5} : vs1Of w = x ++ y ↔ fld w 18 1 = x ∧ fld w 13 5 = y := fld_eq_append_iff 13 1 5

theorem vs1Of_eq_append_iff' {x : BitVec 2} {y : BitVec 4} : vs1Of w = x ++ y ↔ fld w 17 2 = x ∧ fld w 13 4 = y := fld_eq_append_iff 13 2 4

theorem vdOf_eq_append_iff {x : BitVec 1} {y : BitVec 5} : vdOf w = x ++ y ↔ fld w 12 1 = x ∧ fld w 7 5 = y := fld_eq_append_iff 7 1 5

theorem vcvt8_bits_iff {d : BitVec 1} {k : Fp8Kind} {wide : WideKind} : fld w 25 3 = d ++ k.toBit ++ wide.toBit ↔
    fld w 27 1 = d ∧ Fp8Kind.ofBit (fld w 26 1) = k ∧ WideKind.ofBit (fld w 25 1) = wide := by
  rw [← fp8Kind_ofBit_eq_iff, ← wideKind_ofBit_eq_iff, ← and_assoc]
  exact (fld_eq_append_iff 25 2 1).trans (and_congr_left' (fld_eq_append_iff 26 1 1))

/-- VCVT8 from FP8 has zeros in [21:19], where the other direction has its rounding mode and overflow bit. -/
theorem vcvt8_zero_iff : fld w 19 3 = 0#3 ↔ fld w 20 2 = 0#2 ∧ ¬ fld w 19 1 = 1#1 :=
  (fld_eq_append_iff 19 2 1 (x := 0) (y := bitOf false)).trans
    (and_congr_right' (eq_bitOf_iff.trans decide_eq_false_iff_not))

end

end Sys2Proof.Machine
end

section
/-!
SUPPORT. A word that decodes is the word of what it decodes to (R59, R63 to R78): one lemma for each table of the decoder.
-/

namespace Sys2Proof.Machine

/-- What a table of the decoder answers for `w`, if it answers, has the word `w`. -/
def EncodesTo (w : BitVec 32) (x : Option Instr) : Prop := Offers (fun i => encodeWord i = some w) x

section
variable {w : BitVec 32}

@[simp] theorem encodesTo_some {i : Instr} : EncodesTo w (some i) ↔ encodeWord i = some w := by simp [EncodesTo, Offers]

@[simp] theorem encodesTo_none : EncodesTo w none := Offers.none

@[simp] theorem encodesTo_ifZero {b : Bool} {i : Instr} : EncodesTo w (ifZero b i) ↔ (b = true → encodeWord i = some w) := by
  cases b <;> simp [ifZero]

@[simp] theorem encodesTo_ite {c : Prop} [Decidable c] {x y : Option Instr} :
    EncodesTo w (if c then x else y) ↔ (c → EncodesTo w x) ∧ (¬ c → EncodesTo w y) := by
  split <;> simp [*]

@[simp] theorem encodesTo_map {α : Type} {x : Option α} {f : α → Instr} :
    EncodesTo w (x.map f) ↔ ∀ a, x = some a → encodeWord (f a) = some w := by
  cases x <;> simp

@[simp] theorem encodesTo_bind {α : Type} {x : Option α} {f : α → Option Instr} :
    EncodesTo w (x.bind f) ↔ ∀ a, x = some a → EncodesTo w (f a) := by
  cases x <;> simp

theorem decodeLoad_encodes (op : (fld w 0 7).toNat = 0x03) : EncodesTo w (decodeLoad w) := by
  unfold decodeLoad
  split <;> simp [encodeWord, fmtI_eq_iff, *]

theorem decodeStore_encodes (op : (fld w 0 7).toNat = 0x23) : EncodesTo w (decodeStore w) := by
  unfold decodeStore
  split <;> simp [encodeWord, fmtS_eq_iff, *]

theorem decodeBranch_encodes (op : (fld w 0 7).toNat = 0x63) : EncodesTo w (decodeBranch w) := by
  unfold decodeBranch
  split <;> simp [encodeWord, fmtB_eq_iff, *]

theorem decodeOpImm_encodes (op : (fld w 0 7).toNat = 0x13) : EncodesTo w (decodeOpImm w) := by
  unfold decodeOpImm
  split <;> simp +contextual [encodeWord, fmtI_eq_iff, fmtSh6_eq_iff, *]

theorem decodeOpImm32_encodes (op : (fld w 0 7).toNat = 0x1B) : EncodesTo w (decodeOpImm32 w) := by
  unfold decodeOpImm32
  split <;> simp +contextual [encodeWord, fmtI_eq_iff, fmtR_eq_iff, rs2Of, *]

theorem decodeOp_encodes (op : (fld w 0 7).toNat = 0x33) : EncodesTo w (decodeOp w) := by
  unfold decodeOp
  split <;> simp [encodeWord, fmtR_eq_iff, *]

theorem decodeOp32_encodes (op : (fld w 0 7).toNat = 0x3B) : EncodesTo w (decodeOp32 w) := by
  unfold decodeOp32
  split <;> simp [encodeWord, fmtR_eq_iff, *]

theorem decodeMiscMem_encodes (op : (fld w 0 7).toNat = 0x0F) : EncodesTo w (decodeMiscMem w) := by
  unfold decodeMiscMem
  split <;> simp [encodeWord, fmtI_eq_iff, *]

theorem decodeAmo_encodes (op : (fld w 0 7).toNat = 0x2F) : EncodesTo w (decodeAmo w) := by
  unfold decodeAmo
  split <;> simp [encodeWord, fmtAmo_eq_iff, *]

theorem decodeSystem_encodes (op : (fld w 0 7).toNat = 0x73) : EncodesTo w (decodeSystem w) := by
  unfold decodeSystem
  split
  case h_1 => simp +contextual [encodeWord]
  all_goals simp [encodeWord, fmtI_eq_iff, *]

theorem decodeCustom0A_encodes (op : (fld w 0 7).toNat = 0x0B) (f3 : f3Of w = 0) : EncodesTo w (decodeCustom0A w) := by
  unfold decodeCustom0A
  split <;> simp +contextual [encodeWord, fmtR_eq_iff, rs2Of_eq_append_iff, *]

theorem decodeCustom0_encodes (op : (fld w 0 7).toNat = 0x0B) : EncodesTo w (decodeCustom0 w) := by
  unfold decodeCustom0
  split
  case h_1 f3 => exact decodeCustom0A_encodes op f3
  all_goals simp +contextual [encodeWord, fmtI_eq_iff, fmtO_eq_iff, immIOf_eq_append_iff, rdOf_eq_append_iff, *]

theorem etOf_eq_i32_iff : fld w 25 3 = 2#3 ↔ etOf w = .i32 := etOf_eq_iff (et := .i32)

theorem etOf_eq_i64_iff : fld w 25 3 = 3#3 ↔ etOf w = .i64 := etOf_eq_iff (et := .i64)

theorem etOf_eq_fp32_iff : fld w 25 3 = 6#3 ↔ etOf w = .fp32 := etOf_eq_iff (et := .fp32)

theorem decodeCustom1_encodes (op : (fld w 0 7).toNat = 0x2B) : EncodesTo w (decodeCustom1 w) := by
  unfold decodeCustom1
  split <;> simp [encodeWord, fmtV_eq_iff, etOf_eq_iff, etOf_eq_i64_iff, *]

theorem decodeVcvt8_encodes (op : (fld w 0 7).toNat = 0x5B) (vop : (fld w 28 4).toNat = 8) : EncodesTo w (decodeVcvt8 w) := by
  simp only [decodeVcvt8, encodesTo_ite, encodesTo_none, encodesTo_some, encodesTo_ifZero, implies_true, true_and]
  refine fun _ => ⟨fun dir => ?_, fun dir zero => ?_⟩
  · simp [encodeWord, fmtVC_eq_iff, vcvt8_bits_iff, rm_ofBits_eq_iff, *]
  · have hdir : fld w 27 1 = 1#1 := by simpa using (BitVec.eq_zero_or_eq_one (fld w 27 1)).resolve_left dir
    simpa [encodeWord, fmtVC_eq_iff, vcvt8_bits_iff, vcvt8_zero_iff, hdir, *] using zero

theorem decodeCustom2_encodes (op : (fld w 0 7).toNat = 0x5B) : EncodesTo w (decodeCustom2 w) := by
  unfold decodeCustom2
  split
  case h_9 vop => exact decodeVcvt8_encodes op vop
  case h_8 vop => simp [encodeWord, fmtVC_eq_iff, rm_ofBits_eq_iff, elemTy_ofBits_eq_iff, etOf, *]
  all_goals simp +contextual [encodeWord, fmtV_eq_iff, etOf_eq_iff, etOf_eq_i32_iff, etOf_eq_fp32_iff,
    redKind_ofBits_eq_iff, sfKind_ofBits_eq_iff, rowMode_ofBits_eq_iff,
    vs1Of_eq_append_iff, vs1Of_eq_append_iff', vdOf_eq_append_iff, *]

theorem decodeVm_encodes (op : (fld w 0 7).toNat = 0x7B) (f3 : f3Of w = 5) : EncodesTo w (decodeVm w) := by
  simp only [decodeVm, encodesTo_ite, encodesTo_none, implies_true, true_and, not_not]
  intro low
  split <;> simp [encodeWord, fmtVM_eq_iff, *]

theorem decodeCustom3A_encodes (op : (fld w 0 7).toNat = 0x7B) : EncodesTo w (decodeCustom3A w) := by
  unfold decodeCustom3A
  split <;> simp +contextual [encodeWord, fmtR_eq_iff, withEngine, withScope, scope_ofBits_eq_iff, engine_ofBits_eq_iff, *]

theorem encodesTo_decodeWord : EncodesTo w (decodeWord w) := by
  unfold decodeWord
  split
  case h_1 | h_2 => simp [encodeWord, fmtU_eq_iff, *]
  case h_3 => simp [encodeWord, fmtJ_eq_iff, *]
  case h_4 => simp +contextual [encodeWord, fmtI_eq_iff, *]
  case h_18 op =>
    rw [decodeCustom3, encodesTo_ite]
    exact ⟨decodeVm_encodes op, fun _ => decodeCustom3A_encodes op⟩
  all_goals simp [decodeBranch_encodes, decodeLoad_encodes, decodeStore_encodes, decodeOpImm_encodes, decodeOpImm32_encodes,
    decodeOp_encodes, decodeOp32_encodes, decodeMiscMem_encodes, decodeAmo_encodes, decodeSystem_encodes, decodeCustom0_encodes,
    decodeCustom1_encodes, decodeCustom2_encodes, *]

end

theorem encodeWord_of_decodeWord {w : BitVec 32} {i : Instr} (h : decodeWord w = some i) : encodeWord i = some w :=
  encodesTo_decodeWord i h

end Sys2Proof.Machine
end

section
/-!
SUPPORT. The word of a well-formed instruction decodes to it (R59, R63 to R78), row by row in the groups of the decoder's tables.
-/

namespace Sys2Proof.Machine

/-- The rows of custom-3 outside format VM that stand first for their word (R76, R78). -/
def isCustom3 : Instr → Bool
  | .enq _ _ _ | .enqm _ _ _ | .eqwait _ | .eqstat _ _ | .barInit _ _ | .barExpect _ _ | .barArrive _ _ | .barWait _ _ _
  | .barTest _ _ _ | .ldaq _ _ _ | .strl _ _ _ | .fenceAq _ | .fenceRl _ | .fenceAr _ | .invl _ | .wbk _ | .stNt _ _ | .pref _
  | .amofaddS _ _ _ | .amofaddD _ _ _ | .amofmaxS _ _ _ | .gdepx _ _ | .gdepw _ _ | .gest _ _ | .gspread _ _ | .gxch _ _
  | .gmass _ _ | .ctxSave _ _ | .ctxRest _ _ _ | .plbFill _ _ | .plbInv _ | .tslice _ _ | .ruleInst _ _ | .ruleAct _ _ | .minj _ _
  | .slotResume _ | .slotKill _ | .commonsCfgDefine _ | .pgFlush _ | .waysCfg _ _ => true
  | _ => false

theorem decodeWord_of_encodeWord_custom3 {i : Instr} {w : BitVec 32} (hi : isCustom3 i = true) (h : encodeWord i = some w) :
    decodeWord w = some i := by
  cases i
  case enq | enqm | eqwait | eqstat | barInit | barExpect | barArrive | barWait | barTest | ldaq | strl | fenceAq | fenceRl | fenceAr
      | invl | wbk | stNt | pref | amofaddS | amofaddD | amofmaxS | gdepx | gdepw | gest | gspread | gxch | gmass | ctxSave | ctxRest
      | plbFill | plbInv | tslice | ruleInst | ruleAct | minj | slotResume | slotKill | commonsCfgDefine | pgFlush | waysCfg =>
    simp only [encodeWord, Option.some.injEq, fmtR_eq_iff, scope_ofBits_eq_iff, engine_ofBits_eq_iff] at h
    simp [decodeWord, decodeCustom3, decodeCustom3A, ifZero, withScope, withEngine, h]
  all_goals cases hi

theorem decodeWord_of_encodeWord {i : Instr} {w : BitVec 32} (h : encodeWord i = some w) (wf : i.wf = true)
    (hssip : ∀ r, i ≠ .slotResumeSsip r) (hremove : ∀ r, i ≠ .commonsCfgRemove r) (hreport : ∀ r, i ≠ .commonsCfgReport r) :
    decodeWord w = some i := by
  cases i
  case add | sub | sll | slt | sltu | xor | srl | sra | or | and | mul | mulh | mulhsu | mulhu | div | divu | rem | remu =>
    simp only [encodeWord, Option.some.injEq, fmtR_eq_iff] at h
    simp [decodeWord, decodeOp, h]
  case addw | subw | sllw | srlw | sraw | mulw | divw | divuw | remw | remuw =>
    simp only [encodeWord, Option.some.injEq, fmtR_eq_iff] at h
    simp [decodeWord, decodeOp32, h]
  case lui | auipc =>
    simp only [encodeWord, Option.some.injEq, fmtU_eq_iff] at h
    simp [decodeWord, h]
  case jal =>
    simp only [encodeWord, Option.some.injEq, fmtJ_eq_iff] at h
    simp [decodeWord, h]
  case jalr =>
    simp only [encodeWord, Option.some.injEq, fmtI_eq_iff] at h
    simp [decodeWord, ifZero, h]
  case beq | bne | blt | bge | bltu | bgeu =>
    simp only [encodeWord, Option.some.injEq, fmtB_eq_iff] at h
    simp [decodeWord, decodeBranch, h]
  case lb | lh | lw | ld | lbu | lhu | lwu =>
    simp only [encodeWord, Option.some.injEq, fmtI_eq_iff] at h
    simp [decodeWord, decodeLoad, h]
  case sb | sh | sw | sd =>
    simp only [encodeWord, Option.some.injEq, fmtS_eq_iff] at h
    simp [decodeWord, decodeStore, h]
  case addi | slti | sltiu | xori | ori | andi =>
    simp only [encodeWord, Option.some.injEq, fmtI_eq_iff] at h
    simp [decodeWord, decodeOpImm, h]
  case slli | srli | srai =>
    simp only [encodeWord, Option.some.injEq, fmtSh6_eq_iff] at h
    simp [decodeWord, decodeOpImm, ifZero, h]
  case addiw =>
    simp only [encodeWord, Option.some.injEq, fmtI_eq_iff] at h
    simp [decodeWord, decodeOpImm32, h]
  case slliw | srliw | sraiw =>
    simp only [encodeWord, Option.some.injEq, fmtR_eq_iff, rs2Of] at h
    simp [decodeWord, decodeOpImm32, ifZero, h]
  case fence | fenceI =>
    simp only [encodeWord, Option.some.injEq, fmtI_eq_iff] at h
    simp [decodeWord, decodeMiscMem, h]
  case lrW | scW | amoswapW | amoaddW | amoxorW | amoandW | amoorW | amominW | amomaxW | amominuW | amomaxuW
      | lrD | scD | amoswapD | amoaddD | amoxorD | amoandD | amoorD | amominD | amomaxD | amominuD | amomaxuD =>
    simp only [encodeWord, Option.some.injEq, fmtAmo_eq_iff] at h
    simp [decodeWord, decodeAmo, ifZero, h]
  case ecall | ebreak | sret | wfi | mret =>
    simp only [encodeWord, Option.some.injEq] at h
    subst h
    decide
  case csrrw | csrrs | csrrc | csrrwi | csrrsi | csrrci =>
    simp only [encodeWord, Option.some.injEq, fmtI_eq_iff] at h
    simp [decodeWord, decodeSystem, h]
  case padd | ptag | pget | pbase | leave | cvsync | cvstat | nestSet | nestStat | send | sendC | done | sealF | hbind | qctl | qstat
      | launch | sigset | sigclr | sigtest | stashAlloc | stashFree =>
    simp only [encodeWord, Option.some.injEq, fmtR_eq_iff, rs2Of_eq_append_iff] at h
    simp [decodeWord, decodeCustom0, decodeCustom0A, ifZero, h]
  case paddi | ptagi | repi | rep =>
    simp only [encodeWord, Option.some.injEq, fmtI_eq_iff, immIOf_eq_append_iff, rdOf_eq_append_iff] at h
    simp [decodeWord, decodeCustom0, ifZero, h]
  case nestNext | join | joinT =>
    simp only [encodeWord, Option.some.injEq, fmtO_eq_iff] at h
    simp_all [decodeWord, decodeCustom0, ifZero]
  case vadd | vsub | vmul | vfma | vfnma | vmin | vmax | vcmple | vshl | vshr | vshra | vcmplt | vcmpeq =>
    simp only [encodeWord, Option.some.injEq, fmtV_eq_iff, etOf_eq_iff] at h
    simp_all [decodeWord, decodeCustom1, ifZero]
  case vand | vor | vxor =>
    simp only [encodeWord, Option.some.injEq, fmtV_eq_iff] at h
    simp [decodeWord, decodeCustom1, ifZero, ← etOf_eq_i64_iff, h]
  case vsel | vshuf | vzip | vunzip | vred | vdiv | vsf =>
    simp only [encodeWord, Option.some.injEq, fmtV_eq_iff, etOf_eq_iff, redKind_ofBits_eq_iff, sfKind_ofBits_eq_iff] at h
    simp_all [decodeWord, decodeCustom2, ifZero]
  case vins | vext | vbcast =>
    simp only [encodeWord, Option.some.injEq, fmtV_eq_iff, etOf_eq_iff, vs1Of_eq_append_iff, vdOf_eq_append_iff] at h
    simp_all [decodeWord, decodeCustom2, ifZero]
  case vrowst =>
    simp only [encodeWord, Option.some.injEq, fmtV_eq_iff, vs1Of_eq_append_iff', rowMode_ofBits_eq_iff] at h
    simp_all [decodeWord, decodeCustom2, ← etOf_eq_fp32_iff]
  case vdmask =>
    simp only [encodeWord, Option.some.injEq, fmtV_eq_iff] at h
    simp [decodeWord, decodeCustom2, ifZero, ← etOf_eq_i32_iff, h]
  case vcvt =>
    simp only [encodeWord, Option.some.injEq, fmtVC_eq_iff, elemTy_ofBits_eq_iff, rm_ofBits_eq_iff] at h
    have distinct : fld w 25 3 ≠ fld w 22 3 := by
      intro same
      obtain ⟨-, hdst, hsrc, -⟩ := h
      simp [← hdst, ← hsrc, same] at wf
    simp_all [decodeWord, decodeCustom2, ifZero, etOf]
  case vcvt8ToFp8 =>
    simp only [encodeWord, Option.some.injEq, fmtVC_eq_iff, vcvt8_bits_iff, rm_ofBits_eq_iff] at h
    simp_all [decodeWord, decodeCustom2, decodeVcvt8]
  case vcvt8FromFp8 =>
    simp only [encodeWord, Option.some.injEq, fmtVC_eq_iff, vcvt8_bits_iff] at h
    simp_all [decodeWord, decodeCustom2, decodeVcvt8, ifZero, vcvt8_zero_iff]
  case vld | vst | vstNt | vldRo | vldb =>
    simp only [encodeWord, Option.some.injEq, fmtVM_eq_iff] at h
    simp [decodeWord, decodeCustom3, decodeVm, h]
  case enq | enqm | eqwait | eqstat | barInit | barExpect | barArrive | barWait | barTest | ldaq | strl | fenceAq | fenceRl | fenceAr
      | invl | wbk | stNt | pref | amofaddS | amofaddD | amofmaxS | gdepx | gdepw | gest | gspread | gxch | gmass | ctxSave | ctxRest
      | plbFill | plbInv | tslice | ruleInst | ruleAct | minj | slotResume | slotKill | commonsCfgDefine | pgFlush | waysCfg =>
    exact decodeWord_of_encodeWord_custom3 rfl h
  case slotResumeSsip r => exact absurd rfl (hssip r)
  case commonsCfgRemove r => exact absurd rfl (hremove r)
  case commonsCfgReport r => exact absurd rfl (hreport r)
  all_goals cases h

/-- Settles O55: each table of the decoder and the fields of each format, read in both directions. -/
theorem wordsRoundTrip : Obligations.WordsRoundTrip :=
  ⟨fun _ _ => decodeWord_of_encodeWord, fun _ _ h => ⟨encodeWord_of_decodeWord h, decodeWord_wf h⟩⟩

end Sys2Proof.Machine
end

section
/-!
SUPPORT. Tile command words (R81 to R84): where their fields stand, and that a command's words are parsed to it.
-/

namespace Sys2Proof.Machine

/-! ### The fields of a tile command word -/

/-- The header of a command in the low half of its q0 (R82). -/
theorem hdrBits_eq_iff {h : TcwHdr} {eop : BitVec 8} {e : BitVec 3} {q : Word} : qfld q 0 32 = hdrBits h eop e ↔
    qfld q 21 11 = 0 ∧ qfld q 20 1 = bitOf h.ov ∧ qfld q 18 2 = h.rm.toBits ∧ qfld q 15 3 = h.cq ∧
      qfld q 14 1 = bitOf h.cmsg ∧ qfld q 11 3 = h.prio ∧ qfld q 8 3 = e ∧ qfld q 0 8 = eop := by
  have split (w : BitVec (11 + 1 + 2 + 3 + 1 + 3 + 3 + 8)) :
      w = (0 : BitVec 11) ++ bitOf h.ov ++ h.rm.toBits ++ h.cq ++ bitOf h.cmsg ++ h.prio ++ e ++ eop ↔ _ := eq_append_iff
  refine (split (qfld q 0 32)).trans ?_
  simp +decide only [eq_append_iff, extractLsb'_extractLsb', and_assoc, qfld]

/-- The header of a command is what the low half of its q0 says. -/
theorem headed_iff {t : Tcw} {h : TcwHdr} {eop : BitVec 8} {e : BitVec 3} : qfld t.q0 0 32 = hdrBits h eop e ↔
    t.hdr = h ∧ t.eop = eop.toNat ∧ qfld t.q0 8 3 = e ∧ qfld t.q0 21 11 = 0 := by
  obtain ⟨prio, cmsg, cq, rm, ov⟩ := h
  simp only [hdrBits_eq_iff, eq_bitOf_iff, rm_ofBits_eq_iff, Tcw.hdr, Tcw.eop, TcwHdr.mk.injEq, BitVec.toNat_inj]
  tauto

theorem tcw_eq_iff {t : Tcw} {q0 q1 q2 q3 : Word} :
    ({ q0 := q0, q1 := q1, q2 := q2, q3 := q3 } : Tcw) = t ↔ t.q0 = q0 ∧ t.q1 = q1 ∧ t.q2 = q2 ∧ t.q3 = q3 := by
  cases t
  simp [eq_comm]

@[simp] theorem wf_cpy2d {hd : TcwHdr} {b : BarRef} {f : Copy2F} :
    (Instr.cpy2d hd b f).wf = (b.wf && f.rowlim = 0 && f.collim = 0) := rfl

@[simp] theorem wf_cpyt {hd : TcwHdr} {b : BarRef} {f : Copy2F} :
    (Instr.cpyt hd b f).wf = (b.wf && f.rows.toNat < 256 && f.cols.toNat < 256) := rfl

section
variable {q : Word}

theorem qfld_eq_append_iff (lo a b : Nat) {x : BitVec a} {y : BitVec b} :
    qfld q lo (a + b) = x ++ y ↔ qfld q (lo + b) a = x ∧ qfld q lo b = y := by
  rw [eq_append_iff, qfld, extractLsb'_extractLsb' _ (by omega), extractLsb'_extractLsb' _ (by omega)]
  rfl

theorem word_eq_iff {w : Word} : q = w ↔ qfld q 0 64 = w := by simp [qfld]
end

/-- A count of CPYT has eight bits in its word. -/
theorem cpyt_count {n : BitVec 16} (h : n.toNat < 256) : (0 : BitVec 8) ++ n.extractLsb' 0 8 = n := by
  have top : n.extractLsb' 8 8 = 0 := by
    apply BitVec.eq_of_toNat_eq
    simp [Nat.shiftRight_eq_div_pow, Nat.div_eq_of_lt h]
  exact ((eq_append_iff (a := 8) (b := 8)).2 ⟨top, rfl⟩).symm

section
variable {t : Tcw} {hd : TcwHdr} {eop : BitVec 8} {e : BitVec 3}

theorem fields_of_productTcw {f : ProductF} (h : productTcw hd eop f = t) : t.hdr = hd ∧ t.eop = eop.toNat ∧ t.product = f := by
  simp only [productTcw, tcw_eq_iff, word_eq_iff (q := t.q0), word_eq_iff (q := t.q2), qfld_eq_append_iff 0 32 32, headed_iff,
    qfld_eq_append_iff 32 24 8, qfld_eq_append_iff 40 22 2, qfld_eq_append_iff 42 21 1, qfld_eq_append_iff 43 20 1,
    qfld_eq_append_iff 44 19 1, qfld_eq_append_iff 45 14 5, qfld_eq_append_iff 50 1 13, qfld_eq_append_iff 0 48 16,
    qfld_eq_append_iff 16 32 16, qfld_eq_append_iff 40 11 13, eq_bitOf_iff] at h
  simp [Tcw.product, h]

theorem fields_of_accMoveTcw {f : AccMoveF} (h : accMoveTcw hd eop f = t) : t.hdr = hd ∧ t.eop = eop.toNat ∧ t.accMove = f := by
  simp only [accMoveTcw, tcw_eq_iff, word_eq_iff (q := t.q0), word_eq_iff (q := t.q2), qfld_eq_append_iff 0 32 32, headed_iff,
    qfld_eq_append_iff 32 30 2, qfld_eq_append_iff 34 29 1, qfld_eq_append_iff 35 21 8, qfld_eq_append_iff 43 14 7,
    qfld_eq_append_iff 0 48 16, eq_bitOf_iff] at h
  simp [Tcw.accMove, h]

theorem fields_of_updTcw {f : UpdF} (h : updTcw hd eop f = t) : t.hdr = hd ∧ t.eop = eop.toNat ∧ t.upd = f := by
  simp only [updTcw, tcw_eq_iff, word_eq_iff (q := t.q0), word_eq_iff (q := t.q3), qfld_eq_append_iff 0 32 32, headed_iff,
    qfld_eq_append_iff 32 8 24, qfld_eq_append_iff 56 5 3, qfld_eq_append_iff 0 39 25, qfld_eq_append_iff 25 32 7] at h
  simp [Tcw.upd, h]

theorem copyQ0_eq_iff {b : BarRef} {top : BitVec 11} : t.q0 = copyQ0 hd eop e b top ↔
    (t.hdr = hd ∧ t.eop = eop.toNat ∧ qfld t.q0 8 3 = e ∧ qfld t.q0 21 11 = 0) ∧ t.bar = b ∧ qfld t.q0 53 11 = top := by
  simp only [copyQ0, word_eq_iff (q := t.q0), qfld_eq_append_iff 0 32 32, headed_iff, qfld_eq_append_iff 32 12 20,
    qfld_eq_append_iff 52 11 1, eq_bitOf_iff]
  cases b
  simp only [Tcw.bar, BarRef.mk.injEq]
  tauto

end

/-- What a command word is parsed to is the command it encodes. -/
theorem parseTcw_of_encodeTcw {i : Instr} {t : Tcw} (h : encodeTcw i = some t) (wf : i.wf = true) : parseTcw t = some i := by
  cases i
  case mwload hd f =>
    simp only [encodeTcw, Option.some.injEq, tcw_eq_iff, word_eq_iff (q := t.q0), word_eq_iff (q := t.q2), qfld_eq_append_iff 0 32 32,
      headed_iff, qfld_eq_append_iff 32 23 9, qfld_eq_append_iff 41 16 7, qfld_eq_append_iff 48 15 1, qfld_eq_append_iff 49 14 1,
      qfld_eq_append_iff 50 12 2, qfld_eq_append_iff 52 1 11, qfld_eq_append_iff 0 48 16, qfld_eq_append_iff 16 32 16, eq_bitOf_iff] at h
    simp [parseTcw, h]
  case mmulF hd f | mmulT hd f | mouter hd f | mmulG hd f =>
    simp [parseTcw, fields_of_productTcw (Option.some.inj h)]
  case mstore hd f | maccld hd f => simp [parseTcw, fields_of_accMoveTcw (Option.some.inj h)]
  case upd hd f | updT hd f => simp [parseTcw, fields_of_updTcw (Option.some.inj h)]
  case mzero =>
    simp only [encodeTcw, Option.some.injEq, tcw_eq_iff, word_eq_iff (q := t.q0), qfld_eq_append_iff 0 32 32,
      headed_iff, qfld_eq_append_iff 32 28 4] at h
    simp [parseTcw, h]
  case mchk =>
    simp only [encodeTcw, Option.some.injEq, tcw_eq_iff, word_eq_iff (q := t.q0), qfld_eq_append_iff 0 32 32, headed_iff,
      qfld_eq_append_iff 32 30 2, qfld_eq_append_iff 34 29 1, qfld_eq_append_iff 35 21 8, eq_bitOf_iff] at h
    simp [parseTcw, h]
  case mpatch =>
    simp only [encodeTcw, Option.some.injEq, tcw_eq_iff, word_eq_iff (q := t.q0), word_eq_iff (q := t.q2), qfld_eq_append_iff 0 32 32,
      headed_iff, qfld_eq_append_iff 32 30 2, qfld_eq_append_iff 34 24 6, qfld_eq_append_iff 40 18 6] at h
    simp [parseTcw, h]
  case mgang =>
    simp only [encodeTcw, Option.some.injEq, tcw_eq_iff, word_eq_iff (q := t.q0), qfld_eq_append_iff 0 32 32, headed_iff] at h
    simp [parseTcw, h]
  case mres | mscale =>
    simp only [encodeTcw, Option.some.injEq, tcw_eq_iff, word_eq_iff (q := t.q0), qfld_eq_append_iff 0 32 32, headed_iff,
      qfld_eq_append_iff 32 30 2, qfld_eq_append_iff 34 22 8] at h
    simp [parseTcw, h]
  case cpy | fill | bfill =>
    simp only [encodeTcw, Option.some.injEq, tcw_eq_iff, copyQ0_eq_iff, word_eq_iff (q := t.q3), qfld_eq_append_iff 0 24 40] at h
    simp [parseTcw, h]
  case cpy2d hd b f =>
    simp only [encodeTcw, Option.some.injEq, tcw_eq_iff, copyQ0_eq_iff, word_eq_iff (q := t.q3), qfld_eq_append_iff 0 48 16,
      qfld_eq_append_iff 16 32 16, qfld_eq_append_iff 32 16 16] at h
    obtain ⟨⟨-, hrow⟩, hcol⟩ : (b.wf = true ∧ f.rowlim = 0) ∧ f.collim = 0 := by simpa using wf
    cases f
    simp_all [parseTcw]
  case cpyt hd b f =>
    simp only [encodeTcw, Option.some.injEq, tcw_eq_iff, copyQ0_eq_iff, word_eq_iff (q := t.q3), qfld_eq_append_iff 0 56 8,
      qfld_eq_append_iff 8 48 8, qfld_eq_append_iff 16 40 8, qfld_eq_append_iff 24 32 8, qfld_eq_append_iff 32 16 16] at h
    obtain ⟨⟨-, hrows⟩, hcols⟩ : (b.wf = true ∧ f.rows.toNat < 256) ∧ f.cols.toNat < 256 := by simpa using wf
    have := cpyt_count hrows
    have := cpyt_count hcols
    simp_all [parseTcw]
  case cpys =>
    simp only [encodeTcw, Option.some.injEq, tcw_eq_iff, copyQ0_eq_iff, word_eq_iff (q := t.q2), qfld_eq_append_iff 0 24 40,
      qfld_eq_append_iff 40 22 2] at h
    simp [parseTcw, h]
  case cpyg =>
    simp only [encodeTcw, Option.some.injEq, tcw_eq_iff, copyQ0_eq_iff, qfld_eq_append_iff 53 3 8] at h
    simp [parseTcw, h]
  case bcpy =>
    simp only [encodeTcw, Option.some.injEq, tcw_eq_iff, copyQ0_eq_iff, word_eq_iff (q := t.q3), qfld_eq_append_iff 0 24 40,
      qfld_eq_append_iff 40 12 12, qfld_eq_append_iff 52 11 1, eq_bitOf_iff] at h
    simp [parseTcw, h]
  case metaBwd =>
    simp only [encodeTcw, Option.some.injEq, tcw_eq_iff, word_eq_iff (q := t.q0), qfld_eq_append_iff 0 32 32, headed_iff,
      qfld_eq_append_iff 32 15 17, qfld_eq_append_iff 49 3 12] at h
    simp [parseTcw, h]
  case quarClr =>
    simp only [encodeTcw, Option.some.injEq, tcw_eq_iff, word_eq_iff (q := t.q0), word_eq_iff (q := t.q2), qfld_eq_append_iff 0 32 32,
      headed_iff, qfld_eq_append_iff 32 8 24, qfld_eq_append_iff 0 39 25] at h
    simp [parseTcw, h]
  case ruleQ =>
    simp only [encodeTcw, Option.some.injEq, tcw_eq_iff, word_eq_iff (q := t.q0), qfld_eq_append_iff 0 32 32,
      headed_iff, qfld_eq_append_iff 32 29 3] at h
    simp [parseTcw, h]
  case gseed =>
    simp only [encodeTcw, Option.some.injEq, tcw_eq_iff, word_eq_iff (q := t.q0), word_eq_iff (q := t.q3), qfld_eq_append_iff 0 32 32,
      headed_iff, qfld_eq_append_iff 32 8 24] at h
    simp [parseTcw, h]
  case gdepR | gread =>
    simp only [encodeTcw, Option.some.injEq, tcw_eq_iff, word_eq_iff (q := t.q0), qfld_eq_append_iff 0 32 32,
      headed_iff, qfld_eq_append_iff 32 8 24] at h
    simp [parseTcw, h]
  case gpace =>
    simp only [encodeTcw, Option.some.injEq, tcw_eq_iff, word_eq_iff (q := t.q0), qfld_eq_append_iff 0 32 32,
      headed_iff, qfld_eq_append_iff 32 30 2, qfld_eq_append_iff 34 22 8] at h
    simp [parseTcw, h]
  all_goals cases h

theorem decodeTcw_eq_some_iff {i : Instr} {t : Tcw} :
    decodeTcw t = some i ↔ parseTcw t = some i ∧ i.wf = true ∧ encodeTcw i = some t := by
  unfold decodeTcw
  split
  · next j hj =>
    simp only [hj, Option.ite_none_right_eq_some, Option.some.injEq]
    exact ⟨fun ⟨h, e⟩ => e ▸ ⟨rfl, h⟩, fun ⟨e, h⟩ => e.symm ▸ ⟨h, rfl⟩⟩
  · next hn => simp [hn]

/-- Settles O56: the decoder makes sure that the word is the command's; what is left is that it parses every command's word. -/
theorem commandsRoundTrip : Obligations.CommandsRoundTrip := by
  refine ⟨fun i t h wf => decodeTcw_eq_some_iff.2 ⟨parseTcw_of_encodeTcw h wf, wf, h⟩, fun i t h => ?_⟩
  obtain ⟨-, wf, he⟩ := decodeTcw_eq_some_iff.1 h
  exact ⟨he, wf⟩

end Sys2Proof.Machine
end

section
/-!
SUPPORT. Words of the encodings, and the scalar instructions (R61, R64): the model's functions of the operands are those of the base
specification, and a transfer goes to its target or takes the trap of a misaligned one.
-/

namespace Sys2Proof.Machine

/-- Settles O54: each word is a small case that the decoder evaluates. -/
theorem decodeWords : Obligations.DecodeWords := by
  unfold Obligations.DecodeWords
  decide

/-! ### Immediates and targets -/

theorem append_zero_eq_shiftLeft {n m : Nat} (x : BitVec n) : x ++ (0 : BitVec m) = x.setWidth (n + m) <<< m := by
  ext i hi
  simp [BitVec.getElem_append]
  grind

theorem imm20_eq (up : BitVec 20) : imm20 up = ((up.setWidth 32) <<< 12).signExtend 64 :=
  congrArg (BitVec.signExtend 64) (append_zero_eq_shiftLeft up)

theorem signExtend_append_zero {n : Nat} (hn : 0 < n) (x : BitVec n) : (x ++ (0 : BitVec 1)).signExtend 64 = x.signExtend 64 <<< 1 := by
  ext i hi
  simp only [BitVec.getElem_signExtend, BitVec.getElem_append, BitVec.getElem_shiftLeft, BitVec.msb_append]
  rcases i with _ | i
  · simp
  · simp
    grind

theorem branchTarget_eq (pc : Word) (imm : BitVec 12) : branchTarget pc imm = pc + (imm.signExtend 64 <<< 1) :=
  congrArg (pc + ·) (signExtend_append_zero (by decide) imm)

theorem jalTarget_eq (pc : Word) (far : BitVec 20) : jalTarget pc far = pc + (far.signExtend 64 <<< 1) :=
  congrArg (pc + ·) (signExtend_append_zero (by decide) far)

/-! ### Results -/

theorem boolWord_slt (a b : Word) : boolWord (a.slt b) = if a.toInt < b.toInt then 1 else 0 := by
  simp [boolWord, BitVec.slt_iff_toInt_lt]

theorem boolWord_ult (a b : Word) : boolWord (a.ult b) = if a.toNat < b.toNat then 1 else 0 := by
  simp [boolWord, BitVec.ult_iff_toNat_lt]

theorem sextW_add (a b : Word) : sextW (a + b) = (a.setWidth 32 + b.setWidth 32).signExtend 64 := by
  rw [sextW, BitVec.setWidth_add _ _ (by decide)]

theorem sextW_mul (a b : Word) : sextW (a * b) = (a.setWidth 32 * b.setWidth 32).signExtend 64 := by
  rw [sextW, BitVec.setWidth_mul _ _ (by decide)]

theorem sextW_sub (a b : Word) : sextW (a - b) = (a.setWidth 32 - b.setWidth 32).signExtend 64 := by
  rw [sextW, BitVec.sub_eq_add_neg, BitVec.sub_eq_add_neg, BitVec.setWidth_add _ _ (by decide), BitVec.setWidth_neg_of_le (by decide)]

theorem sextW_addImm (a : Word) (imm : BitVec 12) : sextW (a + imm12 imm) = (a.setWidth 32 + imm.signExtend 32).signExtend 64 := by
  have h : (imm12 imm).setWidth 32 = imm.signExtend 32 := by
    ext i hi
    simp [imm12, BitVec.getLsbD_signExtend, BitVec.getElem_signExtend]
    grind
  rw [sextW_add, h]

theorem sextW_shiftLeft (a : Word) (n : Nat) : sextW (a <<< n) = (a.setWidth 32 <<< n).signExtend 64 := by
  rw [sextW, BitVec.setWidth_shiftLeft_of_le (by decide)]

theorem extractLsb'_ofInt_high (p : Int) : (BitVec.ofInt 128 p).extractLsb' 64 64 = wordOfInt (p / 2 ^ 64) := by
  apply BitVec.eq_of_toNat_eq
  simp only [BitVec.extractLsb'_toNat, BitVec.toNat_ofInt, wordOfInt, Nat.shiftRight_eq_div_pow]
  omega

theorem setWidth_eq_ofInt (a : Word) (n : Nat) : a.setWidth n = BitVec.ofInt n a.toNat := by
  rw [BitVec.ofInt_natCast, BitVec.ofNat_toNat]

theorem mulh_eq (a b : Word) :
    wordOfInt (a.toInt * b.toInt / 2 ^ 64) = (a.signExtend 128 * b.signExtend 128).extractLsb' 64 64 := by
  rw [← extractLsb'_ofInt_high, BitVec.ofInt_mul, BitVec.signExtend, BitVec.signExtend]

theorem mulhsu_eq (a b : Word) :
    wordOfInt (a.toInt * b.toNat / 2 ^ 64) = (a.signExtend 128 * b.setWidth 128).extractLsb' 64 64 := by
  rw [← extractLsb'_ofInt_high, BitVec.ofInt_mul, BitVec.signExtend, setWidth_eq_ofInt]

theorem mulhu_eq (a b : Word) :
    wordOfNat (a.toNat * b.toNat / 2 ^ 64) = (a.setWidth 128 * b.setWidth 128).extractLsb' 64 64 := by
  rw [setWidth_eq_ofInt, setWidth_eq_ofInt, ← BitVec.ofInt_mul, extractLsb'_ofInt_high]
  exact (BitVec.ofInt_natCast 64 _).symm

/-- The signed quotient at any width (R64). -/
theorem ofInt_divS {n : Nat} (a b : BitVec n) : BitVec.ofInt n (divS a.toInt b.toInt) = if b = 0 then BitVec.allOnes n else a.sdiv b := by
  by_cases h : b = 0
  · simp [h, divS, BitVec.neg_one_eq_allOnes, BitVec.ofInt_neg]
  · have hi : b.toInt ≠ 0 := fun e => h (BitVec.toInt_inj.1 (by simpa using e))
    rw [divS, if_neg hi, if_neg h, ← BitVec.toInt_inj, BitVec.toInt_ofInt, BitVec.toInt_sdiv]

theorem ofInt_remS {n : Nat} (a b : BitVec n) : BitVec.ofInt n (remS a.toInt b.toInt) = if b = 0 then a else a.srem b := by
  by_cases h : b = 0
  · simp [h, remS]
  · have hi : b.toInt ≠ 0 := fun e => h (BitVec.toInt_inj.1 (by simpa using e))
    rw [remS, if_neg hi, if_neg h, ← BitVec.toInt_srem, BitVec.ofInt_toInt]

theorem ofNat_divU {n : Nat} (a b : BitVec n) : BitVec.ofNat n (divU n a.toNat b.toNat) = if b = 0 then BitVec.allOnes n else a / b := by
  by_cases h : b = 0
  · subst h
    exact BitVec.eq_of_toNat_eq (by simp [divU])
  · have hi : b.toNat ≠ 0 := fun e => h (BitVec.eq_of_toNat_eq (by simpa using e))
    rw [divU, if_neg hi, if_neg h, BitVec.udiv_def]

theorem ofNat_remU {n : Nat} (a b : BitVec n) : BitVec.ofNat n (remU a.toNat b.toNat) = if b = 0 then a else a % b := by
  by_cases h : b = 0
  · simp [h, remU]
  · have hi : b.toNat ≠ 0 := fun e => h (BitVec.eq_of_toNat_eq (by simpa using e))
    rw [remU, if_neg hi, if_neg h, BitVec.umod_def]

/-- A result is narrowed to 32 bits before it is extended. -/
theorem sextW_wordOfInt (i : Int) : sextW (wordOfInt i) = (BitVec.ofInt 32 i).signExtend 64 := by
  rw [sextW, wordOfInt]
  congr 1
  apply BitVec.eq_of_toNat_eq
  simp only [BitVec.toNat_setWidth, BitVec.toNat_ofInt]
  omega
theorem sextW_wordOfNat (n : Nat) : sextW (wordOfNat n) = (BitVec.ofNat 32 n).signExtend 64 := by
  rw [sextW, wordOfNat]
  congr 1
  apply BitVec.eq_of_toNat_eq
  simp only [BitVec.toNat_setWidth, BitVec.toNat_ofNat]
  omega

theorem toNat_setWidth_32 (a : Word) : a.toNat % 2 ^ 32 = (a.setWidth 32).toNat := (BitVec.toNat_setWidth 32 a).symm

section
variable (a b : Word)

theorem sextW_divS : sextW (wordOfInt (divS (intW a) (intW b))) =
    if b.setWidth 32 = 0 then BitVec.allOnes 64 else ((a.setWidth 32).sdiv (b.setWidth 32)).signExtend 64 := by
  rw [sextW_wordOfInt, intW, intW, ofInt_divS, apply_ite (BitVec.signExtend 64)]
  rfl

theorem sextW_remS : sextW (wordOfInt (remS (intW a) (intW b))) =
    if b.setWidth 32 = 0 then (a.setWidth 32).signExtend 64 else ((a.setWidth 32).srem (b.setWidth 32)).signExtend 64 := by
  rw [sextW_wordOfInt, intW, intW, ofInt_remS, apply_ite (BitVec.signExtend 64)]

theorem sextW_divU : sextW (wordOfNat (divU 32 (a.toNat % 2 ^ 32) (b.toNat % 2 ^ 32))) =
    if b.setWidth 32 = 0 then BitVec.allOnes 64 else (a.setWidth 32 / b.setWidth 32).signExtend 64 := by
  rw [sextW_wordOfNat, toNat_setWidth_32, toNat_setWidth_32, ofNat_divU, apply_ite (BitVec.signExtend 64)]
  rfl

theorem sextW_remU : sextW (wordOfNat (remU (a.toNat % 2 ^ 32) (b.toNat % 2 ^ 32))) =
    if b.setWidth 32 = 0 then (a.setWidth 32).signExtend 64 else (a.setWidth 32 % b.setWidth 32).signExtend 64 := by
  rw [sextW_wordOfNat, toNat_setWidth_32, toNat_setWidth_32, ofNat_remU, apply_ite (BitVec.signExtend 64)]

end

theorem bne_eq_decide_ne (a b : Word) : (a != b) = decide (a ≠ b) := by simp [bne, beq_eq_decide]

theorem not_slt_eq_decide (a b : Word) : (!a.slt b) = decide (b.toInt ≤ a.toInt) := by
  rw [BitVec.slt, ← decide_not, decide_eq_decide]
  exact not_lt

theorem not_ult_eq_decide (a b : Word) : (!a.ult b) = decide (b.toNat ≤ a.toNat) := by
  rw [BitVec.ult, ← decide_not, decide_eq_decide]
  exact not_lt

/-! ### Jumps and branches -/

section
variable (s : State)

/-- A jump whose link is written first has no effect but its trap where the target is misaligned. -/
theorem runSlot_jump (act : Act Unit) (u : State) (t : Word) (ha : act s = Act.jump t u) (hcur : u.cur = s.cur) :
    runSlot act s = if t.toNat % 4 = 0 then .next (u.commit s.cur (some t)) else Claims.traps s 0 t := by
  unfold runSlot
  rw [ha]
  unfold Act.jump
  by_cases h : t.toNat % 4 = 0
  · rw [if_neg (not_not.2 h), if_pos h, hcur]
  · rw [if_pos h, if_neg h]
    rfl

theorem runSlot_branch_eq (r : Word → Word → Bool) (rs1 rs2 : Reg) (imm : BitVec 12) :
    runSlot (Act.branch r rs1 rs2 imm) s = Claims.branches s (r (Claims.xs s rs1) (Claims.xs s rs2))
      ((s.slot s.cur).at_ + (imm.signExtend 64 <<< 1)) := by
  have hb : Act.branch r rs1 rs2 imm s =
    (if r (Claims.xs s rs1) (Claims.xs s rs2) then Act.jump (branchTarget (s.slot s.cur).at_ imm) else Act.next) s := rfl
  rw [branchTarget_eq] at hb
  by_cases h : r (Claims.xs s rs1) (Claims.xs s rs2)
  · rw [if_pos h] at hb
    rw [Claims.branches, if_pos h]
    exact runSlot_jump s _ s _ hb rfl
  · rw [if_neg h] at hb
    rw [Claims.branches, if_neg h, runSlot, hb]
    rfl

end

/-! ### The instructions -/

section
variable {s : State} {i : Instr} {rd : Reg} {v w : Word} {c d : Bool}

theorem result_of_value (h : exec i s = Claims.result s rd v) (e : v = w) : exec i s = Claims.result s rd w := e ▸ h

theorem branches_of_relation (h : exec i s = Claims.branches s c w) (e : c = d) : exec i s = Claims.branches s d w := e ▸ h

end

/-- Settles O2: an instruction writes what the model's function of its operands gives, or goes to its target; each of these functions
is the base specification's. -/
theorem scalarResults : Obligations.ScalarResults := by
  refine ⟨fun s rd rs1 rs2 imm up sh shw => ?_, fun s rd rs1 rs2 => ?_, fun s rd rs1 rs2 imm far => ?_⟩
  · refine ⟨result_of_value rfl (imm20_eq up), result_of_value rfl (congrArg ((s.slot s.cur).at_ + ·) (imm20_eq up)), rfl,
      result_of_value rfl (boolWord_slt _ _), result_of_value rfl (boolWord_ult _ _), rfl, rfl, rfl, rfl, rfl, rfl,
      result_of_value rfl (sextW_addImm _ _),
      result_of_value rfl (sextW_shiftLeft _ _), rfl, rfl, rfl, rfl, rfl,
      result_of_value rfl (boolWord_slt _ _), result_of_value rfl (boolWord_ult _ _), rfl, rfl,
      rfl, rfl, rfl, result_of_value rfl (sextW_add _ _), result_of_value rfl (sextW_sub _ _), result_of_value rfl (sextW_shiftLeft _ _), rfl, rfl⟩
  · exact ⟨rfl, result_of_value rfl (mulh_eq _ _), result_of_value rfl (mulhsu_eq _ _), result_of_value rfl (mulhu_eq _ _),
      result_of_value rfl (ofInt_divS _ _),
      result_of_value rfl (ofNat_divU _ _), result_of_value rfl (ofInt_remS _ _), result_of_value rfl (ofNat_remU _ _),
      result_of_value rfl (sextW_mul _ _),
      result_of_value rfl (sextW_divS _ _), result_of_value rfl (sextW_divU _ _), result_of_value rfl (sextW_remS _ _),
      result_of_value rfl (sextW_remU _ _)⟩
  · have htj := jalTarget_eq (s.slot s.cur).at_ far
    refine ⟨htj ▸ runSlot_jump s _ _ _ rfl rfl, runSlot_jump s _ _ _ rfl rfl,
      branches_of_relation (runSlot_branch_eq s _ _ _ _) (beq_eq_decide _ _),
      branches_of_relation (runSlot_branch_eq s _ _ _ _) (bne_eq_decide_ne _ _), runSlot_branch_eq s _ _ _ _,
      branches_of_relation (runSlot_branch_eq s _ _ _ _) (not_slt_eq_decide _ _), runSlot_branch_eq s _ _ _ _,
      branches_of_relation (runSlot_branch_eq s _ _ _ _) (not_ult_eq_decide _ _)⟩

end Sys2Proof.Machine
end

section
/-!
SUPPORT. Returns and waiting, and the CSR instructions (R66, R67, R393): the instructions that are refused with their word, and what a
return leaves of the status register.
-/

namespace Sys2Proof.Machine

/-! ### Bits of a word -/

theorem nat_setField (n k l v : Nat) : n - n / 2 ^ l % 2 ^ k * 2 ^ l + v % 2 ^ k * 2 ^ l =
    2 ^ l * (2 ^ k * (n / 2 ^ l / 2 ^ k) + v % 2 ^ k) + n % 2 ^ l := by
  have hlow := Nat.div_add_mod n (2 ^ l)
  have hmid := Nat.div_add_mod (n / 2 ^ l) (2 ^ k)
  generalize n / 2 ^ l / 2 ^ k = top at *
  generalize n / 2 ^ l % 2 ^ k = mid at *
  generalize n % 2 ^ l = low at *
  rw [← hlow, ← hmid, Nat.mul_add, Nat.mul_add, Nat.mul_comm mid, Nat.mul_comm (v % 2 ^ k)]
  omega

theorem wbit_setBits {w : Word} {h l v b : Nat} (hl : l ≤ h) (hh : h < 64) :
    wbit (setBits w h l v) b = if l ≤ b ∧ b ≤ h then v.testBit (b - l) else wbit w b := by
  by_cases hb : b < 64
  · simp only [wbit, setBits, wordOfNat, bitsOf, Nat.shiftRight_eq_div_pow, nat_setField, BitVec.toNat_ofNat, Nat.testBit_mod_two_pow,
      hb, decide_true,
      Bool.true_and, Nat.testBit_two_pow_mul_add _ (Nat.mod_lt _ (Nat.two_pow_pos _))]
    by_cases h1 : b < l
    · simp [h1, show ¬ l ≤ b by omega]
    · simp only [h1, if_false]
      by_cases h2 : b ≤ h
      · simp [show b - l < h + 1 - l by omega, h2, show l ≤ b by omega]
      · have e : b - l - (h + 1 - l) + (h + 1 - l) + l = b := by omega
        simp [show ¬ b - l < h + 1 - l by omega, h2, Nat.testBit_div_two_pow, e]
  · have off (x : Word) : wbit x b = false := Nat.testBit_lt_two_pow (x.isLt.trans_le (Nat.pow_le_pow_right (by decide) (by omega)))
    rw [off, off, if_neg (by omega)]

theorem testBit_wbits (w : Word) (h l i : Nat) : (wbits w h l).testBit i = (decide (i < h + 1 - l) && wbit w (l + i)) := by
  simp [wbits, bitsOf, wbit, Nat.testBit_mod_two_pow, Nat.testBit_shiftRight]

theorem wbits_eq_zero_of_wbit {w : Word} {h l : Nat} (hb : ∀ b, l ≤ b → b ≤ h → wbit w b = false) : wbits w h l = 0 := by
  refine Nat.eq_of_testBit_eq fun i => ?_
  rw [testBit_wbits, Nat.zero_testBit]
  by_cases hi : i < h + 1 - l
  · rw [hb _ (by omega) (by omega), Bool.and_false]
  · simp [hi]

/-- A field of one bit that is set to another bit. -/
@[simp] theorem wbit_wbits (w : Word) (i : Nat) : (wbits w i i).testBit 0 = wbit w i := by
  rw [testBit_wbits]
  simp

/-! ### Instructions that are refused -/

section
variable {s : State} {i : Instr} {w : BitVec 32}

/-- Outside a repetition the word in stval is the instruction's own. -/
theorem wordOf_of_encodeWord (hrep : (s.slot s.cur).rep = none) (hw : encodeWord i = some w) : s.wordOf i = w.setWidth 64 := by
  simp [State.wordOf, hrep, hw]

variable {α β : Type} {t : State} {a : α} {e : Stop} {x : Act α} {f : α → Act β}

theorem act_bind_ok (h : x s = .ok (a, t)) : (x >>= f) s = f a t := by
  change (x s >>= fun p => f p.1 p.2) = _
  rw [h]
  rfl

theorem act_bind_error (h : x s = .error e) : (x >>= f) s = .error e := by
  change (x s >>= fun p => f p.1 p.2) = _
  rw [h]
  rfl

variable {act : Act Unit} {cause : Nat} {tval : Word}

theorem runSlot_of_ok (h : act s = .ok ((), t)) : runSlot act s = .next t := by
  unfold runSlot
  rw [h]

theorem runSlot_of_trap (h : act s = .error (.trap cause tval)) : runSlot act s = Claims.traps s cause tval := by
  unfold runSlot
  rw [h]
  rfl

theorem runSlot_privileged_u (h : (s.slot s.cur).priv = .u) : runSlot (Act.privileged i >>= fun _ => act) s = Claims.traps s 2 (s.wordOf i) :=
  runSlot_of_trap (act_bind_error (if_pos h))

theorem runSlot_privileged (h : (s.slot s.cur).priv ≠ .u) : runSlot (Act.privileged i >>= fun _ => act) s = runSlot act s := by
  unfold runSlot
  rw [act_bind_ok (if_neg h)]

end

/-! ### SRET, WFI and MRET -/

theorem sret_sstatus (w : Word) : ∃ st : Word, setBits (setBits (setBits w 1 1 (wbits w 5 5)) 5 5 1) 8 8 0 = st ∧
    wbit st 1 = wbit w 5 ∧ wbit st 5 = true ∧ wbit st 8 = false ∧ ∀ b, b ≠ 8 → b ≠ 5 → b ≠ 1 → wbit st b = wbit w b := by
  refine ⟨_, rfl, ?_, ?_, ?_, fun b h8 h5 h1 => ?_⟩
  · simpa [wbit_setBits] using wbit_wbits w 5
  · simp [wbit_setBits]
  · simp [wbit_setBits]
  · simp only [wbit_setBits, Nat.le_refl, Nat.reduceLT]
    rw [if_neg (by omega), if_neg (by omega), if_neg (by omega)]

/-- What MRET leaves of mstatus. -/
theorem mret_mstatus (w : Word) : ∃ st : Word,
    (if (if wbits w 12 11 = 3 then Priv.m else if wbits w 12 11 = 1 then .s else .u) = .m
      then setBits (setBits (setBits w 3 3 (wbits w 7 7)) 7 7 1) 12 11 0
      else setBits (setBits (setBits (setBits w 3 3 (wbits w 7 7)) 7 7 1) 12 11 0) 17 17 0) = st ∧
    wbit st 3 = wbit w 7 ∧ wbit st 7 = true ∧ wbits st 12 11 = 0 ∧ wbit st 17 = (wbit w 17 && decide (wbits w 12 11 = 3)) := by
  have hpriv : (if wbits w 12 11 = 3 then Priv.m else if wbits w 12 11 = 1 then .s else .u) = .m ↔ wbits w 12 11 = 3 := by
    split_ifs <;> simp [*]
  rw [if_congr hpriv rfl rfl]
  refine ⟨_, rfl, ?_, ?_, wbits_eq_zero_of_wbit fun b h1 h2 => ?_, ?_⟩
  all_goals split
  · simpa [wbit_setBits] using wbit_wbits w 7
  · simpa [wbit_setBits] using wbit_wbits w 7
  · simp [wbit_setBits]
  · simp [wbit_setBits]
  · simp [wbit_setBits, h1, h2]
  · simp [wbit_setBits, h1, h2, show ¬ (17 ≤ b ∧ b ≤ 17) by omega]
  · next h => simp [wbit_setBits, h]
  · next h => simp [wbit_setBits, h]

/-- Settles O6: SRET and WFI are refused in U-mode, MRET off the steward's M-mode; else each is the model's return or wait. -/
theorem returnsAndWaiting : Obligations.ReturnsAndWaiting := by
  refine ⟨fun s => ⟨fun hu hrep => ⟨?_, ?_⟩, fun hp => ?_, fun hp hip hie => ?_, fun hp hev => ?_⟩, fun s => ⟨fun hc hrep => ?_, fun hc hm => ?_⟩⟩
  · exact (runSlot_privileged_u hu).trans (by rw [wordOf_of_encodeWord hrep rfl]; rfl)
  · exact (runSlot_privileged_u hu).trans (by rw [wordOf_of_encodeWord hrep rfl]; rfl)
  · obtain ⟨st, hst, bits⟩ := sret_sstatus (s.slot s.cur).sstatus
    refine ⟨st, (runSlot_privileged hp).trans ?_, bits⟩
    rw [← hst]
    rfl
  · have hpend : (s.slot s.cur).pending = true := by simp [Slot.pending, hip, hie]
    refine (runSlot_privileged hp).trans (runSlot_of_ok ?_)
    change (ite _ _ _ : Act Unit) s = _
    rw [if_pos hpend]
    rfl
  · refine (runSlot_privileged hp).trans (runSlot_of_ok ?_)
    change (ite _ _ _ : Act Unit) s = _
    rw [if_neg (by simpa [Slot.pending] using hev)]
    rfl
  · have hno : (decide (s.cur ≠ stewardSlot) || decide ((s.slot s.cur).priv ≠ .m)) = true := by simp [hc]
    refine (runSlot_of_trap (tval := s.wordOf .mret) ?_).trans (by rw [wordOf_of_encodeWord hrep rfl]; rfl)
    change (ite _ _ _ : Act Unit) s = _
    rw [if_pos hno]
    rfl
  · have hyes : ¬ (decide (s.cur ≠ stewardSlot) || decide ((s.slot s.cur).priv ≠ .m)) = true := by
      rw [hm]
      simp [hc]
    obtain ⟨st, hst, bits⟩ := mret_mstatus ((s.slot s.cur).m 0x300)
    refine ⟨st, runSlot_of_ok ?_, bits⟩
    change (ite _ _ _ : Act Unit) s = _
    rw [if_neg hyes, ← hst]
    rfl

section
variable {s : State} {i : Instr} {rd : Reg} {csr : BitVec 12} {writes : Bool} {f : Word → Word} {old : Word}

theorem runSlot_csrOp_illegal (h : s.csrIllegal s.cur csr.toNat writes = true) :
    runSlot (Act.csrOp i rd csr writes f) s = Claims.traps s 2 (s.wordOf i) := by
  refine runSlot_of_trap ?_
  change (ite _ _ _ : Act Unit) s = _
  rw [if_pos h]
  rfl

theorem csrIllegal_eq_false (hold : s.csr s.cur csr.toNat = some old) (hlevel : csr.toNat / 256 % 4 ≤ (s.slot s.cur).priv.level)
    (hw : writes = true → csr.toNat / 1024 ≠ 3) : s.csrIllegal s.cur csr.toNat writes = false := by
  have hlevel' : ¬ (s.slot s.cur).priv.level < csrLevel csr.toNat := not_lt.2 hlevel
  cases writes <;> simp_all [State.csrIllegal]

theorem runSlot_csrOp_read (h : s.csrIllegal s.cur csr.toNat false = false) (hold : s.csr s.cur csr.toNat = some old) :
    runSlot (Act.csrOp i rd csr false f) s = Claims.result s rd old := by
  refine runSlot_of_ok ?_
  change (ite _ _ _ : Act Unit) s = _
  rw [if_neg (by simp [h])]
  rw [hold]
  rfl
theorem runSlot_csrOp_write (h : s.csrIllegal s.cur csr.toNat true = false) (hold : s.csr s.cur csr.toNat = some old) :
    runSlot (Act.csrOp i rd csr true f) s = Claims.result (s.writeCsr s.cur csr.toNat (f old)) rd old := by
  refine runSlot_of_ok ?_
  change (ite _ _ _ : Act Unit) s = _
  rw [if_neg (by simp [h])]
  rw [hold]
  rfl

end

theorem csrIllegal_iff {s : State} {n : Nat} {writes : Bool} : s.csrIllegal s.cur n writes = true ↔
    s.csr s.cur n = none ∨ (s.slot s.cur).priv.level < n / 256 % 4 ∨ (writes = true ∧ n / 1024 = 3) := by
  simp only [State.csrIllegal, Bool.or_eq_true, Bool.and_eq_true, Option.isNone_iff_eq_none, decide_eq_true_eq, or_assoc]
  rfl

/-! ### Each CSR instruction is the shared operation -/

section
variable (s : State) (rd rs1 ui : Reg) (csr : BitVec 12)

theorem runSlot_x (f : Word → Act Unit) : runSlot (Act.x rs1 >>= f) s = runSlot (f (Claims.xs s rs1)) s := by
  unfold runSlot
  rw [act_bind_ok (x := Act.x rs1) rfl]
  rfl

theorem exec_csrrw : exec (.csrrw rd rs1 csr) s = runSlot (Act.csrOp (.csrrw rd rs1 csr) rd csr true fun _ => Claims.xs s rs1) s :=
  runSlot_x s rs1 _

theorem exec_csrrs : exec (.csrrs rd rs1 csr) s =
    runSlot (Act.csrOp (.csrrs rd rs1 csr) rd csr (rs1 ≠ 0) fun o => o ||| Claims.xs s rs1) s := runSlot_x s rs1 _

theorem exec_csrrc : exec (.csrrc rd rs1 csr) s =
    runSlot (Act.csrOp (.csrrc rd rs1 csr) rd csr (rs1 ≠ 0) fun o => o &&& ~~~Claims.xs s rs1) s := runSlot_x s rs1 _

theorem exec_csrrwi : exec (.csrrwi rd ui csr) s = runSlot (Act.csrOp (.csrrwi rd ui csr) rd csr true fun _ => ui.setWidth 64) s := rfl

theorem exec_csrrsi : exec (.csrrsi rd ui csr) s =
    runSlot (Act.csrOp (.csrrsi rd ui csr) rd csr (ui ≠ 0) fun o => o ||| ui.setWidth 64) s := rfl

theorem exec_csrrci : exec (.csrrci rd ui csr) s =
    runSlot (Act.csrOp (.csrrci rd ui csr) rd csr (ui ≠ 0) fun o => o &&& ~~~(ui.setWidth 64)) s := rfl

end

/-- Settles O7: each CSR instruction is the shared operation with its own function of the old value. -/
theorem csrInstructions : Obligations.CsrInstructions := by
  refine ⟨fun s rd rs1 ui csr old hold hlevel => ⟨fun hro => ?_, fun hro hr => ?_, fun hro hu => ?_, fun hr => ?_, fun hu => ?_⟩,
    fun s i csr writes hi hill => ?_⟩
  · have ok := csrIllegal_eq_false (writes := true) hold hlevel fun _ => hro
    rw [exec_csrrw, exec_csrrwi, runSlot_csrOp_write ok hold, runSlot_csrOp_write ok hold]
    exact ⟨rfl, rfl⟩
  · have ok := csrIllegal_eq_false (writes := true) hold hlevel fun _ => hro
    rw [exec_csrrs, exec_csrrc, decide_eq_true hr, runSlot_csrOp_write ok hold, runSlot_csrOp_write ok hold]
    exact ⟨rfl, rfl⟩
  · have ok := csrIllegal_eq_false (writes := true) hold hlevel fun _ => hro
    rw [exec_csrrsi, exec_csrrci, decide_eq_true hu, runSlot_csrOp_write ok hold, runSlot_csrOp_write ok hold]
    exact ⟨rfl, rfl⟩
  · have ok := csrIllegal_eq_false (writes := false) hold hlevel nofun
    rw [exec_csrrs, exec_csrrc, decide_eq_false (not_not.2 hr), runSlot_csrOp_read ok hold, runSlot_csrOp_read ok hold]
    exact ⟨rfl, rfl⟩
  · have ok := csrIllegal_eq_false (writes := false) hold hlevel nofun
    rw [exec_csrrsi, exec_csrrci, decide_eq_false (not_not.2 hu), runSlot_csrOp_read ok hold, runSlot_csrOp_read ok hold]
    exact ⟨rfl, rfl⟩
  · have ill := csrIllegal_iff.2 hill
    obtain ⟨rd, rs1, ⟨rfl, rfl⟩ | ⟨rfl, rfl⟩ | ⟨rfl, rfl⟩ | ⟨rfl, rfl⟩ | ⟨rfl, rfl⟩ | ⟨rfl, rfl⟩⟩ := hi
    · exact exec_csrrw s rd rs1 csr ▸ runSlot_csrOp_illegal ill
    · exact exec_csrrs s rd rs1 csr ▸ runSlot_csrOp_illegal ill
    · exact exec_csrrc s rd rs1 csr ▸ runSlot_csrOp_illegal ill
    · exact exec_csrrwi s rd rs1 csr ▸ runSlot_csrOp_illegal ill
    · exact exec_csrrsi s rd rs1 csr ▸ runSlot_csrOp_illegal ill
    · exact exec_csrrci s rd rs1 csr ▸ runSlot_csrOp_illegal ill

end Sys2Proof.Machine
end

section
/-!
SUPPORT. The instructions and words that always trap, and the traps of a fetch (R60, R61, R169, R399).
-/

namespace Sys2Proof.Machine

section
variable {s : State} {k cause : Nat} {pc tval : Word} {e : Stop}

theorem fetchFor_of_refused (h : s.fetchCheck k pc = .error e) : s.fetchFor k pc = .error e := by
  unfold State.fetchFor
  split
  · rw [h]
    rfl
  · rw [State.fetchAt, h]

/-- A fetch whose checks refuse it takes their trap. -/
theorem exec_fetchFault_of_refused (h : s.fetchCheck s.cur (s.slot s.cur).at_ = .error (.trap cause tval)) :
    exec .instructionFetchFault s = Claims.traps s cause tval := by
  change execInstructionFetchFault s = _
  refine runSlot_of_trap ?_
  rw [fetchFor_of_refused h]

theorem va_of_lt (h : pc.toNat < 2 ^ 56) : va pc = pc.toNat := Nat.mod_eq_of_lt h

theorem fetchCheck_misaligned (h : pc.toNat % 4 ≠ 0) : s.fetchCheck k pc = .error (.trap 0 pc) := if_pos h

theorem fetchCheck_of_tag_or_window (h : pc.toNat % 4 = 0) (hw : pc.toNat ≠ va pc ∨ (inWindow (va pc) ∧ coreOf k ≠ stewardCore)) :
    s.fetchCheck k pc = .error (.trap 1 pc) := (if_neg (not_not.2 h)).trans (if_pos hw)

theorem fetchCheck_of_plb (h : pc.toNat % 4 = 0) (hlt : pc.toNat < 2 ^ 56) (hown : isOwn (coreOf k) pc.toNat = false)
    (hp : s.plbCheck (coreOf k) pc.toNat .fetch = .error e) : s.fetchCheck k pc = .error e := by
  have hva := va_of_lt hlt
  have hnot : ¬ (pc.toNat ≠ va pc ∨ (inWindow (va pc) ∧ coreOf k ≠ stewardCore)) := by
    rintro (h | ⟨hwin, hc⟩)
    · exact h hva.symm
    · rw [isOwn, if_neg hc, ← hva, hwin] at hown
      cases hown
  refine (if_neg (not_not.2 h)).trans ((if_neg hnot).trans ?_)
  simp only [hva, hown]
  rw [hp]
  rfl

theorem plbCheck_of_no_right {c a : Nat} {acc : Acc} (h : ∀ e, (s.core c).plbFind a = some e → acc.right e = false) :
    s.plbCheck c a acc = .error (.trap acc.cause (wordOfNat a)) := by
  unfold State.plbCheck
  split
  · next e he => rw [if_neg (by simp [h e he])]
  · rfl

end

/-- The cause of ECALL in a mode (R66, log 15). -/
def ecallCause : Priv → Nat
  | .u => 8 | .s => 9 | .m => 11

theorem exec_ecall_of_priv {s : State} {p : Priv} (h : (s.slot s.cur).priv = p) : exec .ecall s = Claims.traps s (ecallCause p) 0 := by
  subst h
  rfl

/-- Settles O5: ECALL, EBREAK and a word that is no instruction are one trap each; a fetch is stopped by its first failing check. -/
theorem trappingInstructions : Obligations.TrappingInstructions := by
  refine fun s w => ⟨exec_ecall_of_priv, exec_ecall_of_priv, exec_ecall_of_priv, rfl, rfl,
    fun h => exec_fetchFault_of_refused (fetchCheck_misaligned h),
    fun h htag => ?_, fun h hlt hc hwin => ?_, fun h hlt hown hplb => ?_⟩
  · refine exec_fetchFault_of_refused (fetchCheck_of_tag_or_window h (.inl ?_))
    unfold va
    omega
  · refine exec_fetchFault_of_refused (fetchCheck_of_tag_or_window h (.inr ⟨?_, hc⟩))
    simpa [inWindow, va_of_lt hlt] using hwin
  · have hp := plbCheck_of_no_right (acc := .fetch) hplb
    have he := exec_fetchFault_of_refused (fetchCheck_of_plb h hlt hown hp)
    rwa [wordOfNat, BitVec.ofNat_toNat, BitVec.setWidth_eq] at he

/-! ### A synchronous trap -/

theorem Slot.stopRep_run (sl : Slot) (run : Run) : ({ sl with run } : Slot).stopRep = { sl.stopRep with run } := by
  cases h : sl.rep with
  | none => simp only [Slot.stopRep, h]
  | some r => simp only [Slot.stopRep, h]

section
variable {s : State} {k cause : Nat} {tval : Word}

theorem State.leave_mem : (s.leave k).mem = s.mem := by rw [State.leave_sameButConvoy.rest]

theorem State.leave_cores : (s.leave k).cores = s.cores := by rw [State.leave_sameButConvoy.rest]

theorem State.takeTrap_mem : (s.takeTrap k cause tval).mem = s.mem := (State.modSlot_mem ..).trans State.leave_mem

theorem State.takeTrap_cores : (s.takeTrap k cause tval).cores = s.cores := (State.modSlot_cores ..).trans State.leave_cores

theorem State.takeTrap_other {j : Nat} (hj : j ≠ k) : (s.takeTrap k cause tval).slot j = s.slot j :=
  (State.slot_modSlot_other _ _ hj).trans (State.leave_sameButConvoy.other j hj)

/-- A slot of a compute core enters S-mode. -/
theorem State.takeTrap_slot (hk : k ≠ stewardSlot) : (s.takeTrap k cause tval).slot k =
    ({ (s.slot k).stopRep with run := .stray, wait := .none } : Slot).enterS (wordOfNat cause) tval := by
  have htoM (sl : Slot) (w : Word) : sl.toM k w = false := by simp [Slot.toM, hk]
  unfold State.takeTrap State.enter
  rw [State.slot_modSlot_same]
  simp only [htoM, Bool.false_eq_true, if_false]
  rw [State.leave_sameButConvoy.slot, Slot.stopRep_run]

theorem State.takeTrap_sameRegs (hk : k ≠ stewardSlot) : ((s.takeTrap k cause tval).slot k).SameRegs (s.slot k) := by
  rw [State.takeTrap_slot hk]
  exact .of_stopRep ((Slot.enterS_sameRegs _ _ _).trans ⟨rfl, rfl, rfl, rfl⟩)

end

/-! ### A fetch -/

section
variable {s t : State} {c a : Nat} {acc : Acc} {tr : TEntry}

/-- The set of all bytes: what an access may change is not looked at. -/
theorem State.backed_all : s.Backed fun _ => True := State.backed_iff.2 fun _ _ => trivial

theorem State.checkHome_fetchesAll (h : s.checkHome c a acc = .ok (tr, t)) : s.Fetches (fun _ => True) t := by
  obtain ⟨e, -, h⟩ := ok_of_bind_ok h
  split at h
  · cases h
  · next hu =>
    split at h
    · cases h
    · cases h
      exact State.translate_fetches State.backed_all (fun _ _ _ => ⟨fun _ _ _ => trivial, fun _ _ _ => trivial⟩) hu

theorem State.Fetches.cores {W : Nat → Prop} (h : s.Fetches W t) : t.cores = s.cores := by rw [h.rest]

/-- A fetch changes no slot and no core. -/
theorem State.fetchAt_same {k : Nat} {pc : Word} {w : BitVec 32} (h : s.fetchAt k pc = .ok (w, t)) :
    t.slots = s.slots ∧ t.cur = s.cur ∧ t.cores = s.cores := by
  unfold State.fetchAt at h
  dsimp only at h
  split at h
  · cases h
  · split at h
    · cases h
      exact ⟨rfl, rfl, rfl⟩
    · split at h
      · cases h
        exact ⟨rfl, rfl, rfl⟩
      · obtain ⟨⟨tr, u⟩, hu, h⟩ := ok_of_bind_ok h
        obtain ⟨_, -, h⟩ := ok_of_bind_ok h
        cases h
        have hc := State.checkHome_fetchesAll hu
        have hf : s.Fetches _ (u.fillL2 tr (dieOf (coreOf k)) (va pc)) := hc.trans (State.fillL2_fetches hc.backed)
        exact ⟨hf.loads.slots, hf.loads.cur, hf.cores⟩

end

theorem State.slotReady_of_nextSlot {s : State} {c k : Nat} (h : s.nextSlot c = some k) : s.slotReady k = true := by
  have hp := List.find?_some h
  simp only [State.canIssue, State.mayIssue, Bool.and_eq_true] at hp
  exact hp.1.1

/-- Settles O58: the step is that of the illegal-instruction row (O57), in the state that the fetch leaves. -/
theorem illegalWordsTrap : Obligations.IllegalWordsTrap := by
  intro s u k rest w hsched hfail hk s0 s1 hnext hint hlane hfetch hrep hw
  have hlane0 : s0.laneOf k = none := hlane
  have hstep : step s = ((s0.feed k).issueNow k).one := by
    refine (stepRunsDecoded.2 s _ rest hsched hfail).1 k rfl hnext ?_
    exact (congrArg List.length (State.together_of_stray hlane0)).trans_le (Nat.zero_le 1)
  have hexec : (s0.issueNow k).one = exec (.illegalInstruction w) u := by
    obtain ⟨-, -, hstray, -, hrun⟩ := stepRunsDecoded.1 s0 k
    obtain ⟨-, hfed, hgoes, hsame⟩ := hstray hlane0
    obtain ⟨hill, -⟩ := (hrun (State.slotReady_of_nextSlot hnext) (by simpa using hint) hfed).2 w u (by rw [hgoes, hsame]; exact hfetch)
    rw [hrep] at hill
    exact hill hw
  obtain ⟨hslots, hcur, -⟩ := State.fetchAt_same hfetch
  have hslot (j : Nat) : u.slot j = s1.slot j := congrArg (fun m => sget _ m j) hslots
  have hregs : ((u.takeTrap k 2 (w.setWidth 64)).slot k).SameRegs (u.slot k) := State.takeTrap_sameRegs hk
  refine ⟨u.takeTrap k 2 (w.setWidth 64), ?_, ?_, ?_, ?_, ?_,
    hregs.x.trans ?_, hregs.v.trans ?_, hregs.vflags.trans ?_, fun b => ?_, State.takeTrap_cores, fun j hj => ?_⟩
  · rw [hstep, State.feed_of_stray hlane0, hexec]
    exact congrArg (fun n => Host.Outcome.next (u.takeTrap n 2 (w.setWidth 64))) hcur
  · rw [State.takeTrap_slot hk]
    simp [Slot.enterS, Slot.stopRep, hrep]
  · rw [State.takeTrap_slot hk]; rfl
  · rw [State.takeTrap_slot hk]; rfl
  · rw [State.takeTrap_slot hk]; rfl
  · rw [hslot]
  · rw [hslot]
  · rw [hslot]
  · exact congrArg (sget 0 · b) State.takeTrap_mem
  · rw [State.takeTrap_other hj, hslot]

end Sys2Proof.Machine
end

section
/-!
SUPPORT. Scalar loads and stores (R64, R65, R167, R168): one operation for each, with a size; and what a write of a core's own store leaves.
-/

namespace Sys2Proof.Machine

/-! ### Narrow values -/

/-- The model's sign extension is that of a bit vector (R9). -/
theorem sextInt_eq_toInt (n e : Nat) : sextInt n e = (BitVec.ofNat n e).toInt := by
  rw [BitVec.toInt_eq_toNat_cond, BitVec.toNat_ofNat]
  rfl

theorem sext64_eq (n e : Nat) : sext64 n e = (BitVec.ofNat n e).signExtend 64 := congrArg (BitVec.ofInt 64) (sextInt_eq_toInt n e)

/-! ### Loads and stores -/

section
variable {s t : State} {rd rs1 rs2 : Reg} {imm : BitVec 12} {n a v : Nat} {ext : Nat → Word} {e : Stop} {act : Act Unit}

theorem runSlot_of_error (h : act s = .error e) : runSlot act s = .next (e.apply s) := by
  unfold runSlot
  rw [h]

theorem loadOp_eq : Act.loadOp n ext rd rs1 imm s =
    (do let v ← Act.loadNat (Claims.ea s rs1 imm) n; Act.setX rd (ext v); Act.next : Act Unit) s := rfl

theorem storeOp_eq : Act.storeOp n rs1 rs2 imm s =
    (do Act.storeNat (Claims.ea s rs1 imm) n (Claims.xs s rs2).toNat; Act.next : Act Unit) s := rfl

theorem loadNat_of_misaligned (h : a % n ≠ 0) : Act.loadNat a n s = .error (.trap 4 (wordOfNat a)) := if_pos h

theorem loadNat_of_load {bs : List Byte} (ha : a % n = 0) (h : s.load (Claims.cc s) a n false = .ok (bs, t)) :
    Act.loadNat a n s = .ok (natOfBytes bs, t) := by
  unfold Act.loadNat
  rw [if_neg (not_not.2 ha), show s.load (coreOf s.cur) a n false = _ from h]

theorem loadNat_of_error (ha : a % n = 0) (h : s.load (Claims.cc s) a n false = .error e) : Act.loadNat a n s = .error e := by
  unfold Act.loadNat
  rw [if_neg (not_not.2 ha), show s.load (coreOf s.cur) a n false = _ from h]

theorem storeNat_of_store (ha : a % n = 0) (h : s.store (Claims.cc s) a (bytesOfNat n v) = .ok t) : Act.storeNat a n v s = .ok ((), t) := by
  unfold Act.storeNat
  rw [if_neg (not_not.2 ha), show s.store (coreOf s.cur) a _ = _ from h]

theorem storeNat_of_error (ha : a % n = 0) (h : s.store (Claims.cc s) a (bytesOfNat n v) = .error e) : Act.storeNat a n v s = .error e := by
  unfold Act.storeNat
  rw [if_neg (not_not.2 ha), show s.store (coreOf s.cur) a _ = _ from h]

theorem storeNat_of_misaligned (h : a % n ≠ 0) : Act.storeNat a n v s = .error (.trap 6 (wordOfNat a)) := if_pos h

theorem loadOp_load {i : Instr} (hi : exec i s = runSlot (Act.loadOp n ext rd rs1 imm) s) : Claims.Load i s (Claims.ea s rs1 imm) n rd ext :=
  ⟨fun ha => hi.trans (runSlot_of_trap (loadOp_eq.trans (act_bind_error (loadNat_of_misaligned ha)))),
    fun _ _ ha h => hi.trans (runSlot_of_ok (loadOp_eq.trans (act_bind_ok (loadNat_of_load ha h)))),
    fun _ ha h => hi.trans (runSlot_of_error (loadOp_eq.trans (act_bind_error (loadNat_of_error ha h))))⟩

theorem storeOp_store {i : Instr} (hi : exec i s = runSlot (Act.storeOp n rs1 rs2 imm) s) :
    Claims.Store i s (Claims.ea s rs1 imm) n (Claims.xs s rs2) :=
  ⟨fun ha => hi.trans (runSlot_of_trap (storeOp_eq.trans (act_bind_error (storeNat_of_misaligned ha)))),
    fun _ ha h => hi.trans (runSlot_of_ok (storeOp_eq.trans (act_bind_ok (storeNat_of_store ha h)))),
    fun _ ha h => hi.trans (runSlot_of_error (storeOp_eq.trans (act_bind_error (storeNat_of_error ha h))))⟩

theorem loadOp_load_signed {i : Instr} {m : Nat} (hi : exec i s = runSlot (Act.loadOp n (sext64 m) rd rs1 imm) s) :
    Claims.Load i s (Claims.ea s rs1 imm) n rd fun v => (BitVec.ofNat m v).signExtend 64 := by
  rw [← funext (sext64_eq m)]
  exact loadOp_load hi

end

/-- Settles O10: the seven loads are one operation with a size and an extension. -/
theorem scalarLoads : Obligations.ScalarLoads := fun _ _ _ _ =>
  ⟨loadOp_load_signed rfl, loadOp_load_signed rfl, loadOp_load_signed rfl, loadOp_load rfl, loadOp_load rfl, loadOp_load rfl,
    loadOp_load rfl⟩

/-! ### Bytes that are put and read -/

theorem sget_putBytes_same (m : Sparse Byte) (k : Nat) {bs : List Byte} {i : Nat} (h : i < bs.length) :
    sget 0 (putBytes m k bs) (k + i) = bs[i] := by
  induction bs generalizing m k i with
  | nil => cases h
  | cons b bs ih =>
    cases i with
    | zero =>
      rw [putBytes, sget_putBytes_other _ (.inl (by omega)), Nat.add_zero, sget_sput, if_pos rfl]
      rfl
    | succ i =>
      have hi : i < bs.length := by simpa using h
      rw [putBytes, show k + (i + 1) = k + 1 + i by omega, ih (sput 0 m k b) (k + 1) hi]
      rfl

/-- The bytes put at a place are read back there. -/
theorem map_sget_putBytes (m : Sparse Byte) (k : Nat) (bs : List Byte) :
    ((List.range bs.length).map fun i => sget 0 (putBytes m k bs) (k + i)) = bs := by
  refine List.ext_getElem (by simp) fun i h _ => ?_
  rw [List.length_map, List.length_range] at h
  rw [List.getElem_map, List.getElem_range, sget_putBytes_same m k h]

/-! ### A core's own store -/

section
variable {s : State} {c a b n : Nat} {bs : List Byte}

theorem windowBase_le_of_isOwn (hc : c ≠ stewardCore) (h : isOwn c a = true) : Config.windowBase ≤ a := by
  simpa [isOwn, hc, inWindow] using h

theorem State.putLoc_rest : ∃ sram cores resv, s.putLoc c a bs = { s with sram, cores, resv } := by
  unfold State.putLoc
  split
  · exact ⟨_, _, _, rfl⟩
  · exact ⟨_, _, _, rfl⟩

theorem State.core_putLoc_other {d : Nat} (hd : d ≠ c) : (s.putLoc c a bs).core d = s.core d := by
  unfold State.putLoc
  split
  · rfl
  · exact State.core_modCore_other s (fun k => { k with loc := putBytes k.loc (a - Config.windowBase) bs }) hd

theorem State.sram_putLoc (hc : c ≠ stewardCore) : (s.putLoc c a bs).sram = s.sram := by
  unfold State.putLoc
  rw [if_neg hc]
  rfl

theorem State.loc_putLoc (hc : c ≠ stewardCore) :
    ((s.putLoc c a bs).core c).loc = putBytes (s.core c).loc (a - Config.windowBase) bs := by
  unfold State.putLoc
  rw [if_neg hc]
  exact congrArg Core.loc (State.core_modCore_same s c fun k => { k with loc := putBytes k.loc (a - Config.windowBase) bs })

/-- What is put into a core's own store is read back. -/
theorem State.ownBytes_putLoc_same (h : isOwn c a = true) : (s.putLoc c a bs).ownBytes c a bs.length = bs := by
  by_cases hc : c = stewardCore
  · subst hc
    exact map_sget_putBytes s.sram a bs
  · have hle := windowBase_le_of_isOwn hc h
    rw [State.ownBytes, if_neg hc, Core.locBytes, State.loc_putLoc hc]
    refine Eq.trans (List.map_congr_left fun i _ => ?_) (map_sget_putBytes (s.core c).loc (a - Config.windowBase) bs)
    rw [Nat.sub_add_comm hle]

theorem State.ownBytes_putLoc_other (ha : isOwn c a = true) (hb : isOwn c b = true) (h : b < a ∨ a + bs.length ≤ b) :
    (s.putLoc c a bs).ownBytes c b 1 = s.ownBytes c b 1 := by
  by_cases hc : c = stewardCore
  · subst hc
    exact congrArg (fun x => [x]) (sget_putBytes_other s.sram h)
  · have hle := windowBase_le_of_isOwn hc ha
    have hle' := windowBase_le_of_isOwn hc hb
    rw [State.ownBytes, State.ownBytes, if_neg hc, if_neg hc, Core.locBytes, Core.locBytes, State.loc_putLoc hc]
    have hoff : b - Config.windowBase < a - Config.windowBase ∨ a - Config.windowBase + bs.length ≤ b - Config.windowBase := by omega
    exact congrArg (fun x => [x]) (sget_putBytes_other (s.core c).loc hoff)

/-! ### What a commit leaves alone -/

variable {k : Nat} {target : Option Word}

theorem State.commit_sameRegs (j : Nat) : ((s.commit k target).slot j).SameRegs (s.slot j) := by
  by_cases hj : j = k
  · subst hj
    obtain ⟨pc, rep, h⟩ := Slot.commit_frame (sl := s.slot j) (target := target)
    rw [State.commit_slot, h]
    exact ⟨rfl, rfl, rfl, rfl⟩
  · rw [State.commit_other hj]
    exact ⟨rfl, rfl, rfl, rfl⟩

theorem State.commit_core (d : Nat) : (s.commit k target).core d = s.core d := by rw [State.commit_rest]; rfl

theorem State.commit_sram : (s.commit k target).sram = s.sram := by rw [State.commit_rest]

theorem State.commit_ownBytes : (s.commit k target).ownBytes c a n = s.ownBytes c a n := by
  rw [State.ownBytes, State.commit_core, State.commit_sram]
  rfl

theorem State.commit_sameMemory : Claims.SameMemory s (s.commit k target) := by
  rw [State.commit_rest]
  exact ⟨fun _ => rfl, fun _ _ _ => rfl⟩

theorem State.putLoc_sameMemory : Claims.SameMemory s (s.putLoc c a bs) := by
  obtain ⟨sram, cores, resv, h⟩ := State.putLoc_rest (s := s) (c := c) (a := a) (bs := bs)
  rw [h]
  exact ⟨fun _ => rfl, fun _ _ _ => rfl⟩

theorem State.putLoc_slot (j : Nat) : (s.putLoc c a bs).slot j = s.slot j := by
  obtain ⟨sram, cores, resv, h⟩ := State.putLoc_rest (s := s) (c := c) (a := a) (bs := bs)
  rw [h]
  rfl

end

theorem exec_of_storeForms {s : State} {i : Instr} {rs1 rs2 : Reg} {imm : BitVec 12} {n : Nat} (h : (i, n) ∈ Claims.storeForms rs1 rs2 imm) :
    exec i s = runSlot (Act.storeOp n rs1 rs2 imm) s := by
  simp only [Claims.storeForms, List.mem_cons, List.not_mem_nil, or_false, Prod.mk.injEq] at h
  rcases h with ⟨rfl, rfl⟩ | ⟨rfl, rfl⟩ | ⟨rfl, rfl⟩ | ⟨rfl, rfl⟩
  all_goals rfl

theorem sameMemory_trans {s t u : State} (h : Claims.SameMemory s t) (h' : Claims.SameMemory t u) : Claims.SameMemory s u :=
  ⟨fun k => (h'.1 k).trans (h.1 k), fun tr d y => (h'.2 tr d y).trans (h.2 tr d y)⟩

/-- Settles O11: the four stores are one operation with a size; to the core's own store it is a write of bytes there, and a commit. -/
theorem scalarStores : Obligations.ScalarStores := by
  refine ⟨fun s rs1 rs2 imm => ⟨storeOp_store rfl, storeOp_store rfl, storeOp_store rfl, storeOp_store rfl⟩,
    fun s rd rs1 rs2 imm i n hown ha => ⟨fun ha8 => ?_, fun hi => ?_⟩⟩
  · obtain ⟨-, -, -, ⟨-, hld, -⟩, -⟩ := scalarLoads s rd rs1 imm
    exact hld _ s ha8 (if_pos hown)
  · obtain ⟨-, hst, -⟩ := storeOp_store (exec_of_storeForms (s := s) hi)
    have hlen := bytesOfNat_length n (Claims.xs s rs2).toNat
    have hput := State.ownBytes_putLoc_same (s := s) (bs := bytesOfNat n (Claims.xs s rs2).toNat) hown
    rw [hlen] at hput
    refine ⟨_, hst _ ha (if_pos hown), ?_, fun b hb hab => ?_, fun d hd => ?_, fun hc => ?_, ?_, fun k => ?_⟩
    · rw [State.commit_ownBytes, hput]
    · rw [State.commit_ownBytes, State.ownBytes_putLoc_other hown hb (by rwa [hlen])]
    · rw [State.commit_core, State.core_putLoc_other hd]
    · rw [State.commit_sram, State.sram_putLoc hc]
    · exact sameMemory_trans State.putLoc_sameMemory State.commit_sameMemory
    · rw [← State.putLoc_slot (s := s) k]
      obtain ⟨hx, hv, hf, -⟩ := State.commit_sameRegs k
      exact ⟨hx, hv, hf⟩

end Sys2Proof.Machine
end

section
/-!
SUPPORT. Atomics (R65, R154, R187): the frame of a base atomic, what its release leaves alone, and LR and SC.
-/

namespace Sys2Proof.Machine

/-! ### What a release leaves alone -/

/-- The slots of `s`, and the one that executes, are those of `t`. -/
def State.SameSlots (s t : State) : Prop := t.slots = s.slots ∧ t.cur = s.cur

section
variable {s t u : State} {c a n : Nat}

theorem State.SameSlots.refl : s.SameSlots s := ⟨rfl, rfl⟩

theorem State.SameSlots.slot (h : s.SameSlots t) (k : Nat) : t.slot k = s.slot k := by
  unfold State.slot
  rw [h.1]

theorem State.SameSlots.xs (h : s.SameSlots t) (r : Reg) : Claims.xs t r = Claims.xs s r := by
  unfold Claims.xs
  rw [h.slot, h.2]

theorem State.SameSlots.trans (h : s.SameSlots t) (h' : t.SameSlots u) : s.SameSlots u := ⟨h'.1.trans h.1, h'.2.trans h.2⟩

theorem State.Fetches.sameSlots {W : Nat → Prop} (h : s.Fetches W t) : s.SameSlots t := ⟨by rw [h.rest], by rw [h.rest]⟩

theorem State.translate_sameSlots {tile : Nat} {w : Bool} {tr : TEntry} (h : s.translate tile a w = .ok (tr, t)) : s.SameSlots t :=
  (State.translate_fetches State.backed_all (fun _ _ _ => ⟨fun _ _ _ => trivial, fun _ _ _ => trivial⟩) h).sameSlots

theorem State.modCore_sameSlots (f : Core → Core) : s.SameSlots (s.modCore c f) := .refl

theorem State.event_sameSlots (ctx : Nat) (src : Source) (code cause reason : Nat) (w3 w4 w5 w6 w7 : Word) :
    s.SameSlots (s.event ctx src code cause reason w3 w4 w5 w6 w7) := by
  unfold State.event
  dsimp only
  split
  · exact .refl
  · split
    · exact .refl
    · exact .refl

theorem State.cxlAccess_sameSlots (ctx : Nat) (tr : TEntry) : s.SameSlots (s.cxlAccess ctx tr a n) := by
  unfold State.cxlAccess
  split
  · exact .refl
  · refine forRange_keeps (fun t => s.SameSlots t) _ _ (fun i t ht => ?_) .refl
    dsimp only
    split
    · exact ht.trans (State.event_sameSlots ..)
    · exact ht

theorem State.writeSector_sameSlots (tr : TEntry) (d : Nat) (p : Nat × List Byte) : s.SameSlots (s.writeSector tr d p) := by
  have hinstall (u : State) : u.SameSlots (u.installL2 tr d p.1) := (State.installL2_fetches State.backed_all).sameSlots
  have hback (u : State) (b : L2Block) (x : Sector) : u.SameSlots (u.writeBack b (p.1 / 64 * 64) x) :=
    (State.writeBack_fetches (W := fun _ => True) State.backed_all fun _ _ _ _ => trivial).sameSlots
  unfold State.writeSector
  dsimp only
  split
  · exact .refl
  · generalize hu : (if s.fillBad tr d p.1 = true then _ else s) = u
    have hs : s.SameSlots u := by
      rw [← hu]
      split
      · exact .refl
      · exact .refl
    split
    · exact hs.trans (hinstall u)
    · exact hs.trans ((hinstall u).trans (hback ..))

theorem State.homeWrite_sameSlots (tr : TEntry) (bs : List Byte) : s.SameSlots (s.homeWrite tr a bs) := by
  have hw : s.SameSlots (tr.dies.foldl (fun s d => (sectorParts a bs).foldl (fun s p => s.writeSector tr d p) s) s) :=
    foldl_keeps (fun t => s.SameSlots t) _ _ (fun _ d hu =>
      foldl_keeps (fun t => s.SameSlots t) _ _ (fun _ p ht => ht.trans (State.writeSector_sameSlots tr d p)) hu) .refl
  exact hw

theorem State.writeFor_sameSlots (ctx : Nat) (tr : TEntry) (bs : List Byte) : s.SameSlots (s.writeFor ctx tr a bs) :=
  (State.cxlAccess_sameSlots ctx tr).trans (State.homeWrite_sameSlots tr bs)

theorem State.wtWord_sameSlots (h : s.wtWord c a = .ok t) : s.SameSlots t := by
  unfold State.wtWord at h
  split at h
  · split at h
    · split at h
      · cases h
      · next tr u hu =>
        cases h
        refine (State.translate_sameSlots hu).trans ?_
        split
        · exact State.writeFor_sameSlots ..
        · refine forRange_keeps (fun t => u.SameSlots t) _ _ (fun i t ht => ?_) .refl
          split
          · exact ht
          · exact ht.trans (State.writeFor_sameSlots ..)
    · cases h; exact .refl
  · cases h; exact .refl

theorem State.ntMerge_sameSlots (e : NtEntry) : s.SameSlots (s.ntMerge c e) := by
  refine forRange_keeps (fun t => s.SameSlots t) _ _ (fun i t ht => ?_) .refl
  dsimp only
  split
  · exact ht
  · exact ht

theorem State.drainNt_sameSlots {e : NtEntry} (h : s.drainNt c e = .ok t) : s.SameSlots t := by
  unfold State.drainNt at h
  split at h
  · cases h
  · next tr u hu =>
    rw [← Except.ok.inj h]
    have hw : u.SameSlots (e.bytes.foldl (fun s b => s.writeFor (s.ctxOf (4 * c)) tr (e.line * 64 + b.1) [b.2]) u) :=
      foldl_keeps (fun t => u.SameSlots t) _ _ (fun _ _ ht => ht.trans (State.writeFor_sameSlots ..)) .refl
    exact (State.translate_sameSlots hu).trans (hw.trans ((State.ntMerge_sameSlots e).trans (State.modCore_sameSlots _)))

theorem State.wtCore_sameSlots (h : s.wtCore c = .ok t) : s.SameSlots t :=
  foldlM_keeps (fun t => s.SameSlots t) _ _ (fun _ _ _ ht h => ht.trans (State.wtWord_sameSlots h)) .refl h

theorem State.wtCores_sameSlots {cs : List Nat} (h : s.wtCores cs = .ok t) : s.SameSlots t :=
  foldlM_keeps (fun t => s.SameSlots t) _ _ (fun _ _ _ ht h => ht.trans (State.wtCore_sameSlots h)) .refl h

theorem State.drainAll_sameSlots (h : s.drainAll c = .ok t) : s.SameSlots t :=
  foldlM_keeps (fun t => s.SameSlots t) _ _ (fun _ _ _ ht h => ht.trans (State.drainNt_sameSlots h)) .refl h

theorem State.release_sameSlots {sc : Scope} (h : s.release c sc = .ok t) : s.SameSlots t := by
  cases sc with
  | core => cases h; exact .refl
  | caravan =>
    change ite _ _ _ = _ at h
    split at h
    · cases h; exact .refl
    · exact State.wtCore_sameSlots h
  | die | package => exact State.wtCores_sameSlots h
  | system =>
    obtain ⟨u, hu, h⟩ := ok_of_bind_ok h
    exact (State.wtCores_sameSlots hu).trans (State.drainAll_sameSlots h)

end

section
variable {s t u : State} {n : Nat} {k : Acc} {rd rs1 rs2 : Reg} {aq rl : Bool} {access : Nat → Act Unit}

/-! ### The frame of a base atomic -/

theorem State.acquire_cur (s : State) (c : Nat) (sc : Scope) : (s.acquire c sc).cur = s.cur := by
  cases sc with
  | core => rfl
  | caravan =>
    rw [show s.acquire c .caravan = ite _ _ _ from rfl]
    split
    · rfl
    · rfl
  | die | package | system => exact List.foldlRecOn (motive := fun t : State => t.cur = s.cur) (s.l1Group c) _ rfl fun _ h _ _ => h

theorem release_of_ok {sc : Scope} (h : s.release (Claims.cc s) sc = .ok t) : Act.release sc s = .ok ((), t) := by
  dsimp only [Act.release]
  rw [show s.release (coreOf s.cur) sc = _ from h]

theorem memberOrder_ok {addr : Slot → Option Nat} (h : s.earlierMember s.cur addr = false) : Act.memberOrder addr s = .ok ((), s) :=
  if_neg (by rw [h]; decide)

/-- The end of a base atomic: the acquire of aq, and the commit. -/
def State.closed (s : State) (aq : Bool) (sc : Scope) : State :=
  (if aq then s.acquire (s.cur / 4) sc else s).commit s.cur none

/-- A base atomic after its release. -/
def Act.atomicRest (a : Nat) (aq : Bool) (sc : Scope) (access : Nat → Act Unit) : Act Unit := do
  access a
  if aq then Act.acquire sc
  Act.next

theorem atomicRest_ok {a : Nat} {sc : Scope} (h : access a u = .ok ((), t)) : Act.atomicRest a aq sc access u = .ok ((), t.closed aq sc) := by
  unfold Act.atomicRest
  rw [act_bind_ok h]
  cases aq with
  | true => exact congrArg (fun k => Except.ok ((), (t.acquire (t.cur / 4) sc).commit k none)) (t.acquire_cur _ sc)
  | false => rfl

theorem atomic_of_misaligned (ha : (Claims.xs s rs1).toNat % 2 ^ 56 % n ≠ 0) :
    Act.atomic n k rs1 aq rl access s = .error (.trap k.misaligned (wordOfNat ((Claims.xs s rs1).toNat % 2 ^ 56))) := by
  change (ite _ _ _ : Act Unit) s = _
  rw [if_pos (show va ((s.slot s.cur).xr rs1.toNat) % n ≠ 0 from ha)]
  rfl

theorem atomic_of_access (ha : (Claims.xs s rs1).toNat % 2 ^ 56 % n = 0) (hm : s.earlierMember s.cur (Claims.named rs1) = false)
    (hr : (if rl then s.release (s.cur / 4) (scopeOf (wbits (s.slot s.cur).dscope 2 0)) else .ok s) = .ok u)
    (h : access ((Claims.xs s rs1).toNat % 2 ^ 56) u = .ok ((), t)) :
    Act.atomic n k rs1 aq rl access s = .ok ((), t.closed aq (scopeOf (wbits (s.slot s.cur).dscope 2 0))) := by
  change (ite _ _ _ : Act Unit) s = _
  rw [if_neg (show ¬va ((s.slot s.cur).xr rs1.toNat) % n ≠ 0 from not_not.2 ha)]
  refine (act_bind_ok (memberOrder_ok hm)).trans ?_
  cases rl with
  | true => exact (Act.released_ok _ _ _ _).2 ⟨u, release_of_ok hr, atomicRest_ok h⟩
  | false =>
    cases hr
    exact atomicRest_ok h

theorem sameSlots_of_release {c : Nat} {sc : Scope} (hr : (if rl then s.release c sc else .ok s) = .ok u) : s.SameSlots u := by
  cases rl with
  | true => exact State.release_sameSlots hr
  | false => cases hr; exact .refl

/-! ### LR, SC and the AMOs -/

/-- What LR does at its address. -/
def Act.lrAt (n : Nat) (rd : Reg) (a : Nat) : Act Unit := do
  let bs ← (fun s => s.readHome (coreOf s.cur) a n .lr : Act (List Byte))
  Act.mod fun s => { s with resv := sset s.resv s.cur (place (coreOf s.cur) a, n) }
  Act.setX rd (sextBytes n (natOfBytes bs))

theorem lrAt_ok {bs : List Byte} {a : Nat} (h : u.readHome (u.cur / 4) a n .lr = .ok (bs, t)) :
    Act.lrAt n rd a u = .ok ((), { t with resv := sset t.resv t.cur (place (t.cur / 4) a, n) }.modSlot t.cur fun sl =>
      sl.setX rd.toNat ((BitVec.ofNat (8 * n) (natOfBytes bs)).signExtend 64)) := by
  rw [← sext64_eq]
  exact act_bind_ok h

/-- What SC does at its address. -/
def Act.scAt (n : Nat) (rd rs2 : Reg) (a : Nat) : Act Unit := do
  let b ← Act.x rs2
  let ok ← (fun s => s.scHome (coreOf s.cur) a n (b.toNat % 2 ^ (8 * n)) : Act Bool)
  Act.mod fun s => { s with resv := sdel s.resv s.cur }
  Act.setX rd (if ok then 0 else 1)

theorem scAt_ok {a : Nat} {ok : Bool} (h : u.scHome (u.cur / 4) a n ((Claims.xs u rs2).toNat % 2 ^ (8 * n)) = .ok (ok, t)) :
    Act.scAt n rd rs2 a u =
      .ok ((), { t with resv := sdel t.resv t.cur }.modSlot t.cur fun sl => sl.setX rd.toNat (if ok then 0 else 1)) := by
  refine (act_bind_ok (x := Act.x rs2) rfl).trans (act_bind_ok ?_)
  exact h

/-- What an AMO does at its address. -/
def Act.amoAt (n : Nat) (f : Nat → Nat → Nat) (rd rs2 : Reg) (a : Nat) : Act Unit := do
  let b ← Act.x rs2
  let old ← (fun s => s.rmw (coreOf s.cur) a n .amo fun v => some (f v (b.toNat % 2 ^ (8 * n))) : Act Nat)
  Act.setX rd (sextBytes n old)

theorem amoAt_ok {a old : Nat} {f : Nat → Nat → Nat}
    (h : u.rmw (u.cur / 4) a n .amo (fun v => some (f v ((Claims.xs u rs2).toNat % 2 ^ (8 * n)))) = .ok (old, t)) :
    Act.amoAt n f rd rs2 a u = .ok ((), t.modSlot t.cur fun sl => sl.setX rd.toNat ((BitVec.ofNat (8 * n) old).signExtend 64)) := by
  rw [← sext64_eq]
  refine (act_bind_ok (x := Act.x rs2) rfl).trans (act_bind_ok ?_)
  exact h

/-- An AMO of the model is one of the statement. -/
theorem amo_of_exec {i : Instr} {f : Nat → Nat → Nat} (hi : exec i s = runSlot (Act.amo n f rd rs1 rs2 aq rl) s) :
    Claims.Amo i s n f rd rs1 rs2 aq rl := by
  refine ⟨fun ha => hi.trans (runSlot_of_trap (atomic_of_misaligned ha)), fun ha hm u old t hr h => ?_⟩
  rw [← (sameSlots_of_release hr).xs rs2] at h
  exact hi.trans (runSlot_of_ok (atomic_of_access (access := Act.amoAt n f rd rs2) ha hm hr (amoAt_ok h)))

theorem scHome_of_own {c a v : Nat} (h : isOwn c a = true) :
    s.scHome c a n v = .ok (s.reserved (place c a) n, if s.reserved (place c a) n then s.putLoc c a (bytesOfNat n v) else s) := if_pos h

theorem scHome_of_atHome {c a v : Nat} {tr : TEntry} (h : isOwn c a = false) (ht : s.atHome c a n .sc = .ok (tr, t)) :
    s.scHome c a n v = .ok (t.reserved (place c a) n, if t.reserved (place c a) n then
      (t.writeFor (t.ctxOf (4 * c)) tr a (bytesOfNat n v)).dropRange c a n else t.fillRange tr (dieOf c) a n) := by
  refine (if_neg (by rw [h]; decide)).trans ?_
  rw [ht]
  rfl

end

section
variable {s t u v : State} {n a b c m : Nat} {rd rs1 rs2 : Reg} {aq rl ok : Bool} {w : Word}

theorem sfind_sdel_same {α : Type} (m : Sparse α) (k : Nat) : sfind (sdel m k) k = none := by
  induction m with
  | nil => rfl
  | cons e m ih =>
    unfold sdel
    split
    · exact ih
    · next h => rw [sfind, if_neg h, ih]

/-! ### What an instruction with a result leaves of the slots -/

/-- The executing slot of `u` writes `w` to `rd`, and its instruction commits. -/
def State.resulted (u : State) (rd : Reg) (w : Word) : State := (u.modSlot u.cur fun sl => sl.setX rd.toNat w).commit u.cur none

theorem State.SameSlots.resulted_xr (h : s.SameSlots u) :
    ((u.resulted rd w).slot s.cur).xr m = if m = rd.toNat ∧ rd.toNat ≠ 0 then w else (s.slot s.cur).xr m := by
  rw [State.resulted, (State.commit_sameRegs _).xr, h.2, State.slot_modSlot_same, Slot.xr_setX, h.slot]

theorem State.SameSlots.resulted_rd (h : s.SameSlots u) (hrd : rd ≠ 0) : ((u.resulted rd w).slot s.cur).xr rd.toNat = w := by
  rw [h.resulted_xr, if_pos ⟨rfl, fun h0 => hrd (BitVec.eq_of_toNat_eq h0)⟩]

theorem State.SameSlots.resulted_slot (h : s.SameSlots u) {k : Nat} (hk : k ≠ s.cur) : (u.resulted rd w).slot k = s.slot k := by
  rw [State.resulted, h.2, State.commit_other hk, State.slot_modSlot_other _ _ hk, h.slot]

theorem State.resulted_core : (u.resulted rd w).core c = u.core c := State.commit_core c

theorem State.resulted_ownBytes : (u.resulted rd w).ownBytes c a n = u.ownBytes c a n := State.commit_ownBytes

theorem State.putLoc_sameSlots {bs : List Byte} : s.SameSlots (s.putLoc c a bs) := by
  obtain ⟨sram, cores, resv, h⟩ := State.putLoc_rest (s := s) (c := c) (a := a) (bs := bs)
  rw [h]
  exact ⟨rfl, rfl⟩

/-! ### LR and SC -/

theorem lr_of_exec {i : Instr} {bs : List Byte} (hi : exec i s = runSlot (Act.lr n rd rs1 aq rl) s)
    (ha : (Claims.xs s rs1).toNat % 2 ^ 56 % n = 0) (hm : s.earlierMember s.cur (Claims.named rs1) = false)
    (hr : (if rl then s.release (s.cur / 4) (scopeOf (wbits (s.slot s.cur).dscope 2 0)) else .ok s) = .ok u)
    (h : u.readHome (u.cur / 4) ((Claims.xs s rs1).toNat % 2 ^ 56) n .lr = .ok (bs, t)) :
    exec i s = .next (({ t with resv := sset t.resv t.cur (place (t.cur / 4) ((Claims.xs s rs1).toNat % 2 ^ 56), n) }.modSlot t.cur fun sl =>
      sl.setX rd.toNat ((BitVec.ofNat (8 * n) (natOfBytes bs)).signExtend 64)).closed aq (scopeOf (wbits (s.slot s.cur).dscope 2 0))) :=
  hi.trans (runSlot_of_ok (atomic_of_access (access := Act.lrAt n rd) ha hm hr (lrAt_ok h)))

theorem sc_of_exec {i : Instr} (hi : exec i s = runSlot (Act.sc n rd rs1 rs2 aq rl) s)
    (ha : (Claims.xs s rs1).toNat % 2 ^ 56 % n = 0) (hm : s.earlierMember s.cur (Claims.named rs1) = false)
    (hr : (if rl then s.release (s.cur / 4) (scopeOf (wbits (s.slot s.cur).dscope 2 0)) else .ok s) = .ok u)
    (h : u.scHome (u.cur / 4) ((Claims.xs s rs1).toNat % 2 ^ 56) n ((Claims.xs s rs2).toNat % 2 ^ (8 * n)) = .ok (ok, t)) :
    exec i s = .next (({ t with resv := sdel t.resv t.cur }.modSlot t.cur fun sl => sl.setX rd.toNat (if ok then 0 else 1)).closed aq
      (scopeOf (wbits (s.slot s.cur).dscope 2 0))) := by
  rw [← (sameSlots_of_release hr).xs rs2] at h
  exact hi.trans (runSlot_of_ok (atomic_of_access (access := Act.scAt n rd rs2) ha hm hr (scAt_ok h)))

/-- SC.D on the core's own store. -/
theorem exec_scD_of_own (ha : (Claims.xs s rs1).toNat % 2 ^ 56 % 8 = 0) (hm : s.earlierMember s.cur (Claims.named rs1) = false)
    (ho : isOwn (Claims.cc s) ((Claims.xs s rs1).toNat % 2 ^ 56) = true)
    (hok : s.reserved (place (Claims.cc s) ((Claims.xs s rs1).toNat % 2 ^ 56)) 8 = ok)
    (ht : (if ok then s.putLoc (Claims.cc s) ((Claims.xs s rs1).toNat % 2 ^ 56) (bytesOfNat 8 (Claims.xs s rs2).toNat) else s) = t) :
    exec (.scD rd rs1 rs2 false false) s = .next ({ t with resv := sdel t.resv t.cur }.resulted rd (if ok then 0 else 1)) := by
  refine sc_of_exec (u := s) (rl := false) (aq := false) rfl ha hm rfl ((scHome_of_own ho).trans ?_)
  rw [Nat.mod_eq_of_lt (Claims.xs s rs2).isLt, ← ht, ← hok]

theorem reserved_eq_false_of_none {p : Nat} (h : sfind s.resv s.cur = none) : s.reserved p n = false := by
  unfold State.reserved
  rw [h]

theorem reserved_of_same {p : Nat} (h : sfind s.resv s.cur = some (p, n)) : s.reserved p n = true := by
  unfold State.reserved
  rw [h]
  simp

end

/-- Settles O16: LR and SC are base atomics; on the core's own store the access is a write of bytes there, where the reservation holds. -/
theorem loadReservedStoreConditional : Obligations.LoadReservedStoreConditional := by
  refine ⟨fun s rd rs1 rs2 aq rl i n => ⟨fun hi => ?_, fun hi => ?_⟩, fun s rd rs1 rs2 ho ha hm => ⟨fun hnone => ?_, fun hsome => ?_⟩⟩
  · have hi : exec i s = runSlot (Act.lr n rd rs1 aq rl) s := by
      rcases hi with hi | hi
      · cases hi; rfl
      · cases hi; rfl
    exact ⟨fun ha => hi.trans (runSlot_of_trap (atomic_of_misaligned ha)), fun ha hm u bs t hr h => lr_of_exec hi ha hm hr h⟩
  · have hi : exec i s = runSlot (Act.sc n rd rs1 rs2 aq rl) s := by
      rcases hi with hi | hi
      · cases hi; rfl
      · cases hi; rfl
    refine ⟨fun ha => hi.trans (runSlot_of_trap (atomic_of_misaligned ha)), fun ha hm u v good bad hr h => sc_of_exec hi ha hm hr ?_⟩
    rcases h with ⟨ho, rfl, rfl, rfl⟩ | ⟨ho, tr, ht, rfl, rfl⟩
    · exact scHome_of_own ho
    · exact scHome_of_atHome ho ht
  · have hsame : s.SameSlots { s with resv := sdel s.resv s.cur } := ⟨rfl, rfl⟩
    refine ⟨_, exec_scD_of_own (ok := false) ha hm ho (reserved_eq_false_of_none hnone) rfl, ?_, ?_, hsame.resulted_rd⟩
    · rw [State.resulted_core]
      rfl
    · exact State.commit_sram
  · obtain ⟨t, ht⟩ : ∃ t, t = s.putLoc (Claims.cc s) ((Claims.xs s rs1).toNat % 2 ^ 56) (bytesOfNat 8 (Claims.xs s rs2).toNat) := ⟨_, rfl⟩
    have hput : s.SameSlots t := ht ▸ State.putLoc_sameSlots
    have hsame : s.SameSlots { t with resv := sdel t.resv t.cur } := hput
    refine ⟨_, exec_scD_of_own (ok := true) ha hm ho (reserved_of_same hsome) ht.symm, ?_, ?_, hsame.resulted_rd⟩
    · rw [State.resulted_ownBytes]
      have hown := State.ownBytes_putLoc_same (s := s) (bs := bytesOfNat 8 (Claims.xs s rs2).toNat) ho
      rw [bytesOfNat_length, ← ht] at hown
      exact hown
    · rw [State.resulted, State.commit_rest, ← hput.2]
      exact sfind_sdel_same t.resv t.cur

end Sys2Proof.Machine
end

section
/-!
SUPPORT. Accesses at the home (R179, R182, R200): what a write leaves of a home that holds the sector, and the AMOs.
-/

namespace Sys2Proof.Machine

/-! ### One element of a list changed -/

section
variable {α β : Type} {p q : α → Bool} {f : α → α} {l : List α} {b : α}

theorem find?_modFirst (hp : l.find? p = some b) (hq : l.find? q = some b) (hf : q (f b) = true) : (modFirst p f l).find? q = some (f b) := by
  induction l with
  | nil => cases hp
  | cons x l ih =>
    rw [modFirst]
    by_cases hx : p x = true
    · rw [List.find?_cons_of_pos hx] at hp
      cases hp
      rw [if_pos hx, List.find?_cons_of_pos hf]
    · rw [List.find?_cons_of_neg hx] at hp
      have hqx : ¬q x = true := fun h => by
        rw [List.find?_cons_of_pos h] at hq
        cases hq
        exact hx (List.find?_some hp)
      rw [List.find?_cons_of_neg hqx] at hq
      rw [if_neg hx, List.find?_cons_of_neg hqx, ih hp hq]

/-- A change that `q` and `g` do not see. -/
theorem map_find?_modFirst {g : α → β} (hq : ∀ x, p x = true → q (f x) = q x) (hg : ∀ x, g (f x) = g x) :
    ((modFirst p f l).find? q).map g = (l.find? q).map g := by
  induction l with
  | nil => rfl
  | cons x l ih =>
    rw [modFirst]
    by_cases hx : p x = true
    · rw [if_pos hx, List.find?_cons, List.find?_cons, hq x hx]
      cases q x with
      | true => exact congrArg some (hg x)
      | false => rfl
    · rw [if_neg hx, List.find?_cons, List.find?_cons]
      cases q x with
      | true => rfl
      | false => exact ih

end

/-! ### A write into a sector that the L2 holds -/

section
variable {s t : State} {tr : TEntry} {d a n y : Nat} {bs : List Byte} {b : L2Block}

theorem shas_eq_isSome {α : Type} (m : Sparse α) (k : Nat) : shas m k = (sfind m k).isSome := by
  induction m with
  | nil => rfl
  | cons e m ih =>
    rw [shas, sfind, ih]
    by_cases h : e.1 = k
    · simp [h]
    · simp [h]

theorem L2Block.has_write {e : Nat} (h : b.has e a = true) : (b.write a bs).has d y = b.has d y := by
  have hs : (sfind b.sectors (a / 64 % 4)).isSome = true := by
    rw [L2Block.has, shas_eq_isSome, Bool.and_eq_true] at h
    exact h.1
  unfold L2Block.has L2Block.write
  dsimp only
  rw [shas_eq_isSome, shas_eq_isSome, sfind_sset]
  split
  · next hy => rw [hy, hs]; rfl
  · rfl

/-- The byte at address `y` in a superblock. -/
def L2Block.byte (b : L2Block) (y : Nat) : Byte := sget 0 (b.sector y).data (y % 64)

theorem State.homeByte_eq : s.homeByte tr d y = ((s.l2Find d y).map fun b => b.byte y).getD (s.memByte tr d y) := by
  unfold State.homeByte
  cases s.l2Find d y <;> rfl

theorem L2Block.sector_write (hy : y / 64 % 4 = a / 64 % 4) : (b.write a bs).sector y = (b.sector a).write (a % 64) bs := by
  unfold L2Block.sector L2Block.write
  rw [sget_sset, if_pos hy]
  rfl

theorem L2Block.byte_write_same {i : Nat} (hi : i < bs.length) (ha : a % 64 + bs.length ≤ 64) : (b.write a bs).byte (a + i) = bs[i] := by
  rw [L2Block.byte, L2Block.sector_write (by omega), Sector.write, show (a + i) % 64 = a % 64 + i by omega]
  exact sget_putBytes_same _ _ hi

theorem L2Block.byte_write_other (hy : y / 256 = a / 256) (h : y < a ∨ a + bs.length ≤ y) : (b.write a bs).byte y = b.byte y := by
  unfold L2Block.byte
  by_cases hs : y / 64 % 4 = a / 64 % 4
  · rw [L2Block.sector_write hs, Sector.write, sget_putBytes_other _ (by omega), L2Block.sector, L2Block.sector, hs]
  · unfold L2Block.sector L2Block.write
    rw [sget_sset, if_neg hs]

theorem State.has_of_l2Find (h : s.l2Find d a = some b) : b.has d a = true := List.find?_some (p := fun c : L2Block => c.has d a) h

/-- The state with bytes written in the sector of `a` that the L2 holds for die `d`. -/
def State.writeL2 (s : State) (d a : Nat) (bs : List Byte) : State :=
  { s with l2 := sset s.l2 (a / 256) (modFirst (fun b => b.has d a) (fun b => b.write a bs) (sget [] s.l2 (a / 256))) }

theorem State.homeByte_writeL2_same {e i : Nat} (hs : s.l2Find d a = some b) (he : s.l2Find e a = some b) (hi : i < bs.length)
    (ha : a % 64 + bs.length ≤ 64) : (s.writeL2 d a bs).homeByte tr e (a + i) = bs[i] := by
  have hd := State.has_of_l2Find hs
  have hhas : (fun c : L2Block => c.has e (a + i)) = fun c => c.has e a := by
    funext c
    rw [L2Block.has, L2Block.has, show (a + i) / 64 = a / 64 by omega]
  have hf : (s.writeL2 d a bs).l2Find e (a + i) = some (b.write a bs) := by
    unfold State.l2Find State.writeL2
    rw [show (a + i) / 256 = a / 256 by omega, sget_sset, if_pos rfl, hhas]
    exact find?_modFirst hs he ((L2Block.has_write hd).trans (State.has_of_l2Find he))
  rw [State.homeByte_eq, hf]
  exact L2Block.byte_write_same hi ha

theorem State.homeByte_writeL2_other {e : Nat} (h : y < a ∨ a + bs.length ≤ y) :
    (s.writeL2 d a bs).homeByte tr e y = s.homeByte tr e y := by
  have hm : (s.writeL2 d a bs).memByte tr e y = s.memByte tr e y := rfl
  rw [State.homeByte_eq, State.homeByte_eq, hm]
  congr 1
  unfold State.l2Find State.writeL2
  dsimp only
  rw [sget_sset]
  split
  · next hy =>
    rw [hy]
    exact map_find?_modFirst (fun c hc => L2Block.has_write hc) fun c => L2Block.byte_write_other hy h
  · rfl

/-! ### A sector installed -/

theorem key_of_class0 (hc : leafClass tr.leaf = 0) (e : Nat) : tr.key d a = tr.key e a := by
  unfold TEntry.key
  simp [hc]

theorem memByte_of_class0 (hc : leafClass tr.leaf = 0) (e : Nat) : s.memByte tr d a = s.memByte tr e a := by
  unfold State.memByte
  rw [key_of_class0 hc e]

/-- The superblock that a slice takes for a sector. -/
def State.newBlock (s : State) (tr : TEntry) (d a : Nat) : L2Block :=
  { slice := s.homeSlice tr d a, way := (s.freeWays (s.homeSlice tr d a) (a / 256)).headD 0, page := tr
    sectors := [(a / 64 % 4, s.sectorOf tr d a)] }

theorem State.installL2_of_room (hc : leafClass tr.leaf = 0) (hn : sget [] s.l2 (a / 256) = []) (hr : (s.l2Set (a / 256)).length < 4) :
    s.installL2 tr d a = { s with l2 := sset s.l2 (a / 256) [s.newBlock tr d a] } := by
  have hroom : s.l2Room (s.homeSlice tr d a) (a / 256) = some s := by simp [State.l2Room, hr]
  have hfind : s.l2Find d a = none := by simp [State.l2Find, hn]
  simp [State.installL2, hc, hn, hfind, hroom, State.newBlock, sset]

theorem State.installL2_of_held (h : (s.l2Find d a).isSome = true) : s.installL2 tr d a = s := by
  simp [State.installL2, h]

theorem L2Block.has_newBlock (hc : leafClass tr.leaf = 0) {e : Nat} : (s.newBlock tr d a).has e y = decide (a / 64 % 4 = y / 64 % 4) := by
  simp [L2Block.has, State.newBlock, hc, shas, beq_eq_decide]

theorem State.sectorOf_byte (y : Nat) : sget 0 (s.sectorOf tr d y).data (y % 64) = s.memByte tr d y := by
  have hy : y % 64 < 64 := Nat.mod_lt _ (by decide)
  have h := sget_putBytes_same [] 0 (bs := (List.range 64).map fun i => s.memByte tr d (y / 64 * 64 + i)) (i := y % 64) (by simpa using hy)
  rw [Nat.zero_add] at h
  rw [State.sectorOf, h, List.getElem_map, List.getElem_range, show y / 64 * 64 + y % 64 = y by omega]

theorem L2Block.byte_newBlock (hy : y / 64 = a / 64) : (s.newBlock tr d a).byte y = s.memByte tr d y := by
  rw [← State.sectorOf_byte, L2Block.byte, L2Block.sector, State.newBlock, sget, if_pos (by rw [hy]), State.sectorOf, State.sectorOf, hy]

/-- A page of class 0 reads the same for every die, so an installed sector changes no byte. -/
theorem State.homeByte_newBlock (hc : leafClass tr.leaf = 0) (hn : sget [] s.l2 (a / 256) = []) {e : Nat} :
    { s with l2 := sset s.l2 (a / 256) [s.newBlock tr d a] }.homeByte tr e y = s.homeByte tr e y := by
  obtain ⟨t, ht⟩ : ∃ t, t = { s with l2 := sset s.l2 (a / 256) [s.newBlock tr d a] } := ⟨_, rfl⟩
  have hm : t.memByte tr e y = s.memByte tr e y := by rw [ht]; rfl
  have hl : t.l2Find e y = if y / 256 = a / 256 then [s.newBlock tr d a].find? fun b => b.has e y else s.l2Find e y := by
    rw [ht]
    unfold State.l2Find
    rw [sget_sset]
    split
    · rfl
    · rfl
  rw [← ht, State.homeByte_eq, State.homeByte_eq, hm, hl]
  split
  · next hy =>
    have hold : s.l2Find e y = none := by rw [State.l2Find, hy, hn]; rfl
    rw [hold, List.find?_singleton, L2Block.has_newBlock hc]
    by_cases hsec : a / 64 % 4 = y / 64 % 4
    · rw [if_pos (decide_eq_true hsec)]
      exact (L2Block.byte_newBlock (by omega)).trans (memByte_of_class0 hc e)
    · rw [if_neg (by simpa using hsec)]
  · rfl

/-! ### A write at the home -/

theorem State.fillBad_of_class0 (hc : leafClass tr.leaf = 0) (hx : s.cxlDown = []) : s.fillBad tr d a = false := by
  simp [State.fillBad, hc, State.cxlLost, hx]

theorem State.badAt_of_class0 (hc : leafClass tr.leaf = 0) (hx : s.cxlDown = []) (hp : s.poison = []) : s.badAt tr d a n = false := by
  simp [State.badAt, State.fillBad_of_class0 hc hx, State.poisoned, hp]

theorem sectorParts_of_one (h : a % 64 + bs.length ≤ 64) (hb : bs ≠ []) : sectorParts a bs = [(a, bs)] := by
  have hpos : 0 < bs.length := List.length_pos_iff.2 hb
  have htake : bs.length ≤ 64 - a % 64 := by omega
  rw [sectorParts, show (a % 64 + bs.length + 63) / 64 = 1 by omega]
  simp [List.range_succ, List.take_of_length_le htake]

/-- The home of a class 0 page holds the sector of `a` for every die, or has room for it. -/
structure State.Holds (s : State) (tr : TEntry) (d a : Nat) : Prop where
  cls : leafClass tr.leaf = 0
  up : s.cxlDown = []
  dies : s.l2Find 0 a = s.l2Find d a
  room : (s.l2Find d a).isSome = true ∨ (sget [] s.l2 (a / 256) = [] ∧ (s.l2Set (a / 256)).length < 4)

theorem State.writeSector_of_class0 (hc : leafClass tr.leaf = 0) (hx : s.cxlDown = []) (ht : s.installL2 tr 0 a = t)
    (hf : (t.l2Find 0 a).isSome = true) :
    s.writeSector tr 0 (a, bs) = { t.writeL2 0 a bs with poison := clearPoison t.poison (tr.key 0 a) bs.length } := by
  simp [State.writeSector, hc, State.fillBad_of_class0 hc hx, ht, hf, State.writeL2]

/-- The sector installed at the home: every byte reads as before, and the L2 holds the sector for every die. -/
theorem State.Holds.install (h : s.Holds tr d a) : ∃ l2, s.installL2 tr 0 a = { s with l2 } ∧
    (∃ b, { s with l2 }.l2Find 0 a = some b ∧ { s with l2 }.l2Find d a = some b) ∧
    ∀ y, { s with l2 }.homeByte tr d y = s.homeByte tr d y := by
  obtain ⟨hc, hx, hdies, hroom⟩ := h
  rcases hroom with hsome | ⟨hn, hr⟩
  · obtain ⟨b, hb⟩ := Option.isSome_iff_exists.1 hsome
    exact ⟨s.l2, State.installL2_of_held (hdies ▸ hsome), ⟨b, hdies.trans hb, hb⟩, fun _ => rfl⟩
  · refine ⟨_, State.installL2_of_room hc hn hr, ⟨s.newBlock tr 0 a, ?_, ?_⟩, fun y => State.homeByte_newBlock hc hn⟩
    · simp [State.l2Find, L2Block.has_newBlock hc]
    · simp [State.l2Find, L2Block.has_newBlock hc]

theorem State.Holds.writeFor (h : s.Holds tr d a) (ctx : Nat) (hb : bs ≠ []) (hlen : a % 64 + bs.length ≤ 64) :
    (s.writeFor ctx tr a bs).homeRead tr d a bs.length = bs ∧
    (∀ y, (y < a ∨ a + bs.length ≤ y) → (s.writeFor ctx tr a bs).homeByte tr d y = s.homeByte tr d y) ∧
    (s.writeFor ctx tr a bs).mem = s.mem := by
  obtain ⟨l2, hl2, ⟨b, h0, hd⟩, hsame⟩ := h.install
  obtain ⟨hc, hx, -, -⟩ := h
  have hcxl : s.cxlAccess ctx tr a bs.length = s := by simp [State.cxlAccess, hx]
  have hw : s.writeFor ctx tr a bs = { s.writeSector tr 0 (a, bs) with resv := killResv (s.writeSector tr 0 (a, bs)).resv a bs.length } := by
    rw [State.writeFor, hcxl, State.homeWrite, sectorParts_of_one hlen hb]
    simp [TEntry.dies, hc]
  rw [hw, State.writeSector_of_class0 hc hx hl2 (Option.isSome_iff_exists.2 ⟨b, h0⟩)]
  refine ⟨List.ext_getElem (by simp [State.homeRead]) fun i hi _ => ?_, fun y hy => ?_, rfl⟩
  · have hi : i < bs.length := by simpa [State.homeRead] using hi
    simp only [State.homeRead, List.getElem_map, List.getElem_range]
    exact State.homeByte_writeL2_same h0 hd hi hlen
  · exact (State.homeByte_writeL2_other hy).trans (hsame y)

theorem State.dropRange_rest (s : State) (c a n : Nat) : ∃ cores, s.dropRange c a n = { s with cores } := by
  unfold State.dropRange
  exact forRange_keeps (fun t => ∃ cores, t = { s with cores }) _ (fun i (t : State) => t.dropL1 c (a / 4 * 4 + 4 * i))
    (fun _ _ ⟨_, h⟩ => h ▸ ⟨_, rfl⟩) ⟨s.cores, rfl⟩

end

section
variable {s t : State} {tr : TEntry} {c a n v old : Nat} {e : Word} {k : Acc} {rd rs1 rs2 : Reg} {f : Fmt} {bs : List Byte}

/-! ### An access at a home whose translation is held -/

theorem State.plbCheck_of_right (hplb : (s.core c).plbFind a = some e) (hr : k.right e = true) : s.plbCheck c a k = .ok e := by
  simp [State.plbCheck, hplb, hr]

theorem State.checkHome_of_held (hplb : (s.core c).plbFind a = some e) (hr : k.right e = true) (ht : s.held (dieOf c) a = some tr)
    (hc : leafClass tr.leaf = 0) : s.checkHome c a k = .ok (tr, s) := by
  have htr : s.translate (sliceOf c) a k.writes = .ok (tr, s) := by simp [State.translate, sliceOf_div, ht]
  unfold State.checkHome
  rw [State.plbCheck_of_right hplb hr]
  change (match s.translate (sliceOf c) a k.writes with | .error f => _ | .ok (t, s) => _) = _
  rw [htr]
  change (match classRefuses (leafClass tr.leaf) k (wbit e 5) (s.scratchOk tr) with | some _ => _ | none => _) = _
  rw [hc]
  rfl

theorem State.l1Home_same_line {b : Nat} (h : b / 32 = a / 32) : s.l1Home c b = s.l1Home c a := by
  unfold State.l1Home
  rw [h]

/-- Where the L1 holds no word of the line, there is nothing to write through. -/
theorem State.wtRange_of_no_words (hw : ∀ x, x % 4 = 0 → x / 32 = a / 32 → s.l1Word c x = none) (h : a % 32 + n ≤ 32) :
    s.wtRange c a n = .ok s := by
  have step (i : Nat) (hi : i < (a % 16 + n + 15) / 16 * 4) : s.wtWord (s.l1Home c (a / 16 * 16 + 4 * i)) (a / 16 * 16 + 4 * i) = .ok s := by
    have hnone := hw (a / 16 * 16 + 4 * i) (by omega) (by omega)
    rw [State.l1Word] at hnone
    rw [State.wtWord, hnone]
  have fold (l : List Nat) (hall : ∀ i ∈ l, i < (a % 16 + n + 15) / 16 * 4) :
      l.foldlM (fun s i => s.wtWord (s.l1Home c (a / 16 * 16 + 4 * i)) (a / 16 * 16 + 4 * i)) s = .ok s := by
    induction l with
    | nil => rfl
    | cons i l ih =>
      rw [List.foldlM_cons, step i (hall i (.head _))]
      exact ih fun j hj => hall j (.tail _ hj)
  exact fold _ fun i hi => List.mem_range.1 hi

theorem State.wtRange_of_empty (hl : (s.core (s.l1Home c a)).l1 = []) (h : a % 32 + n ≤ 32) : s.wtRange c a n = .ok s := by
  refine State.wtRange_of_no_words (fun x _ hx => ?_) h
  rw [State.l1Word, State.l1Home_same_line hx, hl]
  rfl

theorem State.drainOver_of_empty (h : (s.core c).nt = []) : s.drainOver c a n = .ok s := by
  unfold State.drainOver
  rw [h]
  rfl

theorem State.atHome_of_held (hk : s.checkHome c a k = .ok (tr, s)) (hnt : (s.core c).nt = [])
    (hl : (s.core (s.l1Home c a)).l1 = []) (h : a % 32 + n ≤ 32) : s.atHome c a n k = .ok (tr, s) := by
  unfold State.atHome
  rw [hk]
  change kept a k.writes (ofWt k (s.drainOver c a n) >>= fun s => ofWt k (s.wtRange c a n) >>= fun s => pure (tr, s)) = _
  rw [State.drainOver_of_empty hnt]
  change kept a k.writes (ofWt k (s.wtRange c a n) >>= fun s => pure (tr, s)) = _
  rw [State.wtRange_of_empty hl h]
  rfl

theorem State.rmw_of_atHome {g : Nat → Option Nat} (ho : isOwn c a = false) (hh : s.atHome c a n .amo = .ok (tr, t))
    (hb : t.badAt tr (dieOf c) a n = false) (hg : g (natOfBytes (t.homeRead tr (dieOf c) a n)) = some v) :
    s.rmw c a n .amo g = .ok (natOfBytes (t.homeRead tr (dieOf c) a n),
      (t.writeFor (t.ctxOf (4 * c)) tr a (bytesOfNat n v)).dropRange c a n) := by
  have hcons : t.consume tr c a n .amo = .ok () := if_neg (by rw [hb]; decide)
  refine (if_neg (by rw [ho]; decide)).trans ?_
  rw [hh]
  change (t.consume tr c a n .amo >>= fun _ => _) = _
  rw [hcons]
  change (match g (natOfBytes (t.homeRead tr (dieOf c) a n)) with | some v => _ | none => _) = _
  rw [hg]
  rfl

theorem bytesOfNat_mod (n v : Nat) : bytesOfNat n (v % 256 ^ n) = bytesOfNat n v := by
  induction n generalizing v with
  | zero => rfl
  | succ n ih =>
    rw [bytesOfNat, bytesOfNat, Nat.pow_succ, Nat.mul_comm, Nat.mod_mul_right_div_self, ih]
    congr 1
    refine BitVec.eq_of_toNat_eq ?_
    rw [BitVec.toNat_ofNat, BitVec.toNat_ofNat]
    exact Nat.mod_mul_right_mod ..


theorem minS_eq (n : Nat) : minS n = fun a b => if (BitVec.ofNat (8 * n) a).toInt ≤ (BitVec.ofNat (8 * n) b).toInt then a else b := by
  funext a b
  rw [minS, sextInt_eq_toInt, sextInt_eq_toInt]

theorem maxS_eq (n : Nat) : maxS n = fun a b => if (BitVec.ofNat (8 * n) b).toInt ≤ (BitVec.ofNat (8 * n) a).toInt then a else b := by
  funext a b
  rw [maxS, sextInt_eq_toInt, sextInt_eq_toInt]

/-! ### An AMO at a home of class 0 -/

theorem State.Holds.rmw {g : Nat → Option Nat} (hh : s.Holds tr (dieOf c) a) (ho : isOwn c a = false)
    (hplb : (s.core c).plbFind a = some e) (hr : Acc.right .amo e = true) (ht : s.held (dieOf c) a = some tr) (hp : s.poison = [])
    (hnt : (s.core c).nt = []) (hl : (s.core (s.l1Home c a)).l1 = []) (hn : a % 32 + n ≤ 32)
    (hg : g (natOfBytes (s.homeRead tr (dieOf c) a n)) = some v) (hbs : bytesOfNat n v = bs) : ∃ cores, s.rmw c a n .amo g =
      .ok (natOfBytes (s.homeRead tr (dieOf c) a n), { s.writeFor (s.ctxOf (4 * c)) tr a bs with cores }) := by
  subst hbs
  obtain ⟨cores, hdrop⟩ := State.dropRange_rest (s.writeFor (s.ctxOf (4 * c)) tr a (bytesOfNat n v)) c a n
  have hhome := State.atHome_of_held (State.checkHome_of_held hplb hr ht hh.cls) hnt hl hn
  exact ⟨cores, hdrop ▸ State.rmw_of_atHome ho hhome (State.badAt_of_class0 hh.cls hh.up hp) hg⟩

theorem bytesOfNat_sum (v : Nat) (x : Word) : bytesOfNat 8 ((v + x.toNat % 2 ^ (8 * 8)) % 2 ^ 64) = bytesOfNat 8 (v + x.toNat) := by
  rw [Nat.mod_eq_of_lt x.isLt]
  exact bytesOfNat_mod 8 (v + x.toNat)

theorem exec_amoaddD (ha : (Claims.xs s rs1).toNat % 2 ^ 56 % 8 = 0) (hm : s.earlierMember s.cur (Claims.named rs1) = false)
    (h : s.rmw (Claims.cc s) ((Claims.xs s rs1).toNat % 2 ^ 56) 8 .amo
      (fun v => some ((v + (Claims.xs s rs2).toNat % 2 ^ (8 * 8)) % 2 ^ 64)) = .ok (old, t)) :
    exec (.amoaddD rd rs1 rs2 false false) s = .next (t.resulted rd (BitVec.ofNat 64 old)) := by
  obtain ⟨-, hamo⟩ : Claims.Amo (.amoaddD rd rs1 rs2 false false) s 8 (fun a b => (a + b) % 2 ^ 64) rd rs1 rs2 false false :=
    amo_of_exec rfl
  rw [← BitVec.signExtend_eq (BitVec.ofNat 64 old)]
  exact hamo ha hm s old t rfl h

/-- What an AMO of 8 bytes leaves, once its home has been written. -/
theorem resulted_of_home {d : Nat} {cores : Sparse Core} (hh : s.Holds tr d a) (ha : a % 8 = 0) (ctx v : Nat) (w : Word)
    (ht : t = { s.writeFor ctx tr a (bytesOfNat 8 v) with cores }.resulted rd w) :
    t.homeRead tr d a 8 = bytesOfNat 8 v ∧ (∀ y, (y < a ∨ a + 8 ≤ y) → t.homeByte tr d y = s.homeByte tr d y) ∧ t.mem = s.mem ∧
      (rd ≠ 0 → (t.slot s.cur).xr rd.toNat = w) ∧ (∀ m, m ≠ rd.toNat → (t.slot s.cur).xr m = (s.slot s.cur).xr m) ∧
      (∀ k, k ≠ s.cur → t.slot k = s.slot k) := by
  have hlen := bytesOfNat_length 8 v
  have hw := hh.writeFor (bs := bytesOfNat 8 v) ctx (fun h => by rw [h] at hlen; cases hlen) (by omega)
  obtain ⟨u, hu⟩ : ∃ u, u = s.writeFor ctx tr a (bytesOfNat 8 v) := ⟨_, rfl⟩
  rw [← hu, hlen] at hw
  obtain ⟨hread, hother, hmem⟩ := hw
  have hsame : s.SameSlots { u with cores } := hu ▸ State.writeFor_sameSlots ctx tr (bytesOfNat 8 v)
  rw [← hu] at ht
  have hbyte (y : Nat) : t.homeByte tr d y = u.homeByte tr d y := by
    rw [ht]
    exact State.commit_sameMemory.2 tr d y
  refine ⟨?_, fun y hy => (hbyte y).trans (hother y hy), ?_, fun hrd => ?_, fun m hm => ?_, fun k hk => ?_⟩
  · rw [← hread]
    exact List.map_congr_left fun i _ => hbyte (a + i)
  · rw [ht, State.resulted, State.commit_rest, ← hmem]
    rfl
  · rw [ht, hsame.resulted_rd hrd]
  · rw [ht, hsame.resulted_xr, if_neg fun h => hm h.1]
  · rw [ht, hsame.resulted_slot hk]

/-! ### Floating-point atomics -/

theorem fpAtomic_of_misaligned {op : Rm → FVal → FVal → FVal × Flags} (ha : (Claims.xs s rs1).toNat % 2 ^ 56 % (f.bits / 8) ≠ 0) :
    Act.fpAtomic f op rd rs1 rs2 s = .error (.trap 6 (wordOfNat ((Claims.xs s rs1).toNat % 2 ^ 56))) := by
  change (ite _ _ _ : Act Unit) s = _
  rw [if_pos (show va ((s.slot s.cur).xr rs1.toNat) % (f.bits / 8) ≠ 0 from ha)]
  rfl

/-- The value and the flags of a floating-point atomic of the executing slot, of the old value. -/
def fpAtomicResult (s : State) (f : Fmt) (op : Rm → FVal → FVal → FVal × Flags) (rs2 : Reg) (old : Nat) : Nat × Flags :=
  let rm := rmOf (s.slot s.cur).vctl
  f.finish (op rm (f.value old) (f.value ((Claims.xs s rs2).toNat % 2 ^ f.bits))) rm false

theorem fpAtomic_of_rmw {op : Rm → FVal → FVal → FVal × Flags} (ha : (Claims.xs s rs1).toNat % 2 ^ 56 % (f.bits / 8) = 0)
    (hm : s.earlierMember s.cur (Claims.named rs1) = false)
    (h : s.rmw (Claims.cc s) ((Claims.xs s rs1).toNat % 2 ^ 56) (f.bits / 8) .amo (fun v => some (fpAtomicResult s f op rs2 v).1) = .ok (old, t)) :
    Act.fpAtomic f op rd rs1 rs2 s = .ok ((), ((t.modSlot t.cur fun sl =>
      sl.setX rd.toNat ((BitVec.ofNat (8 * (f.bits / 8)) old).signExtend 64)).modSlot t.cur fun sl => sl.addFlags (fpAtomicResult s f op rs2 old).2).commit t.cur none) := by
  rw [← sext64_eq]
  change (ite _ _ _ : Act Unit) s = _
  rw [if_neg (show ¬va ((s.slot s.cur).xr rs1.toNat) % (f.bits / 8) ≠ 0 from not_not.2 ha)]
  refine (act_bind_ok (memberOrder_ok hm)).trans ?_
  refine (act_bind_ok (a := old) (t := t) ?_).trans ?_
  · exact h
  · rfl

end

/-- Settles O15: the AMOs are one operation with a function of two numbers; at a home of class 0 its write is of one sector, which
the L2 holds or takes. -/
theorem atomics : Obligations.Atomics := by
  refine ⟨fun s rd rs1 rs2 aq rl => ⟨amo_of_exec rfl, amo_of_exec rfl, amo_of_exec rfl, amo_of_exec rfl, amo_of_exec rfl,
      minS_eq 4 ▸ amo_of_exec rfl, maxS_eq 4 ▸ amo_of_exec rfl, amo_of_exec rfl, amo_of_exec rfl, amo_of_exec rfl, amo_of_exec rfl,
      amo_of_exec rfl, amo_of_exec rfl, amo_of_exec rfl, minS_eq 8 ▸ amo_of_exec rfl, maxS_eq 8 ▸ amo_of_exec rfl, amo_of_exec rfl,
      amo_of_exec rfl⟩,
    fun s rd rs1 rs2 e tr ha ho hplb hr hw ht hc hp hx hnt hl hm hdies hroom => ?_,
    fun s rd rs1 rs2 i f op hi => ?_⟩
  · have hh : s.Holds tr (dieOf (Claims.cc s)) ((Claims.xs s rs1).toNat % 2 ^ 56) := ⟨hc, hx, hdies, hroom⟩
    obtain ⟨cores, hrmw⟩ := hh.rmw (n := 8) (g := fun v => some ((v + (Claims.xs s rs2).toNat % 2 ^ (8 * 8)) % 2 ^ 64)) ho hplb
      (by simp [Acc.right, hr, hw]) ht hp hnt hl (by omega) rfl (bytesOfNat_sum _ _)
    exact ⟨_, exec_amoaddD ha hm hrmw, resulted_of_home hh ha _ _ _ rfl⟩
  · have hi : exec i s = runSlot (Act.fpAtomic f op rd rs1 rs2) s := by
      rcases hi with hi | hi | hi
      · cases hi; rfl
      · cases hi; rfl
      · cases hi; rfl
    exact ⟨fun ha => hi.trans (runSlot_of_trap (fpAtomic_of_misaligned ha)), fun ha hm old t h =>
      hi.trans (runSlot_of_ok (fpAtomic_of_rmw ha hm h))⟩

end Sys2Proof.Machine
end

section
/-!
SUPPORT. Fences, scoped accesses, line control and non-temporal stores (R173, R184, R187, R189, R190).
-/

namespace Sys2Proof.Machine

section
variable {s t u v : State} {a c n : Nat} {e : Stop} {sc : Scope} {rd rs1 rs2 : Reg} {act : Act Unit}

/-! ### Stops after walks -/

theorem Stop.apply_afterAll (ws : List (Nat × Bool)) : (Stop.afterAll ws e).apply s = e.apply (Claims.walks s ws) := by
  induction ws generalizing s with
  | nil => rfl
  | cons w ws ih => exact ih

theorem release_of_error {f : WalkFault} (h : s.release (Claims.cc s) sc = .error (a, f)) : Act.release sc s =
    .error (Stop.afterAll (((s.releaseWalks (Claims.cc s) sc).takeWhile (· != a)).map fun b => (b, true)) (.trap 29 (wordOfNat a))) := by
  dsimp only [Act.release]
  rw [show s.release (coreOf s.cur) sc = _ from h]
  rfl

theorem runSlot_of_releaseFails {ws : List (Nat × Bool)} {cause : Nat} {tval : Word}
    (h : act s = .error (Stop.afterAll ws (.trap cause tval))) : runSlot act s = Claims.traps (Claims.walks s ws) cause tval :=
  (runSlot_of_error h).trans (congrArg Host.Outcome.next (Stop.apply_afterAll ws))

theorem runSlot_congr {act' : Act Unit} (h : act s = act' s) : runSlot act s = runSlot act' s := by
  unfold runSlot
  rw [h]

/-! ### Fences -/

theorem fenceAr_of_release (h : s.release (Claims.cc s) sc = .ok t) :
    Act.fenceAr sc s = .ok ((), (t.acquire (t.cur / 4) sc).commit (t.acquire (t.cur / 4) sc).cur none) := act_bind_ok (release_of_ok h)

theorem exec_fence {imm : BitVec 12} :
    exec (.fence rd rs1 imm) s = exec (.fenceAr (scopeOf (wbits (s.slot s.cur).dscope 2 0))) s := by
  change runSlot (Act.dscope >>= fun sc => Act.fenceAr sc) s = _
  unfold runSlot
  rw [act_bind_ok (x := Act.dscope) rfl]
  rfl

theorem fenceI_empties {imm : BitVec 12} : ∃ t, exec (.fenceI rd rs1 imm) s = .next t ∧ (t.car (s.cur / 32)).ic = [] := by
  refine ⟨((s.wtWhatCan (s.cur / 4)).modCar (s.cur / 32) fun c => { c with ic := [] }).commit (s.wtWhatCan (s.cur / 4)).cur none, rfl, ?_⟩
  rw [State.commit_car]
  exact congrArg Caravan.ic (State.car_modCar_same (s.wtWhatCan (s.cur / 4)) (s.cur / 32) fun c => { c with ic := [] })

/-! ### Scoped accesses -/

theorem ldaq_of_misaligned (h : (Claims.xs s rs1).toNat % 2 ^ 56 % 8 ≠ 0) :
    exec (.ldaq rd rs1 sc) s = Claims.traps s 4 (wordOfNat ((Claims.xs s rs1).toNat % 2 ^ 56)) := by
  change execLdaq rd rs1 sc s = _
  refine runSlot_of_trap ?_
  change (ite _ _ _ : Act Unit) s = _
  rw [if_pos (show va ((s.slot s.cur).xr rs1.toNat) % 8 ≠ 0 from h)]
  rfl

theorem ldaq_of_readHome {bs : List Byte} (h : (Claims.xs s rs1).toNat % 2 ^ 56 % 8 = 0) (hcore : sc ≠ .core)
    (hcar : sc = .caravan → (s.car (s.cur / 32)).fused = false)
    (hr : s.readHome (Claims.cc s) ((Claims.xs s rs1).toNat % 2 ^ 56) 8 .load = .ok (bs, t)) :
    let w := t.modSlot t.cur fun sl => sl.setX rd.toNat (BitVec.ofNat 64 (natOfBytes bs))
    exec (.ldaq rd rs1 sc) s = .next ((w.acquire (w.cur / 4) sc).commit (w.acquire (w.cur / 4) sc).cur none) := by
  have hplain : ¬(decide (sc = .core) || (decide (sc = .caravan) && (s.car (carOf s.cur)).fused)) = true := by
    by_cases hsc : sc = .caravan
    · simp [hsc, show (s.car (carOf s.cur)).fused = false from hcar hsc]
    · simp [hcore, hsc]
  change execLdaq rd rs1 sc s = _
  refine runSlot_of_ok ?_
  change (ite _ _ _ : Act Unit) s = _
  rw [if_neg (show ¬va ((s.slot s.cur).xr rs1.toNat) % 8 ≠ 0 from not_not.2 h)]
  refine (act_bind_ok (x := Act.fused) rfl).trans ?_
  rw [if_neg hplain]
  refine (act_bind_ok (a := natOfBytes bs) (t := t) ?_).trans rfl
  rw [show s.readHome (coreOf s.cur) (va ((s.slot s.cur).xr rs1.toNat)) 8 .load = _ from hr]
  rfl

theorem strl_of_misaligned (h : (Claims.xs s rs1).toNat % 2 ^ 56 % 8 ≠ 0) :
    exec (.strl rs1 rs2 sc) s = Claims.traps s 6 (wordOfNat ((Claims.xs s rs1).toNat % 2 ^ 56)) := by
  change execStrl rs1 rs2 sc s = _
  refine runSlot_of_trap ?_
  change (ite _ _ _ : Act Unit) s = _
  rw [if_pos (show va ((s.slot s.cur).xr rs1.toNat) % 8 ≠ 0 from h)]
  rfl

/-- The access of STRL, after its release. -/
def Act.strlAt (sc : Scope) (a : Nat) (d : Word) : Act Unit := do
  if sc = .core then Act.storeNat a 8 d.toNat
  else (fun s => (s.writeHome (coreOf s.cur) a (bytesOfNat 8 d.toNat) .store).map fun t => ((), t) : Act Unit)
  Act.next

theorem exec_strl (h : (Claims.xs s rs1).toNat % 2 ^ 56 % 8 = 0) :
    exec (.strl rs1 rs2 sc) s = runSlot (Act.released sc (Act.strlAt sc ((Claims.xs s rs1).toNat % 2 ^ 56) (Claims.xs s rs2))) s := by
  refine runSlot_congr ?_
  change (ite _ _ _ : Act Unit) s = _
  rw [if_neg (show ¬va ((s.slot s.cur).xr rs1.toNat) % 8 ≠ 0 from not_not.2 h)]
  rfl

theorem strlAt_of_writeHome {d : Word} (hcore : sc ≠ .core) (h : u.writeHome (u.cur / 4) a (bytesOfNat 8 d.toNat) .store = .ok t) :
    Act.strlAt sc a d u = .ok ((), t.commit t.cur none) := by
  change (ite _ _ _ : Act Unit) u = _
  rw [if_neg hcore]
  refine (act_bind_ok (a := ()) (t := t) ?_).trans rfl
  rw [show u.writeHome (coreOf u.cur) _ _ _ = _ from h]
  rfl


theorem strl_of_writeHome (h : (Claims.xs s rs1).toNat % 2 ^ 56 % 8 = 0) (hcore : sc ≠ .core)
    (hr : s.release (Claims.cc s) sc = .ok u)
    (hw : u.writeHome (u.cur / 4) ((Claims.xs s rs1).toNat % 2 ^ 56) (bytesOfNat 8 (Claims.xs s rs2).toNat) .store = .ok t) :
    exec (.strl rs1 rs2 sc) s = .next (t.commit t.cur none) :=
  (exec_strl h).trans (runSlot_of_ok ((Act.released_ok _ _ _ _).2 ⟨u, release_of_ok hr, strlAt_of_writeHome hcore hw⟩))

theorem released_of_error (h : Act.release sc s = .error e) : Act.released sc act s = .error e := by
  unfold Act.released
  rw [h]

/-! ### Line control -/

theorem wtLine_of_ok (h : s.wtRange (Claims.cc s) (a / 32 * 32) 32 = .ok t) : Act.wtLine a s = .ok ((), t) := by
  dsimp only [Act.wtLine]
  rw [show s.wtRange (coreOf s.cur) _ _ = _ from h]

theorem lineOp_of_own {invalidate : Bool} (h : isOwn (Claims.cc s) ((Claims.xs s rs1).toNat % 2 ^ 56) = true) :
    Act.lineOp rs1 invalidate s = .ok ((), s.commit s.cur none) := by
  change (ite _ _ _ : Act Unit) s = _
  rw [show isOwn (coreOf s.cur) (va ((s.slot s.cur).xr rs1.toNat)) = true from h]
  rfl

theorem lineOp_of_no_right {invalidate : Bool} (h : isOwn (Claims.cc s) ((Claims.xs s rs1).toNat % 2 ^ 56) = false)
    (hr : ∀ e, (s.core (Claims.cc s)).plbFind ((Claims.xs s rs1).toNat % 2 ^ 56) = some e → wbit e 0 = false) :
    Act.lineOp rs1 invalidate s = .error (.trap 5 (wordOfNat ((Claims.xs s rs1).toNat % 2 ^ 56))) := by
  change (ite _ _ _ : Act Unit) s = _
  rw [show isOwn (coreOf s.cur) (va ((s.slot s.cur).xr rs1.toNat)) = false from h]
  refine act_bind_error ?_
  rw [show s.plbCheck (coreOf s.cur) (va ((s.slot s.cur).xr rs1.toNat)) .load = _ from plbCheck_of_no_right (acc := .load) hr]
  rfl

theorem lineOp_of_wtRange {invalidate : Bool} {e : Word} (h : isOwn (Claims.cc s) ((Claims.xs s rs1).toNat % 2 ^ 56) = false)
    (hp : (s.core (Claims.cc s)).plbFind ((Claims.xs s rs1).toNat % 2 ^ 56) = some e) (hr : wbit e 0 = true)
    (ht : s.wtRange (Claims.cc s) ((Claims.xs s rs1).toNat % 2 ^ 56 / 32 * 32) 32 = .ok t)
    (hu : (if invalidate then t.dropRange (t.cur / 4) ((Claims.xs s rs1).toNat % 2 ^ 56 / 32 * 32) 32 else t) = u) :
    Act.lineOp rs1 invalidate s = .ok ((), u.commit u.cur none) := by
  change (ite _ _ _ : Act Unit) s = _
  rw [show isOwn (coreOf s.cur) (va ((s.slot s.cur).xr rs1.toNat)) = false from h]
  refine (act_bind_ok (a := e) (t := s) ?_).trans ((act_bind_ok (wtLine_of_ok ht)).trans ?_)
  · rw [show s.plbCheck (coreOf s.cur) (va ((s.slot s.cur).xr rs1.toNat)) .load = _ from
      State.plbCheck_of_right (k := .load) hp hr]
    rfl
  · subst hu
    cases invalidate with
    | true => rfl
    | false => rfl

theorem State.walked_of_checkHome {tr : TEntry} (ho : ¬isOwn (Claims.cc s) a = true) (h : s.checkHome (Claims.cc s) a .load = .ok (tr, u)) :
    s.walked a false = u := by
  refine (if_neg ho).trans ?_
  obtain ⟨e, -, h⟩ := ok_of_bind_ok h
  split at h
  · cases h
  · next ht =>
    split at h
    · cases h
    · cases h
      rw [show s.translate (sliceOf (coreOf s.cur)) a false = _ from ht]

theorem State.prefetch_cases (s : State) (a : Nat) : s.prefetch (Claims.cc s) a = s ∨ s.prefetch (Claims.cc s) a = s.walked a false ∨
    ∃ u v tr, s.checkHome (Claims.cc s) a .load = .ok (tr, u) ∧ u.l1Room (Claims.cc s) a = .ok v ∧
      s.prefetch (Claims.cc s) a = v.fillL1 (Claims.cc s) a tr false := by
  by_cases ho : isOwn (Claims.cc s) a = true
  · exact .inl (if_pos ho)
  · have hpre : s.prefetch (Claims.cc s) a = _ := if_neg ho
    rw [hpre]
    split
    · next tr u hu =>
      have hwalk := State.walked_of_checkHome ho hu
      split
      · exact .inr (.inl hwalk.symm)
      · split
        · next v hv => exact .inr (.inr ⟨u, v, tr, hu, hv, rfl⟩)
        · exact .inr (.inl hwalk.symm)
    · exact .inr (.inl rfl)
    · exact .inl rfl

/-! ### Non-temporal stores -/

theorem storeNt_of_misaligned {d : Nat} (h : a % n ≠ 0) : Act.storeNt a n d s = .error (.trap 6 (wordOfNat a)) := if_pos h

theorem storeNt_of_own {d : Nat} (h : a % n = 0) (ho : isOwn (Claims.cc s) a = true) :
    Act.storeNt a n d s = .ok ((), s.putLoc (Claims.cc s) a (bytesOfNat n d)) :=
  (if_neg (not_not.2 h)).trans (if_pos ho)

theorem storeNt_of_hit {d : Nat} {w : L1Word} (h : a % n = 0) (ho : isOwn (Claims.cc s) a = false) (hl : s.l1Line (Claims.cc s) a = some w)
    (hc : s.checkHit (Claims.cc s) a w .store = .ok ()) (hw : s.wtRange (Claims.cc s) (a / 32 * 32) 32 = .ok v)
    (hp : (v.dropRange (Claims.cc s) (a / 32 * 32) 32).ntPut (Claims.cc s) a (bytesOfNat n d) = .ok t) :
    Act.storeNt a n d s = .ok ((), t) := by
  refine (if_neg (not_not.2 h)).trans ((if_neg (by rw [show isOwn (coreOf s.cur) a = false from ho]; decide)).trans ?_)
  rw [show s.l1Line (coreOf s.cur) a = _ from hl]
  simp only [bind, Except.bind, show s.checkHit (coreOf s.cur) a w .store = _ from hc, ofWt,
    show s.wtRange (coreOf s.cur) (a / 32 * 32) 32 = _ from hw, pure, Except.pure,
    show (v.dropRange (coreOf s.cur) (a / 32 * 32) 32).ntPut (coreOf s.cur) a (bytesOfNat n d) = _ from hp]

theorem firstOf_eq_none {α β : Type} {f : α → Option β} {l : List α} (h : firstOf f l = none) {x : α} (hx : x ∈ l) : f x = none := by
  induction l with
  | nil => cases hx
  | cons y l ih =>
    rw [firstOf] at h
    split at h
    · cases h
    · next hy =>
      rcases List.mem_cons.1 hx with rfl | hx
      · exact hy
      · exact ih h hx

/-- An L1 that holds no word of a line has nothing of it to write through. -/
theorem State.wtRange_of_l1Line (h : s.l1Line c a = none) : s.wtRange c (a / 32 * 32) 32 = .ok s := by
  refine State.wtRange_of_no_words (fun x h4 hx => ?_) (by omega)
  have hi : (x / 4) % 8 ∈ List.range 8 := List.mem_range.2 (by omega)
  have hnone := firstOf_eq_none h hi
  rwa [show a / 32 * 32 + 4 * (x / 4 % 8) = x by omega] at hnone

theorem storeNt_of_miss {d : Nat} {tr : TEntry} (h : a % n = 0) (ho : isOwn (Claims.cc s) a = false) (hl : s.l1Line (Claims.cc s) a = none)
    (hc : s.checkHome (Claims.cc s) a .store = .ok (tr, u)) (hw : u.wtRange (Claims.cc s) (a / 32 * 32) 32 = .ok v)
    (hp : (v.dropRange (Claims.cc s) (a / 32 * 32) 32).ntPut (Claims.cc s) a (bytesOfNat n d) = .ok t) :
    Act.storeNt a n d s = .ok ((), t) := by
  refine (if_neg (not_not.2 h)).trans ((if_neg (by rw [show isOwn (coreOf s.cur) a = false from ho]; decide)).trans ?_)
  have hv : v = u := by
    have hline : u.l1Line (Claims.cc s) a = none := by
      rw [← hl, (State.checkHome_fetchesAll hc).rest]
      rfl
    exact Except.ok.inj (hw.symm.trans (State.wtRange_of_l1Line hline))
  subst hv
  rw [show s.l1Line (coreOf s.cur) a = _ from hl]
  simp only [bind, Except.bind, show s.checkHome (coreOf s.cur) a .store = _ from hc, pure, Except.pure,
    show (v.dropRange (coreOf s.cur) (a / 32 * 32) 32).ntPut (coreOf s.cur) a (bytesOfNat n d) = _ from hp]

theorem stNt_of_ok (h : Act.storeNt ((Claims.xs s rs1).toNat % 2 ^ 56) 8 (Claims.xs s rs2).toNat s = .ok ((), t)) :
    exec (.stNt rs1 rs2) s = .next (t.commit t.cur none) := by
  change execStNt rs1 rs2 s = _
  exact runSlot_of_ok ((act_bind_ok (x := Act.x rs1) rfl).trans ((act_bind_ok (x := Act.x rs2) rfl).trans (act_bind_ok h)))

theorem stNt_of_error {cause : Nat} {tval : Word}
    (h : Act.storeNt ((Claims.xs s rs1).toNat % 2 ^ 56) 8 (Claims.xs s rs2).toNat s = .error (.trap cause tval)) :
    exec (.stNt rs1 rs2) s = Claims.traps s cause tval := by
  change execStNt rs1 rs2 s = _
  exact runSlot_of_trap ((act_bind_ok (x := Act.x rs1) rfl).trans ((act_bind_ok (x := Act.x rs2) rfl).trans (act_bind_error h)))

theorem ntIdleDrain_of_ok {core line : Nat} {e : NtEntry}
    (he : ((s.core core).nt.find? fun e => e.line == line && decide (e.last + 256 ≤ s.coreCycle core)) = some e)
    (ht : s.drainNt core e = .ok t) : exec (.ntIdleDrain core line) s = .next t := by
  change execNtIdleDrain core line s = _
  unfold execNtIdleDrain
  rw [he]
  exact congrArg (fun r => Host.Outcome.next (Except.toOption r |>.getD s)) ht

end

/-- Settles O17: a release that fails stops with the walks before its word; the other instructions are their accesses and a commit, and
a non-temporal store that misses has nothing of its line to write through. -/
theorem fencesAndLines : Obligations.FencesAndLines := by
  refine ⟨fun s rd rs1 imm sc => ⟨rfl, fun t h => ⟨runSlot_of_ok (act_bind_ok (release_of_ok h)), runSlot_of_ok (fenceAr_of_release h)⟩,
      fun a f h => ⟨runSlot_of_releaseFails (act_bind_error (release_of_error h)),
        runSlot_of_releaseFails (act_bind_error (release_of_error h))⟩, exec_fence, fenceI_empties⟩,
    fun s rd rs1 rs2 sc => ⟨fun h => ⟨ldaq_of_misaligned h, strl_of_misaligned h⟩, fun h hcore hcar bs t hr => ldaq_of_readHome h hcore hcar hr,
      fun h hcore u t hr hw => strl_of_writeHome h hcore hr hw,
      fun h b f hr => (exec_strl h).trans (runSlot_of_releaseFails (released_of_error (release_of_error hr)))⟩,
    fun s rs1 => ⟨fun h => ⟨runSlot_of_ok (lineOp_of_own h), runSlot_of_ok (lineOp_of_own h)⟩,
      fun h hr => ⟨runSlot_of_trap (lineOp_of_no_right h hr), runSlot_of_trap (lineOp_of_no_right h hr)⟩,
      fun h e t hp hr ht => ⟨runSlot_of_ok (lineOp_of_wtRange h hp hr ht rfl), runSlot_of_ok (lineOp_of_wtRange h hp hr ht rfl)⟩,
      ⟨_, rfl, s.prefetch_cases _⟩⟩,
    fun s rs1 rs2 core line => ⟨fun h => stNt_of_error (storeNt_of_misaligned h), fun h ho => stNt_of_ok (storeNt_of_own h ho),
      fun h ho u v t hc hw hp => stNt_of_ok ?_, fun e t => ntIdleDrain_of_ok⟩⟩
  rcases hc with ⟨w, hl, hc, rfl⟩ | ⟨hl, tr, hc⟩
  · exact storeNt_of_hit h ho hl hc hw hp
  · exact storeNt_of_miss h ho hl hc hw hp

end Sys2Proof.Machine
end

section
/-!
SUPPORT. Engine queues (R81, R257 to R261): a command joins its core's queue, and what EQWAIT and EQSTAT say of it.
-/

namespace Sys2Proof.Machine

section
variable {s t u : State} {a c n : Nat} {rd rs2 : Reg} {e : Engine} {tcw : Tcw} {ports : List Nat} {act : Act Unit} {ws : List (Nat × Bool)}

/-! ### Stops after walks that are kept -/

theorem keepAll_of_error {st : Stop} (h : act s = .error st) : Act.keepAll ws act s = .error (Stop.afterAll ws st) := by
  unfold Act.keepAll
  rw [h]
  rfl

theorem runSlot_of_wait (h : act s = .error (Stop.afterAll ws .wait)) : runSlot act s = .next (Claims.walks s ws) :=
  (runSlot_of_error h).trans (congrArg Host.Outcome.next (Stop.apply_afterAll ws))

/-! ### A command joins the core's queue -/

/-- The command that the executing slot's next entry holds (R257). -/
def State.nextCmd (s : State) (n : Nat) (tcw : Tcw) : Cmd :=
  let sl := s.slot s.cur
  newCmd tcw (sget 0 sl.tickets n) (.loc s.cur) (s.cur / 4) sl.ccont sl.bwin sl.stage (wbits sl.firing 63 32) (s.ctxOf s.cur)
    (s.coreCycle (s.cur / 4))

/-- The state in which it has joined its queue, before the commit. -/
def State.enqueued (s : State) (n : Nat) (tcw : Tcw) (ports : List Nat) : State :=
  (s.modCore (s.cur / 4) fun k => { k with queues := sset k.queues n (k.queue n ++ [s.nextCmd n tcw]) }).modSlot s.cur fun sl =>
    { sl.popPorts ports with tickets := sset sl.tickets n ((s.nextCmd n tcw).ticket + 1) }

/-- ENQ and ENQM after their release. -/
def Act.enqueueAt (rd : Reg) (n : Nat) (t : Tcw) (ports : List Nat) : Act Unit := do
  let s ← get
  let c := coreOf s.cur
  let sl := s.slot s.cur
  if 2 ≤ ((s.core c).queue n).length then Act.wait
  let ticket := sget 0 sl.tickets n
  let cmd := newCmd t ticket (.loc s.cur) c sl.ccont sl.bwin sl.stage (wbits sl.firing 63 32) (s.ctxOf s.cur) (s.coreCycle c)
  Act.mod fun s => s.modCore c fun k => { k with queues := sset k.queues n (k.queue n ++ [cmd]) }
  Act.modSlot fun sl => { sl.popPorts ports with tickets := sset sl.tickets n (ticket + 1) }
  Act.setX rd (ticket.setWidth 64)
  Act.next

theorem enqueueAt_of_room (h : ((t.core (t.cur / 4)).queue n).length < 2) : Act.enqueueAt rd n tcw ports t =
    .ok ((), (t.enqueued n tcw ports).resulted rd ((t.nextCmd n tcw).ticket.setWidth 64)) := by
  change (ite _ _ _ : Act Unit) t = _
  rw [if_neg (show ¬2 ≤ ((t.core (coreOf t.cur)).queue n).length by exact Nat.not_le.2 h)]
  rfl

theorem enqueueAt_of_full (h : 2 ≤ ((t.core (t.cur / 4)).queue n).length) : Act.enqueueAt rd n tcw ports t = .error .wait := by
  change (ite _ _ _ : Act Unit) t = _
  rw [if_pos (show 2 ≤ ((t.core (coreOf t.cur)).queue n).length from h)]
  rfl

theorem enqueue_of_other (h : tcw.engine ≠ engineNum e) : Act.enqueue rd e tcw ports s = .error (.trap 30 1) := by
  change (ite _ _ _ : Act Unit) s = _
  rw [if_pos h]
  rfl

theorem enqueue_eq (h : tcw.engine = engineNum e) :
    Act.enqueue rd e tcw ports s = Act.released .package (Act.enqueueAt rd (engineNum e) tcw ports) s := by
  change (ite _ _ _ : Act Unit) s = _
  rw [if_neg (not_not.2 h)]
  rfl

theorem enqueue_of_room (he : tcw.engine = engineNum e) (hr : s.release (Claims.cc s) .package = .ok t)
    (h : ((t.core (t.cur / 4)).queue (engineNum e)).length < 2) : Act.enqueue rd e tcw ports s =
    .ok ((), (t.enqueued (engineNum e) tcw ports).resulted rd ((t.nextCmd (engineNum e) tcw).ticket.setWidth 64)) :=
  (enqueue_eq he).trans ((Act.released_ok _ _ _ _).2 ⟨t, release_of_ok hr, enqueueAt_of_room h⟩)

theorem enqueue_of_full (he : tcw.engine = engineNum e) (hr : s.release (Claims.cc s) .package = .ok t)
    (h : 2 ≤ ((t.core (t.cur / 4)).queue (engineNum e)).length) : Act.enqueue rd e tcw ports s =
    .error (Stop.afterAll ((s.releaseWalks (Claims.cc s) .package).map fun b => (b, true)) .wait) := by
  rw [enqueue_eq he]
  unfold Act.released
  rw [release_of_ok hr]
  exact keepAll_of_error (enqueueAt_of_full h)

theorem State.tickets_resulted {w : Word} : ((u.resulted rd w).slot u.cur).tickets = (u.slot u.cur).tickets := by
  obtain ⟨pc, rep, h⟩ := Slot.commit_frame (sl := (u.slot u.cur).setX rd.toNat w) (target := none)
  rw [State.resulted, State.commit_slot, State.slot_modSlot_same, h]
  exact Slot.setX_tickets ..

theorem State.queue_enqueued : ((t.enqueued n tcw ports).core (t.cur / 4)).queue n = (t.core (t.cur / 4)).queue n ++ [t.nextCmd n tcw] := by
  have hc : (t.enqueued n tcw ports).core (t.cur / 4) = _ := State.core_modCore_same t (t.cur / 4) fun k =>
    { k with queues := sset k.queues n (k.queue n ++ [t.nextCmd n tcw]) }
  rw [hc, Core.queue, sget_sset, if_pos rfl]

theorem State.tickets_enqueued : sget 0 ((t.enqueued n tcw ports).slot t.cur).tickets n = (t.nextCmd n tcw).ticket + 1 := by
  rw [State.enqueued, State.slot_modSlot_same, sget_sset, if_pos rfl]

/-- A command has joined the queue of the executing slot's core, under its next ticket, which `rd` receives. -/
theorem queued_of_room {out : Host.Outcome State Fault Refusal}
    (h : out = .next ((t.enqueued n tcw ports).resulted rd ((t.nextCmd n tcw).ticket.setWidth 64))) : ∃ u cmd, out = .next u ∧
      (u.core (t.cur / 4)).queue n = (t.core (t.cur / 4)).queue n ++ [cmd] ∧ cmd.tcw = tcw ∧ cmd.issuer = .loc t.cur ∧
      cmd.ticket = sget 0 (t.slot t.cur).tickets n ∧ cmd.ccont = (t.slot t.cur).ccont ∧ cmd.bwin = (t.slot t.cur).bwin ∧
      sget 0 (u.slot t.cur).tickets n = cmd.ticket + 1 ∧ (rd ≠ 0 → (u.slot t.cur).xr rd.toNat = cmd.ticket.setWidth 64) := by
  refine ⟨_, t.nextCmd n tcw, h, ?_, rfl, rfl, rfl, rfl, rfl, ?_, State.SameSlots.refl.resulted_rd⟩
  · rw [State.resulted_core, State.queue_enqueued]
  · exact (congrArg (sget 0 · n) State.tickets_resulted).trans State.tickets_enqueued

/-! ### ENQ and ENQM -/

theorem act_v_of_unbound (h : (s.slot s.cur).bound n = false) : Act.v n s = .ok ((s.slot s.cur).vr n, s) := by
  simp [Act.v, Slot.vsrc, h]

theorem exec_enq {p : BitVec 5} (h : (s.slot s.cur).bound (2 * p.toNat) = false) (h' : (s.slot s.cur).bound (2 * p.toNat + 1) = false) :
    exec (.enq rd e p) s = runSlot (Act.enqueue rd e (tcwOfPair ((s.slot s.cur).vr (2 * p.toNat)) ((s.slot s.cur).vr (2 * p.toNat + 1)))
      [2 * p.toNat, 2 * p.toNat + 1]) s :=
  runSlot_congr ((act_bind_ok (act_v_of_unbound h)).trans (act_bind_ok (act_v_of_unbound h')))

theorem exec_enqm {bs : List Byte} (ha : (Claims.xs s rs2).toNat % 2 ^ 56 % 32 = 0)
    (h : s.load (Claims.cc s) ((Claims.xs s rs2).toNat % 2 ^ 56) 32 false = .ok (bs, u)) :
    exec (.enqm rd e rs2) s = runSlot (fun _ => Act.kept s ((Claims.xs s rs2).toNat % 2 ^ 56) 32 (Act.enqueue rd e (tcwOfBytes bs) []) u) s := by
  refine runSlot_congr ?_
  change (ite _ _ _ : Act Unit) s = _
  rw [if_neg (show ¬va ((s.slot s.cur).xr rs2.toNat) % 32 ≠ 0 from not_not.2 ha)]
  exact (act_bind_ok (x := (get : Act State)) rfl).trans (act_bind_ok h)

theorem enqm_of_misaligned (ha : (Claims.xs s rs2).toNat % 2 ^ 56 % 32 ≠ 0) :
    exec (.enqm rd e rs2) s = Claims.traps s 4 (wordOfNat ((Claims.xs s rs2).toNat % 2 ^ 56)) := by
  change execEnqm rd e rs2 s = _
  refine runSlot_of_trap ?_
  change (ite _ _ _ : Act Unit) s = _
  rw [if_pos (show va ((s.slot s.cur).xr rs2.toNat) % 32 ≠ 0 from ha)]
  rfl

/-! ### EQWAIT and EQSTAT -/

theorem eqwait_of_outstanding (h : s.outstanding s.cur (engineNum e) ≠ []) : exec (.eqwait e) s = .next s := by
  change execEqwait e s = _
  refine runSlot_of_error (e := .wait) ?_
  change (ite _ _ _ : Act Unit) s = _
  rw [if_pos (by simpa using h)]
  rfl

theorem eqwait_of_none (h : s.outstanding s.cur (engineNum e) = []) (hp : sget [] (s.slot s.cur).pend (engineNum e) = []) :
    exec (.eqwait e) s = .next ((s.acquire (Claims.cc s) .package).commit (s.acquire (Claims.cc s) .package).cur none) := by
  change execEqwait e s = _
  refine runSlot_of_ok ?_
  change (ite _ _ _ : Act Unit) s = _
  rw [if_neg (by simpa using h), hp]
  rfl

theorem eqwait_of_pending {w : Word} {l : List Word} (h : s.outstanding s.cur (engineNum e) = [])
    (hp : sget [] (s.slot s.cur).pend (engineNum e) = w :: l) : exec (.eqwait e) s =
      .next ((s.modSlot s.cur fun sl => { sl with pend := sset sl.pend (engineNum e) [] }).takeTrap s.cur (statusCause (wbits w 7 0)) w) := by
  change execEqwait e s = _
  refine runSlot_of_ok ?_
  change (ite _ _ _ : Act Unit) s = _
  rw [if_neg (by simpa using h), hp]
  rfl

/-- The fields of EQSTAT's word (R261). -/
theorem eqstat_fields {ticket code count entries pend : Nat} (ht : ticket < 2 ^ 32) (hc : code < 2 ^ 8) (hn : count < 16) (he : entries < 4)
    (hp : pend < 2 ^ 8) {w : Word} (hw : w = wordOfNat (ticket * 2 ^ 32 + code * 2 ^ 24 + count * 2 ^ 20 + entries * 2 ^ 18 + pend * 2 ^ 8)) :
    wbits w 63 32 = ticket ∧ wbits w 31 24 = code ∧ wbits w 23 20 = count ∧ wbits w 19 18 = entries ∧ wbits w 17 16 = 0 ∧
      wbits w 7 0 = 0 ∧ wbits w 15 8 = pend := by
  have hnat : w.toNat = ticket * 2 ^ 32 + code * 2 ^ 24 + count * 2 ^ 20 + entries * 2 ^ 18 + pend * 2 ^ 8 := by
    rw [hw, wordOfNat, BitVec.toNat_ofNat, Nat.mod_eq_of_lt (by omega)]
  simp only [wbits, bitsOf, Nat.shiftRight_eq_div_pow, hnat]
  omega

end

/-- The status code of the oldest pending status, 0 for none. -/
def pendCode (ws : List Word) : Nat :=
  match ws with
  | w :: _ => wbits w 7 0
  | [] => 0

theorem pendCode_lt (ws : List Word) : pendCode ws < 2 ^ 8 := by
  unfold pendCode
  split
  · exact Nat.mod_lt _ (by decide)
  · decide

theorem eqstat_eq (s : State) (k e : Nat) : s.eqstat k e = wordOfNat ((sget (0, 0) (s.slot k).lastDone e).1.toNat * 2 ^ 32 +
    (sget (0, 0) (s.slot k).lastDone e).2.toNat * 2 ^ 24 + min (s.outstanding k e).length 15 * 2 ^ 20 +
    ((s.core (k / 4)).queue e).length % 4 * 2 ^ 18 + pendCode (sget [] (s.slot k).pend e) * 2 ^ 8) := rfl

/-- Settles O35: after its release a command joins the core's queue where that has room; the walks of the release stay where it waits,
and those of the command's load where it traps; the fields of EQSTAT's word do not meet. -/
theorem engineQueues : Obligations.EngineQueues := by
  refine ⟨fun s rd rs2 e p => ⟨fun h h' => ⟨fun he => ?_, fun he t hr hroom _ => ?_, fun he t hr hfull => ?_⟩, enqm_of_misaligned,
      fun ha bs u hl => ⟨fun he => ?_, fun he t hr hroom => ?_⟩⟩,
    fun s rd e => ⟨eqwait_of_outstanding, eqwait_of_none, fun h w l hp => eqwait_of_pending h hp, rfl, ?_⟩⟩
  · exact (exec_enq h h').trans (runSlot_of_trap (enqueue_of_other he))
  · exact queued_of_room ((exec_enq h h').trans (runSlot_of_ok (enqueue_of_room he hr hroom)))
  · exact (exec_enq h h').trans (runSlot_of_wait (enqueue_of_full he hr hfull))
  · exact (exec_enqm ha hl).trans (runSlot_of_releaseFails (keepAll_of_error (enqueue_of_other he)))
  · exact queued_of_room ((exec_enqm ha hl).trans (runSlot_of_ok ((Act.kept_ok _ _ _ _ _ _).2 (enqueue_of_room he hr hroom))))
  · have hcount : min (s.outstanding s.cur (engineNum e)).length 15 < 16 := by omega
    obtain ⟨ht, hc, hn, hq, hz, hz', hp⟩ := eqstat_fields (BitVec.isLt _) (BitVec.isLt _) hcount (Nat.mod_lt _ (by decide))
      (pendCode_lt (sget [] (s.slot s.cur).pend (engineNum e))) (eqstat_eq s s.cur (engineNum e))
    refine ⟨ht, hc, hn, fun hlen => hq.trans (Nat.mod_eq_of_lt ?_), hz, hz', fun w l hw => hp.trans (by rw [hw]; rfl),
      fun hw => hp.trans (by rw [hw]; rfl)⟩
    exact Nat.lt_of_le_of_lt hlen (by decide)

end Sys2Proof.Machine
end

section
/-!
SUPPORT. What the special registers keep of a write (R102, R131, R185, R234, R299, R393, R396), the supervisor bits of the steward core
(log 15), and the bindings that a write of sbind makes (R235, R238).
-/

namespace Sys2Proof.Machine

/-! ### Registers that are a field of the slot -/

section
variable {s : State} {k : Nat} {v : Word}

/-- A register that is read as `g` of the slot, and written by `f` of it. -/
theorem csr_of_modSlot (n : Nat) (f : Slot → Slot) (g : Slot → Word) (hr : ∀ u : State, u.csr k n = some (g (u.slot k)))
    (hw : s.writeCsr k n v = s.modSlot k f) : (s.writeCsr k n v).csr k n = some (g (f (s.slot k))) := by
  rw [hr, hw, State.slot_modSlot_same]

theorem csr_dscope_writeCsr :
    (s.writeCsr k 0x802 v).csr k 0x802 = some (if v.toNat % 8 ≤ 4 then v &&& 7 else (s.slot k).dscope) := by
  have hw : s.writeCsr k 0x802 v = if v.toNat % 8 ≤ 4 then s.modSlot k fun sl => { sl with dscope := v &&& 7 } else s := rfl
  rw [hw]
  split
  · exact congrArg (some ∘ Slot.dscope) (State.slot_modSlot_same s k _)
  · rfl

theorem csr_gfault_writeCsr : ∃ w, (s.writeCsr k 0x5C0 v).csr k 0x5C0 = some w ∧
    wbit w 63 = (wbit (s.slot k).gfault 63 && !wbit v 63) := by
  have hw : s.writeCsr k 0x5C0 v = if wbit v 63 then s.modSlot k fun sl => { sl with gfault := setBits sl.gfault 63 63 0 } else s := rfl
  rw [hw]
  refine ⟨_, rfl, ?_⟩
  by_cases hv : wbit v 63
  · rw [if_pos hv, State.slot_modSlot_same]
    simp [wbit_setBits, hv]
  · simp [hv]

theorem csr_stash_writeCsr : (s.writeCsr k 0x5C3 v).csr k 0x5C3 = some (v &&& ~~~0xFFFF) :=
  congrArg (some ∘ Core.stash) (State.core_modCore_same s (coreOf k) fun c => { c with stash := v &&& ~~~0xFFFF, used := 0 })

theorem csr_used_writeCsr : (s.writeCsr k 0x5C3 v).csr k 0xCC5 = some 0 :=
  congrArg (fun c : Core => some (wordOfNat c.used))
    (State.core_modCore_same s (coreOf k) fun c => { c with stash := v &&& ~~~0xFFFF, used := 0 })

end

/-! ### sie and sip of the steward core -/

section
variable (sl : Slot) (v d : Word)

theorem Slot.m_setM (a b : Nat) : (sl.setM a v).m b = if b = a then v else sl.m b := sget_sput 0 sl.mcsr b a v

/-- mie and mip keep every bit: the supervisor's in sie and sip, the others in the M-mode register. -/
theorem join_supervisor_bit : ((v &&& ~~~2) &&& ~~~2) ||| ((v &&& 2) &&& 2) = v := by
  rw [BitVec.and_assoc, BitVec.and_self, BitVec.and_assoc, BitVec.and_self, ← BitVec.and_or_distrib_left, BitVec.or_comm,
    BitVec.or_not_self, BitVec.and_allOnes]

theorem Slot.mview_setMview_sie : (sl.setMview 0x304 v).mview 0x304 = v := by
  change ((sl.setM 0x304 (v &&& ~~~2)).m 0x304 &&& ~~~2) ||| ((v &&& 2) &&& 2) = v
  rw [Slot.m_setM, if_pos rfl, join_supervisor_bit]

theorem Slot.mview_setMview_sip : (sl.setMview 0x344 v).mview 0x344 = v := by
  change ((sl.setM 0x344 (v &&& ~~~2)).m 0x344 &&& ~~~2) ||| ((v &&& 2) &&& 2) = v
  rw [Slot.m_setM, if_pos rfl, join_supervisor_bit]

/-- Of a word whose delegated bits are written, those bits. -/
theorem delegated_bits (w : Word) : ((w &&& ~~~d) ||| (v &&& d)) &&& d = v &&& d := by
  ext i hi
  simp only [BitVec.getElem_and, BitVec.getElem_or, BitVec.getElem_not]
  cases d[i] <;> simp

end

section
variable {s : State} {v : Word}

theorem csr_sie_of_steward : (s.writeCsr stewardSlot 0x104 v).csr stewardSlot 0x104 =
    some (v &&& (s.slot stewardSlot).m 0x303 &&& 2) := by
  refine (csr_of_modSlot 0x104
    (fun sl => sl.setMview 0x304 ((sl.mview 0x304 &&& ~~~sl.sbits stewardSlot) ||| (v &&& sl.sbits stewardSlot)))
    (fun sl => sl.mview 0x304 &&& sl.sbits stewardSlot) (fun _ => rfl) rfl).trans ?_
  generalize s.slot stewardSlot = sl
  have hs (x : Word) : (sl.setMview 0x304 x).sbits stewardSlot = sl.sbits stewardSlot :=
    congrArg (· &&& (2 : Word)) (Slot.m_setM sl (x &&& ~~~2) 0x304 0x303)
  simp only [hs, Slot.mview_setMview_sie, delegated_bits, BitVec.and_assoc]
  rfl

theorem csr_sip_of_steward : (s.writeCsr stewardSlot 0x144 v).csr stewardSlot 0x144 =
    some (v &&& (s.slot stewardSlot).m 0x303 &&& 2) := by
  refine (csr_of_modSlot 0x144
    (fun sl => sl.setMview 0x344 ((sl.mview 0x344 &&& ~~~sl.sbits stewardSlot) ||| (v &&& sl.sbits stewardSlot)))
    (fun sl => sl.mview 0x344 &&& sl.sbits stewardSlot) (fun _ => rfl) rfl).trans ?_
  generalize s.slot stewardSlot = sl
  have hs (x : Word) : (sl.setMview 0x344 x).sbits stewardSlot = sl.sbits stewardSlot :=
    congrArg (· &&& (2 : Word)) (Slot.m_setM sl (x &&& ~~~2) 0x344 0x303)
  simp only [hs, Slot.mview_setMview_sip, delegated_bits, BitVec.and_assoc]
  rfl

variable {k : Nat}

theorem csr_sie_of_compute (hk : k ≠ stewardSlot) : (s.writeCsr k 0x104 v).csr k 0x104 = some (v &&& 2) := by
  have hw : s.writeCsr k 0x104 v = s.modSlot k fun sl => { sl with sie := v &&& 2 } := by
    simp only [State.writeCsr, if_neg hk]
  exact csr_of_modSlot 0x104 _ Slot.sie (fun u => congrArg some (if_neg hk)) hw

theorem csr_sip_of_compute (hk : k ≠ stewardSlot) : (s.writeCsr k 0x144 v).csr k 0x144 = some (v &&& 2) := by
  have hw : s.writeCsr k 0x144 v = s.modSlot k fun sl => { sl with sip := v &&& 2 } := by
    simp only [State.writeCsr, if_neg hk]
  exact csr_of_modSlot 0x144 _ Slot.sip (fun u => congrArg some (if_neg hk)) hw

end

/-! ### Fields of a word -/

theorem wbits_congr {w w' : Word} {h l : Nat} (hb : ∀ b, l ≤ b → b ≤ h → wbit w b = wbit w' b) : wbits w h l = wbits w' h l := by
  refine Nat.eq_of_testBit_eq fun i => ?_
  rw [testBit_wbits, testBit_wbits]
  by_cases hi : i < h + 1 - l
  · rw [hb _ (by omega) (by omega)]
  · simp [hi]

theorem wbits_setBits {w : Word} {h l h' l' x : Nat} (hl : l ≤ l') (hh' : h' ≤ h) (hh : h < 64) :
    wbits (setBits w h l x) h' l' = x >>> (l' - l) % 2 ^ (h' + 1 - l') := by
  refine Nat.eq_of_testBit_eq fun i => ?_
  rw [testBit_wbits, Nat.testBit_mod_two_pow, Nat.testBit_shiftRight]
  by_cases hi : i < h' + 1 - l'
  · rw [wbit_setBits (by omega) hh, if_pos (by omega), show l' + i - l = l' - l + i by omega]
  · simp [hi]

theorem wbits_lt (w : Word) (h l : Nat) : wbits w h l < 2 ^ (h + 1 - l) := Nat.mod_lt _ (Nat.two_pow_pos _)

/-! ### Bindings of the ports -/

/-- Writing `v` to some ports of slot `k`, nothing differs but those ports' fields of sbind and their queues; what a port is bound to is
what it was bound to before, or what `v` names. -/
structure State.Binds (k : Nat) (v : Word) (ps : List Nat) (s t : State) : Prop where
  rest : t = { s with slots := t.slots }
  other : ∀ j, j ≠ k → t.slot j = s.slot j
  bit : ∀ b, b / 4 ∉ ps → wbit (t.slot k).sbind b = wbit (s.slot k).sbind b
  port : ∀ q, q ∉ ps ∨ wbit v (4 * q + 3) = true → (t.slot k).port q = (s.slot k).port q
  stream : ∀ q, wbit (t.slot k).sbind (4 * q + 3) = true →
    (wbit v (4 * q + 3) = true ∧ q ∈ ps ∧ wbits (t.slot k).sbind (4 * q + 1) (4 * q) = wbits v (4 * q + 1) (4 * q)) ∨
    (wbit (s.slot k).sbind (4 * q + 3) = true ∧ wbits (t.slot k).sbind (4 * q + 1) (4 * q) = wbits (s.slot k).sbind (4 * q + 1) (4 * q))

section
variable {k p : Nat} {v : Word} {ps qs : List Nat} {s t u old : State}

theorem State.Binds.refl : State.Binds k v ps s s := ⟨rfl, fun _ _ => rfl, fun _ _ => rfl, fun _ _ => rfl, fun _ h => .inr ⟨h, rfl⟩⟩

theorem State.Binds.trans (h : State.Binds k v ps s t) (h' : State.Binds k v qs t u) : State.Binds k v (ps ++ qs) s u where
  rest := by rw [h'.rest, h.rest]
  other j hj := (h'.other j hj).trans (h.other j hj)
  bit b hb := by
    rw [List.mem_append, not_or] at hb
    exact (h'.bit b hb.2).trans (h.bit b hb.1)
  port q hq := by
    rw [List.mem_append, not_or] at hq
    exact (h'.port q (hq.imp_left And.right)).trans (h.port q (hq.imp_left And.left))
  stream q hq := by
    rcases h'.stream q hq with ⟨hv, hm, hs⟩ | ⟨ht, hs⟩
    · exact .inl ⟨hv, List.mem_append_right _ hm, hs⟩
    · rcases h.stream q ht with ⟨hv, hm, hs'⟩ | ⟨ho, hs'⟩
      · exact .inl ⟨hv, List.mem_append_left _ hm, hs.trans hs'⟩
      · exact .inr ⟨ho, hs.trans hs'⟩

theorem State.Binds.field (h : State.Binds k v ps s t) {q : Nat} (hq : q ∉ ps) :
    wbits (t.slot k).sbind (4 * q + 3) (4 * q) = wbits (s.slot k).sbind (4 * q + 3) (4 * q) :=
  wbits_congr fun b _ _ => h.bit b (by rwa [show b / 4 = q by omega])

/-- A port whose field is set, and whose queue is emptied where the port is unbound. -/
theorem State.binds_of_modSlot {f : Slot → Slot} {x : Nat} (hp : p < 16) (hs : (f (s.slot k)).sbind = setBits (s.slot k).sbind (4 * p + 3) (4 * p) x)
    (hx : x.testBit 3 = true → wbit v (4 * p + 3) = true ∧ x % 4 = wbits v (4 * p + 1) (4 * p))
    (hport : ∀ q, q ≠ p ∨ wbit v (4 * q + 3) = true → (f (s.slot k)).port q = (s.slot k).port q) :
    State.Binds k v [p] s (s.modSlot k f) where
  rest := rfl
  other j hj := State.slot_modSlot_other _ _ hj
  bit b hb := by
    rw [List.mem_singleton] at hb
    rw [State.slot_modSlot_same, hs, wbit_setBits (by omega) (by omega), if_neg (by omega)]
  port q hq := by
    rw [State.slot_modSlot_same]
    exact hport q (by simpa using hq)
  stream q hq := by
    rw [State.slot_modSlot_same, hs] at hq ⊢
    rw [wbit_setBits (by omega) (by omega)] at hq
    by_cases hqp : q = p
    · subst q
      rw [if_pos (by omega), show 4 * p + 3 - 4 * p = 3 by omega] at hq
      obtain ⟨hv, hx⟩ := hx hq
      refine .inl ⟨hv, List.mem_singleton.2 rfl, ?_⟩
      rw [wbits_setBits (by omega) (by omega) (by omega), ← hx, Nat.sub_self, show 4 * p + 1 + 1 - 4 * p = 2 by omega]
      rfl
    · rw [if_neg (by omega)] at hq
      refine .inr ⟨hq, wbits_congr fun b _ _ => ?_⟩
      rw [wbit_setBits (by omega) (by omega), if_neg (by omega)]

/-! What `bindPort` does with one port, in its three cases. -/

theorem State.bindPort_of_bound (hv : wbit v (4 * p + 3) = true)
    (h : old.streamBound k p (wbits v (4 * p + 1) (4 * p)) = true ∨ s.streamBound k p (wbits v (4 * p + 1) (4 * p)) = true) :
    old.bindPort k v s p = s := by
  simp only [State.bindPort, if_pos hv, if_pos (Bool.or_eq_true_iff.2 h)]

theorem State.bindPort_of_free (hv : wbit v (4 * p + 3) = true) (ho : old.streamBound k p (wbits v (4 * p + 1) (4 * p)) = false)
    (h : s.streamBound k p (wbits v (4 * p + 1) (4 * p)) = false) : old.bindPort k v s p =
      s.modSlot k fun sl => { sl with sbind := setBits sl.sbind (4 * p + 3) (4 * p) (8 + wbits v (4 * p + 1) (4 * p)) } := by
  simp [State.bindPort, hv, ho, h]

theorem State.bindPort_of_cleared (hv : wbit v (4 * p + 3) = false) : old.bindPort k v s p =
    s.modSlot k fun sl => { sl with sbind := setBits sl.sbind (4 * p + 3) (4 * p) (wbits v (4 * p + 1) (4 * p)), ports := sdel sl.ports p } := by
  simp [State.bindPort, hv]

theorem wbits_stream_lt : wbits v (4 * p + 1) (4 * p) < 4 := by
  have h := wbits_lt v (4 * p + 1) (4 * p)
  rwa [show 4 * p + 1 + 1 - 4 * p = 2 by omega] at h

theorem State.bindPort_binds (hp : p < 16) : State.Binds k v [p] s (old.bindPort k v s p) := by
  have hst := wbits_stream_lt (v := v) (p := p)
  cases hv : wbit v (4 * p + 3) with
  | false =>
    rw [State.bindPort_of_cleared hv]
    refine State.binds_of_modSlot hp rfl (fun h => ?_) fun q hq => ?_
    · rw [Nat.testBit_lt_two_pow (by omega)] at h
      cases h
    · refine sget_sdel_other [] (s.slot k).ports ?_
      rintro rfl
      simp [hv] at hq
  | true =>
    by_cases hb : old.streamBound k p (wbits v (4 * p + 1) (4 * p)) = true ∨ s.streamBound k p (wbits v (4 * p + 1) (4 * p)) = true
    · rw [State.bindPort_of_bound hv hb]
      exact .refl
    · rw [not_or, Bool.not_eq_true, Bool.not_eq_true] at hb
      rw [State.bindPort_of_free hv hb.1 hb.2]
      exact State.binds_of_modSlot hp rfl (fun _ => ⟨hv, by omega⟩) fun _ _ => rfl

theorem State.foldl_bindPort_binds (hps : ∀ p ∈ ps, p < 16) : State.Binds k v ps s (ps.foldl (old.bindPort k v) s) := by
  induction ps generalizing s with
  | nil => exact .refl
  | cons p ps ih => exact (State.bindPort_binds (hps p (by simp))).trans (ih fun q hq => hps q (by simp [hq]))

/-- A stream is bound to no other port: no slot of the core binds it elsewhere (R235). -/
theorem State.streamBound_eq_false_iff {st : Nat} : s.streamBound k p st = false ↔ ∀ i < 4, ∀ q < 4, ¬(coreOf k * 4 + i = k ∧ q = p) →
    wbit (s.slot (coreOf k * 4 + i)).sbind (4 * q + 3) = true → wbits (s.slot (coreOf k * 4 + i)).sbind (4 * q + 1) (4 * q) ≠ st := by
  simp only [State.streamBound, List.any_eq_false, List.mem_range, List.any_eq_true, not_exists, not_and, Bool.and_eq_true,
    Bool.not_eq_true', decide_eq_true_eq, Bool.and_eq_false_iff, decide_eq_false_iff_not]
  grind

/-- A stream that was free stays so while no port that is written names it. -/
theorem State.Binds.streamBound {st : Nat} (h : State.Binds k v ps s t) (hs : s.streamBound k p st = false)
    (hne : ∀ q ∈ ps, wbit v (4 * q + 3) = true → wbits v (4 * q + 1) (4 * q) ≠ st) : t.streamBound k p st = false := by
  rw [State.streamBound_eq_false_iff] at hs ⊢
  intro i hi q hq hother hb
  by_cases hj : coreOf k * 4 + i = k
  · rw [hj] at hb ⊢
    rcases h.stream q hb with ⟨hv, hm, heq⟩ | ⟨ho, heq⟩
    · exact heq ▸ hne q hm hv
    · exact heq ▸ hj ▸ hs i hi q hq hother (hj.symm ▸ ho)
  · rw [h.other _ hj] at hb ⊢
    exact hs i hi q hq hother hb

theorem range_four_split : ∀ p < 4, List.range 4 = List.range p ++ p :: List.range' (p + 1) (3 - p) := by decide

/-- A write of sbind, seen from one of its ports: the ports below it, the port, and those above it. -/
theorem State.writeSbind_split (hp : p < 4) : ∃ b, State.Binds k v (List.range p) s b ∧
    State.Binds k v (List.range' (p + 1) (3 - p)) (s.bindPort k v b p) (s.writeSbind k v) := by
  refine ⟨(List.range p).foldl (s.bindPort k v) s, State.foldl_bindPort_binds fun q hq => ?_, ?_⟩
  · have := List.mem_range.1 hq
    omega
  · rw [State.writeSbind, range_four_split p hp, List.foldl_append]
    refine State.foldl_bindPort_binds fun q hq => ?_
    have := List.mem_range'_1.1 hq
    omega

theorem State.writeSbind_binds : State.Binds k v (List.range 4) s (s.writeSbind k v) :=
  State.foldl_bindPort_binds fun q hq => by
    have := List.mem_range.1 hq
    omega

/-- What a write of sbind makes of one port, by what `bindPort` makes of it once the ports below are written. -/
theorem State.writeSbind_port (hp : p < 4) : ∃ b, State.Binds k v (List.range p) s b ∧
    wbits (b.slot k).sbind (4 * p + 3) (4 * p) = wbits (s.slot k).sbind (4 * p + 3) (4 * p) ∧
    wbits ((s.writeSbind k v).slot k).sbind (4 * p + 3) (4 * p) = wbits ((s.bindPort k v b p).slot k).sbind (4 * p + 3) (4 * p) ∧
    ((s.writeSbind k v).slot k).port p = ((s.bindPort k v b p).slot k).port p := by
  obtain ⟨b, hb, ha⟩ := State.writeSbind_split (s := s) (k := k) (v := v) hp
  have hpa : p ∉ List.range' (p + 1) (3 - p) := fun h => by
    have := List.mem_range'_1.1 h
    omega
  exact ⟨b, hb, hb.field (by simp), ha.field hpa, ha.port p (.inl hpa)⟩

theorem State.writeSbind_of_cleared (hp : p < 4) (hv : wbit v (4 * p + 3) = false) :
    wbits ((s.writeSbind k v).slot k).sbind (4 * p + 3) (4 * p) = wbits v (4 * p + 1) (4 * p) ∧ ((s.writeSbind k v).slot k).port p = [] := by
  obtain ⟨b, -, -, hf, hq⟩ := State.writeSbind_port (s := s) (k := k) (v := v) hp
  have hst := wbits_stream_lt (v := v) (p := p)
  rw [hf, hq, State.bindPort_of_cleared hv, State.slot_modSlot_same]
  refine ⟨?_, sget_sdel_same [] (b.slot k).ports p⟩
  rw [wbits_setBits (by omega) (by omega) (by omega), Nat.sub_self, show 4 * p + 3 + 1 - 4 * p = 4 by omega]
  exact Nat.mod_eq_of_lt (hst.trans (by decide))

theorem State.writeSbind_of_bound (hp : p < 4) (hv : wbit v (4 * p + 3) = true)
    (h : s.streamBound k p (wbits v (4 * p + 1) (4 * p)) = true) :
    wbits ((s.writeSbind k v).slot k).sbind (4 * p + 3) (4 * p) = wbits (s.slot k).sbind (4 * p + 3) (4 * p) := by
  obtain ⟨b, -, hold, hf, -⟩ := State.writeSbind_port (s := s) (k := k) (v := v) hp
  rw [hf, State.bindPort_of_bound hv (.inl h), hold]

theorem State.writeSbind_of_free (hp : p < 4) (hv : wbit v (4 * p + 3) = true)
    (h : s.streamBound k p (wbits v (4 * p + 1) (4 * p)) = false)
    (hlow : ∀ q, q < p → wbit v (4 * q + 3) = true → wbits v (4 * q + 1) (4 * q) ≠ wbits v (4 * p + 1) (4 * p)) :
    wbits ((s.writeSbind k v).slot k).sbind (4 * p + 3) (4 * p) = 8 + wbits v (4 * p + 1) (4 * p) := by
  obtain ⟨b, hb, -, hf, -⟩ := State.writeSbind_port (s := s) (k := k) (v := v) hp
  have hst := wbits_stream_lt (v := v) (p := p)
  have hfree := hb.streamBound h fun q hq => hlow q (List.mem_range.1 hq)
  rw [hf, State.bindPort_of_free hv h hfree, State.slot_modSlot_same, wbits_setBits (by omega) (by omega) (by omega), Nat.sub_self,
    show 4 * p + 3 + 1 - 4 * p = 4 by omega]
  exact Nat.mod_eq_of_lt (Nat.add_lt_add_left hst 8 |>.trans (by decide))

end

/-- Settles O8: a register is read as the field that its write sets; a write of sbind goes port by port, and what it makes of one port
the others leave. -/
theorem csrFields : Obligations.CsrFields := by
  refine ⟨fun s v => ⟨
      csr_of_modSlot 0x100 (fun sl => { sl with sstatus := v &&& 0x122 }) (fun sl => setBits sl.sstatus 33 32 2) (fun _ => rfl) rfl,
      csr_of_modSlot 0x141 (fun sl => { sl with sepc := v &&& ~~~3 }) Slot.sepc (fun _ => rfl) rfl,
      csr_of_modSlot 0x800 (fun sl => { sl with vctl := v &&& 0xF3 }) Slot.vctl (fun _ => rfl) rfl,
      csr_of_modSlot 0x801 (fun sl => { sl with vflags := v &&& 0x1F }) Slot.vflags (fun _ => rfl) rfl,
      csr_dscope_writeCsr,
      csr_of_modSlot 0x803 (fun sl => { sl with repst := v &&& 0x8000000000FFFFFF }) Slot.repst (fun _ => rfl) rfl,
      csr_of_modSlot 0x804 (fun sl => { sl with nestst := (v &&& 0x7FFFFFFF7FFFFFFF) ||| (sl.nestst &&& 0x80000000) }) Slot.nestst (fun _ => rfl) rfl,
      csr_of_modSlot 0x806 (fun sl => { sl with dseed := v }) Slot.dseed (fun _ => rfl) rfl,
      csr_of_modSlot 0x807 (fun sl => { sl with ccont := v }) Slot.ccont (fun _ => rfl) rfl,
      csr_of_modSlot 0x808 (fun sl => { sl with bwin := v &&& 0x00FFFFFFFFFFFFF0 }) Slot.bwin (fun _ => rfl) rfl,
      fun hk => ⟨csr_sie_of_compute hk, csr_sip_of_compute hk⟩,
      fun hk => ?_,
      csr_of_modSlot 0x105 (fun sl => { sl with stvec := v &&& ~~~3 }) Slot.stvec (fun _ => rfl) rfl,
      csr_of_modSlot 0x140 (fun sl => { sl with sscratch := v }) Slot.sscratch (fun _ => rfl) rfl,
      csr_of_modSlot 0x142 (fun sl => { sl with scause := v }) Slot.scause (fun _ => rfl) rfl,
      csr_of_modSlot 0x143 (fun sl => { sl with stval := v }) Slot.stval (fun _ => rfl) rfl,
      csr_gfault_writeCsr, csr_stash_writeCsr, csr_used_writeCsr⟩,
    fun s v p hp => ?_⟩
  · rw [hk]
    exact ⟨csr_sie_of_steward, csr_sip_of_steward⟩
  · have hb : State.Binds s.cur v (List.range 4) s (s.writeSbind s.cur v) := State.writeSbind_binds
    refine ⟨hb.rest, hb.other, rfl, fun b h16 => hb.bit b ?_, State.writeSbind_of_cleared hp, State.writeSbind_of_bound hp,
      State.writeSbind_of_free hp, fun hv => hb.port p (.inr hv)⟩
    rw [List.mem_range]
    omega

end Sys2Proof.Machine
end

section
/-!
SUPPORT. Vector lanes and operands (R233, R236, R237, R239): what a lane of an assembled register reads, and how a vector instruction that
works on registers ends.
-/

namespace Sys2Proof.Machine

/-! ### Lanes -/

section
variable {b j : Nat} {l : List Nat}

theorem joinLanes_lane : joinLanes b l / 2 ^ (8 * b * j) % 2 ^ (8 * b) = l.getD j 0 % 2 ^ (8 * b) := by
  induction l generalizing j with
  | nil => simp [joinLanes]
  | cons x l ih =>
    cases j with
    | zero => simp [joinLanes]
    | succ j =>
      rw [joinLanes, Nat.mul_succ, Nat.add_comm (8 * b * j), Nat.pow_add, ← Nat.div_div_eq_div_mul,
        Nat.add_mul_div_left _ _ (Nat.two_pow_pos _), Nat.div_eq_of_lt (Nat.mod_lt _ (Nat.two_pow_pos _)), Nat.zero_add, ih,
        List.getD_cons_succ]

theorem laneOf_eq (hb : 0 < b) (v : VWord) : laneOf b v j = v.toNat / 2 ^ (8 * b * j) % 2 ^ (8 * b) := by
  rw [laneOf, bitsOf, Nat.shiftRight_eq_div_pow, show 8 * b * j + 8 * b - 1 + 1 - 8 * b * j = 8 * b by omega]

/-- A lane that lies in the register is the one that was put there. -/
theorem laneOf_ofLanes (hb : 0 < b) (hj : b * (j + 1) ≤ 16) : laneOf b (ofLanes b l) j = l.getD j 0 % 2 ^ (8 * b) := by
  rw [laneOf_eq hb, ← joinLanes_lane, ofLanes, BitVec.toNat_ofNat]
  refine Nat.eq_of_testBit_eq fun i => ?_
  simp only [← Nat.shiftRight_eq_div_pow, Nat.testBit_mod_two_pow, Nat.testBit_shiftRight]
  by_cases hi : i < 8 * b
  · have hlt : 8 * b * j + i < 128 := by linarith [hj, Nat.mul_succ b j]
    simp [hlt]
  · simp [hi]

theorem laneOf_replicate {x : Nat} (hb : 0 < b) (hj : j < 16 / b) : laneOf b (ofLanes b (List.replicate (16 / b) x)) j = x % 2 ^ (8 * b) := by
  have hin : b * (j + 1) ≤ 16 := by
    rw [Nat.mul_comm]
    exact (Nat.le_div_iff_mul_le hb).1 hj
  rw [laneOf_ofLanes hb hin, List.getD_replicate _ hj]

theorem collect_snd (l : List (Nat × Flags)) : (collect b l).2 = (l.map (·.2)).foldl (· ||| ·) 0 := List.foldl_map.symm

/-- A lane of results that are computed lane by lane. -/
theorem laneOf_collect {n : Nat} {g : Nat → Nat × Flags} (hb : 0 < b) (hj : b * (j + 1) ≤ 16) (hn : j < n) :
    laneOf b (collect b ((List.range n).map g)).1 j = (g j).1 % 2 ^ (8 * b) := by
  rw [collect, laneOf_ofLanes hb hj]
  simp [List.getD, hn]

end

/-! ### Operands -/

section
variable {s : State} {i : Instr} {n : Nat} {x : VWord} {ns : List Nat} {vs : List VWord}

theorem act_v_of_some (h : (s.slot s.cur).vsrc n = some x) : Act.v n s = .ok (x, s) := by
  unfold Act.v
  rw [h]

theorem act_v_of_none (h : (s.slot s.cur).vsrc n = none) : Act.v n s = .error .wait := by
  unfold Act.v
  rw [h]

theorem writable_of_bound (h : (s.slot s.cur).bound n = true) : Act.writable i n s = .error (.trap 2 (s.wordOf i)) := if_pos h

theorem writable_of_unbound (h : (s.slot s.cur).bound n = false) : Act.writable i n s = .ok ((), s) :=
  if_neg (Bool.eq_false_iff.1 h)

theorem mapM_v_of_some (h : ns.mapM (s.slot s.cur).vsrc = some vs) : ns.mapM Act.v s = .ok (vs, s) := by
  induction ns generalizing vs with
  | nil => cases h; rfl
  | cons n ns ih =>
    simp only [List.mapM_cons, Option.bind_eq_bind, Option.bind_eq_some_iff, Option.pure_def, Option.some.injEq] at h
    obtain ⟨x, hx, xs, hxs, rfl⟩ := h
    rw [List.mapM_cons, act_bind_ok (act_v_of_some hx), act_bind_ok (ih hxs)]
    rfl

theorem mapM_v_of_none (h : ns.mapM (s.slot s.cur).vsrc = none) : ns.mapM Act.v s = .error .wait := by
  induction ns with
  | nil => cases h
  | cons n ns ih =>
    rw [List.mapM_cons]
    cases hx : (s.slot s.cur).vsrc n with
    | none => exact act_bind_error (act_v_of_none hx)
    | some x =>
      rw [act_bind_ok (act_v_of_some hx)]
      refine act_bind_error (ih ?_)
      cases hxs : ns.mapM (s.slot s.cur).vsrc with
      | none => rfl
      | some xs => simp [hx, hxs] at h

end

/-! ### The end of an instruction on registers -/

section
variable {s : State} {i : Instr} {vd : VReg} {srcs : List VReg} {vs : List VWord} {f : Rm → VWord → List VWord → VWord × Flags}

theorem runSlot_vec_of_empty (h : (srcs.map (·.toNat)).mapM (s.slot s.cur).vsrc = none) : runSlot (Act.vec i vd srcs f) s = .next s :=
  runSlot_of_error (act_bind_error (mapM_v_of_none h))

theorem runSlot_vec_of_bound (h : (srcs.map (·.toNat)).mapM (s.slot s.cur).vsrc = some vs) (hb : (s.slot s.cur).bound vd.toNat = true) :
    runSlot (Act.vec i vd srcs f) s = Claims.traps s 2 (s.wordOf i) :=
  runSlot_of_trap ((act_bind_ok (mapM_v_of_some h)).trans (act_bind_error (writable_of_bound hb)))

theorem runSlot_vec_of_sources (h : (srcs.map (·.toNat)).mapM (s.slot s.cur).vsrc = some vs) (hb : (s.slot s.cur).bound vd.toNat = false) :
    runSlot (Act.vec i vd srcs f) s = Claims.wrote s srcs vd (f (rmOf (s.slot s.cur).vctl) ((s.slot s.cur).vr vd.toNat) vs).1
      (f (rmOf (s.slot s.cur).vctl) ((s.slot s.cur).vr vd.toNat) vs).2 :=
  runSlot_of_ok ((act_bind_ok (mapM_v_of_some h)).trans (act_bind_ok (writable_of_unbound hb)))

/-- A vector instruction that works on registers waits, is refused, or writes its destination. -/
theorem runSlot_vec_cases : runSlot (Act.vec i vd srcs f) s = .next s ∨ runSlot (Act.vec i vd srcs f) s = Claims.traps s 2 (s.wordOf i) ∨
    ∃ r fl, runSlot (Act.vec i vd srcs f) s = Claims.wrote s srcs vd r fl := by
  cases h : (srcs.map (·.toNat)).mapM (s.slot s.cur).vsrc with
  | none => exact .inl (runSlot_vec_of_empty h)
  | some vs =>
    cases hb : (s.slot s.cur).bound vd.toNat with
    | true => exact .inr (.inl (runSlot_vec_of_bound h hb))
    | false => exact .inr (.inr ⟨_, _, runSlot_vec_of_sources h hb⟩)

end

end Sys2Proof.Machine
end

section
/-!
SUPPORT. Vector memory instructions (R93, R95, R192, R193, R237): the checks of the pointer, the destination and the address, in their
order, and what is moved.
-/

namespace Sys2Proof.Machine

/-! ### The pointer and the address -/

theorem signExtend_append_zero4 (x : BitVec 6) : (x ++ (0 : BitVec 4)).signExtend 64 = x.signExtend 64 <<< 4 := by
  revert x
  decide

theorem vecAddr_eq (p : Word) (imm : BitVec 6) : vecAddr p imm = (p + (imm.signExtend 64 <<< 4)).toNat % 2 ^ 56 := by
  rw [vecAddr, va, signExtend_append_zero4]

section
variable {s t : State} {rs1 : Reg} {accepts : Nat → Bool} {a n : Nat} {ro : Bool}

/-- Whether the tag of a pointer is legal (R92, R93). -/
def ptrGood (p : Word) : Bool := tagOk (ptrCode p) (ptrBl p)

theorem vecPtr_of_refused (h : ptrGood (Claims.xs s rs1) = false ∨ accepts (ptrCode (Claims.xs s rs1)) = false) :
    Act.vecPtr rs1 accepts s = .error (.trap 24 (Claims.xs s rs1)) := by
  have hc : (!ptrGood (Claims.xs s rs1) || !accepts (ptrCode (Claims.xs s rs1))) = true := by simpa using h
  change (ite _ _ _ : Act Word) s = _
  rw [if_pos (show (!tagOk (ptrCode ((s.slot s.cur).xr rs1.toNat)) (ptrBl ((s.slot s.cur).xr rs1.toNat)) ||
    !accepts (ptrCode ((s.slot s.cur).xr rs1.toNat))) = true from hc)]
  rfl

theorem vecPtr_of_accepted (h : ptrGood (Claims.xs s rs1) = true) (ha : accepts (ptrCode (Claims.xs s rs1)) = true) :
    Act.vecPtr rs1 accepts s = .ok (Claims.xs s rs1, s) := by
  have hc : ¬(!ptrGood (Claims.xs s rs1) || !accepts (ptrCode (Claims.xs s rs1))) = true := by simp [h, ha]
  change (ite _ _ _ : Act Word) s = _
  rw [if_neg (show ¬(!tagOk (ptrCode ((s.slot s.cur).xr rs1.toNat)) (ptrBl ((s.slot s.cur).xr rs1.toNat)) ||
    !accepts (ptrCode ((s.slot s.cur).xr rs1.toNat))) = true from hc)]
  rfl

theorem vecBytes_of_misaligned (h : a % n ≠ 0) : Act.vecBytes a n ro s = .error (.trap 4 (wordOfNat a)) := if_pos h

theorem vecBytes_of_load {bs : List Byte} (h : a % n = 0) (hl : s.load (Claims.cc s) a n ro = .ok (bs, t)) :
    Act.vecBytes a n ro s = .ok (bs, t) := (if_neg (not_not.2 h)).trans hl

end

/-! ### VLD and VLD.RO -/

section
variable {s t : State} {i : Instr} {vd : VReg} {rs1 : Reg} {imm : BitVec 6} {ro : Bool} {bs : List Byte}

/-- VLD and VLD.RO, by whether their line is read-only. -/
def VldForm (vd : VReg) (rs1 : Reg) (imm : BitVec 6) (i : Instr) (ro : Bool) : Prop :=
  (i, ro) = (.vld vd rs1 imm, false) ∨ (i, ro) = (.vldRo vd rs1 imm, true)

theorem exec_of_vldForm (hi : VldForm vd rs1 imm i ro) : exec i s = runSlot (Act.vld i vd rs1 imm ro) s := by
  rcases hi with h | h
  · cases h; rfl
  · cases h; rfl

theorem vld_of_refused (h : ptrGood (Claims.xs s rs1) = false ∨ ptrCode (Claims.xs s rs1) = 14) :
    runSlot (Act.vld i vd rs1 imm ro) s = Claims.traps s 24 (Claims.xs s rs1) :=
  runSlot_of_trap (act_bind_error (vecPtr_of_refused (h.imp_right fun h => by simp [h])))

variable (hgood : ptrGood (Claims.xs s rs1) = true)
include hgood

theorem vld_of_accepted (h : ptrCode (Claims.xs s rs1) ≠ 14) : Act.vld i vd rs1 imm ro s = (do
    Act.writable i vd.toNat
    let sl ← Act.slot
    if ptrCode (Claims.xs s rs1) = 15 then
      let bs ← Act.vecBytes (vecAddr (Claims.xs s rs1) imm) 32 ro
      let es := (List.range 8).map fun i => fp32ToBf16 (rmOf sl.vctl) (natOfBytes ((bs.drop (4 * i)).take 4))
      Act.modSlot fun sl => (sl.setV vd.toNat (collect 2 es).1).addFlags (collect 2 es).2
    else
      let bs ← Act.vecBytes (vecAddr (Claims.xs s rs1) imm) 16 ro
      Act.modSlot fun sl => sl.setV vd.toNat (vOfBytes bs)
    Act.next : Act Unit) s := act_bind_ok (vecPtr_of_accepted hgood (by simpa using h))

theorem vld_of_bound (h : ptrCode (Claims.xs s rs1) ≠ 14) (hb : (s.slot s.cur).bound vd.toNat = true) :
    runSlot (Act.vld i vd rs1 imm ro) s = Claims.traps s 2 (s.wordOf i) :=
  runSlot_of_trap ((vld_of_accepted hgood h).trans (act_bind_error (writable_of_bound hb)))

variable (hb : (s.slot s.cur).bound vd.toNat = false)
include hb

theorem vld_plain (h : ptrCode (Claims.xs s rs1) < 14) : Act.vld i vd rs1 imm ro s = (do
    let bs ← Act.vecBytes (vecAddr (Claims.xs s rs1) imm) 16 ro
    Act.modSlot fun sl => sl.setV vd.toNat (vOfBytes bs)
    Act.next : Act Unit) s := by
  refine (vld_of_accepted hgood (by omega)).trans ((act_bind_ok (writable_of_unbound hb)).trans ((act_bind_ok (x := Act.slot) rfl).trans ?_))
  rw [if_neg (by omega)]

theorem vld_converting (h : ptrCode (Claims.xs s rs1) = 15) : Act.vld i vd rs1 imm ro s = (do
    let bs ← Act.vecBytes (vecAddr (Claims.xs s rs1) imm) 32 ro
    let es := (List.range 8).map fun i => fp32ToBf16 (rmOf (s.slot s.cur).vctl) (natOfBytes ((bs.drop (4 * i)).take 4))
    Act.modSlot fun sl => (sl.setV vd.toNat (collect 2 es).1).addFlags (collect 2 es).2
    Act.next : Act Unit) s := by
  refine (vld_of_accepted hgood (by omega)).trans ((act_bind_ok (writable_of_unbound hb)).trans ((act_bind_ok (x := Act.slot) rfl).trans ?_))
  rw [if_pos h]

theorem vld_plain_of_misaligned (h : ptrCode (Claims.xs s rs1) < 14) (ha : vecAddr (Claims.xs s rs1) imm % 16 ≠ 0) :
    runSlot (Act.vld i vd rs1 imm ro) s = Claims.traps s 4 (wordOfNat (vecAddr (Claims.xs s rs1) imm)) :=
  runSlot_of_trap ((vld_plain hgood hb h).trans (act_bind_error (vecBytes_of_misaligned ha)))

theorem vld_plain_of_load (h : ptrCode (Claims.xs s rs1) < 14) (ha : vecAddr (Claims.xs s rs1) imm % 16 = 0)
    (hl : s.load (Claims.cc s) (vecAddr (Claims.xs s rs1) imm) 16 ro = .ok (bs, t)) :
    runSlot (Act.vld i vd rs1 imm ro) s = Claims.done t fun sl => sl.setV vd.toNat (BitVec.ofNat 128 (natOfBytes bs)) :=
  runSlot_of_ok ((vld_plain hgood hb h).trans (act_bind_ok (vecBytes_of_load ha hl)))

theorem vld_converting_of_misaligned (h : ptrCode (Claims.xs s rs1) = 15) (ha : vecAddr (Claims.xs s rs1) imm % 32 ≠ 0) :
    runSlot (Act.vld i vd rs1 imm ro) s = Claims.traps s 4 (wordOfNat (vecAddr (Claims.xs s rs1) imm)) :=
  runSlot_of_trap ((vld_converting hgood hb h).trans (act_bind_error (vecBytes_of_misaligned ha)))

theorem vld_converting_of_load (h : ptrCode (Claims.xs s rs1) = 15) (ha : vecAddr (Claims.xs s rs1) imm % 32 = 0)
    (hl : s.load (Claims.cc s) (vecAddr (Claims.xs s rs1) imm) 32 ro = .ok (bs, t)) {es : Nat → Nat × Flags}
    (hes : ∀ j, es j = fp32ToBf16 (rmOf (s.slot s.cur).vctl) (natOfBytes ((bs.drop (4 * j)).take 4))) :
    ∃ r, runSlot (Act.vld i vd rs1 imm ro) s = Claims.done t (fun sl => (sl.setV vd.toNat r).addFlags
        (((List.range 8).map fun j => (es j).2).foldl (· ||| ·) 0)) ∧ ∀ j, j < 8 → laneOf 2 r j = (es j).1 % 2 ^ 16 := by
  obtain rfl : es = _ := funext hes
  refine ⟨_, (runSlot_of_ok ((vld_converting hgood hb h).trans (act_bind_ok (vecBytes_of_load ha hl)))).trans ?_,
    fun j hj => laneOf_collect (by decide) (by omega) hj⟩
  rw [collect_snd, List.map_map]
  rfl

end

/-! ### VLDB -/

section
variable {s t : State} {vd : VReg} {rs1 : Reg} {imm : BitVec 6} {bs : List Byte}

theorem vldb_of_refused (h : ptrGood (Claims.xs s rs1) = false ∨ vldbBytes (ptrCode (Claims.xs s rs1)) = 0) :
    exec (.vldb vd rs1 imm) s = Claims.traps s 24 (Claims.xs s rs1) :=
  runSlot_of_trap (act_bind_error (vecPtr_of_refused (h.imp_right fun h => by simp [h])))

variable (hgood : ptrGood (Claims.xs s rs1) = true) (hn : vldbBytes (ptrCode (Claims.xs s rs1)) ≠ 0)
include hgood hn

theorem vldb_of_bound (hb : (s.slot s.cur).bound vd.toNat = true) :
    exec (.vldb vd rs1 imm) s = Claims.traps s 2 (s.wordOf (.vldb vd rs1 imm)) :=
  runSlot_of_trap ((act_bind_ok (vecPtr_of_accepted hgood (by simpa using hn))).trans (act_bind_error (writable_of_bound hb)))

variable (hb : (s.slot s.cur).bound vd.toNat = false)
include hb

/-- VLDB once its pointer and destination are checked: the bytes, and what every lane gets of them. -/
theorem exec_vldb : exec (.vldb vd rs1 imm) s = runSlot (do
    let bs ← Act.vecBytes (vecAddr (Claims.xs s rs1) imm) (vldbBytes (ptrCode (Claims.xs s rs1))) false
    let e := if ptrCode (Claims.xs s rs1) = 15 then
        ((fp32ToBf16 (rmOf (s.slot s.cur).vctl) (natOfBytes bs)).1, 2, (fp32ToBf16 (rmOf (s.slot s.cur).vctl) (natOfBytes bs)).2)
      else (natOfBytes bs, vldbBytes (ptrCode (Claims.xs s rs1)), 0)
    Act.modSlot fun sl => (sl.setV vd.toNat (ofLanes e.2.1 (List.replicate (16 / e.2.1) e.1))).addFlags e.2.2
    Act.next) s := by
  refine runSlot_congr ((act_bind_ok (vecPtr_of_accepted hgood (by simpa using hn))).trans
    ((act_bind_ok (writable_of_unbound hb)).trans ?_))
  rfl

theorem vldb_of_misaligned (ha : vecAddr (Claims.xs s rs1) imm % vldbBytes (ptrCode (Claims.xs s rs1)) ≠ 0) :
    exec (.vldb vd rs1 imm) s = Claims.traps s 4 (wordOfNat (vecAddr (Claims.xs s rs1) imm)) :=
  (exec_vldb hgood hn hb).trans (runSlot_of_trap (act_bind_error (vecBytes_of_misaligned ha)))

variable (ha : vecAddr (Claims.xs s rs1) imm % vldbBytes (ptrCode (Claims.xs s rs1)) = 0)
  (hl : s.load (Claims.cc s) (vecAddr (Claims.xs s rs1) imm) (vldbBytes (ptrCode (Claims.xs s rs1))) false = .ok (bs, t))
include ha hl

theorem vldb_plain_of_load (h : ptrCode (Claims.xs s rs1) ≠ 15) : ∃ r,
    exec (.vldb vd rs1 imm) s = Claims.done t (fun sl => (sl.setV vd.toNat r).addFlags 0) ∧
    ∀ j, j < 16 / vldbBytes (ptrCode (Claims.xs s rs1)) → laneOf (vldbBytes (ptrCode (Claims.xs s rs1))) r j =
      natOfBytes bs % 2 ^ (8 * vldbBytes (ptrCode (Claims.xs s rs1))) := by
  refine ⟨_, (exec_vldb hgood hn hb).trans (runSlot_of_ok ((act_bind_ok (vecBytes_of_load ha hl)).trans ?_)),
    fun j hj => laneOf_replicate (by omega) hj⟩
  rw [if_neg h]
  rfl

theorem vldb_converting_of_load (h : ptrCode (Claims.xs s rs1) = 15) : ∃ r,
    exec (.vldb vd rs1 imm) s = Claims.done t (fun sl => (sl.setV vd.toNat r).addFlags
      (fp32ToBf16 (rmOf (s.slot s.cur).vctl) (natOfBytes bs)).2) ∧
    ∀ j, j < 8 → laneOf 2 r j = (fp32ToBf16 (rmOf (s.slot s.cur).vctl) (natOfBytes bs)).1 % 2 ^ 16 := by
  refine ⟨_, (exec_vldb hgood hn hb).trans (runSlot_of_ok ((act_bind_ok (vecBytes_of_load ha hl)).trans ?_)),
    fun j hj => laneOf_replicate (by decide) hj⟩
  rw [if_pos h]
  rfl

end

/-! ### VST and VST.NT -/

section
variable {s t : State} {vs : VReg} {rs1 : Reg} {imm : BitVec 6} {d : VWord}

/-- What VST and VST.NT share: the source, the pointer, the store `store` of the source's bytes, and the source's port. -/
def Act.vstBy (vs : VReg) (rs1 : Reg) (imm : BitVec 6) (store : Nat → Nat → Nat → Act Unit) : Act Unit := do
  let d ← Act.v vs.toNat
  let p ← Act.vecPtr rs1 fun c => c ≤ 13
  store (vecAddr p imm) 16 d.toNat
  Act.modSlot fun sl => sl.popPorts [vs.toNat]
  Act.next

theorem exec_vst : exec (.vst vs rs1 imm) s = runSlot (Act.vstBy vs rs1 imm Act.storeNat) s := rfl

theorem exec_vstNt : exec (.vstNt vs rs1 imm) s = runSlot (Act.vstBy vs rs1 imm Act.storeNt) s := rfl

variable {store : Nat → Nat → Nat → Act Unit} (hd : (s.slot s.cur).vsrc vs.toNat = some d)
include hd

theorem vstBy_of_refused (h : ptrGood (Claims.xs s rs1) = false ∨ 13 < ptrCode (Claims.xs s rs1)) :
    runSlot (Act.vstBy vs rs1 imm store) s = Claims.traps s 24 (Claims.xs s rs1) :=
  runSlot_of_trap ((act_bind_ok (act_v_of_some hd)).trans (act_bind_error (vecPtr_of_refused (h.imp_right fun h => by simpa using h))))

variable (hgood : ptrGood (Claims.xs s rs1) = true) (hcode : ptrCode (Claims.xs s rs1) ≤ 13)
include hgood hcode

theorem vstBy_of_trap {cause : Nat} {tval : Word}
    (h : store (vecAddr (Claims.xs s rs1) imm) 16 d.toNat s = .error (.trap cause tval)) :
    runSlot (Act.vstBy vs rs1 imm store) s = Claims.traps s cause tval :=
  runSlot_of_trap ((act_bind_ok (act_v_of_some hd)).trans ((act_bind_ok (vecPtr_of_accepted hgood (by simpa using hcode))).trans
    (act_bind_error h)))

theorem vstBy_of_stored (h : store (vecAddr (Claims.xs s rs1) imm) 16 d.toNat s = .ok ((), t)) :
    runSlot (Act.vstBy vs rs1 imm store) s = Claims.done t fun sl => sl.popPorts [vs.toNat] :=
  runSlot_of_ok ((act_bind_ok (act_v_of_some hd)).trans ((act_bind_ok (vecPtr_of_accepted hgood (by simpa using hcode))).trans
    (act_bind_ok h)))

end

/-- A non-temporal store that hits the line in the L1, or misses it. -/
theorem storeNt_of_put {s t u v : State} {a n d : Nat} (h : a % n = 0) (ho : isOwn (Claims.cc s) a = false)
    (hc : (∃ w, s.l1Line (Claims.cc s) a = some w ∧ s.checkHit (Claims.cc s) a w .store = .ok () ∧ u = s) ∨
      (s.l1Line (Claims.cc s) a = none ∧ ∃ tr, s.checkHome (Claims.cc s) a .store = .ok (tr, u)))
    (hw : u.wtRange (Claims.cc s) (a / 32 * 32) 32 = .ok v)
    (hp : (v.dropRange (Claims.cc s) (a / 32 * 32) 32).ntPut (Claims.cc s) a (bytesOfNat n d) = .ok t) :
    Act.storeNt a n d s = .ok ((), t) := by
  rcases hc with ⟨w, hl, hc, rfl⟩ | ⟨hl, tr, hc⟩
  · exact storeNt_of_hit h ho hl hc hw hp
  · exact storeNt_of_miss h ho hl hc hw hp

/-- Settles O23: each form checks its pointer, its destination and its address, in this order, and then moves the bytes. -/
theorem vectorMemory : Obligations.VectorMemory := by
  intro s vd rs1 imm o p c code good a conv n
  have ha : a = vecAddr p imm := (vecAddr_eq p imm).symm
  have hgood : good = ptrGood p := rfl
  clear_value a good
  subst ha hgood
  refine ⟨fun h => ⟨vld_of_refused h, vld_of_refused h⟩, vldb_of_refused,
    fun hg hb => ⟨fun h => ⟨vld_of_bound hg h hb, vld_of_bound hg h hb⟩, fun hn => vldb_of_bound hg hn hb⟩,
    fun hg hb i ro hi => ?_, fun hg hb hn => ⟨vldb_of_misaligned hg hn hb, fun ha bs t hl => ⟨vldb_plain_of_load hg hn hb ha hl,
      vldb_converting_of_load hg hn hb ha hl⟩⟩,
    fun d hd hg hc => ⟨fun ha => ?_, fun ha t hs => ?_, fun ha ho => ?_, fun ha ho u v t hk hw hp => ?_⟩,
    fun d hd h => ⟨vstBy_of_refused hd h, vstBy_of_refused hd h⟩⟩
  · rw [exec_of_vldForm hi]
    exact ⟨fun h => ⟨vld_plain_of_misaligned hg hb h, fun ha bs t => vld_plain_of_load hg hb h ha⟩,
      fun h => ⟨vld_converting_of_misaligned hg hb h, fun ha bs t hl => vld_converting_of_load hg hb h ha hl fun _ => rfl⟩⟩
  · exact ⟨vstBy_of_trap hd hg hc (storeNat_of_misaligned ha), vstBy_of_trap hd hg hc (storeNt_of_misaligned ha)⟩
  · exact vstBy_of_stored hd hg hc (storeNat_of_store ha hs)
  · exact vstBy_of_stored hd hg hc (storeNt_of_own ha ho)
  · exact vstBy_of_stored hd hg hc (storeNt_of_put ha ho hk hw hp)

end Sys2Proof.Machine
end

section
/-!
SUPPORT. What a vector instruction that works on registers leaves alone, however it ends (R102, R103, R236, R237, R296, R419).
-/

namespace Sys2Proof.Machine

/-! ### Slots that differ in some vector registers -/

/-- Nothing of the registers differs but vector registers that `P` names, and flags that were added (R102). -/
structure Slot.SameBut (P : Nat → Prop) (a b : Slot) : Prop where
  x : b.x = a.x
  vr : ∀ n, ¬P n → b.vr n = a.vr n
  vflags : b.vflags &&& a.vflags = a.vflags

section
variable {P : Nat → Prop} {a b c sl : Slot} {n : Nat} {w : VWord} {fl : Flags}

theorem Slot.SameBut.trans (h : Slot.SameBut P a b) (h' : Slot.SameBut P b c) : Slot.SameBut P a c where
  x := h'.x.trans h.x
  vr n hn := (h'.vr n hn).trans (h.vr n hn)
  vflags := calc
    c.vflags &&& a.vflags = (c.vflags &&& b.vflags) &&& a.vflags := by rw [BitVec.and_assoc, h.vflags]
    _ = a.vflags := by rw [h'.vflags, h.vflags]

theorem Slot.SameRegs.sameBut (h : b.SameRegs a) : Slot.SameBut P a b where
  x := h.x
  vr n _ := congrArg (sget 0 · n) h.v
  vflags := by rw [h.vflags, BitVec.and_self]

theorem Slot.SameBut.refl : Slot.SameBut P a a := Slot.SameRegs.sameBut ⟨rfl, rfl, rfl, rfl⟩

theorem Slot.setV_sameBut (hn : P n) : Slot.SameBut P sl (sl.setV n w) where
  x := rfl
  vr m hm := by
    rw [Slot.vr_setV, if_neg]
    rintro rfl
    exact hm hn
  vflags := BitVec.and_self

/-- Flags are added, never cleared. -/
theorem Slot.addFlags_sameBut : Slot.SameBut P sl (sl.addFlags fl) where
  x := rfl
  vr _ _ := rfl
  vflags := by
    ext i hi
    simp only [Slot.addFlags, BitVec.getElem_and, BitVec.getElem_or]
    cases sl.vflags[i] <;> simp

theorem Slot.foldl_sameBut {ι : Type} {l : List ι} {g : Slot → ι → Slot} (hg : ∀ i ∈ l, ∀ b, Slot.SameBut P b (g b i)) :
    Slot.SameBut P a (l.foldl g a) := by
  induction l generalizing a with
  | nil => exact .refl
  | cons i l ih => exact (hg i (by simp) a).trans (ih fun j hj => hg j (by simp [hj]))

/-- The sources' ports lose an element each; no register changes (R236). -/
theorem Slot.popPorts_sameRegs (srcs : List Nat) : (sl.popPorts srcs).SameRegs sl := by
  unfold Slot.popPorts
  refine foldl_keeps (fun u : Slot => u.SameRegs sl) _ _ (fun u n h => ?_) ⟨rfl, rfl, rfl, rfl⟩
  split
  · exact ⟨h.x, h.v, h.vflags, h.vctl⟩
  · exact h

end

/-! ### How an instruction ends -/

/-- What a vector instruction leaves: of its own slot's registers no vector register but those that `P` names differs, no flag is
cleared, and no other slot and no memory changes. -/
structure State.VecEnds (P : Nat → Prop) (s t : State) : Prop where
  slot : Slot.SameBut P (s.slot s.cur) (t.slot s.cur)
  other : ∀ k, k ≠ s.cur → t.slot k = s.slot k
  mem : t.mem = s.mem

section
variable {P : Nat → Prop} {s t u : State} {k cause : Nat} {tval : Word} {f : Slot → Slot}

theorem State.VecEnds.byte (h : State.VecEnds P s t) (k : Nat) : t.byte k = s.byte k := congrArg (sget 0 · k) h.mem

theorem State.VecEnds.refl : State.VecEnds P s s := ⟨.refl, fun _ _ => rfl, rfl⟩

/-- A trap keeps the registers of its slot, on the steward core too. -/
theorem State.takeTrap_keepsRegs : ((s.takeTrap k cause tval).slot k).SameRegs (s.slot k) := by
  have hleave : ((s.leave k).slot k).SameRegs (s.slot k) := by
    rw [State.leave_sameButConvoy.slot]
    exact ⟨rfl, rfl, rfl, rfl⟩
  unfold State.takeTrap State.enter
  rw [State.slot_modSlot_same]
  refine Slot.SameRegs.trans ?_ hleave
  dsimp only
  split
  · exact .of_stopRep ((Slot.enterM_sameRegs _ _ _).trans ⟨rfl, rfl, rfl, rfl⟩)
  · exact .of_stopRep ((Slot.enterS_sameRegs _ _ _).trans ⟨rfl, rfl, rfl, rfl⟩)

theorem State.takeTrap_vecEnds : State.VecEnds P s (s.takeTrap s.cur cause tval) :=
  ⟨State.takeTrap_keepsRegs.sameBut, fun _ => State.takeTrap_other, State.takeTrap_mem⟩

/-- The state in which the instruction of the executing slot has changed its slot by `f` and committed. -/
def State.did (s : State) (f : Slot → Slot) : State := (s.modSlot s.cur f).commit s.cur none

theorem State.did_sameRegs : ((s.did f).slot s.cur).SameRegs (f (s.slot s.cur)) := by
  rw [← State.slot_modSlot_same s s.cur f]
  exact State.commit_sameRegs s.cur

theorem State.did_other (hk : k ≠ s.cur) : (s.did f).slot k = s.slot k :=
  (State.commit_other hk).trans (State.slot_modSlot_other _ _ hk)

theorem State.did_mem : (s.did f).mem = s.mem := State.commit_mem

theorem State.did_cores : (s.did f).cores = s.cores := State.commit_cores

theorem State.did_vecEnds (hf : Slot.SameBut P (s.slot s.cur) (f (s.slot s.cur))) : State.VecEnds P s (s.did f) :=
  ⟨hf.trans State.did_sameRegs.sameBut, fun _ => State.did_other, State.did_mem⟩

/-- Changes of the cores before are no matter. -/
theorem State.VecEnds.of_cores {cores : Sparse Core} (h : State.VecEnds P { s with cores } t) : State.VecEnds P s t :=
  ⟨h.slot, h.other, h.mem⟩

end

/-! ### Instructions on registers -/

section
variable {s t : State} {i : Instr} {et : ElemTy} {vd vs1 : VReg} {xs rd : Reg} {lane : BitVec 6}

theorem runSlot_vec_ends {srcs : List VReg} {f : Rm → VWord → List VWord → VWord × Flags} (h : runSlot (Act.vec i vd srcs f) s = .next t) :
    State.VecEnds (· = vd.toNat) s t ∧ t.cores = s.cores := by
  rcases runSlot_vec_cases (i := i) (vd := vd) (srcs := srcs) (f := f) (s := s) with hr | hr | ⟨r, fl, hr⟩
  · cases hr.symm.trans h
    exact ⟨.refl, rfl⟩
  · cases hr.symm.trans h
    exact ⟨State.takeTrap_vecEnds, State.takeTrap_cores⟩
  · cases hr.symm.trans h
    exact ⟨State.did_vecEnds ((Slot.popPorts_sameRegs _).sameBut.trans ((Slot.setV_sameBut (P := (· = vd.toNat)) rfl).trans Slot.addFlags_sameBut)),
      State.did_cores⟩

theorem exec_vins : exec (.vins et vd xs lane) s = runSlot (Act.vec (.vins et vd xs lane) vd [] fun _ old _ =>
    (setLaneOf et.bytes old lane.toNat (Claims.xs s xs).toNat, 0)) s := runSlot_x s xs _

theorem exec_vbcast : exec (.vbcast et vd xs) s = runSlot (Act.vec (.vbcast et vd xs) vd [] fun _ _ _ =>
    (ofLanes et.bytes (List.replicate et.lanes (Claims.xs s xs).toNat), 0)) s := runSlot_x s xs _

theorem exec_vdmask : exec (.vdmask vd vs1) s = runSlot (Act.vec (.vdmask vd vs1) vd [vs1] fun _ _ vs =>
    let l := lanesOf 4 (vs.getD 0 0)
    (keepBits (s.slot s.cur).dseed (l.getD 0 0) (l.getD 1 0) (l.getD 2 0) (l.getD 3 0), 0)) s :=
  runSlot_congr (act_bind_ok (x := Act.slot) rfl)

theorem sources_none : (([] : List VReg).map (·.toNat)).mapM (s.slot s.cur).vsrc = some [] := rfl

theorem sources_one_of_none (h : (s.slot s.cur).vsrc vs1.toNat = none) : ([vs1].map (·.toNat)).mapM (s.slot s.cur).vsrc = none := by
  simp [h]

theorem sources_one_of_some {x : VWord} (h : (s.slot s.cur).vsrc vs1.toNat = some x) :
    ([vs1].map (·.toNat)).mapM (s.slot s.cur).vsrc = some [x] := by
  simp [h]

/-! ### VEXT -/

theorem sset_sset_same {α : Type} (m : Sparse α) (k : Nat) (v w : α) : sset (sset m k v) k w = sset m k w := by
  induction m with
  | nil => simp [sset]
  | cons e m ih =>
    by_cases h1 : k < e.1
    · simp [sset, h1]
    · by_cases h2 : k = e.1
      · simp [sset, h2]
      · simp [sset, h1, h2, ih]

theorem State.modSlot_modSlot (s : State) (k : Nat) (f g : Slot → Slot) : (s.modSlot k f).modSlot k g = s.modSlot k fun sl => g (f sl) := by
  have hg : g ((s.modSlot k f).slot k) = g (f (s.slot k)) := by rw [State.slot_modSlot_same]
  exact (congrArg (State.setSlot (s.modSlot k f) k) hg).trans
    (congrArg (fun slots => { s with slots }) (sset_sset_same s.slots k (f (s.slot k)) (g (f (s.slot k)))))

theorem vext_of_empty (h : (s.slot s.cur).vsrc vs1.toNat = none) : exec (.vext et rd vs1 lane) s = .next s :=
  runSlot_of_error (act_bind_error (act_v_of_none h))

/-- The value that VEXT gives of lane `lane` of `x` (R253). -/
def vextValue (et : ElemTy) (lane : BitVec 6) (x : VWord) : Word :=
  if et.isFloat then wordOfNat (laneOf et.bytes x lane.toNat) else sext64 (8 * et.bytes) (laneOf et.bytes x lane.toNat)

theorem vext_of_source {x : VWord} (h : (s.slot s.cur).vsrc vs1.toNat = some x) : exec (.vext et rd vs1 lane) s =
    Claims.done s fun sl => (sl.popPorts [vs1.toNat]).setX rd.toNat (vextValue et lane x) := by
  refine (runSlot_of_ok (act_bind_ok (act_v_of_some h))).trans ?_
  exact congrArg (fun u : State => Host.Outcome.next (u.commit s.cur none)) (State.modSlot_modSlot s s.cur _ _)

theorem vext_ends (h : exec (.vext et rd vs1 lane) s = .next t) :
    (t.slot s.cur).vflags = (s.slot s.cur).vflags ∧ (t.slot s.cur).v = (s.slot s.cur).v ∧
    (∀ n, n ≠ rd.toNat → (t.slot s.cur).xr n = (s.slot s.cur).xr n) ∧
    (∀ k, k ≠ s.cur → t.slot k = s.slot k) ∧ t.mem = s.mem ∧ t.cores = s.cores := by
  cases hx : (s.slot s.cur).vsrc vs1.toNat with
  | none =>
    cases (vext_of_empty hx).symm.trans h
    exact ⟨rfl, rfl, fun _ _ => rfl, fun _ _ => rfl, rfl, rfl⟩
  | some x =>
    cases (vext_of_source hx).symm.trans h
    have hp := Slot.popPorts_sameRegs (sl := s.slot s.cur) [vs1.toNat]
    refine ⟨State.did_sameRegs.vflags.trans ?_, State.did_sameRegs.v.trans ?_, fun n hn => (State.did_sameRegs.xr n).trans ?_,
      fun _ => State.did_other, State.did_mem, State.did_cores⟩
    · rw [Slot.setX_vflags, hp.vflags]
    · rw [Slot.setX_v, hp.v]
    · rw [Slot.xr_setX, if_neg fun h => hn h.1, hp.xr]

end

/-! ### VROWST -/

section
variable {s t : State} {c : Nat} {p : Nat → Bool}

theorem Core.repairAcc_rest (k : Core) : ∃ acc errAcc corrected, k.repairAcc p = { k with acc, errAcc, corrected } := by
  unfold Core.repairAcc
  refine foldl_keeps (fun u : Core => ∃ acc errAcc corrected, u = { k with acc, errAcc, corrected }) _ _ (fun u x h => ?_) ⟨_, _, _, rfl⟩
  obtain ⟨acc, errAcc, corrected, rfl⟩ := h
  exact ⟨_, _, _, rfl⟩

theorem State.repairAcc_rest : ∃ cores, s.repairAcc c p = { s with cores } := by
  unfold State.repairAcc
  split
  · exact ⟨_, rfl⟩
  · exact ⟨_, rfl⟩

theorem State.repairAcc_other {d : Nat} (hd : d ≠ c) : (s.repairAcc c p).core d = s.core d := by
  unfold State.repairAcc
  split
  · rfl
  · exact State.core_modCore_other s _ hd

theorem State.repairAcc_core :
    ∃ acc errAcc corrected, (s.repairAcc c p).core c = { s.core c with acc, errAcc, corrected } := by
  unfold State.repairAcc
  split
  · exact ⟨_, _, _, rfl⟩
  · rw [State.core_modCore_same]
    exact Core.repairAcc_rest _

theorem State.repairAcc_of_no_errors (h : (s.core c).errAcc = []) : s.repairAcc c p = s := by
  simp [State.repairAcc, h, errSingle]

theorem errBad_of_single {e : Sparse (BitVec 32)} (h : ∀ x ∈ e, errBits x.2 ≤ 1) : errBad e p = false := by
  simp only [errBad, List.any_eq_false, Bool.and_eq_true, decide_eq_true_eq, not_and, not_lt]
  exact fun x hx _ => h x hx

/-- The three registers that VROWST writes. -/
def rowRegs (vd : VReg) (n : Nat) : Prop := n = vd.toNat ∨ n = vd.toNat + 1 ∨ n = vd.toNat + 2

/-- The accumulator words that VROWST reads (R296). -/
def rowReads (acc : BitVec 2) (grp : BitVec 4) (m : RowMode) (b : Nat) : Bool :=
  (rowTiles acc.toNat m).any fun t => (List.range 4).any fun r => ((List.range 64).map fun j => accIx t (4 * grp.toNat + r) j).contains b

/-- The statistics of the four rows (R296) of the accumulators of core `c`. -/
def rowResults (vd : VReg) (acc : BitVec 2) (grp : BitVec 4) (m : RowMode) (c : Nat) (s : State) : List (List (Option (Nat × Flags))) :=
  let vals := fun t r => ((List.range 64).map fun j => accIx t (4 * grp.toNat + r) j).map fun ix =>
    Fmt.fp32.value ((s.core c).accGet false ix)
  (List.range 4).map fun r => rowStats m (rmOf (s.slot s.cur).vctl) (laneOf 4 ((s.slot s.cur).vr vd.toNat) r) (vals acc.toNat r)
    (vals (acc.toNat ^^^ 2) r)

/-- A column of statistics is written to its register; a column that a mode does not give leaves it (R296). -/
def Slot.putRows (vd : VReg) (rs : List (List (Option (Nat × Flags)))) (sl : Slot) : Slot :=
  (List.range 3).foldl (fun sl n =>
    let col := rs.filterMap fun r => r.getD n none
    if col.isEmpty then sl
    else
      let (v, fl) := collect 4 col
      (sl.setV (vd.toNat + n) v).addFlags fl) sl

theorem Slot.putRows_sameBut {vd : VReg} {rs : List (List (Option (Nat × Flags)))} {sl : Slot} :
    Slot.SameBut (rowRegs vd) sl (sl.putRows vd rs) := by
  refine Slot.foldl_sameBut fun n hn b => ?_
  dsimp only
  split
  · exact .refl
  · have h3 := List.mem_range.1 hn
    exact (Slot.setV_sameBut (show rowRegs vd (vd.toNat + n) by unfold rowRegs; omega)).trans Slot.addFlags_sameBut

/-- The reads of VROWST and what it does with them, once the matrix engine leaves the tiles alone. -/
def Act.vrowstReads (vd : VReg) (acc : BitVec 2) (grp : BitVec 4) (m : RowMode) : Act Unit := fun s =>
  if errBad (s.core (coreOf s.cur)).errAcc (rowReads acc grp m) then .error (.kill 52 0)
  else .ok ((), (s.repairAcc (coreOf s.cur) (rowReads acc grp m)).did (Slot.putRows vd
    (rowResults vd acc grp m (coreOf s.cur) (s.repairAcc (coreOf s.cur) (rowReads acc grp m)))))

variable {vd : VReg} {acc : BitVec 2} {grp : BitVec 4} {m : RowMode}

theorem vrowst_of_bound (h : (s.slot s.cur).bound vd.toNat = true ∨ (s.slot s.cur).bound (vd.toNat + 1) = true ∨
    (s.slot s.cur).bound (vd.toNat + 2) = true) :
    exec (.vrowst vd acc grp m) s = Claims.traps s 2 (s.wordOf (.vrowst vd acc grp m)) := by
  cases h0 : (s.slot s.cur).bound vd.toNat with
  | true => exact runSlot_of_trap (act_bind_error (writable_of_bound h0))
  | false =>
    cases h1 : (s.slot s.cur).bound (vd.toNat + 1) with
    | true => exact runSlot_of_trap ((act_bind_ok (writable_of_unbound h0)).trans (act_bind_error (writable_of_bound h1)))
    | false =>
      have h2 : (s.slot s.cur).bound (vd.toNat + 2) = true := by simpa [h0, h1] using h
      exact runSlot_of_trap ((act_bind_ok (writable_of_unbound h0)).trans ((act_bind_ok (writable_of_unbound h1)).trans
        (act_bind_error (writable_of_bound h2))))

/-- Whether the matrix command that runs on the core may change a tile that VROWST reads (R297). -/
def rowBusy (acc : BitVec 2) (m : RowMode) (s : State) : Bool :=
  match s.matrixRunning (coreOf s.cur) with
  | some c => !c.onlyReads && c.tiles.any fun t => (rowTiles acc.toNat m).contains t
  | none => false

theorem rowBusy_of_some {d : Cmd} (h : s.matrixRunning (coreOf s.cur) = some d) :
    rowBusy acc m s = (!d.onlyReads && d.tiles.any fun t => (rowTiles acc.toNat m).contains t) := by
  unfold rowBusy
  rw [h]

theorem rowBusy_of_none (h : s.matrixRunning (coreOf s.cur) = none) : rowBusy acc m s = false := by
  unfold rowBusy
  rw [h]

/-- An instruction that stops where `b` holds, and else goes on. -/
theorem act_stopIf {b : Bool} {e : Stop} {f : Unit → Act Unit} :
    (if b then (fun _ => .error e) >>= f else f () : Act Unit) s = if b then .error e else f () s := by
  cases b with
  | true => rfl
  | false => rfl

theorem exec_vrowst (h0 : (s.slot s.cur).bound vd.toNat = false) (h1 : (s.slot s.cur).bound (vd.toNat + 1) = false)
    (h2 : (s.slot s.cur).bound (vd.toNat + 2) = false) : exec (.vrowst vd acc grp m) s =
      runSlot (fun s => if rowBusy acc m s then .error .wait else Act.vrowstReads vd acc grp m s) s := by
  refine runSlot_congr ((act_bind_ok (writable_of_unbound h0)).trans ((act_bind_ok (writable_of_unbound h1)).trans
    ((act_bind_ok (writable_of_unbound h2)).trans ((act_bind_ok (x := (get : Act State)) rfl).trans ?_))))
  cases hrun : s.matrixRunning (coreOf s.cur) with
  | none =>
    rw [rowBusy_of_none hrun, if_neg Bool.false_ne_true]
    refine act_stopIf.trans (ite_congr rfl (fun _ => rfl) fun _ => ?_)
    rfl
  | some d =>
    rw [rowBusy_of_some hrun]
    refine act_stopIf.trans (ite_congr rfl (fun _ => rfl) fun _ => act_stopIf.trans (ite_congr rfl (fun _ => rfl) fun _ => ?_))
    rfl

/-- VROWST that meets no uncorrectable word waits, is refused, or writes its registers in the state in which the words that it reads are
repaired (R419). -/
theorem vrowst_cases (hsingle : ∀ e ∈ (s.core (Claims.cc s)).errAcc, errBits e.2 ≤ 1) :
    exec (.vrowst vd acc grp m) s = .next s ∨ exec (.vrowst vd acc grp m) s = Claims.traps s 2 (s.wordOf (.vrowst vd acc grp m)) ∨
    ∃ rs, exec (.vrowst vd acc grp m) s =
      .next ((s.repairAcc (Claims.cc s) (rowReads acc grp m)).did (Slot.putRows vd rs)) := by
  by_cases hbound : (s.slot s.cur).bound vd.toNat = true ∨ (s.slot s.cur).bound (vd.toNat + 1) = true ∨
      (s.slot s.cur).bound (vd.toNat + 2) = true
  · exact .inr (.inl (vrowst_of_bound hbound))
  · simp only [not_or, Bool.not_eq_true] at hbound
    obtain ⟨h0, h1, h2⟩ := hbound
    have hbad : ¬errBad (s.core (coreOf s.cur)).errAcc (rowReads acc grp m) = true := Bool.eq_false_iff.1 (errBad_of_single hsingle)
    by_cases hbusy : rowBusy acc m s = true
    · exact .inl ((exec_vrowst h0 h1 h2).trans (runSlot_of_error (e := .wait) (if_pos hbusy)))
    · exact .inr (.inr ⟨_, (exec_vrowst h0 h1 h2).trans (runSlot_of_ok ((if_neg hbusy).trans (if_neg hbad)))⟩)

theorem vrowst_ends (hsingle : ∀ e ∈ (s.core (Claims.cc s)).errAcc, errBits e.2 ≤ 1) (h : exec (.vrowst vd acc grp m) s = .next t) :
    State.VecEnds (rowRegs vd) s t ∧ (t.cores = s.cores ∨ t.cores = (s.repairAcc (Claims.cc s) (rowReads acc grp m)).cores) := by
  rcases vrowst_cases (vd := vd) (acc := acc) (grp := grp) (m := m) hsingle with hr | hr | ⟨rs, hr⟩
  · cases hr.symm.trans h
    exact ⟨.refl, .inl rfl⟩
  · cases hr.symm.trans h
    exact ⟨State.takeTrap_vecEnds, .inl State.takeTrap_cores⟩
  · cases hr.symm.trans h
    refine ⟨?_, .inr State.did_cores⟩
    obtain ⟨cores, hrest⟩ := State.repairAcc_rest (s := s) (c := Claims.cc s) (p := rowReads acc grp m)
    rw [hrest]
    exact .of_cores (State.did_vecEnds Slot.putRows_sameBut)

/-- Of the cores a read of accumulators changes what it repairs, in its own. -/
theorem cores_of_repaired (h : t.cores = s.cores ∨ t.cores = (s.repairAcc c p).cores) :
    (∀ d, d ≠ c → t.core d = s.core d) ∧ (∃ acc errAcc corrected, t.core c = { s.core c with acc, errAcc, corrected }) ∧
    ((s.core c).errAcc = [] → t.cores = s.cores) := by
  have hcore (u : State) (hu : t.cores = u.cores) (d : Nat) : t.core d = u.core d := congrArg (sget Core.reset · d) hu
  rcases h with h | h
  · exact ⟨fun d _ => hcore s h d, ⟨_, _, _, hcore s h c⟩, fun _ => h⟩
  · refine ⟨fun d hd => (hcore _ h d).trans (State.repairAcc_other hd), ?_, fun hn => h.trans (by rw [State.repairAcc_of_no_errors hn])⟩
    rw [hcore _ h c]
    exact State.repairAcc_core

end

/-- Settles O22: an instruction on registers waits, traps or writes its destination and adds flags, as does VROWST with the words that it
repairs; none of these clears a flag. -/
theorem vectorFrame : Obligations.VectorFrame := by
  refine ⟨fun s t et dst vd vs1 vs2 i red sf rm ov xs lane k8 w g hi h => ?_, fun s t et rd vs1 lane h => ?_,
    fun s t vd acc grp m hsingle h => ?_, fun s et vd vs1 i xs rd lane k8 w g rm ov acc grp m =>
      ⟨fun hi hb => ?_, fun hi => ?_, vext_of_empty, vrowst_of_bound⟩⟩
  · obtain ⟨srcs, f, hexec⟩ : ∃ srcs f, exec i s = runSlot (Act.vec i vd srcs f) s := by
      simp only [List.mem_cons, List.not_mem_nil, or_false] at hi
      rcases hi with rfl | rfl | rfl | rfl | rfl | rfl | rfl | rfl | rfl | rfl | rfl | rfl | rfl | rfl | rfl | rfl | rfl | rfl | rfl |
        rfl | rfl | rfl | rfl | rfl | rfl | rfl | rfl | rfl | rfl
      iterate 24 exact ⟨_, _, rfl⟩
      · exact ⟨_, _, exec_vins⟩
      · exact ⟨_, _, exec_vbcast⟩
      · exact ⟨_, _, rfl⟩
      · exact ⟨_, _, rfl⟩
      · exact ⟨_, _, exec_vdmask⟩
    obtain ⟨hends, hcores⟩ := runSlot_vec_ends (hexec.symm.trans h)
    exact ⟨hends.slot.vflags, hends.slot.vr, hends.slot.x, hends.other, hends.byte, hcores⟩
  · obtain ⟨hflags, hv, hx, hother, hmem, hcores⟩ := vext_ends h
    exact ⟨hflags, hv, hx, hother, fun k => congrArg (sget 0 · k) hmem, hcores⟩
  · obtain ⟨hends, hcores⟩ := vrowst_ends hsingle h
    obtain ⟨hothers, ⟨_, _, _, hcore⟩, hclean⟩ := cores_of_repaired hcores
    refine ⟨hends.slot.vflags, fun n h0 h1 h2 => hends.slot.vr n ?_, hends.slot.x, hends.other, hends.byte, hothers, ?_, hclean⟩
    · rintro (h | h | h)
      exacts [h0 h, h1 h, h2 h]
    · rw [hcore]
  · simp only [List.mem_cons, List.not_mem_nil, or_false] at hi
    rcases hi with rfl | rfl
    · exact exec_vins.trans (runSlot_vec_of_bound sources_none hb)
    · exact exec_vbcast.trans (runSlot_vec_of_bound sources_none hb)
  · obtain ⟨f, hexec⟩ : ∃ f, exec i s = runSlot (Act.vec i vd [vs1] f) s := by
      simp only [List.mem_cons, List.not_mem_nil, or_false] at hi
      rcases hi with rfl | rfl | rfl
      · exact ⟨_, rfl⟩
      · exact ⟨_, rfl⟩
      · exact ⟨_, exec_vdmask⟩
    refine ⟨fun hn => hexec.trans (runSlot_vec_of_empty (sources_one_of_none hn)), fun hx hb => ?_⟩
    obtain ⟨x, hx⟩ := Option.isSome_iff_exists.1 hx
    exact hexec.trans (runSlot_vec_of_bound (sources_one_of_some hx) hb)

end Sys2Proof.Machine
end

section
/-!
SUPPORT. Fat-pointer arithmetic (R123, R125): the two fields of a pointer, as they are put together and masked.
-/

namespace Sys2Proof.Machine

/-! ### The fields of a fat pointer -/

theorem and_addressMask (p : Word) : p &&& (0x00FFFFFFFFFFFFFF : Word) = (p.extractLsb' 0 56).setWidth 64 := by
  refine BitVec.eq_of_toNat_eq ?_
  simp only [BitVec.toNat_and, BitVec.toNat_setWidth, BitVec.extractLsb'_toNat, Nat.shiftRight_zero]
  exact (Nat.and_two_pow_sub_one_eq_mod p.toNat 56).trans (by omega)

theorem and_tagMask (p : Word) : p &&& (0xFF00000000000000 : Word) = (p.extractLsb' 56 8).setWidth 64 <<< 56 := by
  have hmask : (0xFF00000000000000 : Word) = BitVec.allOnes 64 <<< 56 := by decide
  rw [hmask]
  ext i hi
  simp only [BitVec.getElem_and, BitVec.getElem_shiftLeft, BitVec.getElem_allOnes, BitVec.getElem_setWidth, BitVec.getLsbD_extractLsb']
  by_cases h : i < 56
  · simp [h]
  · simp [h, show i - 56 < 8 by omega, show 56 + (i - 56) = i by omega, BitVec.getLsbD_eq_getElem hi]

theorem append_fields (tag : BitVec 8) (addr : BitVec 56) : tag ++ addr = tag.setWidth 64 <<< 56 ||| addr.setWidth 64 := by
  ext i hi
  simp only [BitVec.getElem_append, BitVec.getElem_or, BitVec.getElem_shiftLeft, BitVec.getElem_setWidth]
  by_cases h : i < 56
  · simp [h]
  · simp [h, BitVec.getLsbD_eq_getElem (show i - 56 < 8 by omega), BitVec.getLsbD_of_ge addr i (by omega)]

/-! ### The instructions -/

theorem padd_eq (p y : Word) : padd p y = (p &&& 0xFF00000000000000) ||| ((p + y) &&& 0x00FFFFFFFFFFFFFF) := by
  rw [and_tagMask, and_addressMask]
  exact append_fields _ _

theorem setWidth_low_shiftLeft (y : Word) : (y.extractLsb' 0 8).setWidth 64 <<< 56 = y <<< 56 := by
  ext i hi
  simp only [BitVec.getElem_shiftLeft]
  by_cases h : i < 56
  · simp [h]
  · simp [h, show i - 56 < 8 by omega, BitVec.getLsbD_eq_getElem (show i - 56 < 64 by omega)]

theorem ptag_eq (p y : Word) : ptag p y = (y <<< 56) ||| (p &&& 0x00FFFFFFFFFFFFFF) := by
  rw [and_addressMask, ← setWidth_low_shiftLeft]
  exact append_fields _ _

theorem pget_eq (p : Word) : (p.extractLsb' 56 8).setWidth 64 = p >>> 56 := by
  refine BitVec.eq_of_toNat_eq ?_
  simp only [BitVec.toNat_setWidth, BitVec.extractLsb'_toNat, BitVec.toNat_ushiftRight, Nat.shiftRight_eq_div_pow]
  omega

/-- Settles O24: each instruction writes what it puts together of the fields; masks and shifts name the same fields. -/
theorem fatPointers : Obligations.FatPointers := by
  intro s rd rs1 rs2 imm tag
  exact ⟨result_of_value rfl (padd_eq _ _), result_of_value rfl (padd_eq _ _), result_of_value rfl (ptag_eq _ _),
    result_of_value rfl (ptag_eq _ _), result_of_value rfl (pget_eq _), result_of_value rfl (and_addressMask _).symm⟩

end Sys2Proof.Machine
end

section
/-!
SUPPORT. The iteration fetcher (R134 to R139): NEST.SET, NEST.STAT and NEST.NEXT by what they find, and the bounds of a claimed chunk.
-/

namespace Sys2Proof.Machine

/-! ### Fields and targets -/

theorem ownTarget_eq (pc : Word) (off : BitVec 17) : ownTarget pc off = pc + (off.signExtend 64 <<< 2) := by
  refine congrArg (pc + ·) ?_
  ext i hi
  simp only [BitVec.getElem_signExtend, BitVec.getElem_append, BitVec.getElem_shiftLeft, BitVec.msb_append]
  by_cases h : i < 2
  · simp [h, show i < 17 + 2 by omega]
  · simp [h]
    grind

/-! ### NEST.SET -/

section
variable {s t : State} {rd rs1 : Reg} {bs : List Byte}

theorem nestSet_of_misaligned (ha : va (Claims.xs s rs1) % 32 ≠ 0) :
    exec (.nestSet rs1) s = Claims.traps s 4 (wordOfNat (va (Claims.xs s rs1))) := by
  change execNestSet rs1 s = _
  refine runSlot_of_trap ?_
  change (ite _ _ _ : Act Unit) s = _
  rw [if_pos (show va ((s.slot s.cur).xr rs1.toNat) % 32 ≠ 0 from ha)]
  rfl

/-- NEST.SET once its descriptor is read: it is checked, and loaded. -/
theorem exec_nestSet (ha : va (Claims.xs s rs1) % 32 = 0) (h : s.load (Claims.cc s) (va (Claims.xs s rs1)) 32 false = .ok (bs, t)) :
    exec (.nestSet rs1) s = runSlot (fun _ => (match nestFault (BitVec.ofNat 256 (natOfBytes bs)) with
      | some c => Act.kept s (va (Claims.xs s rs1)) 32 (Act.trap 25 (wordOfNat c))
      | none => do
        Act.modSlot fun sl => { sl with nestDesc := BitVec.ofNat 256 (natOfBytes bs), nestst := nestWord 0 true 0 }
        Act.next : Act Unit) t) s := by
  refine runSlot_congr ?_
  change (ite _ _ _ : Act Unit) s = _
  rw [if_neg (show ¬va ((s.slot s.cur).xr rs1.toNat) % 32 ≠ 0 from not_not.2 ha)]
  exact (act_bind_ok (x := (get : Act State)) rfl).trans (act_bind_ok h)

variable (ha : va (Claims.xs s rs1) % 32 = 0) (h : s.load (Claims.cc s) (va (Claims.xs s rs1)) 32 false = .ok (bs, t))
include ha h

theorem nestSet_of_fault {c : Nat} (hf : nestFault (BitVec.ofNat 256 (natOfBytes bs)) = some c) :
    exec (.nestSet rs1) s = Claims.trapsRead s s (va (Claims.xs s rs1)) 32 25 (wordOfNat c) := by
  rw [exec_nestSet ha h, hf]
  exact runSlot_of_releaseFails rfl

theorem nestSet_of_good (hf : nestFault (BitVec.ofNat 256 (natOfBytes bs)) = none) :
    exec (.nestSet rs1) s = Claims.done t fun sl =>
      { sl with nestDesc := BitVec.ofNat 256 (natOfBytes bs), nestst := 0x80000000 } := by
  rw [exec_nestSet ha h, hf]
  rfl

end

/-! ### NEST.STAT -/

section
variable {s t : State} {rd : Reg} {bs : List Byte}

theorem nestStat_of_unloaded (h : wbit (s.slot s.cur).nestst 31 = false) : exec (.nestStat rd) s = Claims.result s rd 0 := by
  change execNestStat rd s = _
  refine runSlot_of_ok ?_
  change (ite _ _ _ : Act Unit) s = _
  rw [if_pos (by rw [h]; rfl)]
  rfl

theorem nestStat_of_loaded (h : wbit (s.slot s.cur).nestst 31 = true) (ha : nestCtr (s.slot s.cur).nestDesc % 8 = 0)
    (hr : s.readHome (Claims.cc s) (nestCtr (s.slot s.cur).nestDesc) 8 .load = .ok (bs, t)) :
    exec (.nestStat rd) s = Claims.result t rd (wordOfNat (nestTotal (s.slot s.cur).nestDesc * 2 ^ 32 +
      min (natOfBytes bs) (nestTotal (s.slot s.cur).nestDesc))) := by
  refine runSlot_of_ok ?_
  change (ite _ _ _ : Act Unit) s = _
  rw [if_neg (by rw [h]; exact Bool.false_ne_true)]
  rw [if_neg (not_not.2 ha)]
  exact act_bind_ok hr

end

/-! ### NEST.NEXT -/

theorem nestWord_loaded (left at_ : Nat) : nestWord left true at_ = wordOfNat (left % 2 ^ 31 * 2 ^ 32 + 2 ^ 31 + at_ % 2 ^ 31) := rfl

theorem nestWord_unloaded (left at_ : Nat) : nestWord left false at_ = wordOfNat (left % 2 ^ 31 * 2 ^ 32 + at_ % 2 ^ 31) := by
  simp [nestWord]

/-- A slot whose NEST.NEXT hands out the indices `xs` and leaves nestst as `st` (R139). -/
def Slot.nestGive (sl : Slot) (rd : Reg) (xs : List Word) (st : Word) : Slot :=
  { ((((sl.setX rd.toNat (xs.getD 0 0)).setX (rd.toNat + 1) (xs.getD 1 0)).setX (rd.toNat + 2) (xs.getD 2 0)).setX (rd.toNat + 3)
      (xs.getD 3 0)) with nestst := st }

theorem Slot.nestst_commit {sl : Slot} {target : Option Word} : (sl.commit target).nestst = sl.nestst := by
  obtain ⟨pc, rep, h⟩ := Slot.commit_frame (sl := sl) (target := target)
  rw [h]

section
variable {s t : State} {rd : Reg} {off : BitVec 17} {left at_ : Nat}

theorem nestGive_of_loaded (h : wbit (s.slot s.cur).nestst 31 = true) : Act.nestGive rd left at_ s =
    .ok ((), (s.modSlot s.cur fun sl => sl.nestGive rd (nestIndices (s.slot s.cur).nestDesc at_)
      (nestWord (left - 1) true (at_ + 1))).commit s.cur none) := by
  refine (act_bind_ok (x := Act.slot) rfl).trans ?_
  dsimp only
  rw [h]
  rfl

/-- With no descriptor loaded the indices are drawn, and nestst goes on all the same. -/
theorem nestGive_of_unloaded (h : wbit (s.slot s.cur).nestst 31 = false) : ∃ xs, Act.nestGive rd left at_ s =
    .ok ((), (State.modSlot { s with free := s.free + 4 } s.cur fun sl => sl.nestGive rd xs
      (nestWord (left - 1) false (at_ + 1))).commit s.cur none) := by
  refine ⟨(List.range 4).map fun i => Config.freeWord (s.free + i), (act_bind_ok (x := Act.slot) rfl).trans ?_⟩
  dsimp only
  rw [h]
  rfl

theorem nestst_of_give {xs : List Word} {st : Word} :
    (((s.modSlot s.cur fun sl => sl.nestGive rd xs st).commit s.cur none).slot s.cur).nestst = st := by
  rw [State.commit_slot, State.slot_modSlot_same]
  exact Slot.nestst_commit

theorem exec_nestNext_of_left (h : wbits (s.slot s.cur).nestst 62 32 ≠ 0) : exec (.nestNext rd off) s =
    runSlot (Act.nestGive rd (wbits (s.slot s.cur).nestst 62 32) (wbits (s.slot s.cur).nestst 30 0)) s := by
  refine runSlot_congr ?_
  change (ite _ _ _ : Act Unit) s = _
  rw [if_pos h]

variable (h : wbits (s.slot s.cur).nestst 62 32 = 0)
include h

theorem nestNext_of_unloaded (hd : wbit (s.slot s.cur).nestst 31 = false)
    (ha : (ownTarget (s.slot s.cur).at_ off).toNat % 4 = 0) :
    exec (.nestNext rd off) s = .next (s.commit s.cur (some (ownTarget (s.slot s.cur).at_ off))) := by
  have hact : exec (.nestNext rd off) s = runSlot (Act.jump (ownTarget (s.slot s.cur).at_ off)) s := by
    refine runSlot_congr ?_
    change (ite _ _ _ : Act Unit) s = _
    rw [if_neg (not_not.2 h)]
    rw [if_pos (by rw [hd]; rfl)]
  rw [hact, runSlot_jump s _ _ _ rfl rfl, if_pos ha]

variable (hd : wbit (s.slot s.cur).nestst 31 = true) (hm : s.earlierMember s.cur claimAddr = false)
  (hc : nestCtr (s.slot s.cur).nestDesc % 8 = 0) {n : Nat}
  (hr : s.rmw (Claims.cc s) (nestCtr (s.slot s.cur).nestDesc) 8 .amo (fun n =>
    if nestTotal (s.slot s.cur).nestDesc ≤ n then none else some (n + nestChunk (s.slot s.cur).nestDesc n)) = .ok (n, t))
include hd hm hc hr

/-- NEST.NEXT once its claim has been made: it branches where the claim is empty, else it hands out the first of its chunk. -/
theorem exec_nestNext_of_claim : exec (.nestNext rd off) s = runSlot (fun _ =>
    (if nestChunk (s.slot s.cur).nestDesc n = 0 then Act.jump (ownTarget (s.slot s.cur).at_ off)
      else Act.nestGive rd (nestChunk (s.slot s.cur).nestDesc n) n) t) s := by
  have hclaim : Act.claim (s.slot s.cur).nestDesc s = .ok ((n, nestChunk (s.slot s.cur).nestDesc n), t) := by
    change (ite _ _ _ : Act (Nat × Nat)) s = _
    rw [if_neg (not_not.2 hc)]
    exact act_bind_ok hr
  have horder : Act.memberOrder claimAddr s = .ok ((), s) := if_neg (by rw [hm]; exact Bool.false_ne_true)
  refine runSlot_congr ?_
  change (ite _ _ _ : Act Unit) s = _
  rw [if_neg (not_not.2 h)]
  rw [if_neg (by rw [hd]; exact Bool.false_ne_true)]
  exact (act_bind_ok horder).trans (act_bind_ok hclaim)

theorem nestNext_of_chunk (hn : nestChunk (s.slot s.cur).nestDesc n ≠ 0) (ht : t.slot t.cur = s.slot s.cur) :
    exec (.nestNext rd off) s =
      Claims.done t fun sl => sl.nestGive rd (nestIndices (s.slot s.cur).nestDesc n)
        (nestWord (nestChunk (s.slot s.cur).nestDesc n - 1) true (n + 1)) := by
  rw [exec_nestNext_of_claim h hd hm hc hr, if_neg hn]
  refine runSlot_of_ok ((nestGive_of_loaded (ht ▸ hd)).trans ?_)
  rw [ht]

theorem nestNext_of_no_chunk (hn : nestChunk (s.slot s.cur).nestDesc n = 0)
    (ha : (ownTarget (s.slot s.cur).at_ off).toNat % 4 = 0) :
    exec (.nestNext rd off) s = .next (t.commit t.cur (some (ownTarget (s.slot s.cur).at_ off))) := by
  rw [exec_nestNext_of_claim h hd hm hc hr, if_pos hn]
  exact runSlot_of_ok (if_neg (not_not.2 ha))

end

/-! ### The chunk of a claim -/

section
variable {d : BitVec 256} {c : Nat}

theorem pos_of_nestFault (h : nestFault d = none) : 0 < nestP d ∧ 0 < nestCmin d := by
  unfold nestFault at h
  split_ifs at h with _ _ hp hm
  exact ⟨Nat.pos_of_ne_zero hp, Nat.pos_of_ne_zero fun h0 => hm (.inl h0)⟩

theorem nestChunk_of_done (h : nestTotal d ≤ c) : nestChunk d c = 0 := if_pos h

theorem nestChunk_of_left (h : c < nestTotal d) :
    nestChunk d c = min (max (nestCmin d) (ceilDiv (nestTotal d - c) (nestP d))) (nestTotal d - c) := if_neg (not_le.2 h)

theorem le_mul_ceilDiv {a m : Nat} (hm : 0 < m) : a ≤ m * Sys2Proof.ceilDiv a m := by
  have h := Nat.lt_mul_div_succ (a + m - 1) hm
  unfold Sys2Proof.ceilDiv
  rw [Nat.mul_add] at h
  omega

/-- A chunk is not empty, within what is left, no smaller than the minimum or what is left, and a fair share of it. -/
theorem nestChunk_bounds (hf : nestFault d = none) (h : c < nestTotal d) : 0 < nestChunk d c ∧ c + nestChunk d c ≤ nestTotal d ∧
    min (nestCmin d) (nestTotal d - c) ≤ nestChunk d c ∧ nestTotal d - c ≤ nestP d * nestChunk d c := by
  obtain ⟨hp, hm⟩ := pos_of_nestFault hf
  have hshare := le_mul_ceilDiv (a := nestTotal d - c) hp
  rw [nestChunk_of_left h]
  refine ⟨by omega, by omega, by omega, ?_⟩
  rcases Nat.le_total (max (nestCmin d) (Sys2Proof.ceilDiv (nestTotal d - c) (nestP d))) (nestTotal d - c) with hle | hle
  · rw [Nat.min_eq_left hle]
    exact hshare.trans (Nat.mul_le_mul_left _ (Nat.le_max_right _ _))
  · rw [Nat.min_eq_right hle]
    exact Nat.le_mul_of_pos_left _ hp

end

/-- Settles O26: NEST.SET, NEST.STAT and NEST.NEXT by the cases of their checks, and the bounds of a chunk by its definition. -/
theorem iterationFetcher : Obligations.IterationFetcher := by
  refine ⟨fun s rd rs1 off => ?_, fun d c hf => ⟨nestChunk_of_done, nestChunk_bounds hf⟩⟩
  intro o a rem nxt d tgt t3 t2 t1 give
  have htgt : tgt = ownTarget o.at_ off := (ownTarget_eq _ _).symm
  clear_value tgt
  subst htgt
  have hgive (left at_ : Nat) : give left at_ = fun sl => sl.nestGive rd (nestIndices d at_) (nestWord (left - 1) true (at_ + 1)) := by
    simp only [nestWord_loaded]
    rfl
  clear_value give
  refine ⟨nestSet_of_misaligned, fun ha bs t hl => ⟨fun c => nestSet_of_fault ha hl, nestSet_of_good ha hl⟩, nestStat_of_unloaded,
    fun hd ha bs t => nestStat_of_loaded hd ha, fun hr hd => ?_, fun hr hd => ?_, fun hr hd hm hc n t hrmw =>
      ⟨fun hn ht => ?_, nestNext_of_no_chunk hr hd hm hc hrmw⟩, nestNext_of_unloaded⟩
  · rw [hgive]
    exact (exec_nestNext_of_left hr).trans (runSlot_of_ok (nestGive_of_loaded hd))
  · obtain ⟨xs, ht⟩ := nestGive_of_unloaded (rd := rd) (left := rem) (at_ := nxt) hd
    refine ⟨_, (exec_nestNext_of_left hr).trans (runSlot_of_ok ht), ?_⟩
    rw [← nestWord_unloaded]
    exact nestst_of_give (s := { s with free := s.free + 4 })
  · rw [hgive]
    exact nestNext_of_chunk hr hd hm hc hrmw hn ht

end Sys2Proof.Machine
end

section
/-!
SUPPORT. A repetition of a convoy's member that resumes (R129, R132): its lane counts from the iteration that repst names.
-/

namespace Sys2Proof.Machine

/-! ### A member whose repetition resumes -/

/-- ADDI x1, x1, 1. -/
def resumedWord : BitVec 32 := 0x00108093

/-- A lane whose one member, slot 0, has issued nothing yet. -/
def resumedLane : Lane :=
  { start := 0x1000, opened := 0, gather := false, nextSeq := 0, nextPc := none, stream := [], nextId := 1
    members := [{ id := 0, index := 0, slot := 0, seq := 0, iter := 0, sync := none, go := false }]
    pending := none, chosen := [], sync := none }

/-- Slot 0 is the member of lane 1 and stands after a return at its REPI, with 2 of 5 iterations done; the caravan holds the word at
p + 4, and the core may fetch it. -/
def resumedMember : State :=
  { State.reset with
    slots := [(0, { Slot.reset with run := .attached 1, pc := 0x1000, fresh := true, repst := 0x8000000000005002 })]
    cores := [(0, { Core.reset with ctx := some 0, plb := [(0, 0x800000000000283F)] })]
    cars := [(0, { Caravan.reset with ctx := some 0, lanes := [(1, resumedLane)], ic := [(0x401, resumedWord)] })] }

/-- The iteration at which the lane of slot 0 has it in a next state. -/
def memberIter : Host.Outcome State Fault Refusal → Option Nat
  | .next t => (t.laneOf 0).map fun e => e.2.2.iter
  | _ => none

theorem fetchFor_resumedMember : resumedMember.fetchFor 0 0x1004 = .ok (resumedWord, resumedMember) := rfl

theorem memberIter_repi : memberIter (exec (.repi 5 1 4) resumedMember) = some 2 := rfl

/-- Refutes O25: a member of a convoy whose REPI resumes at iteration 2 is at that iteration in its lane too, by which a CVSYNC counts
it (R162); the state that the statement names has the member at iteration 0. -/
theorem not_repeatPrefixes : ¬ Obligations.RepeatPrefixes := by
  rintro ⟨h, -⟩
  obtain ⟨-, -, h, -⟩ := h resumedMember resumedMember (.repi 5 1 4) 5 1 4 resumedWord (.addi 1 1 1) (.inl ⟨rfl, by decide⟩)
    fetchFor_resumedMember (by decide) (by decide) (by decide) (by decide)
  have hnext := congrArg memberIter (h (by decide) (by decide) (by decide))
  rw [memberIter_repi] at hnext
  exact absurd hnext (by decide)

end Sys2Proof.Machine
end

section
/-!
SUPPORT. The fault service, the stalls of a context and the supervisor's software interrupt (R129, R207, R400, R402, R403, R434).
-/

namespace Sys2Proof.Machine

/-! ### The service of a page -/

section
variable {s t : State} {ctx a : Nat} {o : Option (Nat × Word)}

theorem makePresent_of_leafPresent (hp : s.leafPresent a = true) (hm : s.makePresent a = some t) : t = s := by
  unfold State.leafPresent at hp
  unfold State.makePresent at hm
  split at hm
  · cases hm
  · next k hk =>
    rw [hk] at hp
    dsimp only at hp hm
    split at hm
    · cases hm
    · cases hm
      rfl

theorem servePage_of_present (hm : s.makePresent a ≠ none) (hp : s.leafPresent a = true) : s.servePage ctx a o = .done s := by
  obtain ⟨t, ht⟩ := Option.ne_none_iff_exists'.1 hm
  unfold State.servePage
  rw [ht]
  dsimp only
  rw [if_pos hp, makePresent_of_leafPresent hp ht]

/-- A page that is not present yet needs a frame. -/
theorem servePage_of_absent (hm : s.makePresent a ≠ none) (hp : s.leafPresent a = false) : s.servePage ctx a o =
    if (s.takeFrame ctx o).1 then .done (((s.takeFrame ctx o).2.makePresent a).getD (s.takeFrame ctx o).2)
    else .stalls (s.takeFrame ctx o).2 := by
  obtain ⟨t, ht⟩ := Option.ne_none_iff_exists'.1 hm
  unfold State.servePage
  rw [ht]
  dsimp only
  rw [if_neg (by rw [hp]; exact Bool.false_ne_true)]

theorem servePage_of_none (hm : s.makePresent a = none) : s.servePage ctx a o = .fails := by
  unfold State.servePage
  rw [hm]

end

/-! ### A fault record -/

/-- The page of a fault record. -/
def FaultRec.page (f : FaultRec) : Nat := f.info.addr.toNat % 2 ^ 56

/-- The instruction of a fault record, if it is the one that may use its context's progress reserve (R403). -/
def State.reserveOf (s : State) (f : FaultRec) : Option (Nat × Word) :=
  if s.reserveUser (s.ctxOf f.slot) = some (s.recordOf f) then some (s.recordOf f) else none

/-- The state in which the `k`th fault record has been reported. -/
def State.reported (s : State) (k : Nat) (f : FaultRec) : State :=
  { s with faults := s.faults.set k { f with told := true, stalled := none } }

/-- The records of a slot stall for a frame, from now on where they did not stall already (R403). -/
def State.stallFaults (s : State) (slot now : Nat) : State :=
  { s with faults := s.faults.map fun g => if g.slot = slot then { g with stalled := some (g.stalled.getD now) } else g }

/-- What becomes of a record by what the service can do about its page (R402, R403). -/
def State.concludeFault (s : State) (k : Nat) (f : FaultRec) : Service → State
  | .done t => t.resumeSlot f.slot
  | .stalls t => t.stallFaults f.slot s.now
  | .fails => (s.reported k f).faultEvent f

section
variable {s t : State} {k : Nat} {f : FaultRec}

/-- A record by whether it has been reported, whether the host has its page, and what the service can do. -/
theorem exec_faultRecord (hf : s.faults[k]? = some f) : exec (.faultRecord k) s = .next (
    if f.told then s
    else if s.hostOwned f.page then
      (s.reported k f).hostOnly (s.ctxOf f.slot) { kind := 2, pos := serviceOf (coreOf f.slot) } 12 0 f.info.addr 0 0
    else s.concludeFault k f (if f.info.reason = 0 then s.servePage (s.ctxOf f.slot) f.page (s.reserveOf f) else .fails)) := by
  change execFaultRecord k s = _
  unfold execFaultRecord
  rw [hf]
  rfl


theorem faultRecord_of_told (hf : s.faults[k]? = some f) (ht : f.told = true) : exec (.faultRecord k) s = .next s := by
  rw [exec_faultRecord hf, if_pos ht]

variable (hf : s.faults[k]? = some f) (ht : f.told = false)
include hf ht

theorem faultRecord_of_hostOwned (ho : s.hostOwned f.page = true) : exec (.faultRecord k) s =
    .next ((s.reported k f).hostOnly (s.ctxOf f.slot) { kind := 2, pos := serviceOf (coreOf f.slot) } 12 0 f.info.addr 0 0) := by
  rw [exec_faultRecord hf, if_neg (by simp [ht]), if_pos ho]

variable (ho : s.hostOwned f.page = false)
include ho

theorem faultRecord_of_fails (h : f.info.reason ≠ 0 ∨ s.makePresent f.page = none) :
    exec (.faultRecord k) s = .next ((s.reported k f).faultEvent f) := by
  have hserve : (if f.info.reason = 0 then s.servePage (s.ctxOf f.slot) f.page (s.reserveOf f) else .fails) = .fails := by
    rcases h with h | h
    · exact if_neg h
    · rw [servePage_of_none h, ite_self]
  rw [exec_faultRecord hf, if_neg (by simp [ht]), if_neg (by simp [ho]), hserve]
  rfl

variable (hr : f.info.reason = 0) (hm : s.makePresent f.page ≠ none)
include hr hm

theorem faultRecord_of_present (hp : s.leafPresent f.page = true) : exec (.faultRecord k) s = .next (s.resumeSlot f.slot) := by
  rw [exec_faultRecord hf, if_neg (by simp [ht]), if_neg (by simp [ho]), if_pos hr, servePage_of_present hm hp]
  rfl

variable (hp : s.leafPresent f.page = false)
include hp

theorem faultRecord_of_frame (hx : (s.takeFrame (s.ctxOf f.slot) (s.reserveOf f)).1 = true)
    (hmade : (s.takeFrame (s.ctxOf f.slot) (s.reserveOf f)).2.makePresent f.page = some t) :
    exec (.faultRecord k) s = .next (t.resumeSlot f.slot) := by
  rw [exec_faultRecord hf, if_neg (by simp [ht]), if_neg (by simp [ho]), if_pos hr, servePage_of_absent hm hp, if_pos hx, hmade]
  rfl

theorem faultRecord_of_no_frame (hx : (s.takeFrame (s.ctxOf f.slot) (s.reserveOf f)).1 = false) :
    exec (.faultRecord k) s = .next ((s.takeFrame (s.ctxOf f.slot) (s.reserveOf f)).2.stallFaults f.slot s.now) := by
  rw [exec_faultRecord hf, if_neg (by simp [ht]), if_neg (by simp [ho]), if_pos hr, servePage_of_absent hm hp, if_neg (by simp [hx])]
  rfl

end

/-! ### The progress reserve -/

section
variable {s : State} {k : Nat} {f : FaultRec} {rest : List FaultRec} {o : Nat × Word}

theorem reserveUser_of_oldest (h : (s.faults.filter fun f => (s.core (coreOf f.slot)).ctx == some k) = f :: rest)
    (hfor : (s.ctx k).reserveFor = none) : s.reserveUser k = some (f.slot, (s.slot f.slot).pc) := by
  unfold State.reserveUser
  rw [hfor, h]
  rfl

theorem takeFrame_of_free {oldest : Option (Nat × Word)} (h : Config.frameFree s.free = true) :
    s.takeFrame k oldest = (true, { s with free := s.free + 1 }) := if_pos h

theorem takeFrame_none (h : Config.frameFree s.free = false) : s.takeFrame k none = (false, { s with free := s.free + 1 }) :=
  if_neg (by simp [h])

/-- The frames of the reserve that an instruction may still take (R403, log 77). -/
def State.reserveLeft (s : State) (k : Nat) (o : Nat × Word) : Nat := if (s.ctx k).reserveFor = some o then (s.ctx k).reserve else 18

theorem takeFrame_reserve (h : Config.frameFree s.free = false) : s.takeFrame k (some o) =
    if s.reserveLeft k o = 0 then (false, { s with free := s.free + 1 })
    else (true, State.modCtx { s with free := s.free + 1 } k fun c => { c with reserve := s.reserveLeft k o - 1, reserveFor := some o }) :=
  if_neg (by simp [h])

theorem takeFrame_reserve_fst (h : Config.frameFree s.free = false) :
    (s.takeFrame k (some o)).1 = decide (s.reserveLeft k o ≠ 0) := by
  rw [takeFrame_reserve h]
  by_cases h0 : s.reserveLeft k o = 0
  · simp [h0]
  · simp [h0]

theorem takeFrame_reserve_ctx (h : Config.frameFree s.free = false) (h0 : s.reserveLeft k o ≠ 0) :
    (s.takeFrame k (some o)).2.ctx k = { s.ctx k with reserve := s.reserveLeft k o - 1, reserveFor := some o } := by
  rw [takeFrame_reserve h, if_neg h0]
  exact State.ctx_modCtx_same _ _ _

end

/-! ### Stalls -/

section
variable {s : State} {k : Nat}

theorem mem_stalls {from_ core : Nat} {addr : Word} : (from_, core, addr) ∈ s.stalls k ↔
    (∃ f ∈ s.faults, (s.core (coreOf f.slot)).ctx = some k ∧ f.stalled = some from_ ∧ core = coreOf f.slot ∧ addr = f.info.addr) ∨
    ((core, from_) ∈ (s.ctx k).spillWait ∧ s.spillFull k core = true ∧ s.mustSpill k core = true ∧ addr = 0) := by
  unfold State.stalls
  rw [List.mem_append, List.mem_filterMap, List.mem_map]
  refine or_congr (exists_congr fun f => and_congr_right fun _ => ?_) ⟨?_, ?_⟩
  · by_cases hc : (s.core (coreOf f.slot)).ctx = some k
    · simp [hc, eq_comm]
    · simp [hc]
  · rintro ⟨⟨c, a⟩, hx, h⟩
    cases h
    simpa [List.mem_filter] using hx
  · rintro ⟨hx, hfull, hmust, rfl⟩
    exact ⟨(core, from_), List.mem_filter.2 ⟨hx, by simp [hfull, hmust]⟩, rfl⟩

/-- One step of the search for the stall that began first. -/
def earlierStall (best : Option (Nat × Nat × Word)) (x : Nat × Nat × Word) : Option (Nat × Nat × Word) :=
  match best with
  | none => some x
  | some y => if x.1 < y.1 then some x else some y

theorem earlierStall_some (x y : Nat × Nat × Word) : earlierStall (some y) x = some (if x.1 < y.1 then x else y) :=
  (apply_ite some _ _ _).symm

/-- The search gives the first of the stalls it has seen. -/
theorem foldl_earlierStall (l : List (Nat × Nat × Word)) (y : Nat × Nat × Word) :
    ∃ x, l.foldl earlierStall (some y) = some x ∧ (x = y ∨ x ∈ l) ∧ x.1 ≤ y.1 ∧ ∀ z ∈ l, x.1 ≤ z.1 := by
  induction l generalizing y with
  | nil => exact ⟨y, rfl, .inl rfl, Nat.le_refl _, nofun⟩
  | cons z l ih =>
    rw [List.foldl_cons, earlierStall_some]
    obtain ⟨x, hx, hmem, hle, hall⟩ := ih (if z.1 < y.1 then z else y)
    have hz : (if z.1 < y.1 then z else y).1 ≤ z.1 ∧ (if z.1 < y.1 then z else y).1 ≤ y.1 := by split <;> omega
    refine ⟨x, hx, ?_, hle.trans hz.2, List.forall_mem_cons.2 ⟨hle.trans hz.1, hall⟩⟩
    rcases hmem with rfl | hmem
    · split
      · exact .inr List.mem_cons_self
      · exact .inl rfl
    · exact .inr (List.mem_cons_of_mem _ hmem)

theorem stall_eq_foldl : s.stall k = (s.stalls k).foldl earlierStall none := rfl

/-- The longest stall of a context is among its stalls, and none began earlier. -/
theorem stall_of_stalls {y : Nat × Nat × Word} {l : List (Nat × Nat × Word)} (h : s.stalls k = y :: l) :
    ∃ x, s.stall k = some x ∧ x ∈ s.stalls k ∧ ∀ z ∈ s.stalls k, x.1 ≤ z.1 := by
  rw [stall_eq_foldl, h]
  obtain ⟨x, hx, hmem, hle, hall⟩ := foldl_earlierStall l y
  refine ⟨x, hx, ?_, List.forall_mem_cons.2 ⟨hle, hall⟩⟩
  rcases hmem with rfl | hmem
  · exact List.mem_cons_self
  · exact List.mem_cons_of_mem _ hmem

theorem stall_eq_none : s.stall k = none ↔ s.stalls k = [] := by
  cases h : s.stalls k with
  | nil => simp [stall_eq_foldl, h]
  | cons y l =>
    obtain ⟨x, hx, -⟩ := stall_of_stalls h
    simp [hx]

theorem stall_longest {x : Nat × Nat × Word} (h : s.stall k = some x) : x ∈ s.stalls k ∧ ∀ y ∈ s.stalls k, x.1 ≤ y.1 := by
  cases hl : s.stalls k with
  | nil => rw [stall_eq_none.2 hl] at h; cases h
  | cons y l =>
    obtain ⟨x', hx, hall⟩ := stall_of_stalls hl
    rw [h] at hx
    cases hx
    rwa [hl] at hall

variable {from_ core : Nat} {addr : Word} (h : s.stall k = some (from_, core, addr))
include h

/-- The stall limit by whether it is reached, and the stall not yet reported. -/
theorem exec_stallLimitExpiry : exec (.stallLimitExpiry k) s = .next (
    if decide ((s.now - from_) / Config.cyclesPerMicro < (s.ctx k).stallLimit) || (s.ctx k).stalledAt == some from_ then s
    else (s.hostOnly k { kind := 2, pos := serviceOf core } 10 0 addr 0 (wordOfNat ((s.now - from_) / Config.cyclesPerMicro))).modCtx k
      fun c => { c with stalledAt := some from_ }) := by
  change execStallLimitExpiry k s = _
  unfold execStallLimitExpiry
  rw [h]
  rfl

theorem stallLimitExpiry_of_waits
    (hw : (s.now - from_) / Config.cyclesPerMicro < (s.ctx k).stallLimit ∨ (s.ctx k).stalledAt = some from_) :
    exec (.stallLimitExpiry k) s = .next s := by
  rw [exec_stallLimitExpiry h, if_pos (by simpa using hw)]

theorem stallLimitExpiry_of_reached (hl : (s.ctx k).stallLimit ≤ (s.now - from_) / Config.cyclesPerMicro)
    (hn : (s.ctx k).stalledAt ≠ some from_) : exec (.stallLimitExpiry k) s = .next
      ((s.hostOnly k { kind := 2, pos := serviceOf core } 10 0 addr 0 (wordOfNat ((s.now - from_) / Config.cyclesPerMicro))).modCtx k
        fun c => { c with stalledAt := some from_ }) := by
  rw [exec_stallLimitExpiry h, if_neg (by simp [hn, hl])]

end

/-! ### The software interrupt -/

section
variable {s : State} {k : Nat}

theorem interruptible_iff {sl : Slot} : sl.interruptible = true ↔
    wbit sl.sip 1 = true ∧ wbit sl.sie 1 = true ∧ (sl.priv = .u ∨ (sl.priv = .s ∧ wbit sl.sstatus 1 = true)) := by
  simp [Slot.interruptible, Slot.pending, and_assoc]

theorem priv_ne_m_of_interruptible {sl : Slot} (h : sl.interruptible = true) : sl.priv ≠ .m := by
  obtain ⟨-, -, h | ⟨h, -⟩⟩ := interruptible_iff.1 h
  · simp [h]
  · simp [h]

theorem softwareInterrupt_of_masked (h : ¬(s.slot k).interruptible = true) : exec (.softwareInterrupt k) s = .next s := by
  change execSoftwareInterrupt k s = _
  exact congrArg Host.Outcome.next (if_neg (by simp [h]))

/-- Where the slot waits for nothing, it goes to its handler. -/
theorem softwareInterrupt_of_running (hi : (s.slot k).interruptible = true) (hrun : (s.slot k).run = .stray)
    (hwait : (s.slot k).wait = .none) : exec (.softwareInterrupt k) s = .next (s.takeInterrupt k) := by
  change execSoftwareInterrupt k s = _
  have hb : (s.slot k).atBoundary = true := by simp [Slot.atBoundary, hrun, hwait]
  have hr : (s.slot k).running = true := by simp [Slot.running, hrun]
  unfold execSoftwareInterrupt
  dsimp only
  rw [if_pos (by simp [hi, hb]), hwait]
  dsimp only
  rw [if_pos hr]

/-- A WFI that the checker finds wrong twice fences the core before the interrupt is taken. -/
theorem softwareInterrupt_of_fenced (hi : (s.slot k).interruptible = true) (hb : (s.slot k).atBoundary = true)
    (hwait : (s.slot k).wait = .event) (hm : (s.slot k).mismatch = 2) (hf : ((s.fenceCore k).slot k).running = false) :
    exec (.softwareInterrupt k) s = .next (s.fenceCore k) := by
  change execSoftwareInterrupt k s = _
  have hretire : s.retire k = s.fenceCore k := if_pos hm
  unfold execSoftwareInterrupt
  dsimp only
  rw [if_pos (by simp [hi, hb]), hwait]
  dsimp only
  rw [hretire, if_neg (by simp [hf])]

/-- An interrupt is taken as a trap is, with bit 63 of its cause set (R400). -/
theorem takeInterrupt_eq : s.takeInterrupt k = s.takeTrap k (2 ^ 63 + 1) 0 := rfl

theorem Slot.stopRep_frame (sl : Slot) : ∃ rep fresh repst, sl.stopRep = { sl with rep, fresh, repst } := by
  unfold Slot.stopRep
  split
  · exact ⟨_, _, _, rfl⟩
  · exact ⟨_, _, _, rfl⟩

/-- The status register that an entry into S-mode leaves (R399). -/
theorem enterS_sstatus (sl : Slot) (cause tval : Word) (hp : sl.priv ≠ .m) :
    wbit (sl.enterS cause tval).sstatus 8 = decide (sl.priv = .s) ∧ wbit (sl.enterS cause tval).sstatus 5 = wbit sl.sstatus 1 ∧
    wbit (sl.enterS cause tval).sstatus 1 = false := by
  refine ⟨?_, ?_, ?_⟩
  · cases h : sl.priv with
    | u => simp [Slot.enterS, wbit_setBits, h]
    | s => simp [Slot.enterS, wbit_setBits, h]
    | m => exact absurd h hp
  · simpa [Slot.enterS, wbit_setBits] using wbit_wbits sl.sstatus 1
  · simp [Slot.enterS, wbit_setBits]

end

/-- Settles O48: a fault record by what the service can do about its page, the longest stall as the first of the stalls, and the interrupt
as a trap of its slot. -/
theorem faultServiceAndInterrupts : Obligations.FaultServiceAndInterrupts := by
  intro s k
  refine ⟨fun f hf => ⟨faultRecord_of_told hf, fun ht ho hr hm => ⟨faultRecord_of_present hf ht ho hr hm,
      fun hp hx t => faultRecord_of_frame hf ht ho hr hm hp hx, faultRecord_of_no_frame hf ht ho hr hm⟩,
      faultRecord_of_fails hf, faultRecord_of_hostOwned hf⟩,
    fun f rest => reserveUser_of_oldest, fun o => ⟨fun h => ?_, fun h => ⟨takeFrame_reserve_fst h, ?_, fun h0 => ?_⟩⟩,
    fun _ _ _ => mem_stalls, stall_eq_none, fun x => stall_longest,
    fun _ _ _ h => ⟨stallLimitExpiry_of_waits h, stallLimitExpiry_of_reached h⟩,
    fun h => softwareInterrupt_of_masked fun hi => h (interruptible_iff.1 hi), fun hon hk hrun hwait => ?_,
    softwareInterrupt_of_fenced⟩
  · rw [takeFrame_of_free h]
    exact ⟨rfl, rfl⟩
  · rw [takeFrame_none h]
  · rw [takeFrame_reserve_ctx h h0]
    exact ⟨rfl, rfl⟩
  · have hi := interruptible_iff.2 hon
    refine ⟨_, softwareInterrupt_of_running hi hrun hwait, ?_⟩
    rw [takeInterrupt_eq]
    obtain ⟨rep, fresh, repst, hstop⟩ := Slot.stopRep_frame (s.slot k)
    have hslot := State.takeTrap_slot (s := s) (cause := 2 ^ 63 + 1) (tval := 0) hk
    rw [hstop] at hslot
    obtain ⟨hspp, hspie, hsie⟩ := enterS_sstatus { s.slot k with rep, fresh, repst, run := .stray, wait := .none }
      (wordOfNat (2 ^ 63 + 1)) 0 (priv_ne_m_of_interruptible hi)
    dsimp only
    rw [hslot]
    exact ⟨rfl, rfl, rfl, rfl, rfl, rfl, hspp, hspie, hsie, rfl, rfl, fun j => State.takeTrap_other⟩

end Sys2Proof.Machine
end

section
/-!
SUPPORT. JOIN, LEAVE, CVSYNC and CVSTAT (R151, R155, R157 to R163): which slot executes stays the same while waiting
strays are served; what a JOIN does by what it finds then; and what a cycle begins with in a lane.
-/

namespace Sys2Proof.Machine

/-! ### The executing slot while waiting strays are served -/

section
variable {s : State} {k c n target seq : Nat} {l : Lane} {cs : List Nat}

theorem State.setLane_cur : (s.setLane c n l).cur = s.cur := by rw [(State.setLane_sameButConvoy (k := 0)).rest]

theorem State.leave_cur : (s.leave k).cur = s.cur := by rw [State.leave_sameButConvoy.rest]

theorem State.attach_cur : (s.attach k n l seq).cur = s.cur := State.setLane_cur

theorem State.writeThrough_cur {ws : Sparse L1Word} :
    (ws.foldl (fun s e => (s.wtWord c (4 * e.1)).toOption.getD s) s).cur = s.cur := by
  refine foldl_keeps (fun t : State => t.cur = s.cur) _ _ (fun u e hu => ?_) rfl
  cases hw : u.wtWord c (4 * e.1) with
  | ok w => exact (State.wtWord_sameSlots hw).2.trans hu
  | error => exact hu

theorem State.flushL1s_cur : (s.flushL1s cs).cur = s.cur := by
  unfold State.flushL1s
  refine foldl_keeps (fun t : State => t.cur = s.cur) cs _ (fun u c hu => ?_) rfl
  rw [State.modCore_cur, State.writeThrough_cur, hu]

theorem State.unfuse_cur (ctx : Nat) : (s.unfuse ctx c).cur = s.cur := by
  unfold State.unfuse
  split
  · rw [State.modCar_cur, State.flushL1s_cur]
  · rfl

theorem State.cancelSlice_cur (ctx : Nat) : (s.cancelSlice ctx).cur = s.cur := by
  unfold State.cancelSlice
  dsimp only
  split
  · rfl
  · rfl

/-- What is told to launches leaves the executing slot. -/
theorem State.modLaunches_cur {ids : List Nat} {ctx : Nat} {f : Nat → Running → Running} :
    (ids.foldl (fun s id => s.modLaunch ctx id (f id)) s).cur = s.cur :=
  foldl_keeps (fun t : State => t.cur = s.cur) ids (fun s id => s.modLaunch ctx id (f id)) (fun _ _ h => h) rfl

theorem State.endFiring_cur (killed : Bool) : (s.endFiring k killed).cur = s.cur :=
  (State.cancelSlice_cur _).trans ((State.unfuse_cur _).trans (State.modLaunches_cur.trans State.leave_cur))

theorem State.killFiring_cur (cause : Nat) (addr : Word) : (s.killFiring k cause addr).cur = s.cur := by
  unfold State.killFiring
  dsimp only
  split
  · rfl
  · split
    · exact (State.unfuse_cur _).trans (State.modLaunches_cur.trans State.leave_cur)
    · exact (State.event_sameSlots ..).2.trans (State.endFiring_cur true)

theorem State.fenceCore_cur : (s.fenceCore k).cur = s.cur :=
  (State.event_sameSlots ..).2.trans
    (foldl_keeps (fun t : State => t.cur = s.cur) _ _ (fun _ _ h => (State.killFiring_cur _ _).trans h) rfl)

theorem State.joinNow_cur : (s.joinNow k target n l seq).cur = s.cur := by
  unfold State.joinNow
  split
  · rfl
  · split
    · exact State.fenceCore_cur
    · exact State.attach_cur

theorem State.joinExisting_cur : (s.joinExisting c).cur = s.cur := by
  refine foldl_keeps (fun t : State => t.cur = s.cur) _ _ (fun u e hu => ?_) rfl
  split
  · exact State.joinNow_cur.trans hu
  · exact hu

theorem State.joinOpen_cur : (s.joinOpen c).cur = s.cur := by
  unfold State.joinOpen
  split
  · refine foldl_keeps (fun t : State => t.cur = s.cur) _ _ (fun u e hu => ?_) rfl
    split
    · exact State.joinNow_cur.trans hu
    · exact State.joinNow_cur.trans hu
  · rfl

theorem State.serveJoins_cur : (s.serveJoins c).cur = s.cur := by
  unfold State.serveJoins
  split
  · rfl
  · exact foldl_keeps (fun t : State => t.cur = s.cur) _ _ (fun _ _ h => State.joinOpen_cur.trans h) State.joinExisting_cur

end

/-! ### JOIN and JOIN.T -/

/-- A JOIN of slot `k` attaches it to a lane, or opens the lane with it (R158). -/
def State.joinTo (s : State) (k target n : Nat) (l : Lane) (seq : Nat) : State :=
  (s.attach k n l seq).modSlot k fun sl => { sl with pc := wordOfNat target, instret := sl.instret + 1, wait := .none, jt := false }

/-- Whether a waiting stray of a caravan has a lower target (R158). -/
def State.lowerWaits (s : State) (car target : Nat) : Bool := (s.joiners car).any fun e => decide (e.2 < target)

/-- A JOIN that finds no place (R158). -/
def State.joinLater (s : State) (target : Nat) (test : Bool) : State :=
  if test then (s.modSlot s.cur fun sl => { sl with jt := true }).commit s.cur none
  else s.modSlot s.cur fun sl => { sl with run := .joinWait target }

/-- The rest of JOIN and JOIN.T by slot `k`, once the waiting strays have been served (R158). -/
def State.joinServed (s : State) (k target : Nat) (test : Bool) : State :=
  match s.convoyAt (carOf k) target with
  | some (n, l, q) => s.joinTo k target n l q
  | none =>
    match s.freeLane (carOf k), s.lowerWaits (carOf k) target with
    | some n, false => s.joinTo k target n (s.newLane (carOf k) target) 0
    | _, _ => s.joinLater target test

section
variable {s : State} {off : BitVec 17} {test : Bool} {k target n q : Nat} {l : Lane}

theorem joinOp_of_refused (h : (s.laneOf s.cur).isSome = true ∨ (s.slot s.cur).priv ≠ .u) :
    Act.joinOp off test s = .error (.trap 26 1) := by
  change (ite _ _ _ : Act Unit) s = _
  rw [if_pos (by simpa using h)]
  rfl

theorem joinOp_of_admitted (hl : s.laneOf s.cur = none) (hp : (s.slot s.cur).priv = .u) :
    Act.joinOp off test s =
      .ok ((), (s.serveJoins (carOf s.cur)).joinServed s.cur (ownTarget (s.slot s.cur).at_ off).toNat test) := by
  change (ite _ _ _ : Act Unit) s = _
  rw [if_neg (by simp [hl, hp]), act_bind_ok (x := Act.mod _) (a := ()) rfl, act_bind_ok (x := get) rfl]
  generalize s.serveJoins (carOf s.cur) = u
  unfold State.joinServed State.lowerWaits
  cases u.convoyAt (carOf s.cur) (ownTarget (s.slot s.cur).at_ off).toNat with
  | some e => rfl
  | none =>
    cases u.freeLane (carOf s.cur) with
    | none => cases test with
      | true => rfl
      | false => rfl
    | some n =>
      dsimp only
      cases (u.joiners (carOf s.cur)).any fun e => decide (e.2 < (ownTarget (s.slot s.cur).at_ off).toNat) with
      | false => rfl
      | true => cases test with
        | true => rfl
        | false => rfl

theorem State.joinServed_of_convoy (h : s.convoyAt (carOf k) target = some (n, l, q)) :
    s.joinServed k target test = s.joinTo k target n l q := by
  unfold State.joinServed
  rw [h]

theorem State.joinServed_of_free (h : s.convoyAt (carOf k) target = none) (hf : s.freeLane (carOf k) = some n)
    (hw : s.lowerWaits (carOf k) target = false) :
    s.joinServed k target test = s.joinTo k target n (s.newLane (carOf k) target) 0 := by
  unfold State.joinServed
  rw [h, hf, hw]

theorem State.joinServed_of_no_place (h : s.convoyAt (carOf k) target = none)
    (hf : s.freeLane (carOf k) = none ∨ s.lowerWaits (carOf k) target = true) :
    s.joinServed k target test = s.joinLater target test := by
  unfold State.joinServed
  rw [h]
  rcases hf with hf | hf
  · rw [hf]
  · rw [hf]
    cases s.freeLane (carOf k) with
    | none => rfl
    | some => rfl

end

/-! ### LEAVE and CVSYNC -/

section
variable {s : State} {k : Nat}

theorem exec_leave {t : State} (ht : s.commit s.cur none = t) : exec .leave s = .next (match t.laneOf t.cur with
    | some _ => (t.leave t.cur).modSlot t.cur fun sl => { sl with run := .stray }
    | none => t) := by
  subst ht
  rfl

theorem exec_cvsync : exec .cvsync s =
    .next ((s.commit s.cur none).holdAt (s.commit s.cur none).cur (s.slot s.cur).rep) := rfl

theorem State.holdAt_of_laneOf (rep : Option RepRun) (h : s.laneOf k = none) : s.holdAt k rep = s := by
  unfold State.holdAt State.modMember
  rw [h]

theorem State.canIssue_of_syncHeld (h : s.syncHeld k = true) : s.canIssue k = false := by
  simp [State.canIssue, State.mayIssue, State.slotReady, h]

end

/-! ### What a cycle begins with in a lane -/

section
variable {α : Type}

theorem sget_smap (f : Nat → α → α) (d : α) (m : Sparse α) (k : Nat) (hd : f k d = d) : sget d (smap f m) k = f k (sget d m k) := by
  induction m with
  | nil => exact hd.symm
  | cons e m ih =>
    change (if e.1 = k then f e.1 e.2 else sget d (smap f m) k) = f k (if e.1 = k then e.2 else sget d m k)
    split
    · next h => rw [h]
    · exact ih

theorem sfind_smap (f : Nat → α → α) (m : Sparse α) (k : Nat) : sfind (smap f m) k = (sfind m k).map (f k) := by
  induction m with
  | nil => rfl
  | cons e m ih =>
    change (if e.1 = k then some (f e.1 e.2) else sfind (smap f m) k) = (if e.1 = k then some e.2 else sfind m k).map (f k)
    split
    · next h => rw [h]; rfl
    · exact ih

end

section
variable {s : State} {l : Lane} {car n q : Nat}

theorem State.settleLanes_lanes : (s.settleLanes.car car).lanes = smap (fun _ l => l.settle) (s.car car).lanes := by
  unfold State.car State.settleLanes
  rw [sget_smap _ _ _ _ rfl]

theorem State.freed_of_freeLane (h : s.freeLane car = some n) : (car, n) ∉ s.freed := by
  obtain ⟨-, hfreed⟩ : shas (s.car car).lanes n = false ∧ (car, n) ∉ s.freed := by simpa using List.find?_some h
  exact hfreed

theorem Lane.release_all_passed : (l.release.members.all fun m => decide (q < m.seq)) = l.members.all fun m => decide (q < m.seq) := by
  simp only [Lane.release, List.all_map]
  congr 1
  funext m
  simp only [Function.comp]
  split <;> rfl

/-- Whether a CVSYNC lets its lane go on or not, the members that waited long enough are let go. -/
theorem Lane.settle_members : l.settle.members = l.release.members := by
  unfold Lane.settle
  dsimp only
  split
  · split
    · rfl
    · rfl
  · rfl

theorem Lane.settle_of_passed (hq : l.sync = some q) (h : ∀ m ∈ l.members, q < m.seq) :
    l.settle = { l.release with sync := none, nextPc := some ((((sfind l.stream q).map (·.pc)).getD 0 + 4) % 2 ^ 64) } := by
  have hr : l.release.sync = some q := hq
  unfold Lane.settle
  dsimp only
  rw [hr]
  dsimp only
  rw [Lane.release_all_passed, if_pos (by simpa using h)]
  rfl

theorem Lane.settle_of_held (h : ∀ q, l.sync = some q → ∃ m ∈ l.members, m.seq ≤ q) : l.settle = l.release := by
  unfold Lane.settle
  dsimp only
  split
  · next q hq =>
    obtain ⟨m, hm, hle⟩ := h q hq
    rw [Lane.release_all_passed, if_neg]
    simp only [List.all_eq_true, decide_eq_true_eq]
    exact fun hall => absurd (hall m hm) (by omega)
  · rfl

theorem Lane.release_members : l.release.members = l.members.map (fun x =>
    if x.sync.isSome && l.members.all (fun y => decide (x.seq < y.seq ∨ (x.seq = y.seq ∧ x.iter ≤ y.iter)))
    then { x with sync := none, go := true } else x) := by
  have hreach (x y : Member) : y.reached x = decide (x.seq < y.seq ∨ (x.seq = y.seq ∧ x.iter ≤ y.iter)) := by
    simp [Member.reached, beq_eq_decide]
  simp only [Lane.release, hreach]

end

/-! ### The lowest of some numbers -/

section
variable {α : Type} (f : α → Nat)

theorem le_foldl_min {xs : List α} {a b : Nat} (ha : b ≤ a) (h : ∀ x ∈ xs, b ≤ f x) : b ≤ xs.foldl (fun a x => min a (f x)) a :=
  List.foldlRecOn (motive := fun c => b ≤ c) xs _ ha fun _ hc x hx => le_min hc (h x hx)

theorem foldl_min_le (xs : List α) (a : Nat) :
    xs.foldl (fun a x => min a (f x)) a ≤ a ∧ ∀ x ∈ xs, xs.foldl (fun a x => min a (f x)) a ≤ f x := by
  induction xs generalizing a with
  | nil => simp
  | cons y ys ih =>
    obtain ⟨ha, hys⟩ := ih (min a (f y))
    refine ⟨ha.trans (min_le_left _ _), fun x hx => ?_⟩
    rcases List.mem_cons.1 hx with rfl | hx
    · exact ha.trans (min_le_right _ _)
    · exact hys x hx

theorem foldl_min_eq (xs : List α) (a : Nat) :
    xs.foldl (fun a x => min a (f x)) a = a ∨ ∃ x ∈ xs, f x = xs.foldl (fun a x => min a (f x)) a := by
  refine List.foldlRecOn (motive := fun b => b = a ∨ ∃ x ∈ xs, f x = b) xs _ (.inl rfl) fun b hb x hx => ?_
  rcases min_choice b (f x) with h | h
  · rwa [h]
  · exact .inr ⟨x, hx, h.symm⟩

end

/-! ### CVSTAT -/

theorem wbits_wordOfNat {v h l : Nat} (hh : h < 64) : wbits (wordOfNat v) h l = v / 2 ^ l % 2 ^ (h + 1 - l) := by
  refine Nat.eq_of_testBit_eq fun i => ?_
  rw [testBit_wbits, Nat.testBit_mod_two_pow, Nat.testBit_div_two_pow, wbit, wordOfNat, BitVec.toNat_ofNat, Nat.testBit_mod_two_pow]
  by_cases hi : i < h + 1 - l
  · rw [show decide (l + i < 64) = true by simp; omega, Bool.true_and, Nat.add_comm l i]
  · simp [hi]

/-- The value of CVSTAT for a member (R163). -/
def cvstatValue (ids drift index n : Nat) : Nat := ids * 2 ^ 32 + 32 * 2 ^ 26 + drift * 2 ^ 20 + index * 2 ^ 15 + n * 2 ^ 13 + 1

/-- Each field of CVSTAT's value holds what is put there, where it fits. -/
theorem cvstatValue_fields {ids drift index n : Nat} (hn : n < 4) (hindex : index < 32) (hdrift : drift ≤ 32) (hids : ids < 2 ^ 32) :
    let v := wordOfNat (cvstatValue ids drift index n)
    wbit v 0 = true ∧ wbits v 12 1 = 0 ∧ wbits v 14 13 = n ∧ wbits v 19 15 = index ∧ wbits v 31 26 = 32 ∧ wbits v 63 32 = ids ∧
      wbits v 25 20 = drift := by
  dsimp only
  rw [← wbit_wbits]
  simp only [wbits_wordOfNat, cvstatValue, Nat.reduceLT, Nat.testBit_zero, decide_eq_true_eq]
  omega

section
variable {s : State} {l : Lane} {m : Member} {rd : Reg} {k n : Nat}

/-- The drift of a convoy, as CVSTAT computes it (R148, R163). -/
def Lane.drift (l : Lane) : Nat := l.maxSeq - l.members.foldl (fun a x => min a x.seq) l.maxSeq

theorem Lane.drift_le (h : ∀ x ∈ l.members, l.maxSeq ≤ x.seq + 32) : l.drift ≤ 32 := by
  have hmin : l.maxSeq - 32 ≤ l.members.foldl (fun a x => min a x.seq) l.maxSeq :=
    le_foldl_min _ (Nat.sub_le _ _) fun x hx => Nat.sub_le_of_le_add (h x hx)
  unfold Lane.drift
  omega

/-- The package with the caravans as the cycle found them (R163). -/
def State.asBegun (s : State) : State := { s with cars := s.before.getD s.cars }

theorem State.cvstat_of_stray (h : s.asBegun.laneOf k = none) : s.cvstat k = 0x80000000 := by
  unfold State.asBegun at h
  unfold State.cvstat
  rw [h]

theorem State.cvstat_of_member (h : s.asBegun.laneOf k = some (n, l, m)) :
    s.cvstat k = wordOfNat (cvstatValue (l.members.foldl (fun a x => a + 2 ^ x.index) 0) l.drift m.index n) := by
  unfold State.asBegun at h
  unfold State.cvstat
  rw [h]
  rfl

theorem exec_cvstat : exec (.cvstat rd) s = Claims.result s rd (s.cvstat s.cur) := rfl

end

/-- Settles O27: JOIN by what it finds once the waiting strays are served, LEAVE and CVSYNC by whether the slot is in a convoy after
their commit, a lane by whether every member is past its CVSYNC, and CVSTAT's fields where each fits. -/
theorem joinAndLeave : Obligations.JoinAndLeave := by
  refine ⟨fun s off i test hi => ?_, fun s rd => ⟨fun h => ?_, fun h => ?_, fun h => ?_, fun n l m h hrep => ?_,
    fun k => State.canIssue_of_syncHeld, fun car n l h => ⟨?_, ?_, fun q hq hall => ?_, fun hheld => ?_⟩, rfl,
    fun car n => State.freed_of_freeLane, fun h => ?_, fun n l m h => ⟨_, exec_cvstat, fun hn hindex hids hdrift => ?_⟩⟩⟩
  · have hexec : exec i s = runSlot (Act.joinOp off test) s := by
      rcases hi with hi | hi
      · cases hi; rfl
      · cases hi; rfl
    dsimp only
    rw [hexec, ← ownTarget_eq]
    refine ⟨fun h => runSlot_of_trap (joinOp_of_refused h), fun hl hp n l q hc => ?_, fun hl hp hc n hf hw => ?_, fun hl hp hc hf => ?_⟩
    · exact (runSlot_of_ok (joinOp_of_admitted hl hp)).trans (congrArg _ (State.joinServed_of_convoy hc))
    · exact (runSlot_of_ok (joinOp_of_admitted hl hp)).trans (congrArg _ (State.joinServed_of_free hc hf hw))
    · refine (runSlot_of_ok (joinOp_of_admitted hl hp)).trans ((congrArg _ (State.joinServed_of_no_place hc hf)).trans ?_)
      cases test with
      | true => rfl
      | false =>
        unfold State.joinLater
        rw [State.serveJoins_cur]
        rfl
  · rw [exec_leave rfl, h]
  · obtain ⟨x, hx⟩ := Option.isSome_iff_exists.1 h
    rw [exec_leave rfl, hx]
  · rw [exec_cvsync, State.holdAt_of_laneOf _ h]
  · rw [exec_cvsync, hrep]
    rfl
  · rw [State.settleLanes_lanes, sfind_smap, h]
    rfl
  · rw [Lane.settle_members, Lane.release_members]
  · rw [Lane.settle_of_passed hq hall]
    exact ⟨rfl, fun d hd => by rw [hd]; rfl⟩
  · rw [Lane.settle_of_held hheld]
    exact ⟨rfl, rfl⟩
  · rw [exec_cvstat, State.cvstat_of_stray h]
  · rw [State.cvstat_of_member h]
    exact cvstatValue_fields hn hindex (Lane.drift_le hdrift) hids

end Sys2Proof.Machine
end

section
/-!
SUPPORT. What a convoy lane does by itself (R147, R149, R150, R159): the end of its gathering window, the choice of its next PC, and the
convoy that a waiting JOIN opens.
-/

namespace Sys2Proof.Machine

/-! ### The resolution of a transfer -/

/-- The memberships that a pending resolution concerns (R149). -/
def Lane.concernedIds (l : Lane) : List Nat := (l.pending.map (·.concerned)).getD []

/-- The members, of those that have issued the transfer, that have a part in the choice (R150, log 80). -/
def Lane.voters (l : Lane) (dn : List Member) : List Member :=
  let vs := dn.filter fun m => l.concernedIds.contains m.id
  if vs.isEmpty then dn else vs

/-- The next PC that a member reports (R150). -/
def State.pcOf (s : State) (m : Member) : Nat := (s.slot m.slot).pc.toNat

/-- The next PC of a lane that resolves (R150). -/
def State.lowPc (s : State) (l : Lane) (dn : List Member) : Nat := (l.voters dn).foldl (fun a m => min a (s.pcOf m)) (2 ^ 64)

/-- The members that become strays as a lane resolves (R150). -/
def State.diverged (s : State) (l : Lane) (dn : List Member) : List Member := dn.filter fun m => s.pcOf m ≠ s.lowPc l dn

/-- A lane that has resolved (R150). -/
def State.resolvedLane (s : State) (l : Lane) (q : Nat) (dn : List Member) : Lane :=
  { l with nextPc := some (s.lowPc l dn), pending := none, chosen := sset l.chosen q (s.lowPc l dn),
           members := l.members.filter fun m => !(s.diverged l dn).contains m }

/-- The slots of some members go on as strays. -/
def State.strayAll (s : State) (ms : List Member) : State :=
  ms.foldl (fun s m => s.modSlot m.slot fun sl => { sl with run := .stray }) s

section
variable {s : State} {l : Lane} {m : Member} {dn ms : List Member} {car lane q k : Nat}

theorem exec_convoyGatherEnd (hl : sfind (s.car car).lanes lane = some l) (h : l.opened + 16 ≤ s.coreCycle (8 * car)) :
    exec (.convoyGatherEnd car lane) s =
      .next (s.modCar car fun c => { c with lanes := sset c.lanes lane { l with gather := false } }) := by
  change execConvoyGatherEnd car lane s = _
  unfold execConvoyGatherEnd
  rw [hl]
  dsimp only
  rw [if_pos h]

theorem exec_laneResolve (hl : sfind (s.car car).lanes lane = some l) (hr : l.resolved = some (q, dn)) :
    exec (.laneResolve car lane) s = .next ((s.setLane car lane (s.resolvedLane l q dn)).strayAll (s.diverged l dn)) := by
  change execLaneResolve car lane s = _
  unfold execLaneResolve
  rw [hl]
  dsimp only
  rw [hr]
  rfl

/-- Those that have issued the transfer are members, and there is one. -/
theorem Lane.resolved_done (h : l.resolved = some (q, dn)) : dn ≠ [] ∧ ∀ m ∈ dn, m ∈ l.members := by
  unfold Lane.resolved at h
  split at h
  · cases h
  · dsimp only at h
    split at h
    · next hc =>
      cases h
      refine ⟨fun hn => ?_, fun m hm => List.mem_of_mem_filter hm⟩
      simp [hn] at hc
    · cases h

theorem Lane.mem_done_of_mem_voters (h : m ∈ l.voters dn) : m ∈ dn := by
  unfold Lane.voters at h
  dsimp only at h
  split at h
  · exact h
  · exact List.mem_of_mem_filter h

theorem Lane.voters_ne_nil (h : dn ≠ []) : l.voters dn ≠ [] := by
  unfold Lane.voters
  dsimp only
  split
  · exact h
  · next hv => simpa using hv

theorem Lane.mem_voters (hm : m ∈ dn) (h : m.id ∈ l.concernedIds ∨ ∀ x ∈ dn, x.id ∉ l.concernedIds) : m ∈ l.voters dn := by
  unfold Lane.voters
  dsimp only
  split
  · exact hm
  · next hv =>
    refine List.mem_filter.2 ⟨hm, ?_⟩
    rcases h with h | h
    · simpa using h
    · obtain ⟨x, hx, hid⟩ : ∃ x ∈ dn, x.id ∈ l.concernedIds := by simpa using hv
      exact absurd hid (h x hx)

theorem State.lowPc_le (h : m ∈ l.voters dn) : s.lowPc l dn ≤ s.pcOf m := (foldl_min_le s.pcOf _ _).2 m h

theorem State.exists_lowPc (h : dn ≠ []) : ∃ m ∈ dn, s.pcOf m = s.lowPc l dn := by
  rcases foldl_min_eq s.pcOf (l.voters dn) (2 ^ 64) with h64 | ⟨m, hm, hlow⟩
  · obtain ⟨m, hm⟩ := List.exists_mem_of_ne_nil _ (Lane.voters_ne_nil (l := l) h)
    have hle : s.lowPc l dn ≤ s.pcOf m := State.lowPc_le hm
    have hlt : s.pcOf m < 2 ^ 64 := (s.slot m.slot).pc.isLt
    rw [State.lowPc, h64] at hle
    exact absurd hle (by omega)
  · exact ⟨m, Lane.mem_done_of_mem_voters hm, hlow⟩

theorem State.mem_diverged : m ∈ s.diverged l dn ↔ m ∈ dn ∧ s.pcOf m ≠ s.lowPc l dn := by simp [State.diverged]

theorem State.mem_resolvedLane : m ∈ (s.resolvedLane l q dn).members ↔ m ∈ l.members ∧ m ∉ s.diverged l dn := by
  simp [State.resolvedLane]

theorem State.strayAll_cars : (s.strayAll ms).cars = s.cars := 
  foldl_keeps (fun t : State => t.cars = s.cars) ms (fun s m => s.modSlot m.slot fun sl => { sl with run := .stray }) (fun _ _ h => h) rfl

theorem State.strayAll_keeps (h : (s.slot k).run = .stray) : ((s.strayAll ms).slot k).run = .stray := by
  refine foldl_keeps (fun t : State => (t.slot k).run = .stray) _ _ (fun t m ht => ?_) h
  by_cases hk : k = m.slot
  · rw [← hk, State.slot_modSlot_same]
  · rwa [State.slot_modSlot_other _ _ hk]

theorem State.strayAll_run (h : m ∈ ms) : ((s.strayAll ms).slot m.slot).run = .stray := by
  induction ms generalizing s with
  | nil => cases h
  | cons x xs ih =>
    rcases List.mem_cons.1 h with rfl | h
    · refine State.strayAll_keeps (s := s.modSlot m.slot fun sl => { sl with run := .stray }) ?_
      rw [State.slot_modSlot_same]
    · exact ih h

theorem State.setLane_of_mem (h : m ∈ l.members) : s.setLane car lane l = s.modCar car fun c => { c with lanes := sset c.lanes lane l } := by
  unfold State.setLane
  rw [if_neg fun he => List.ne_nil_of_mem h (List.isEmpty_iff.1 he)]

theorem State.sfind_setLane (h : m ∈ l.members) : sfind ((s.setLane car lane l).car car).lanes lane = some l := by
  rw [State.setLane_of_mem h, State.car_modCar, if_pos rfl, sfind_sset, if_pos rfl]

end

/-! ### A waiting JOIN -/

section
variable {s : State} {k n car tgt q : Nat} {l : Lane}

theorem State.mem_joiners : (k, tgt) ∈ s.joiners car ↔ carOf k = car ∧ (s.slot k).run = .joinWait tgt := by
  unfold State.joiners carOf
  simp only [List.mem_filterMap, List.mem_range]
  constructor
  · rintro ⟨i, hi, h⟩
    split at h
    · next t ht =>
      cases h
      exact ⟨by omega, ht⟩
    all_goals cases h
  · rintro ⟨hk, h⟩
    refine ⟨k % 32, Nat.mod_lt _ (by decide), ?_⟩
    rw [show 32 * car + k % 32 = k by omega, h]

theorem State.sfind_of_freeLane (h : s.freeLane car = some n) : sfind (s.car car).lanes n = none := by
  obtain ⟨hfree, -⟩ : sfind (s.car car).lanes n = none ∧ (car, n) ∉ s.freed := by simpa [shas_eq_isSome] using List.find?_some h
  exact hfree

theorem State.attach_slots : (s.attach k n l q).slots = (s.modSlot k fun sl => { sl with run := .attached n }).slots := by
  unfold State.attach State.setLane
  split
  · rfl
  · rfl

theorem State.joinNow_of_waits (hw : (s.slot k).run = .joinWait tgt) (hm : (s.slot k).mismatch ≠ 2) :
    s.joinNow k tgt n l q = (s.attach k n l q).modSlot k fun sl => { sl.joined tgt with mismatch := 0 } := by
  unfold State.joinNow
  rw [if_neg (not_not.2 hw), if_neg hm]

theorem State.joinNow_other {j : Nat} (hw : (s.slot k).run = .joinWait tgt) (hm : (s.slot k).mismatch ≠ 2) (hj : j ≠ k) :
    (s.joinNow k tgt n l q).slot j = s.slot j := by
  rw [State.joinNow_of_waits hw hm, State.slot_modSlot_other _ _ hj, State.slot, State.attach_slots]
  exact State.slot_modSlot_other _ _ hj

theorem State.joinNow_slot (hw : (s.slot k).run = .joinWait tgt) (hm : (s.slot k).mismatch ≠ 2) :
    ((s.joinNow k tgt n l q).slot k).run = .attached n ∧ ((s.joinNow k tgt n l q).slot k).pc = wordOfNat tgt := by
  have ha : (s.attach k n l q).slot k = { s.slot k with run := .attached n } := by
    rw [State.slot, State.attach_slots]
    exact State.slot_modSlot_same _ _ _
  rw [State.joinNow_of_waits hw hm, State.slot_modSlot_same, ha]
  exact ⟨rfl, rfl⟩

theorem State.joinOpen_of_joiners_nil (h : s.joiners car = []) : s.joinOpen car = s := by
  unfold State.joinOpen
  rw [h]
  cases s.freeLane car with
  | none => rfl
  | some => rfl

/-- A waiting stray that is alone opens a convoy once a lane is free (R159). -/
theorem State.joinOpen_of_single (hj : s.joiners car = [(k, tgt)]) (hf : s.freeLane car = some n) :
    s.joinOpen car = s.joinNow k tgt n (s.newLane car tgt) 0 := by
  unfold State.joinOpen
  rw [hf, hj]
  simp [State.sfind_of_freeLane hf]

/-- The only waiting stray attaches, and none is left. -/
theorem State.joiners_joinNow (hj : s.joiners car = [(k, tgt)]) (hm : (s.slot k).mismatch ≠ 2) :
    (s.joinNow k tgt n l q).joiners car = [] := by
  obtain ⟨-, hw⟩ := State.mem_joiners.1 (hj ▸ List.mem_singleton_self _ : (k, tgt) ∈ s.joiners car)
  refine List.eq_nil_iff_forall_not_mem.2 fun ⟨j, t⟩ h => ?_
  obtain ⟨hcar, hrun⟩ := State.mem_joiners.1 h
  by_cases hk : j = k
  · rw [hk, (State.joinNow_slot hw hm).1] at hrun
    cases hrun
  · rw [State.joinNow_other hw hm hk] at hrun
    have hmem := State.mem_joiners.2 ⟨hcar, hrun⟩
    rw [hj] at hmem
    exact hk (congrArg Prod.fst (List.mem_singleton.1 hmem))

theorem State.serveJoins_of_single (hj : s.joiners car = [(k, tgt)]) (hm : (s.slot k).mismatch ≠ 2) (hc : s.convoyAt car tgt = none)
    (hf : s.freeLane car = some n) : s.serveJoins car = s.joinNow k tgt n (s.newLane car tgt) 0 := by
  have hexisting : s.joinExisting car = s := by
    unfold State.joinExisting
    rw [hj, List.foldl_cons, List.foldl_nil, hc]
  have hrest : (s.joinNow k tgt n (s.newLane car tgt) 0).joinOpen car = s.joinNow k tgt n (s.newLane car tgt) 0 :=
    State.joinOpen_of_joiners_nil (State.joiners_joinNow hj hm)
  unfold State.serveJoins
  rw [hexisting, hj, if_neg (by simp)]
  simp only [List.range, List.range.loop, List.foldl_cons, List.foldl_nil]
  rw [State.joinOpen_of_single hj hf, hrest, hrest, hrest]

end

/-- Settles O28: the lowest next PC is that of a member who stays, so the lane goes on with it and without the others; and the only
waiting JOIN takes the free lane. -/
theorem convoyEvents : Obligations.ConvoyEvents := by
  refine fun s car lane l => ⟨exec_convoyGatherEnd, fun q dn hl hr => ?_, fun k tgt n hj hm hc hf => ?_⟩
  · obtain ⟨hne, hmem⟩ := Lane.resolved_done hr
    obtain ⟨m, hm, hlow⟩ := State.exists_lowPc (s := s) (l := l) hne
    have hstays : m ∈ (s.resolvedLane l q dn).members :=
      State.mem_resolvedLane.2 ⟨hmem m hm, fun h => (State.mem_diverged.1 h).2 hlow⟩
    refine ⟨_, s.lowPc l dn, s.resolvedLane l q dn, exec_laneResolve hl hr, ⟨m, hm, hlow⟩,
      fun x hx h => State.lowPc_le (Lane.mem_voters hx h), fun x hx h => State.strayAll_run (State.mem_diverged.2 ⟨hx, h⟩), ?_, rfl, rfl,
      fun x hx => ?_⟩
    · rw [State.car, State.strayAll_cars]
      exact State.sfind_setLane hstays
    · rw [State.mem_resolvedLane, State.mem_diverged, and_iff_right hx]
      rfl
  · obtain ⟨-, hw⟩ := State.mem_joiners.1 (hj ▸ List.mem_singleton_self _ : (k, tgt) ∈ s.joiners car)
    refine ⟨_, rfl, ?_⟩
    rw [State.serveJoins_of_single hj hm hc hf]
    exact State.joinNow_slot hw hm

end Sys2Proof.Machine
end

section
/-!
SUPPORT. The rights of an access (R169, R170): which entry of a PLB decides, and that no access outside the own store goes on without a
right.
-/

namespace Sys2Proof.Machine

section
variable {s : State} {c a n : Nat} {k : Acc} {bs : List Byte} {f : Nat → Option Nat}

/-! ### The entry that decides -/

/-- What a search finds stands in the list, and the search finds nothing before it. -/
theorem firstOf_split {α β : Type} {f : α → Option β} {l : List α} {b : β} (h : firstOf f l = some b) :
    ∃ before x after, l = before ++ x :: after ∧ f x = some b ∧ ∀ y ∈ before, f y = none := by
  induction l with
  | nil => cases h
  | cons x l ih =>
    cases hx : f x with
    | some c =>
      simp only [firstOf, hx] at h
      exact ⟨[], x, l, rfl, hx.trans h, fun _ hy => nomatch hy⟩
    | none =>
      simp only [firstOf, hx] at h
      obtain ⟨before, y, after, rfl, hy, hall⟩ := ih h
      exact ⟨x :: before, y, after, rfl, hy, List.forall_mem_cons.2 ⟨hx, hall⟩⟩

theorem plbMatch_iff {e : Word} : plbMatch e a = true ↔
    wbit e 63 = true ∧ a / 2 ^ wbits e 13 8 = wbits e 55 16 * 65536 / 2 ^ wbits e 13 8 := by
  simp [plbMatch]

/-- The entry that a PLB finds matches, and none of a lower index does. -/
theorem Core.plbFind_split {k : Core} {e : Word} (h : k.plbFind a = some e) :
    ∃ before after n, k.plb = before ++ (n, e) :: after ∧ plbMatch e a = true ∧ ∀ x ∈ before, ¬ plbMatch x.2 a = true := by
  obtain ⟨before, ⟨n, e'⟩, after, hplb, he, hnone⟩ := firstOf_split h
  dsimp only at he
  split at he
  · next hm =>
    cases he
    refine ⟨before, after, n, hplb, hm, fun x hx hmx => ?_⟩
    have hx := hnone x hx
    rw [if_pos hmx] at hx
    cases hx
  · cases he

/-! ### Accesses that the PLB refuses -/

variable (hp : s.plbCheck c a k = .error (.trap k.cause (wordOfNat a)))
include hp

theorem State.checkHit_of_refused (w : L1Word) : s.checkHit c a w k = .error (.trap k.cause (wordOfNat a)) := by
  unfold State.checkHit
  rw [hp]
  rfl

theorem State.checkHome_of_refused : s.checkHome c a k = .error (.trap k.cause (wordOfNat a)) := by
  unfold State.checkHome
  rw [hp]
  rfl

theorem State.atHome_of_refused : s.atHome c a n k = .error (.trap k.cause (wordOfNat a)) := by
  unfold State.atHome
  rw [State.checkHome_of_refused hp]
  rfl

variable (ho : isOwn c a = false)
include ho

theorem State.readHome_of_refused : s.readHome c a n k = .error (.trap k.cause (wordOfNat a)) := by
  unfold State.readHome
  rw [if_neg (by simp [ho]), State.atHome_of_refused hp]
  rfl

theorem State.writeHome_of_refused : s.writeHome c a bs k = .error (.trap k.cause (wordOfNat a)) := by
  unfold State.writeHome
  rw [if_neg (by simp [ho]), State.atHome_of_refused hp]
  rfl

theorem State.rmw_of_refused : s.rmw c a n k f = .error (.trap k.cause (wordOfNat a)) := by
  unfold State.rmw
  rw [if_neg (by simp [ho]), State.atHome_of_refused hp]
  rfl

end

section
variable {s : State} {c a n : Nat} {ro : Bool} {bs : List Byte} (ho : isOwn c a = false)
include ho

theorem State.load_of_refused (hp : s.plbCheck c a .load = .error (.trap 5 (wordOfNat a))) :
    s.load c a n ro = .error (.trap 5 (wordOfNat a)) := by
  unfold State.load
  rw [if_neg (by simp [ho])]
  split
  · rw [State.checkHit_of_refused hp]
    rfl
  · rw [State.checkHome_of_refused hp]
    rfl

theorem State.store_of_refused (hp : s.plbCheck c a .store = .error (.trap 7 (wordOfNat a))) :
    s.store c a bs = .error (.trap 7 (wordOfNat a)) := by
  unfold State.store
  rw [if_neg (by simp [ho])]
  split
  · rw [State.checkHit_of_refused hp]
    rfl
  · rw [State.checkHome_of_refused hp]
    rfl

end

/-- Settles O12: every access outside the own store begins with the check of the PLB, whose search stops at the first entry that
matches. -/
theorem rightsOfAccess : Obligations.RightsOfAccess := by
  refine ⟨fun s c a n ro bs f ho hno => ?_, fun k a e h => ?_⟩
  · have hright (k : Acc) (hk : k ≠ .fetch) : s.plbCheck c a k = .error (.trap k.cause (wordOfNat a)) := by
      refine plbCheck_of_no_right fun e he => ?_
      obtain ⟨hr, hw⟩ := hno e he
      cases k with
      | load | lr => exact hr
      | store | sc => exact hw
      | amo => simp [Acc.right, hr]
      | fetch => exact absurd rfl hk
    exact ⟨State.load_of_refused ho (hright .load nofun), State.store_of_refused ho (hright .store nofun),
      State.rmw_of_refused (hright .amo nofun) ho, State.rmw_of_refused (hright .sc nofun) ho,
      State.readHome_of_refused (hright .lr nofun) ho, State.readHome_of_refused (hright .load nofun) ho,
      State.writeHome_of_refused (hright .store nofun) ho⟩
  · obtain ⟨before, after, n, hplb, he, hbefore⟩ := Core.plbFind_split h
    exact ⟨before, after, n, hplb, plbMatch_iff.1 he, fun x hx hm => hbefore x hx (plbMatch_iff.2 hm)⟩

end Sys2Proof.Machine
end

section
/-!
SUPPORT. Stores (R171, R178, R179): what a store puts into the words of an L1, and what the fill that it may need takes from memory and
the L2s.
-/

namespace Sys2Proof.Machine

/-! ### The bytes of a word -/

theorem forRange_succ {α : Type} (n : Nat) (f : Nat → α → α) (x : α) : forRange (n + 1) f x = f n (forRange n f x) := by
  rw [forRange, List.range_succ, List.foldl_append]
  rfl

theorem getLsbD_byteMask (y : Nat) : (0xFF#32).getLsbD y = decide (y < 8) := by
  rw [BitVec.getLsbD_ofNat, show 0xFF = 2 ^ 8 - 1 by rfl, Nat.testBit_two_pow_sub_one, ← Bool.decide_and]
  exact decide_eq_decide.2 (by omega)

/-- A byte put at place `j` of a word is read there, and every other byte of the word stays. -/
theorem extractLsb'_putByte (d : BitVec 32) (b : Byte) {i j : Nat} (hi : i < 4) :
    (d &&& ~~~(0xFF#32 <<< (8 * j)) ||| (BitVec.setWidth 32 b <<< (8 * j))).extractLsb' (8 * i) 8 =
      if i = j then b else d.extractLsb' (8 * i) 8 := by
  refine BitVec.eq_of_getLsbD_eq fun x hx => ?_
  have h32 : 8 * i + x < 32 := by omega
  simp only [BitVec.getLsbD_extractLsb', BitVec.getLsbD_or, BitVec.getLsbD_and, BitVec.getLsbD_not, BitVec.getLsbD_shiftLeft,
    BitVec.getLsbD_setWidth, getLsbD_byteMask, hx, h32, decide_true, Bool.true_and]
  rcases Nat.lt_trichotomy i j with h | rfl | h
  · simp [show ¬ i = j by omega, show 8 * i + x < 8 * j by omega, hx]
  · simp [hx, show x < 32 by omega]
  · simp [show ¬ i = j by omega, show ¬ 8 * i + x < 8 * j by omega, show ¬ 8 * i + x - 8 * j < 8 by omega, hx,
      BitVec.getLsbD_of_ge b (8 * i + x - 8 * j) (by omega)]

/-- Each byte of a word is the one that `f` gives, else the old one. -/
theorem wordBytes_byte (d : BitVec 32) (f : Nat → Option Byte) {i : Nat} (hi : i < 4) :
    (wordBytes d f).extractLsb' (8 * i) 8 = (f i).getD (d.extractLsb' (8 * i) 8) := by
  suffices h : ∀ m, (forRange m (fun j d => match f j with
      | some b => d &&& ~~~(0xFF#32 <<< (8 * j)) ||| (BitVec.setWidth 32 b <<< (8 * j))
      | none => d) d).extractLsb' (8 * i) 8 = if i < m then (f i).getD (d.extractLsb' (8 * i) 8) else d.extractLsb' (8 * i) 8 by
    exact (h 4).trans (if_pos hi)
  intro m
  induction m with
  | zero => rfl
  | succ m ih =>
    rw [forRange_succ]
    cases hf : f m with
    | some b =>
      dsimp only
      rw [extractLsb'_putByte _ _ hi, ih]
      rcases Nat.lt_trichotomy i m with h | rfl | h
      · simp [show ¬ i = m by omega, h, show i < m + 1 by omega]
      · simp [hf]
      · simp [show ¬ i = m by omega, show ¬ i < m by omega, show ¬ i < m + 1 by omega]
    | none =>
      dsimp only
      rw [ih]
      rcases Nat.lt_trichotomy i m with h | rfl | h
      · simp [h, show i < m + 1 by omega]
      · simp [hf]
      · simp [show ¬ i < m by omega, show ¬ i < m + 1 by omega]

/-! ### The words that a store writes -/

section
variable {s t : State} {c a n y : Nat} {line w x : L1Word} {bs : List Byte} {e : Word}

theorem State.l1Word_congr_address {b : Nat} (h : b / 4 = a / 4) : s.l1Word c b = s.l1Word c a := by
  unfold State.l1Word
  rw [State.l1Home_same_line (a := a) (b := b) (by omega), h]

theorem State.l1Word_congr (hc : t.cores = s.cores) (hf : (t.car (c / 8)).fused = (s.car (c / 8)).fused) :
    t.l1Word c a = s.l1Word c a := by
  simp only [State.l1Word, State.l1Home, State.core, hc, hf]

/-- A word that is set is found at each of its bytes, and every other word stays. -/
theorem State.l1Word_setL1 : (s.setL1 c a w).l1Word c y = if y / 4 = a / 4 then some w else s.l1Word c y := by
  change sfind ((s.modCore (s.l1Home c a) _).core (s.l1Home c y)).l1 (y / 4) = _
  rw [State.core_modCore]
  by_cases hy : y / 4 = a / 4
  · rw [if_pos (State.l1Home_same_line (by omega)), if_pos hy, hy]
    exact (sfind_sset ..).trans (if_pos rfl)
  · rw [if_neg hy]
    split
    · next hh =>
      refine (sfind_sset ..).trans ((if_neg hy).trans ?_)
      rw [State.l1Word, hh]
    · rfl

/-- The byte that a store of `bs` at `a` puts at an address, if it is one of its own. -/
def storedByte (a : Nat) (bs : List Byte) (y : Nat) : Option Byte :=
  if a ≤ y ∧ y < a + bs.length then some (bs.getD (y - a) 0) else none

/-- The word at `w` that a store of `bs` at `a` makes from what stands there (R179). -/
def State.storedWord (s : State) (c a : Nat) (line : L1Word) (bs : List Byte) (w : Nat) : L1Word :=
  let old := (s.l1Word c w).getD { line with data := 0, dirty := false, bad := 0 }
  { old with
    data := wordBytes old.data fun j => storedByte a bs (w + j)
    dirty := true
    bad := forRange 4 (fun j m => if (storedByte a bs (w + j)).isSome then m &&& ~~~(1#4 <<< j) else m) old.bad }

theorem State.storeL1_eq : s.storeL1 c a line bs = forRange ((a % 4 + bs.length + 3) / 4)
    (fun i s => s.setL1 c (a / 4 * 4 + 4 * i) (s.storedWord c a line bs (a / 4 * 4 + 4 * i))) s := rfl

theorem State.storeL1_rest : ∃ cores, s.storeL1 c a line bs = { s with cores } := by
  rw [State.storeL1_eq]
  refine forRange_keeps (fun t : State => ∃ cores, t = { s with cores }) _ _ (fun i t ht => ?_) ⟨s.cores, rfl⟩
  obtain ⟨cores, rfl⟩ := ht
  exact ⟨_, rfl⟩

theorem State.setL1_nt (d : Nat) : ((s.setL1 c a w).core d).nt = (s.core d).nt := by
  unfold State.setL1
  rw [State.core_modCore]
  split
  · next h => rw [h]
  · rfl

theorem State.storeL1_nt (d : Nat) : ((s.storeL1 c a line bs).core d).nt = (s.core d).nt :=
  forRange_keeps (fun t : State => (t.core d).nt = (s.core d).nt) _ _ (fun _ _ h => (State.setL1_nt d).trans h) rfl

/-- After a store each of its words is as the store makes it, and every other word stays. -/
theorem State.l1Word_storeL1 : (s.storeL1 c a line bs).l1Word c y =
    if a / 4 ≤ y / 4 ∧ y / 4 < a / 4 + (a % 4 + bs.length + 3) / 4 then some (s.storedWord c a line bs (y / 4 * 4)) else s.l1Word c y := by
  rw [State.storeL1_eq]
  generalize (a % 4 + bs.length + 3) / 4 = m
  induction m generalizing y with
  | zero => exact (if_neg (by omega)).symm
  | succ m ih =>
    rw [forRange_succ, State.l1Word_setL1]
    by_cases hy : y / 4 = a / 4 + m
    · have hold : State.l1Word _ c (a / 4 * 4 + 4 * m) = s.l1Word c (a / 4 * 4 + 4 * m) := ih.trans (if_neg (by omega))
      rw [if_pos (by omega), if_pos (by omega), State.storedWord, hold, show a / 4 * 4 + 4 * m = y / 4 * 4 by omega]
      rfl
    · rw [if_neg (by omega), ih]
      exact if_congr (by omega) rfl rfl

/-- Each byte of a stored word is the store's own, or the one that stood there. -/
theorem State.storedWord_byte (hx : s.l1Word c y = some x) : (s.storedWord c a line bs (y / 4 * 4)).data.extractLsb' (8 * (y % 4)) 8 =
    (storedByte a bs y).getD (x.data.extractLsb' (8 * (y % 4)) 8) := by
  have hold : s.l1Word c (y / 4 * 4) = some x := (State.l1Word_congr_address (by omega)).trans hx
  have hb := wordBytes_byte x.data (fun j => storedByte a bs (y / 4 * 4 + j)) (i := y % 4) (Nat.mod_lt _ (by decide))
  rw [show y / 4 * 4 + y % 4 = y by omega] at hb
  rw [State.storedWord, hold]
  exact hb

/-- The words of an access that hits are all there. -/
theorem State.l1Word_of_hit (h : s.l1Hit c a n = true) (hy : a / 4 ≤ y / 4 ∧ y / 4 < a / 4 + (a % 4 + n + 3) / 4) :
    ∃ x, s.l1Word c y = some x := by
  rw [State.l1Hit, List.all_eq_true] at h
  have hx := h (y / 4 - a / 4) (List.mem_range.2 (by omega))
  rw [← State.l1Word_congr_address (b := y) (by omega)] at hx
  exact Option.isSome_iff_exists.1 hx

/-- A store whose words are all in the L1 changes its own bytes of the core's view, where no byte of them waits in the non-temporal
buffer. -/
theorem State.l1Byte_storeL1 (h : s.l1Hit c a bs.length = true)
    (hnt : ∀ y, a ≤ y → y < a + bs.length → ∀ x ∈ (s.core c).nt, x.line ≠ y / 64) :
    (s.storeL1 c a line bs).l1Byte c y = (storedByte a bs y).getD (s.l1Byte c y) := by
  rw [State.l1Byte, State.l1Byte, State.storeL1_nt, State.l1Word_storeL1]
  cases hf : (s.core c).nt.find? fun e => e.line == y / 64 && shas e.bytes (y % 64) with
  | some e =>
    have hline : e.line = y / 64 := by
      have := List.find?_some hf
      simp only [Bool.and_eq_true, beq_iff_eq] at this
      exact this.1
    have hout : ¬ (a ≤ y ∧ y < a + bs.length) := fun ⟨hl, hr⟩ => hnt y hl hr e (List.mem_of_find?_eq_some hf) hline
    rw [storedByte, if_neg hout]
    rfl
  | none =>
    dsimp only
    split
    · next w hw =>
      split at hw
      · next hy =>
        cases hw
        obtain ⟨x, hx⟩ := State.l1Word_of_hit h hy
        rw [State.storedWord_byte hx, hx]
      · next hy =>
        rw [hw, storedByte, if_neg (by omega)]
        rfl
    · next hw =>
      split at hw
      · cases hw
      · next hy =>
        rw [hw, storedByte, if_neg (by omega)]
        rfl

theorem State.dirty_storeL1 (hl : a ≤ y) (hr : y < a + bs.length) : ((s.storeL1 c a line bs).l1Word c y).map (·.dirty) = some true := by
  rw [State.l1Word_storeL1, if_pos (by omega)]
  rfl

/-! ### A store that hits -/

theorem State.drainOver_of_no_line (h : ∀ x ∈ (s.core c).nt, x.line ≠ a / 64) : s.drainOver c a n = .ok s := by
  unfold State.drainOver
  rw [List.find?_eq_none.2 fun x hx => by simp [h x hx]]

theorem State.checkHit_of_right {k : Acc} (hplb : (s.core c).plbFind a = some e) (hr : k.right e = true)
    (hc : classRefuses w.cls k (wbit e 5) ((sget 0 s.ways (w.way / 16)).toNat.testBit (w.way % 16)) = none) :
    s.checkHit c a w k = .ok () := by
  unfold State.checkHit
  rw [State.plbCheck_of_right hplb hr]
  change (match classRefuses _ _ _ _ with | some _ => _ | none => _) = _
  rw [hc]
  rfl

theorem State.store_of_hit (ho : isOwn c a = false) (hl : s.l1Line c a = some w) (hc : s.checkHit c a w .store = .ok ())
    (hh : s.l1Hit c a bs.length = true) (hnt : ∀ x ∈ (s.core c).nt, x.line ≠ a / 64) :
    s.store c a bs = .ok (s.storeL1 c a w bs) := by
  unfold State.store
  rw [if_neg (by simp [ho]), hl]
  dsimp only
  rw [hc, State.drainOver_of_no_line hnt]
  change (if (decide (bs.length < 4) && !s.l1Hit c a bs.length) = true then _ else _) = _
  rw [if_neg (by simp [hh])]
  rfl

theorem State.storeL1_sameMemory : Claims.SameMemory s (s.storeL1 c a line bs) := by
  obtain ⟨cores, h⟩ := State.storeL1_rest (s := s) (c := c) (a := a) (line := line) (bs := bs)
  rw [h]
  exact ⟨fun _ => rfl, fun _ _ _ => rfl⟩

theorem State.storeL1_sameSlots : s.SameSlots (s.storeL1 c a line bs) := by
  obtain ⟨cores, h⟩ := State.storeL1_rest (s := s) (c := c) (a := a) (line := line) (bs := bs)
  rw [h]
  exact ⟨rfl, rfl⟩

end

/-! ### The dirty sectors of the L2s -/

section
variable {P : Nat → TEntry → Nat × Sector → Prop}

/-- Every dirty sector of superblock number `n` meets `P`, which speaks of the number, the page and the sector. -/
def L2Block.DirtyIn (P : Nat → TEntry → Nat × Sector → Prop) (n : Nat) (b : L2Block) : Prop :=
  ∀ x ∈ b.sectors, x.2.dirty = true → P n b.page x

/-- Every dirty sector of an L2 meets `P`. -/
def State.DirtyIn (P : Nat → TEntry → Nat × Sector → Prop) (s : State) : Prop := ∀ e ∈ s.l2, ∀ b ∈ e.2, L2Block.DirtyIn P e.1 b

variable {s t : State} {n : Nat}

theorem State.DirtyIn.of_l2 (h : s.DirtyIn P) (hl : t.l2 = s.l2) : t.DirtyIn P := by
  unfold State.DirtyIn
  rw [hl]
  exact h

theorem State.DirtyIn.sget {b : L2Block} (h : s.DirtyIn P) (hb : b ∈ sget [] s.l2 n) : b.DirtyIn P n := by
  obtain ⟨e, he, rfl, hm⟩ := mem_of_mem_sget hb
  exact h e he b hm

/-- A state whose L2s are those of `s`, but for the superblocks of one number. -/
theorem State.DirtyIn.set {bs : List L2Block} (h : s.DirtyIn P) (hl : ∀ e ∈ t.l2, e ∈ s.l2 ∨ e = (n, bs)) (hbs : ∀ b ∈ bs, b.DirtyIn P n) :
    t.DirtyIn P := by
  intro e he b hb
  rcases hl e he with h' | rfl
  · exact h e h' b hb
  · exact hbs b hb

/-- A clean sector more adds no dirty one. -/
theorem L2Block.DirtyIn.add {i : Nat} {b : L2Block} {x : Sector} (h : b.DirtyIn P n) (hx : x.dirty = false) :
    L2Block.DirtyIn P n { b with sectors := sset b.sectors i x } := by
  intro y hy hd
  rcases mem_sset hy with hy | rfl
  · exact h y hy hd
  · exact absurd hd (by simp [hx])

theorem State.writeBack_l2 (s : State) (b : L2Block) (a : Nat) (x : Sector) : (s.writeBack b a x).l2 = s.l2 := by
  unfold State.writeBack
  split
  · rfl
  · dsimp only
    split
    · rfl
    · rfl

theorem State.evictBlock_l2 (s : State) (n : Nat) (b : L2Block) :
    (s.evictBlock n b).l2 = sput [] s.l2 n ((sget [] s.l2 n).filter fun c => c != b) := by
  have hw : (b.sectors.foldl (fun s x => s.writeBack b (n * 256 + 64 * x.1) x.2) s).l2 = s.l2 :=
    foldl_keeps (fun t : State => t.l2 = s.l2) _ _ (fun _ _ h => (State.writeBack_l2 ..).trans h) rfl
  unfold State.evictBlock
  dsimp only
  rw [hw]

theorem State.evictBlock_dirtyIn {b : L2Block} (h : s.DirtyIn P) : (s.evictBlock n b).DirtyIn P :=
  h.set (fun _ he => mem_sput (State.evictBlock_l2 s n b ▸ he)) fun _ hc => h.sget (List.mem_of_mem_filter hc)

/-- Making room in a slice evicts a superblock at most. -/
theorem State.l2Room_cases {slice : Nat} (h : s.l2Room slice n = some t) : t = s ∨ ∃ m b, t = s.evictBlock m b := by
  unfold State.l2Room at h
  dsimp only at h
  split at h
  · cases h; exact .inl rfl
  · obtain ⟨e, -, rfl⟩ := Option.map_eq_some_iff.1 h
    exact .inr ⟨_, _, rfl⟩

theorem State.l2Room_dirtyIn {slice : Nat} (hs : s.DirtyIn P) (h : s.l2Room slice n = some t) : t.DirtyIn P := by
  rcases State.l2Room_cases h with rfl | ⟨m, b, rfl⟩
  · exact hs
  · exact State.evictBlock_dirtyIn hs

/-- Installing a sector makes none dirty. -/
theorem State.installL2_dirtyIn {tr : TEntry} {die a : Nat} (hs : s.DirtyIn P) : (s.installL2 tr die a).DirtyIn P := by
  unfold State.installL2
  split
  · exact hs
  · dsimp only
    split
    · refine hs.set (fun _ he => mem_sset he) fun b hb => ?_
      rcases mem_modFirst hb with hb | ⟨c, hc, -, rfl⟩
      · exact hs.sget hb
      · exact (hs.sget hc).add rfl
    · have hev : (((sget [] s.l2 (a / 256)).filter fun b => b.slice == s.homeSlice tr die a).foldl
          (fun s b => s.evictBlock (a / 256) b) s).DirtyIn P :=
        foldl_keeps (State.DirtyIn P) _ _ (fun _ _ h => State.evictBlock_dirtyIn h) hs
      split
      · next u hu =>
        have hr := State.l2Room_dirtyIn hev hu
        refine hr.set (fun _ he => mem_sset he) fun b hb => ?_
        rcases List.mem_cons.1 hb with rfl | hb
        · exact L2Block.DirtyIn.add (b := { slice := _, way := _, page := _, sectors := [] }) (fun _ h => nomatch h) rfl
        · exact hr.sget hb
      · exact hev

end

/-! ### What a store changes in memory and in the L2s -/

section
variable {s t u : State} {c a : Nat} {tr : TEntry} {e : Stop} {bs : List Byte}

/-- No byte of memory changes but by the eviction of a dirty sector, and each dirty sector of an L2 was there before. -/
structure State.Evicts (s t : State) : Prop where
  byte : ∀ k, t.byte k = s.byte k ∨ Claims.WrittenBack s k
  dirty : t.DirtyIn fun n page x => ∃ f ∈ s.l2, f.1 = n ∧ ∃ d ∈ f.2, d.page = page ∧ x ∈ d.sectors

theorem State.dirtyIn_self : s.DirtyIn fun n page x => ∃ f ∈ s.l2, f.1 = n ∧ ∃ d ∈ f.2, d.page = page ∧ x ∈ d.sectors :=
  fun e he b hb _ hx _ => ⟨e, he, rfl, b, hb, rfl, hx⟩

theorem State.Evicts.of_same (hm : t.mem = s.mem) (hl : t.l2 = s.l2) : s.Evicts t :=
  ⟨fun k => .inl (congrArg (sget 0 · k) hm), State.dirtyIn_self.of_l2 hl⟩

/-- What comes after, where it leaves memory and the L2s alone. -/
theorem State.Evicts.then (h : s.Evicts t) (hm : u.mem = t.mem) (hl : u.l2 = t.l2) : s.Evicts u :=
  ⟨fun k => (h.byte k).imp_left (congrArg (sget 0 · k) hm).trans, h.dirty.of_l2 hl⟩

/-- What came before, where it left memory and the L2s alone. -/
theorem State.Evicts.since (h : t.Evicts u) (hm : t.mem = s.mem) (hl : t.l2 = s.l2) : s.Evicts u := by
  have hbyte (k : Nat) : t.byte k = s.byte k := congrArg (sget 0 · k) hm
  obtain ⟨hb, hd⟩ := h
  unfold Claims.WrittenBack at hb
  simp only [hl, hbyte] at hb hd
  exact ⟨hb, hd⟩

theorem State.fillL2_evicts {die : Nat} : s.Evicts (s.fillL2 tr die a) where
  byte k := by
    by_cases hk : Claims.WrittenBack s k
    · exact .inr hk
    · exact .inl ((State.fillL2_fetches (State.backed_iff.2 fun _ h => h)).byte k hk)
  dirty := by
    unfold State.fillL2
    split
    · exact State.dirtyIn_self
    · exact State.installL2_dirtyIn State.dirtyIn_self

/-- Beyond the fill of the L2, the fill of an L1 line changes the L1 alone. -/
theorem State.fillL1_rest {ro : Bool} : ∃ cores, s.fillL1 c a tr ro = { s.fillL2 tr (dieOf c) a with cores } := by
  unfold State.fillL1
  refine forRange_keeps (fun t : State => ∃ cores, t = { s.fillL2 tr (dieOf c) a with cores }) _ _ (fun i t ht => ?_) ⟨_, rfl⟩
  obtain ⟨cores, rfl⟩ := ht
  dsimp only
  split
  · split
    · exact ⟨_, rfl⟩
    · exact ⟨_, rfl⟩
  · exact ⟨_, rfl⟩

theorem State.event_l2 (ctx : Nat) (src : Source) (code cause reason : Nat) (w3 w4 w5 w6 w7 : Word) :
    (s.event ctx src code cause reason w3 w4 w5 w6 w7).l2 = s.l2 := by
  unfold State.event
  dsimp only
  split
  · rfl
  · split
    · rfl
    · rfl

theorem State.cxlAccess_l2 (ctx n : Nat) : (s.cxlAccess ctx tr a n).l2 = s.l2 := by
  unfold State.cxlAccess
  split
  · rfl
  · refine forRange_keeps (fun t : State => t.l2 = s.l2) _ _ (fun i t ht => ?_) rfl
    dsimp only
    split
    · exact (State.event_l2 ..).trans ht
    · exact ht

theorem State.takeTrap_l2 {k cause : Nat} {tval : Word} : (s.takeTrap k cause tval).l2 = s.l2 := by
  refine (State.modSlot_l2 ..).trans ?_
  rw [State.leave_sameButConvoy.rest]

theorem State.commit_l2 {k : Nat} {target : Option Word} : (s.commit k target).l2 = s.l2 := by rw [State.commit_rest]

theorem State.storeL1_evicts {line : L1Word} : s.Evicts (s.storeL1 c a line bs) := by
  obtain ⟨cores, h⟩ := State.storeL1_rest (s := s) (c := c) (a := a) (line := line) (bs := bs)
  rw [h]
  exact .of_same rfl rfl

theorem State.putLoc_evicts : s.Evicts (s.putLoc c a bs) := by
  obtain ⟨sram, cores, resv, h⟩ := State.putLoc_rest (s := s) (c := c) (a := a) (bs := bs)
  rw [h]
  exact .of_same rfl rfl

/-- The fill of a word that a store covers in part, and the store. -/
theorem State.filled_evicts {line : L1Word} {ctx : Nat} :
    s.Evicts (((s.cxlAccess ctx tr (a / 32 * 32) 32).fillL1 c a tr false).storeL1 c a line bs) := by
  obtain ⟨cores, hf⟩ := State.fillL1_rest (s := s.cxlAccess ctx tr (a / 32 * 32) 32) (c := c) (a := a) (tr := tr) (ro := false)
  obtain ⟨cores', hs⟩ := State.storeL1_rest (s := (s.cxlAccess ctx tr (a / 32 * 32) 32).fillL1 c a tr false) (c := c) (a := a) (line := line)
    (bs := bs)
  have hfill : s.Evicts ((s.cxlAccess ctx tr (a / 32 * 32) 32).fillL2 tr (dieOf c) a) :=
    State.fillL2_evicts.since (State.cxlAccess_mem ..) (State.cxlAccess_l2 ..)
  exact hfill.then (by rw [hs, hf]) (by rw [hs, hf])

/-! ### A store whose translation is held -/

/-- How a store whose translation is held ends an instruction: by a trap, at once or after its access. -/
inductive Stop.Traps (a : Nat) : Stop → Prop
  | trap (cause : Nat) (tval : Word) : Stop.Traps a (.trap cause tval)
  | trapAfter (cause : Nat) (tval : Word) : Stop.Traps a (.after a true (.trap cause tval))

/-- Either the computation stops by a trap, or it gives something that meets `Q`. -/
def TrapsOr {α : Type} (a : Nat) (Q : α → Prop) : Except Stop α → Prop
  | .ok x => Q x
  | .error e => e.Traps a

theorem TrapsOr.bind {α β : Type} {Q : α → Prop} {R : β → Prop} {x : Except Stop α} {f : α → Except Stop β} (hx : TrapsOr a Q x)
    (hf : ∀ y, Q y → TrapsOr a R (f y)) : TrapsOr a R (x >>= f) := by
  cases x with
  | ok y => exact hf y hx
  | error e => exact hx

theorem State.plbCheck_trapsOr {k : Acc} : TrapsOr a (fun _ => True) (s.plbCheck c a k) := by
  cases h : s.plbCheck c a k with
  | ok x => trivial
  | error e =>
    obtain ⟨cause, tval, rfl⟩ := State.plbCheck_error h
    exact .trap cause tval

theorem State.checkHit_trapsOr {w : L1Word} {k : Acc} : TrapsOr a (fun _ => True) (s.checkHit c a w k) := by
  refine State.plbCheck_trapsOr.bind fun e _ => ?_
  split
  · exact .trap _ _
  · trivial

theorem State.translate_of_held {w : Bool} (h : s.held (dieOf c) a = some tr) : s.translate (sliceOf c) a w = .ok (tr, s) := by
  simp [State.translate, sliceOf_div, h]

theorem State.checkHome_trapsOr (h : s.held (dieOf c) a = some tr) : TrapsOr a (· = (tr, s)) (s.checkHome c a .store) := by
  refine State.plbCheck_trapsOr.bind fun e _ => ?_
  rw [State.translate_of_held h]
  dsimp only
  split
  · exact .trapAfter _ _
  · rfl

/-- A store once it is known what its line holds: the fill of a word that it covers in part, and the write (R178, R179). -/
def State.storeLine (s : State) (c a : Nat) (line : L1Word) (bs : List Byte) : Except Stop State :=
  if bs.length < 4 && !s.l1Hit c a bs.length then do
    let (t, s) ← s.checkHome c a .store
    return ((s.cxlAccess (s.ctxOf (4 * c)) t (a / 32 * 32) 32).fillL1 c a t false).storeL1 c a line bs
  else return s.storeL1 c a line bs

theorem State.storeLine_trapsOr {line : L1Word} (h : s.held (dieOf c) a = some tr) : TrapsOr a s.Evicts (s.storeLine c a line bs) := by
  unfold State.storeLine
  split
  · refine (State.checkHome_trapsOr h).bind fun x hx => ?_
    rw [hx]
    exact State.filled_evicts
  · exact State.storeL1_evicts

theorem State.store_trapsOr (h : s.held (dieOf c) a = some tr) (hnt : ∀ x ∈ (s.core c).nt, x.line ≠ a / 64) (hr : Claims.Room s c a) :
    TrapsOr a s.Evicts (s.store c a bs) := by
  unfold State.store
  split
  · exact State.putLoc_evicts
  · dsimp only
    split
    · next w _ =>
      refine State.checkHit_trapsOr.bind fun _ _ => ?_
      rw [State.drainOver_of_no_line hnt]
      exact State.storeLine_trapsOr (line := w) h
    · refine (State.checkHome_trapsOr h).bind fun x hx => ?_
      rw [hx]
      dsimp only
      rw [State.drainOver_of_no_line hnt]
      change TrapsOr a _ (kept a true (s.l1Room c a) >>= _)
      rw [State.l1Room_of_room hr]
      exact State.storeLine_trapsOr (line := tr.l1Word) h

theorem State.walked_of_held {w : Bool} (h : s.held (dieOf (coreOf s.cur)) a = some tr) : s.walked a w = s := by
  unfold State.walked
  rw [State.translate_of_held h]
  exact ite_self s

theorem Stop.Traps.evicts (h : e.Traps a) (hh : s.held (dieOf (Claims.cc s)) a = some tr) : s.Evicts (e.apply s) := by
  cases h with
  | trap cause tval => exact .of_same State.takeTrap_mem State.takeTrap_l2
  | trapAfter cause tval =>
    rw [Stop.apply, State.walked_of_held hh]
    exact .of_same State.takeTrap_mem State.takeTrap_l2

/-- Whatever a store does, it evicts at most. -/
theorem store_evicts {i : Instr} {n : Nat} {v : Word} (hi : Claims.Store i s a n v) (hh : s.held (dieOf (Claims.cc s)) a = some tr)
    (hnt : ∀ x ∈ (s.core (Claims.cc s)).nt, x.line ≠ a / 64) (hr : Claims.Room s (Claims.cc s) a) (h : exec i s = .next t) : s.Evicts t := by
  obtain ⟨hmis, hok, herr⟩ := hi
  by_cases ha : a % n = 0
  · have hst : TrapsOr a s.Evicts (s.store (Claims.cc s) a (bytesOfNat n v.toNat)) := State.store_trapsOr hh hnt hr
    cases hx : s.store (Claims.cc s) a (bytesOfNat n v.toNat) with
    | ok u =>
      rw [hx] at hst
      rw [hok u ha hx] at h
      cases h
      exact hst.then State.commit_mem State.commit_l2
    | error e =>
      rw [hx] at hst
      rw [herr e ha hx] at h
      cases h
      exact hst.evicts hh
  · rw [hmis ha] at h
    cases h
    exact .of_same State.takeTrap_mem State.takeTrap_l2

end

theorem line_of_storeForms {rs1 rs2 : Reg} {imm : BitVec 12} {i : Instr} {n a y : Nat} (hi : (i, n) ∈ Claims.storeForms rs1 rs2 imm)
    (ha : a % n = 0) (hl : a ≤ y) (hr : y < a + n) : y / 64 = a / 64 := by
  simp only [Claims.storeForms, List.mem_cons, List.not_mem_nil, or_false, Prod.mk.injEq] at hi
  rcases hi with ⟨-, rfl⟩ | ⟨-, rfl⟩ | ⟨-, rfl⟩ | ⟨-, rfl⟩
  all_goals omega

/-- Settles O13: a store that hits is a write of its words in the L1; else, with its translation held, a fill of its line that evicts at
most. -/
theorem storesHitL1 : Obligations.StoresHitL1 := by
  refine ⟨fun s rs1 rs2 imm i n w e hi ho ha hplb hright hl hc hh hnt => ?_, fun s t rs1 rs2 imm i n tr hi hheld hnt hr h => ?_⟩
  · obtain ⟨-, hst, -⟩ := storeOp_store (exec_of_storeForms (s := s) hi)
    have hlen := bytesOfNat_length n (Claims.xs s rs2).toNat
    generalize bytesOfNat n (Claims.xs s rs2).toNat = bs at hst hlen ⊢
    subst hlen
    have hstore := State.store_of_hit (bs := bs) ho hl (State.checkHit_of_right hplb hright hc) hh hnt
    have hnt' (y : Nat) (hl : _ ≤ y) (hr : y < _ + bs.length) : ∀ x ∈ (s.core (Claims.cc s)).nt, x.line ≠ y / 64 :=
      line_of_storeForms hi ha hl hr ▸ hnt
    refine ⟨_, hst _ ha hstore, fun j hj => ?_, fun j hj => ?_, fun y hy => ?_, ?_, fun k => ?_⟩
    · rw [State.l1Byte_congr State.commit_cores fun _ => State.commit_fused, State.l1Byte_storeL1 hh hnt', storedByte, if_pos (by omega),
        Nat.add_sub_cancel_left]
      rfl
    · rw [State.l1Word_congr State.commit_cores State.commit_fused, State.dirty_storeL1 (by omega) (by omega)]
    · rw [State.l1Byte_congr State.commit_cores fun _ => State.commit_fused, State.l1Byte_storeL1 hh hnt', storedByte, if_neg (by omega)]
      rfl
    · exact sameMemory_trans State.storeL1_sameMemory State.commit_sameMemory
    · rw [← (State.storeL1_sameSlots (s := s) (c := Claims.cc s) (a := Claims.ea s rs1 imm) (line := w) (bs := bs)).slot k]
      obtain ⟨hx, hv, hf, -⟩ := State.commit_sameRegs k
      exact ⟨hx, hv, hf⟩
  · obtain ⟨hbyte, hdirty⟩ := store_evicts (storeOp_store (exec_of_storeForms hi)) hheld hnt hr h
    exact ⟨hbyte, hdirty⟩

end Sys2Proof.Machine
end

section
/-!
SUPPORT. The privileged instructions on PLB entries, time slices and slots (R170, R401, R402, R405, R411, R414): what each checks first, and
what it does then.
-/

namespace Sys2Proof.Machine

/-! ### Mode and management -/

section
variable {s t : State} {i : Instr} {act : Act Unit} {rd rs1 rs2 : Reg}

theorem runSlot_unmanaged (h : (s.slot s.cur).priv = .u ∨ (s.core (Claims.cc s)).mgr = false) :
    runSlot (Act.privileged i >>= fun _ => Act.manager i >>= fun _ => act) s = Claims.traps s 2 (s.wordOf i) := by
  by_cases hu : (s.slot s.cur).priv = .u
  · exact runSlot_privileged_u hu
  · have hm : ¬ (s.core (coreOf s.cur)).mgr = true := Bool.not_eq_true _ ▸ h.resolve_left hu
    exact (runSlot_privileged hu).trans (runSlot_of_trap (act_bind_error (if_neg hm)))

theorem runSlot_managed (hu : (s.slot s.cur).priv ≠ .u) (hm : (s.core (Claims.cc s)).mgr = true) :
    runSlot (Act.privileged i >>= fun _ => Act.manager i >>= fun _ => act) s = runSlot act s :=
  (runSlot_privileged hu).trans (runSlot_congr (act_bind_ok (if_pos hm)))

/-- The seven instructions that need ctxid.mgr are illegal in U-mode and on a core that does not manage the package (R401). -/
theorem exec_of_unmanaged (h : (s.slot s.cur).priv = .u ∨ (s.core (Claims.cc s)).mgr = false)
    (hi : i ∈ [Instr.ctxSave rs1 rs2, .ctxRest rd rs1 rs2, .plbFill rs1 rs2, .plbInv rs1, .tslice rs1 rs2, .pgFlush rs1, .waysCfg rs1 rs2]) :
    exec i s = Claims.traps s 2 (s.wordOf i) := by
  simp only [List.mem_cons, List.not_mem_nil, or_false] at hi
  rcases hi with rfl | rfl | rfl | rfl | rfl | rfl | rfl
  all_goals exact runSlot_unmanaged h

theorem act_x (r : Reg) : Act.x r s = .ok (Claims.xs s r, s) := rfl

/-- A check that stops the instruction, and the rest of it. -/
theorem act_of_stop {α β : Type} {p : Prop} [Decidable p] {x : Act α} {f : α → Act β} {y : Act β} {e : Stop} (hp : p) (hx : x s = .error e) :
    (if p then x >>= f else y) s = .error e := by
  rw [if_pos hp]
  exact act_bind_error hx

theorem act_of_pass {β : Type} {p : Prop} [Decidable p] {x y : Act β} (hp : ¬ p) : (if p then x else y) s = y s := by rw [if_neg hp]

end

/-! ### PLB entries -/

section
variable {s t : State} {rs1 rs2 : Reg} (hu : (s.slot s.cur).priv ≠ .u) (hm : (s.core (Claims.cc s)).mgr = true)

theorem plbIndex_of_bad (h : 63 < (Claims.xs s rs1).toNat) : Act.plbIndex rs1 s = .error (.trap 2 (Claims.xs s rs1)) :=
  (act_bind_ok (act_x rs1)).trans (act_of_stop h rfl)

theorem plbIndex_of_good (h : (Claims.xs s rs1).toNat ≤ 63) : Act.plbIndex rs1 s = .ok ((Claims.xs s rs1).toNat, s) := by
  refine (act_bind_ok (act_x rs1)).trans ?_
  rw [if_neg (Nat.not_lt.2 h)]
  rfl

/-- What PLB.FILL does with the entry that it has read (R170, R414). -/
def Act.plbPut (before : State) (a n : Nat) (e : Word) : Act Unit := do
  if plbBad e then Act.kept before a 8 (Act.trap 2 e)
  Act.mod fun s => s.modCore (coreOf s.cur) fun k => { k with plb := sput 0 k.plb n e }
  Act.next

theorem plbPut_of_bad {u : State} {a n : Nat} {e : Word} (h : plbBad e = true) :
    Act.plbPut s a n e u = .error (Stop.afterAll (s.missed (Claims.cc s) a 8) (.trap 2 e)) := by
  unfold Act.plbPut
  rw [if_pos h]
  exact act_bind_error (keepAll_of_error rfl)

theorem plbPut_of_good {u : State} {a n : Nat} {e : Word} (h : plbBad e = false) :
    Act.plbPut s a n e u = .ok ((), (u.modCore (u.cur / 4) fun k => { k with plb := sput 0 (u.core (u.cur / 4)).plb n e }).commit u.cur none) := by
  unfold Act.plbPut
  rw [if_neg (by simp [h])]
  rfl

theorem State.modCore_congr {c : Nat} {f g : Core → Core} (h : f (s.core c) = g (s.core c)) : s.modCore c f = s.modCore c g := by
  unfold State.modCore
  rw [h]

/-- What PLB.INV does with the entry that its register names (R414). -/
def Act.plbClear (n : Nat) : Act Unit := do
  Act.mod fun s => s.modCore (coreOf s.cur) fun k => { k with plb := sput 0 k.plb n (setBits (sget 0 k.plb n) 63 63 0) }
  Act.next

theorem plbClear_ok (n : Nat) : Act.plbClear n s = .ok ((), (s.modCore (Claims.cc s) fun k =>
    { k with plb := sput 0 (s.core (Claims.cc s)).plb n (setBits (sget 0 (s.core (Claims.cc s)).plb n) 63 63 0) }).commit s.cur none) :=
  congrArg (fun t : State => Except.ok ((), t.commit s.cur none)) (State.modCore_congr (s := s) (c := coreOf s.cur) rfl)

include hu hm

theorem plbFill_of_bad_index (h : 63 < (Claims.xs s rs1).toNat) : exec (.plbFill rs1 rs2) s = Claims.traps s 2 (Claims.xs s rs1) :=
  (runSlot_managed hu hm).trans (runSlot_of_trap (act_bind_error (plbIndex_of_bad h)))

theorem plbInv_of_bad_index (h : 63 < (Claims.xs s rs1).toNat) : exec (.plbInv rs1) s = Claims.traps s 2 (Claims.xs s rs1) :=
  (runSlot_managed hu hm).trans (runSlot_of_trap (act_bind_error (plbIndex_of_bad h)))

theorem exec_plbFill (h : (Claims.xs s rs1).toNat ≤ 63) : exec (.plbFill rs1 rs2) s = runSlot (Act.loadNat ((Claims.xs s rs2).toNat % 2 ^ 56) 8 >>=
    fun v => Act.plbPut s ((Claims.xs s rs2).toNat % 2 ^ 56) (Claims.xs s rs1).toNat (wordOfNat v)) s :=
  (runSlot_managed hu hm).trans (runSlot_congr ((act_bind_ok (plbIndex_of_good h)).trans
    ((act_bind_ok (act_x rs2)).trans (act_bind_ok (x := get) rfl))))

theorem plbFill_of_misaligned (h : (Claims.xs s rs1).toNat ≤ 63) (ha : (Claims.xs s rs2).toNat % 2 ^ 56 % 8 ≠ 0) :
    exec (.plbFill rs1 rs2) s = Claims.traps s 4 (wordOfNat ((Claims.xs s rs2).toNat % 2 ^ 56)) :=
  (exec_plbFill hu hm h).trans (runSlot_of_trap (act_bind_error (loadNat_of_misaligned ha)))

theorem plbFill_of_bad {u : State} {bs : List Byte} (h : (Claims.xs s rs1).toNat ≤ 63) (ha : (Claims.xs s rs2).toNat % 2 ^ 56 % 8 = 0)
    (hl : s.load (Claims.cc s) ((Claims.xs s rs2).toNat % 2 ^ 56) 8 false = .ok (bs, u)) (hb : plbBad (wordOfNat (natOfBytes bs)) = true) :
    exec (.plbFill rs1 rs2) s = Claims.trapsRead s s ((Claims.xs s rs2).toNat % 2 ^ 56) 8 2 (wordOfNat (natOfBytes bs)) :=
  (exec_plbFill hu hm h).trans (runSlot_of_releaseFails ((act_bind_ok (loadNat_of_load ha hl)).trans (plbPut_of_bad hb)))

/-- A good entry takes the place of the one entry that the register names. -/
theorem plbFill_of_good {u : State} {bs : List Byte} (h : (Claims.xs s rs1).toNat ≤ 63) (ha : (Claims.xs s rs2).toNat % 2 ^ 56 % 8 = 0)
    (hl : s.load (Claims.cc s) ((Claims.xs s rs2).toNat % 2 ^ 56) 8 false = .ok (bs, u)) (hb : plbBad (wordOfNat (natOfBytes bs)) = false) :
    ∃ p, exec (.plbFill rs1 rs2) s = .next ((u.modCore (u.cur / 4) fun k => { k with plb := p }).commit u.cur none) ∧
      ∀ n, sget 0 p n = if n = (Claims.xs s rs1).toNat then wordOfNat (natOfBytes bs) else sget 0 (u.core (u.cur / 4)).plb n :=
  ⟨_, (exec_plbFill hu hm h).trans (runSlot_of_ok ((act_bind_ok (loadNat_of_load ha hl)).trans (plbPut_of_good hb))), fun _ => sget_sput ..⟩

/-- The entry that PLB.INV names matches no address any more. -/
theorem plbInv_of_index (h : (Claims.xs s rs1).toNat ≤ 63) :
    ∃ p, exec (.plbInv rs1) s = .next ((s.modCore (Claims.cc s) fun k => { k with plb := p }).commit s.cur none) ∧
      (∀ x, plbMatch (sget 0 p (Claims.xs s rs1).toNat) x = false) ∧
      ∀ n, n ≠ (Claims.xs s rs1).toNat → sget 0 p n = sget 0 (s.core (Claims.cc s)).plb n := by
  refine ⟨_, (runSlot_managed hu hm).trans (runSlot_of_ok ((act_bind_ok (plbIndex_of_good h)).trans (plbClear_ok _))), fun x => ?_, fun n hn => ?_⟩
  · rw [sget_sput, if_pos rfl, plbMatch, wbit_setBits (by decide) (by decide)]
    rfl
  · rw [sget_sput, if_neg hn]

end

/-! ### Time slices -/

section
variable {s t u : State} {rs1 rs2 : Reg} {bs : List Byte}

theorem wordsOf_length (n : Nat) (bs : List Byte) : (wordsOf n bs).length = n := by
  induction n generalizing bs with
  | zero => rfl
  | succ n ih => rw [wordsOf, List.length_cons, ih]

theorem any_drop_eq_false {d : List Word} (h : ∀ j, 3 ≤ j → j < d.length → d.getD j 0 = 0) : (d.drop 3).any (· ≠ 0) = false := by
  rw [List.any_eq_false]
  intro x hx
  obtain ⟨j, hj, rfl⟩ := List.mem_iff_getElem.1 hx
  rw [List.length_drop] at hj
  have hz := h (3 + j) (by omega) (by omega)
  rw [List.getD_eq_getElem _ _ (by omega)] at hz
  simp [hz]

/-- The slice that a descriptor's words describe, for the slot that executes (R411). -/
def State.sliceBy (u : State) (d : List Word) : Slice :=
  { length := wbits (d.getD 0 0) 31 0, waits := false, start := u.now, deadline := wbits (d.getD 0 0) 47 32, image := d.getD 1 0,
    simage := d.getD 2 0, sv := wbit (d.getD 0 0) 54, succ := wbits (d.getD 0 0) 53 48, exec := u.ctxOf u.cur, plb := u.cur / 4 }

/-- What TSLICE does with the descriptor that it has read (R411). -/
def Act.tsliceSet (i : Instr) (before : State) (a x : Nat) (d : List Word) : Act Unit := do
  if wbits (d.getD 0 0) 63 55 ≠ 0 || (d.drop 3).any (· ≠ 0) then Act.kept before a 64 (Act.refuse i)
  let s ← get
  Act.mod fun u => u.modCtx x fun c => { c with slice := if wbits (d.getD 0 0) 31 0 = 0 then none else some (s.sliceBy d) }
  Act.next

theorem tsliceSet_of_bad {i : Instr} {a x : Nat} {d : List Word} (h : wbits (d.getD 0 0) 63 55 ≠ 0) :
    Act.tsliceSet i s a x d u = .error (Stop.afterAll (s.missed (Claims.cc s) a 64) (.trap 2 (u.wordOf i))) := by
  unfold Act.tsliceSet
  rw [decide_eq_true h, Bool.true_or, if_pos rfl]
  exact act_bind_error (keepAll_of_error rfl)

theorem tsliceSet_of_good {i : Instr} {a x : Nat} {d : List Word} (h : wbits (d.getD 0 0) 63 55 = 0) (hd : (d.drop 3).any (· ≠ 0) = false) :
    Act.tsliceSet i s a x d u = .ok ((), (u.modCtx x fun c =>
      { c with slice := if wbits (d.getD 0 0) 31 0 = 0 then none else some (u.sliceBy d) }).commit u.cur none) := by
  unfold Act.tsliceSet
  rw [hd, decide_eq_false (not_not.2 h), if_neg (by decide)]
  rfl

variable (hu : (s.slot s.cur).priv ≠ .u) (hm : (s.core (Claims.cc s)).mgr = true)
include hu hm

theorem tslice_of_bad_context (h : 63 < (Claims.xs s rs1).toNat) :
    exec (.tslice rs1 rs2) s = Claims.traps s 2 (s.wordOf (.tslice rs1 rs2)) :=
  (runSlot_managed hu hm).trans (runSlot_of_trap
    ((act_bind_ok (act_x rs1)).trans ((act_bind_ok (act_x rs2)).trans (act_of_stop h rfl))))

theorem tslice_of_misaligned (h : (Claims.xs s rs1).toNat ≤ 63) (ha : (Claims.xs s rs2).toNat % 2 ^ 56 % 64 ≠ 0) :
    exec (.tslice rs1 rs2) s = Claims.traps s 4 (wordOfNat ((Claims.xs s rs2).toNat % 2 ^ 56)) :=
  (runSlot_managed hu hm).trans (runSlot_of_trap ((act_bind_ok (act_x rs1)).trans ((act_bind_ok (act_x rs2)).trans
    ((act_of_pass (Nat.not_lt.2 h)).trans (act_of_stop ha rfl)))))

theorem exec_tslice (h : (Claims.xs s rs1).toNat ≤ 63) (ha : (Claims.xs s rs2).toNat % 2 ^ 56 % 64 = 0) :
    exec (.tslice rs1 rs2) s = runSlot (Act.loadRecord ((Claims.xs s rs2).toNat % 2 ^ 56) 64 >>= fun bs =>
      Act.tsliceSet (.tslice rs1 rs2) s ((Claims.xs s rs2).toNat % 2 ^ 56) (Claims.xs s rs1).toNat (wordsOf 8 bs)) s :=
  (runSlot_managed hu hm).trans (runSlot_congr ((act_bind_ok (act_x rs1)).trans ((act_bind_ok (act_x rs2)).trans
    ((act_of_pass (Nat.not_lt.2 h)).trans ((act_of_pass (not_not.2 ha)).trans (act_bind_ok (x := get) rfl))))))

theorem tslice_of_bad (h : (Claims.xs s rs1).toNat ≤ 63) (ha : (Claims.xs s rs2).toNat % 2 ^ 56 % 64 = 0)
    (hl : Act.loadRecord ((Claims.xs s rs2).toNat % 2 ^ 56) 64 s = .ok (bs, u)) (hb : wbits ((wordsOf 8 bs).getD 0 0) 63 55 ≠ 0) :
    exec (.tslice rs1 rs2) s = Claims.trapsRead s s ((Claims.xs s rs2).toNat % 2 ^ 56) 64 2 (u.wordOf (.tslice rs1 rs2)) :=
  (exec_tslice hu hm h ha).trans (runSlot_of_releaseFails ((act_bind_ok hl).trans (tsliceSet_of_bad hb)))

theorem tslice_of_good (h : (Claims.xs s rs1).toNat ≤ 63) (ha : (Claims.xs s rs2).toNat % 2 ^ 56 % 64 = 0)
    (hl : Act.loadRecord ((Claims.xs s rs2).toNat % 2 ^ 56) 64 s = .ok (bs, u)) (hb : wbits ((wordsOf 8 bs).getD 0 0) 63 55 = 0)
    (hz : ∀ j, 3 ≤ j → j < 8 → (wordsOf 8 bs).getD j 0 = 0) :
    exec (.tslice rs1 rs2) s = .next ((u.modCtx (Claims.xs s rs1).toNat fun c =>
      { c with slice := if wbits ((wordsOf 8 bs).getD 0 0) 31 0 = 0 then none else some (u.sliceBy (wordsOf 8 bs)) }).commit u.cur none) :=
  (exec_tslice hu hm h ha).trans (runSlot_of_ok ((act_bind_ok hl).trans
    (tsliceSet_of_good hb (any_drop_eq_false (by rw [wordsOf_length]; exact hz)))))

end

/-! ### Slots named by a slot word -/

section
variable {s t : State} {i : Instr} {rs1 rs2 : Reg} {k : Nat}

theorem slotWordOk_eq_false {w : Word} {top : Nat} (h : wbits w 63 29 ≠ 0 ∨ wbits w 15 4 ≠ 0 ∨ top < wbits w 3 2) :
    slotWordOk w top = false := by
  rcases h with h | h | h
  · simp [slotWordOk, h]
  · simp [slotWordOk, h]
  · simp [slotWordOk, h]

theorem slotWordOk_eq_true {w : Word} {top : Nat} (h : wbits w 63 29 = 0) (h' : wbits w 15 4 = 0) (htop : wbits w 3 2 ≤ top) :
    slotWordOk w top = true := by
  simp [slotWordOk, h, h', htop]

/-- Whether the executing slot may act on slot `k` (R401). -/
def State.mayAct (s : State) (k : Nat) : Prop := s.ownSlot k = true ∨ (s.core (Claims.cc s)).mgr = true

theorem not_refused_of_mayAct (h : s.mayAct k) : ¬ (!(s.ownSlot k || (s.core (coreOf s.cur)).mgr)) = true := by
  rcases h with h | h
  · simp [h]
  · simp [show (s.core (coreOf s.cur)).mgr = true from h]

theorem slotControl_of_u (hu : (s.slot s.cur).priv = .u) : exec (.slotResume rs1) s = Claims.traps s 2 (s.wordOf (.slotResume rs1)) ∧
    exec (.slotResumeSsip rs1) s = Claims.traps s 2 (s.wordOf (.slotResumeSsip rs1)) ∧
    exec (.slotKill rs1) s = Claims.traps s 2 (s.wordOf (.slotKill rs1)) :=
  ⟨runSlot_privileged_u hu, runSlot_privileged_u hu, runSlot_privileged_u hu⟩

variable (hu : (s.slot s.cur).priv ≠ .u)
include hu

theorem slotResume_of_bad (hw : slotWordOk (Claims.xs s rs1) 1 = false) :
    runSlot (Act.slotResume i rs1) s = Claims.traps s 2 (Claims.xs s rs1) :=
  (runSlot_privileged hu).trans (runSlot_of_trap ((act_bind_ok (act_x rs1)).trans (act_of_stop (by
    rw [hw]; rfl) rfl)))

theorem slotResume_of_resume (hw : slotWordOk (Claims.xs s rs1) 1 = true) (hk : s.mayAct (slotOfWord (Claims.xs s rs1)))
    (h : wbits (Claims.xs s rs1) 3 2 = 0) : runSlot (Act.slotResume i rs1) s =
      .next ((s.resumeSlot (slotOfWord (Claims.xs s rs1))).commit (s.resumeSlot (slotOfWord (Claims.xs s rs1))).cur none) := by
  have hok : ¬ (!slotWordOk (Claims.xs s rs1) 1) = true := by simp [hw]
  refine (runSlot_privileged hu).trans (runSlot_of_ok ((act_bind_ok (act_x rs1)).trans ((act_of_pass hok).trans ((act_bind_ok (x := get) rfl).trans ?_))))
  rw [if_neg (not_refused_of_mayAct hk), if_pos h]
  rfl

theorem slotResume_of_interrupt (hw : slotWordOk (Claims.xs s rs1) 1 = true) (hk : s.mayAct (slotOfWord (Claims.xs s rs1)))
    (h : wbits (Claims.xs s rs1) 3 2 = 1) : runSlot (Act.slotResume i rs1) s =
      .next ((s.modSlot (slotOfWord (Claims.xs s rs1)) fun sl => { sl with sip := setBits sl.sip 1 1 1 }).commit s.cur none) := by
  have hok : ¬ (!slotWordOk (Claims.xs s rs1) 1) = true := by simp [hw]
  refine (runSlot_privileged hu).trans (runSlot_of_ok ((act_bind_ok (act_x rs1)).trans ((act_of_pass hok).trans ((act_bind_ok (x := get) rfl).trans ?_))))
  rw [if_neg (not_refused_of_mayAct hk), if_neg (by omega)]
  rfl

theorem slotKill_of_bad (hw : slotWordOk (Claims.xs s rs1) 0 = false) : exec (.slotKill rs1) s = Claims.traps s 2 (Claims.xs s rs1) :=
  (runSlot_privileged hu).trans (runSlot_of_trap ((act_bind_ok (act_x rs1)).trans (act_of_stop (by
    rw [hw]; rfl) rfl)))

/-- A slot that kills its own firing does not go on. -/
theorem slotKill_of_good (hw : slotWordOk (Claims.xs s rs1) 0 = true) (hk : s.mayAct (slotOfWord (Claims.xs s rs1))) :
    exec (.slotKill rs1) s = if slotOfWord (Claims.xs s rs1) = s.cur then .next (s.killFiring (slotOfWord (Claims.xs s rs1)) 0 0)
      else .next ((s.killFiring (slotOfWord (Claims.xs s rs1)) 0 0).commit (s.killFiring (slotOfWord (Claims.xs s rs1)) 0 0).cur none) := by
  rw [← apply_ite Host.Outcome.next]
  have hok : ¬ (!slotWordOk (Claims.xs s rs1) 0) = true := by simp [hw]
  refine (runSlot_privileged hu).trans (runSlot_of_ok ((act_bind_ok (act_x rs1)).trans ((act_of_pass hok).trans ((act_bind_ok (x := get) rfl).trans ?_))))
  rw [if_neg (not_refused_of_mayAct hk)]
  by_cases hcur : slotOfWord (Claims.xs s rs1) = s.cur
  · rw [if_neg (not_not.2 hcur), if_pos hcur]
    rfl
  · rw [if_pos hcur, if_neg hcur]
    rfl

end

end Sys2Proof.Machine
end

section
/-!
SUPPORT. PG.FLUSH and WAYS.CFG (R267, R415, R416): what the write-through of L1 words and the eviction of L2 superblocks leave there.
-/

namespace Sys2Proof.Machine

/-! ### Superblocks that are evicted -/

section
variable {s t : State} {n : Nat} {b c : L2Block}

theorem State.evictBlock_fetchesAll : s.Fetches (fun _ => True) (s.evictBlock n b) :=
  State.evictBlock_fetches State.backed_all fun _ _ _ _ _ _ => trivial

theorem State.evictBlocks_fetchesAll {p : Nat → L2Block → Bool} : s.Fetches (fun _ => True) (s.evictBlocks p) :=
  .foldl State.backed_all fun _ ht _ _ => .foldl ht.backed fun _ _ _ _ => State.evictBlock_fetchesAll

theorem State.mem_evictBlock {m : Nat} : b ∈ sget [] (s.evictBlock m c).l2 n ↔ b ∈ sget [] s.l2 n ∧ ¬ (n = m ∧ b = c) := by
  rw [State.evictBlock_l2, sget_sput]
  by_cases h : n = m
  · subst h
    simp
  · simp [h]

/-- No superblock that meets `p` is left by its eviction. -/
theorem State.evictBlocks_gone {p : Nat → L2Block → Bool} (hp : p n b = true) : b ∉ sget [] (s.evictBlocks p).l2 n := by
  have hone (u : State) (m : Nat) (bs : List L2Block) (h : b ∉ sget [] u.l2 n ∨ m = n ∧ b ∈ bs) :
      b ∉ sget [] (bs.foldl (fun u c => u.evictBlock m c) u).l2 n := by
    induction bs generalizing u with
    | nil => exact h.resolve_right fun ⟨_, hb⟩ => nomatch hb
    | cons c bs ih =>
      refine ih _ ?_
      rw [State.mem_evictBlock]
      rcases h with h | ⟨rfl, hb⟩
      · exact .inl fun hb => h hb.1
      · rcases List.mem_cons.1 hb with rfl | hb
        · exact .inl fun hb => hb.2 ⟨rfl, rfl⟩
        · exact .inr ⟨rfl, hb⟩
  have hall (l : Sparse (List L2Block)) (u : State) (h : b ∉ sget [] u.l2 n ∨ ∃ e ∈ l, e.1 = n ∧ b ∈ e.2) :
      b ∉ sget [] (l.foldl (fun s e => (e.2.filter (p e.1)).foldl (fun s b => s.evictBlock e.1 b) s) u).l2 n := by
    induction l generalizing u with
    | nil => exact h.resolve_right fun ⟨_, he, _⟩ => nomatch he
    | cons e l ih =>
      refine ih _ ?_
      rcases h with h | ⟨d, hd, rfl, hb⟩
      · exact .inl (hone _ _ _ (.inl h))
      · rcases List.mem_cons.1 hd with rfl | hd
        · exact .inl (hone _ _ _ (.inr ⟨rfl, List.mem_filter.2 ⟨hb, hp⟩⟩))
        · exact .inr ⟨d, hd, rfl, hb⟩
  refine hall s.l2 s ?_
  by_cases h : b ∈ sget [] s.l2 n
  · exact .inr (mem_of_mem_sget h)
  · exact .inl h

end

/-! ### Words that are written through -/

section
variable {s t u : State} {c a n : Nat} {tr : TEntry} {bs : List Byte}

theorem State.event_cores (ctx : Nat) (src : Source) (code cause reason : Nat) (w3 w4 w5 w6 w7 : Word) :
    (s.event ctx src code cause reason w3 w4 w5 w6 w7).cores = s.cores := by
  unfold State.event
  dsimp only
  split
  · rfl
  · split
    · rfl
    · rfl

theorem State.cxlAccess_cores (ctx : Nat) : (s.cxlAccess ctx tr a n).cores = s.cores := by
  unfold State.cxlAccess
  split
  · rfl
  · refine forRange_keeps (fun t : State => t.cores = s.cores) _ _ (fun i t ht => ?_) rfl
    dsimp only
    split
    · exact (State.event_cores ..).trans ht
    · exact ht

theorem State.writeSector_cores (d : Nat) (p : Nat × List Byte) : (s.writeSector tr d p).cores = s.cores := by
  have hinstall (u : State) : (u.installL2 tr d p.1).cores = u.cores := (State.installL2_fetches State.backed_all).cores
  have hback (u : State) (b : L2Block) (x : Sector) : (u.writeBack b (p.1 / 64 * 64) x).cores = u.cores :=
    (State.writeBack_fetches (W := fun _ => True) State.backed_all fun _ _ _ _ => trivial).cores
  unfold State.writeSector
  dsimp only
  split
  · rfl
  · generalize hu : (if s.fillBad tr d p.1 = true then _ else s) = u
    have hs : u.cores = s.cores := by
      rw [← hu]
      split
      · rfl
      · rfl
    split
    · exact (hinstall u).trans hs
    · exact ((hback ..).trans (hinstall u)).trans hs

theorem State.homeWrite_cores : (s.homeWrite tr a bs).cores = s.cores := by
  have hw : (tr.dies.foldl (fun s d => (sectorParts a bs).foldl (fun s p => s.writeSector tr d p) s) s).cores = s.cores :=
    foldl_keeps (fun t : State => t.cores = s.cores) _ _ (fun _ d hu =>
      foldl_keeps (fun t : State => t.cores = s.cores) _ _ (fun _ p ht => (State.writeSector_cores d p).trans ht) hu) rfl
  exact hw

theorem State.writeFor_cores (ctx : Nat) : (s.writeFor ctx tr a bs).cores = s.cores :=
  State.homeWrite_cores.trans (State.cxlAccess_cores ctx)

theorem State.translate_cores {tile : Nat} {w : Bool} (h : s.translate tile a w = .ok (tr, t)) : t.cores = s.cores :=
  (State.translate_fetches State.backed_all (fun _ _ _ => ⟨fun _ _ _ => trivial, fun _ _ _ => trivial⟩) h).cores

/-- Every dirty L1 word of `t` is one of `s`, with the same bytes. -/
def State.DirtyFrom (s t : State) : Prop := ∀ n, ∀ x ∈ (t.core n).l1, x.2.dirty = true → x ∈ (s.core n).l1

theorem State.DirtyFrom.of_cores (h : s.DirtyFrom t) (hc : u.cores = t.cores) : s.DirtyFrom u := by
  intro n x hx
  rw [State.core, hc] at hx
  exact h n x hx

/-- Setting a word of a core clean makes none dirty. -/
theorem State.DirtyFrom.clean {k : Nat} {w : L1Word} (h : s.DirtyFrom t) (hw : w.dirty = false) :
    s.DirtyFrom (t.modCore c fun x => { x with l1 := sset x.l1 k w }) := by
  intro n x hx hd
  rw [State.core_modCore] at hx
  split at hx
  · next hn =>
    subst hn
    rcases mem_sset hx with hx | rfl
    · exact h _ x hx hd
    · exact absurd hd (by simp [hw])
  · exact h n x hx hd

theorem State.DirtyFrom.wtWord (h : s.DirtyFrom t) (hw : t.wtWord c a = .ok u) : s.DirtyFrom u := by
  unfold State.wtWord at hw
  split at hw
  · split at hw
    · split at hw
      · cases hw
      · next tr v hv =>
        cases hw
        refine State.DirtyFrom.clean ?_ rfl
        refine h.of_cores (Eq.trans ?_ (State.translate_cores hv))
        split
        · exact State.writeFor_cores _
        · refine forRange_keeps (fun u : State => u.cores = v.cores) _ _ (fun i u hu => ?_) rfl
          split
          · exact hu
          · exact (State.writeFor_cores _).trans hu
    · cases hw; exact h
  · cases hw; exact h

end

/-! ### PG.FLUSH -/

section
variable {s : State} {a : Nat} {g : TEntry}

/-- The words that a flush writes through: those of its pages, in the L1s of the package (R184, R415). -/
def State.writtenThrough (s : State) (ps : List TEntry) : State :=
  s.cores.foldl (fun s c => c.2.l1.foldl (fun s w => if inPages ps (4 * w.1) then (s.wtWord c.1 (4 * w.1)).toOption.getD s else s) s) s

theorem State.writtenThrough_dirtyFrom (ps : List TEntry) : s.DirtyFrom (s.writtenThrough ps) := by
  refine foldl_keeps s.DirtyFrom _ _ (fun t c ht => foldl_keeps s.DirtyFrom _ _ (fun u w hu => ?_) ht) fun _ _ hx _ => hx
  split
  · cases hw : u.wtWord c.1 (4 * w.1) with
    | ok v => exact hu.wtWord hw
    | error e => exact hu
  · exact hu

/-- The flush of an address with a page: words are written through, superblocks evicted, and then every holder gives up what it holds
of the pages. -/
theorem State.pgFlush_eq (hne : (s.flushed a).isEmpty = false) :
    let ps := s.flushed a
    let u := (s.writtenThrough ps).evictBlocks fun n _ => inPages ps (256 * n)
    s.pgFlush a = { u with
      cores := smap (fun _ k => { k with l1 := k.l1.filter fun w => w.2.dirty || !inPages ps (4 * w.1) }) u.cores
      cars := smap (fun _ c => { c with ic := c.ic.filter fun w => !inPages ps (4 * w.1) }) u.cars
      trans := u.trans.filter fun u => !ps.any fun p => p.meets u.2
      firstTouch := ps.foldl (fun m p => sdel m (p.base / 65536)) u.firstTouch } :=
  if_neg (by simp [hne])

theorem State.mem_flushed (h : s.pageOf a = some g) : g ∈ s.flushed a := by
  simp [State.flushed, h]

theorem inPages_of_covers {ps : List TEntry} {x : Nat} (hg : g ∈ ps) (h : g.covers x = true) : inPages ps x = true :=
  List.any_eq_true.2 ⟨g, hg, h⟩

variable (h : s.pageOf a = some g)
include h

theorem State.flushed_not_isEmpty : (s.flushed a).isEmpty = false :=
  List.isEmpty_eq_false_iff_exists_mem.2 ⟨g, State.mem_flushed h⟩

/-- An L1 keeps of a flushed page only dirty words that could not be written through. -/
theorem State.pgFlush_l1 (n : Nat) : ∀ x ∈ ((s.pgFlush a).core n).l1, g.covers (4 * x.1) = true →
    x.2.dirty = true ∧ x ∈ (s.core n).l1 := by
  intro x hx hg
  rw [State.pgFlush_eq (State.flushed_not_isEmpty h)] at hx
  rw [State.core, sget_smap _ _ _ _ rfl] at hx
  obtain ⟨hx, hkeep⟩ := List.mem_filter.1 hx
  have hd : x.2.dirty = true := by simpa [inPages_of_covers (State.mem_flushed h) hg] using hkeep
  exact ⟨hd, (State.writtenThrough_dirtyFrom _).of_cores State.evictBlocks_fetchesAll.cores n x hx hd⟩

theorem State.pgFlush_trans : ∀ x ∈ (s.pgFlush a).trans, g.covers x.2.base = false := by
  intro x hx
  rw [State.pgFlush_eq (State.flushed_not_isEmpty h)] at hx
  obtain ⟨-, hkeep⟩ := List.mem_filter.1 hx
  rw [Bool.not_eq_true', List.any_eq_false] at hkeep
  have hmeets := hkeep g (State.mem_flushed h)
  simp only [TEntry.meets, Bool.or_eq_true, not_or] at hmeets
  exact Bool.not_eq_true _ ▸ hmeets.1

theorem State.pgFlush_l2 (n : Nat) (hg : g.covers (256 * n) = true) : sget [] (s.pgFlush a).l2 n = [] := by
  rw [State.pgFlush_eq (State.flushed_not_isEmpty h)]
  exact List.eq_nil_iff_forall_not_mem.2 fun b => State.evictBlocks_gone (inPages_of_covers (State.mem_flushed h) hg)

theorem State.pgFlush_ic (v : Nat) : ∀ x ∈ ((s.pgFlush a).car v).ic, g.covers (4 * x.1) = false := by
  intro x hx
  rw [State.pgFlush_eq (State.flushed_not_isEmpty h)] at hx
  rw [State.car, sget_smap _ _ _ _ rfl] at hx
  obtain ⟨-, hkeep⟩ := List.mem_filter.1 hx
  by_contra hg
  rw [inPages_of_covers (State.mem_flushed h) (Bool.not_eq_false _ ▸ hg)] at hkeep
  cases hkeep

end

section
variable {s : State} {rs1 rs2 : Reg} (hu : (s.slot s.cur).priv ≠ .u) (hm : (s.core (Claims.cc s)).mgr = true)
include hu hm

theorem pgFlush_of_wait (h : s.flushWaits ((Claims.xs s rs1).toNat % 2 ^ 56) = true) : exec (.pgFlush rs1) s = .next s := by
  refine (runSlot_managed hu hm).trans (runSlot_of_error (e := .wait) ((act_bind_ok (act_x rs1)).trans ((act_bind_ok (x := get) rfl).trans ?_)))
  exact act_of_stop h rfl

theorem pgFlush_of_ready (h : s.flushWaits ((Claims.xs s rs1).toNat % 2 ^ 56) = false) :
    exec (.pgFlush rs1) s =
      .next ((s.pgFlush ((Claims.xs s rs1).toNat % 2 ^ 56)).commit (s.pgFlush ((Claims.xs s rs1).toNat % 2 ^ 56)).cur none) := by
  refine (runSlot_managed hu hm).trans (runSlot_of_ok ((act_bind_ok (act_x rs1)).trans ((act_bind_ok (x := get) rfl).trans ?_)))
  exact (act_of_pass (Bool.not_eq_true _ ▸ h)).trans rfl

/-! ### WAYS.CFG -/

theorem waysCfg_of_bad_slice (h : wbits (Claims.xs s rs1) 63 29 ≠ 0 ∨ wbits (Claims.xs s rs1) 18 0 ≠ 0) :
    exec (.waysCfg rs1 rs2) s = Claims.traps s 2 (Claims.xs s rs1) := by
  refine (runSlot_managed hu hm).trans (runSlot_of_trap ((act_bind_ok (act_x rs1)).trans ((act_bind_ok (act_x rs2)).trans
    (act_of_stop ?_ rfl))))
  simpa using h

theorem waysCfg_of_bad_mask (h : wbits (Claims.xs s rs1) 63 29 = 0) (h' : wbits (Claims.xs s rs1) 18 0 = 0)
    (hb : wbits (Claims.xs s rs2) 63 16 ≠ 0 ∨ 12 < waysSet ((Claims.xs s rs2).setWidth 16)) :
    exec (.waysCfg rs1 rs2) s = Claims.traps s 2 (Claims.xs s rs2) := by
  refine (runSlot_managed hu hm).trans (runSlot_of_trap ((act_bind_ok (act_x rs1)).trans ((act_bind_ok (act_x rs2)).trans
    ((act_of_pass (by simp [h, h'])).trans (act_of_stop ?_ rfl)))))
  simpa using hb

section
variable (h : wbits (Claims.xs s rs1) 63 29 = 0) (h' : wbits (Claims.xs s rs1) 18 0 = 0) (hb : wbits (Claims.xs s rs2) 63 16 = 0)
  (hb' : waysSet ((Claims.xs s rs2).setWidth 16) ≤ 12)
include h h' hb hb'

theorem waysCfg_of_wait (hw : s.waysWait (wbits (Claims.xs s rs1) 28 19) ((Claims.xs s rs2).setWidth 16) = true) :
    exec (.waysCfg rs1 rs2) s = .next s := by
  refine (runSlot_managed hu hm).trans (runSlot_of_error (e := .wait) ((act_bind_ok (act_x rs1)).trans ((act_bind_ok (act_x rs2)).trans
    ((act_of_pass ?_).trans ((act_of_pass ?_).trans ((act_bind_ok (x := get) rfl).trans ?_))))))
  · simp [h, h']
  · simpa [hb] using hb'
  · exact act_of_stop hw rfl

theorem waysCfg_of_ready (hw : s.waysWait (wbits (Claims.xs s rs1) 28 19) ((Claims.xs s rs2).setWidth 16) = false) :
    exec (.waysCfg rs1 rs2) s = .next ((s.setWays (wbits (Claims.xs s rs1) 28 19) ((Claims.xs s rs2).setWidth 16)).commit
      (s.setWays (wbits (Claims.xs s rs1) 28 19) ((Claims.xs s rs2).setWidth 16)).cur none) := by
  refine (runSlot_managed hu hm).trans (runSlot_of_ok ((act_bind_ok (act_x rs1)).trans ((act_bind_ok (act_x rs2)).trans
    ((act_of_pass ?_).trans ((act_of_pass ?_).trans ((act_bind_ok (x := get) rfl).trans ?_))))))
  · simp [h, h']
  · simpa [hb] using hb'
  · exact (act_of_pass (Bool.not_eq_true _ ▸ hw)).trans rfl

end

end

/-- Writing some bytes anew for each of a list of ways leaves the setting of the ways. -/
theorem State.renewed_ways {ws : List Nat} {s : State} (key free : State → Nat → Nat) (bs : State → Nat → List Byte) :
    (ws.foldl (fun s w => { s.putKey (key s w) (bs s w) with free := free s w }) s).ways = s.ways := by
  refine foldl_keeps (fun t : State => t.ways = s.ways) ws _ (fun t w ht => ?_) rfl
  exact ht

/-- The slice's scratch ways are those of the mask, and those of every other slice stay. -/
theorem State.setWays_ways {s : State} {slice : Nat} {m : BitVec 16} (n : Nat) :
    sget 0 (s.setWays slice m).ways n = if n = slice then m else sget 0 s.ways n := by
  unfold State.setWays
  dsimp only
  generalize hev : s.evictBlocks _ = u
  have hu : u.ways = s.ways := by rw [← hev, State.evictBlocks_fetchesAll.rest]
  refine (sget_sput ..).trans (if_congr .rfl rfl (congrArg (sget 0 · n) ?_))
  exact (State.renewed_ways (fun _ w => memKey 4 (slice * 1048576 + w * 65536)) (fun s _ => s.free + 65536)
    fun s _ => (List.range 65536).map fun i => Config.freeByte (s.free + i)).trans hu

end Sys2Proof.Machine
end

section
/-!
SUPPORT. SLOT.RESUME, SLOT.KILL and MINJ (R222, R405, R420, R422): the slot that is resumed or killed, and the flip that completes a MINJ.
-/

namespace Sys2Proof.Machine

/-! ### A slot that is resumed -/

section
variable {s t : State} {k : Nat}

theorem State.resumeSlot_of_not_parked (h : ∀ p, (s.slot k).run ≠ .parked p) : s.resumeSlot k = s := by
  unfold State.resumeSlot
  split
  · next p hp => exact absurd hp (h p)
  · rfl

theorem State.resumeSlot_of_parked {p : ParkInfo} (h : (s.slot k).run = .parked p) :
    s.resumeSlot k = State.modSlot { s with faults := s.faults.filter fun f => f.slot ≠ k } k fun sl =>
      { sl with run := .stray, gfault := setBits sl.gfault 63 63 0, fresh := true } := by
  unfold State.resumeSlot
  rw [h]

/-- A resumed slot is a stray, and no fault of it is pending. -/
theorem State.resumeSlot_slot {p : ParkInfo} (h : (s.slot k).run = .parked p) :
    (∀ f ∈ (s.resumeSlot k).faults, f.slot ≠ k) ∧
    (s.resumeSlot k).slot k = { s.slot k with run := .stray, gfault := setBits (s.slot k).gfault 63 63 0, fresh := true } := by
  rw [State.resumeSlot_of_parked h, State.slot_modSlot_same]
  exact ⟨fun f hf => of_decide_eq_true (List.mem_filter.1 hf).2, rfl⟩

/-! ### A firing that is killed -/

theorem State.writeThrough_sameSlots {c : Nat} {ws : Sparse L1Word} :
    s.SameSlots (ws.foldl (fun s e => (s.wtWord c (4 * e.1)).toOption.getD s) s) := by
  refine foldl_keeps s.SameSlots _ _ (fun u e hu => ?_) .refl
  cases hw : u.wtWord c (4 * e.1) with
  | ok w => exact hu.trans (State.wtWord_sameSlots hw)
  | error => exact hu

theorem State.flushL1s_sameSlots {cs : List Nat} : s.SameSlots (s.flushL1s cs) := by
  unfold State.flushL1s
  refine foldl_keeps s.SameSlots cs _ (fun u c hu => ?_) .refl
  exact hu.trans (State.writeThrough_sameSlots.trans (State.modCore_sameSlots _))

theorem State.modCar_sameSlots {c : Nat} (f : Caravan → Caravan) : s.SameSlots (s.modCar c f) := .refl

theorem State.unfuse_sameSlots (ctx c : Nat) : s.SameSlots (s.unfuse ctx c) := by
  unfold State.unfuse
  split
  · exact State.flushL1s_sameSlots.trans (State.modCar_sameSlots _)
  · exact .refl

theorem State.cancelSlice_sameSlots (ctx : Nat) : s.SameSlots (s.cancelSlice ctx) := by
  unfold State.cancelSlice
  dsimp only
  split
  · exact .refl
  · exact .refl

theorem State.modLaunches_sameSlots {ids : List Nat} {ctx : Nat} {f : Nat → Running → Running} :
    s.SameSlots (ids.foldl (fun s id => s.modLaunch ctx id (f id)) s) :=
  foldl_keeps s.SameSlots ids (fun s id => s.modLaunch ctx id (f id)) (fun _ _ h => h) .refl

/-- Slot `k` is idle, and every message in its send buffer is released. -/
def State.Ended (s : State) (k : Nat) : Prop := (s.slot k).run = .idle ∧ ∀ f ∈ (s.slot k).buf, f.released = true

theorem State.Ended.of_sameSlots (h : s.Ended k) (hs : s.SameSlots t) : t.Ended k := by
  unfold State.Ended
  rw [hs.slot]
  exact h

/-- Leaving the convoy and the end of the firing keep the send buffer. -/
theorem State.ended_of_leave {f : Slot → Slot} (hb : ∀ f ∈ (s.slot k).buf, f.released = true) (hs : (s.leave k).SameSlots t)
    (hf : ∀ sl, (f sl).run = .idle ∧ (f sl).buf = sl.buf) : (t.modSlot k f).Ended k := by
  unfold State.Ended
  rw [State.slot_modSlot_same, hs.slot, State.leave_sameButConvoy.slot, (hf _).2]
  exact ⟨(hf _).1, hb⟩

theorem State.endFiring_ended (killed : Bool) (hb : ∀ f ∈ (s.slot k).buf, f.released = true) : (s.endFiring k killed).Ended k := by
  refine State.Ended.of_sameSlots (State.Ended.of_sameSlots ?_ (State.unfuse_sameSlots _ _)) (State.cancelSlice_sameSlots _)
  exact State.ended_of_leave hb State.modLaunches_sameSlots fun _ => ⟨rfl, rfl⟩

theorem State.killFiring_of_idle {cause : Nat} {addr : Word} (h : (s.slot k).run = .idle) : s.killFiring k cause addr = s :=
  if_pos (by simp [Slot.running, h])

/-- The firing of a slot that runs is killed: the slot is idle, and its unreleased messages are dropped (R222). -/
theorem State.killFiring_ended {cause : Nat} {addr : Word} (h : (s.slot k).run ≠ .idle) : (s.killFiring k cause addr).Ended k := by
  unfold State.killFiring
  dsimp only
  rw [if_neg (by simp [Slot.running, h])]
  have hbuf (u : State) (hu : (s.modSlot k fun sl => { sl with buf := sl.buf.filter fun f => f.released }).SameSlots u) :
      ∀ f ∈ (u.slot k).buf, f.released = true := by
    rw [hu.slot, State.slot_modSlot_same]
    exact fun f hf => (List.mem_filter.1 hf).2
  split
  · refine State.Ended.of_sameSlots ?_ (State.unfuse_sameSlots _ _)
    refine State.Ended.of_sameSlots ?_ State.modLaunches_sameSlots
    refine State.ended_of_leave (hbuf _ ?_) .refl fun _ => ⟨rfl, rfl⟩
    exact ⟨rfl, rfl⟩
  · refine State.Ended.of_sameSlots (State.endFiring_ended true (hbuf _ ?_)) (State.event_sameSlots ..)
    exact ⟨rfl, rfl⟩

theorem State.killFiring_idle (cause : Nat) (addr : Word) : ((s.killFiring k cause addr).slot k).run = .idle := by
  by_cases h : (s.slot k).run = .idle
  · rw [State.killFiring_of_idle h, h]
  · exact (State.killFiring_ended h).1

end

/-! ### MINJ -/

section
variable {s : State} {rs1 rs2 : Reg}

theorem minj_of_untestable (h : (s.slot s.cur).priv = .u ∨ (s.core (Claims.cc s)).test = false) :
    exec (.minj rs1 rs2) s = Claims.traps s 2 (s.wordOf (.minj rs1 rs2)) := by
  by_cases hu : (s.slot s.cur).priv = .u
  · exact runSlot_privileged_u hu
  · have ht : (!(s.core (coreOf s.cur)).test) = true := by
      rw [show (s.core (coreOf s.cur)).test = false from h.resolve_left hu]
      rfl
    exact (runSlot_privileged hu).trans (runSlot_of_trap ((act_bind_ok (x := get) rfl).trans (act_of_stop ht rfl)))

variable (hu : (s.slot s.cur).priv ≠ .u) (ht : (s.core (Claims.cc s)).test = true) (hw : slotWordOk (Claims.xs s rs1) 0 = true)
  (hk : s.ownSlot (slotOfWord (Claims.xs s rs1)) = true)
include hu ht hw hk

theorem minj_of_bad (hb : injectBad (Claims.xs s rs2) = true) : exec (.minj rs1 rs2) s = Claims.traps s 2 (Claims.xs s rs2) := by
  refine (runSlot_privileged hu).trans (runSlot_of_trap ((act_bind_ok (x := get) rfl).trans ((act_of_pass ?_).trans
    ((act_bind_ok (act_x rs1)).trans ((act_bind_ok (act_x rs2)).trans ((act_of_pass ?_).trans (act_of_stop hb rfl)))))))
  · simp [show (s.core (coreOf s.cur)).test = true from ht]
  · simp [hw, hk]

theorem minj_of_good (hb : injectBad (Claims.xs s rs2) = false) : exec (.minj rs1 rs2) s =
    .next (State.modSlot { s with injects := s.injects ++ [{ slot := s.cur, target := slotOfWord (Claims.xs s rs1), word := Claims.xs s rs2 }] }
      s.cur fun sl => { sl with wait := .flip }) := by
  refine (runSlot_privileged hu).trans (runSlot_of_ok ((act_bind_ok (x := get) rfl).trans ((act_of_pass ?_).trans
    ((act_bind_ok (act_x rs1)).trans ((act_bind_ok (act_x rs2)).trans ((act_of_pass ?_).trans ((act_of_pass ?_).trans rfl)))))))
  · simp [show (s.core (coreOf s.cur)).test = true from ht]
  · simp [hw, hk]
  · simp [hb]

end

/-! ### The flip of an injection -/

section
variable {s : State} {i : Inject} {j k : Nat}

theorem State.flip_injects : (s.flip i).injects = s.injects := by
  unfold State.flip
  dsimp only
  split
  · rfl
  · split
    · rfl
    · rfl
  · rfl
  · rfl
  · rfl

/-- A flip changes the slots that it names at most. -/
theorem State.flip_slot_other (hj : j ≠ i.target) : (s.flip i).slot j = s.slot j := by
  unfold State.flip
  dsimp only
  split
  · rfl
  · split
    · rfl
    · exact State.slot_modSlot_other _ _ hj
  · exact State.slot_modSlot_other _ _ hj
  · rfl
  · exact State.slot_modSlot_other _ _ hj

/-- A bit of a 32-bit word, in a wider one. -/
theorem setWidth_bit {b : Nat} (h : b < 32) : (1#32 <<< b).setWidth 64 = 1#64 <<< b := by
  have h32 : 2 ^ b < 2 ^ 32 := Nat.pow_lt_pow_right (by decide) h
  refine BitVec.eq_of_toNat_eq ?_
  rw [BitVec.toNat_setWidth, BitVec.toNat_shiftLeft, BitVec.toNat_shiftLeft, BitVec.toNat_ofNat, BitVec.toNat_ofNat, Nat.shiftLeft_eq,
    Nat.mod_eq_of_lt (show 1 < 2 ^ 32 by decide), Nat.one_mul, Nat.mod_eq_of_lt h32]

/-- The mask of mode 1 is one bit, in the half of the register that the injection names. -/
theorem flipMask_shifted {w : Word} (hmode : wbits w 59 58 = 1) :
    (flipMask w).setWidth 64 <<< (32 * wbits w 41 41) = 1#64 <<< (32 * wbits w 41 41 + wbits w 4 0) := by
  have hmask : flipMask w = 1#32 <<< wbits w 4 0 := if_neg (by omega)
  rw [hmask, setWidth_bit (wbits_lt w 4 0), ← BitVec.shiftLeft_add, Nat.add_comm]

/-- An injection of mode 1 into a general register flips one bit of it (R422). -/
theorem State.flip_xr (hunit : wbits i.word 63 60 = 1) (hmode : wbits i.word 59 58 = 1) (hr : wbits i.word 40 36 ≠ 0) :
    ((s.flip i).slot i.target).xr (wbits i.word 40 36) =
      (s.slot i.target).xr (wbits i.word 40 36) ^^^ (1#64 <<< (32 * wbits i.word 41 41 + wbits i.word 4 0)) := by
  simp only [State.flip, hunit, if_neg hr]
  rw [State.slot_modSlot_same, Slot.xr, if_neg hr, sget_sput_same, flipMask_shifted hmode]

/-- A slot that retires without a second mismatch goes on, and no other slot and no injection changes (R418). -/
theorem State.retire_of_no_fence (h : (s.slot k).mismatch ≠ 2) : ((s.retire k).slot k).wait = .none ∧ (s.retire k).injects = s.injects ∧
    ∀ j, j ≠ k → (s.retire k).slot j = s.slot j := by
  have hwait : ((s.commit k none).slot k).wait = .none := by
    obtain ⟨pc, rep, hc⟩ := Slot.commit_frame (sl := s.slot k) (target := none)
    rw [State.commit_slot, hc]
  have hinj : (s.commit k none).injects = s.injects := by rw [State.commit_rest]
  unfold State.retire
  rw [if_neg h]
  split
  · exact ⟨hwait, hinj, fun j => State.commit_other⟩
  · refine ⟨?_, hinj, fun j hj => (State.slot_modSlot_other _ _ hj).trans (State.commit_other hj)⟩
    rw [State.slot_modSlot_same]
    exact hwait

theorem minjFlip_of_not_ready (hi : s.injects[k]? = some i) (h : s.flipReady i = false) : exec (.minjFlip k) s = .next s := by
  change execMinjFlip k s = _
  unfold execMinjFlip
  rw [hi]
  dsimp only
  rw [h]
  rfl

/-- The flip of a waiting MINJ completes it, under the checker (R418). -/
theorem minjFlip_of_ready (hi : s.injects[k]? = some i) (h : s.flipReady i = true) (hwait : (s.slot i.slot).wait = .flip)
    (hne : i.slot ≠ i.target) :
    exec (.minjFlip k) s = .next ((State.flip { s with injects := s.injects.eraseIdx k } i).retire i.slot) := by
  have hflip : ((State.flip { s with injects := s.injects.eraseIdx k } i).slot i.slot).wait = .flip :=
    (congrArg Slot.wait (State.flip_slot_other hne)).trans hwait
  change execMinjFlip k s = _
  unfold execMinjFlip
  rw [hi]
  dsimp only
  rw [if_neg (by simp [h]), if_pos hflip]

theorem minjFlip_of_second_mismatch (hi : s.injects[k]? = some i) (h : s.flipReady i = true) (hwait : (s.slot i.slot).wait = .flip)
    (hne : i.slot ≠ i.target) (hm : (s.slot i.slot).mismatch = 2) :
    exec (.minjFlip k) s = .next ((State.flip { s with injects := s.injects.eraseIdx k } i).fenceCore i.slot) := by
  rw [minjFlip_of_ready hi h hwait hne, State.retire, if_pos]
  exact (congrArg Slot.mismatch (State.flip_slot_other hne)).trans hm

end

end Sys2Proof.Machine
end

section
/-!
SUPPORT. The privileged instructions (R170, R401, R405, R414 to R416, R418, R420, R422), from what is said of each.
-/

namespace Sys2Proof.Machine

section
variable {s : State} {rs1 : Reg} {i : Instr}

theorem exec_slotResumeForms (hi : i = .slotResume rs1 ∨ i = .slotResumeSsip rs1) : exec i s = runSlot (Act.slotResume i rs1) s := by
  rcases hi with rfl | rfl
  · rfl
  · rfl

/-- What SLOT.RESUME does once its slot word is accepted, by the operation and by whether the slot is parked. -/
theorem slotResume_effect (hu : (s.slot s.cur).priv ≠ .u) (hw : slotWordOk (Claims.xs s rs1) 1 = true)
    (hk : s.mayAct (slotOfWord (Claims.xs s rs1))) (hi : i = .slotResume rs1 ∨ i = .slotResumeSsip rs1) :
    let k := slotOfWord (Claims.xs s rs1)
    let op := wbits (Claims.xs s rs1) 3 2
    (op = 1 → exec i s = .next ((s.modSlot k fun sl => { sl with sip := setBits sl.sip 1 1 1 }).commit s.cur none)) ∧
    (op = 0 → (∀ p, (s.slot k).run ≠ .parked p) → exec i s = .next (s.commit s.cur none)) ∧
    (op = 0 → ∀ p, (s.slot k).run = .parked p → ∃ t : State, exec i s = .next (t.commit t.cur none) ∧ (∀ f ∈ t.faults, f.slot ≠ k) ∧
      t.slot k = { s.slot k with run := .stray, gfault := setBits (s.slot k).gfault 63 63 0, fresh := true }) := by
  rw [exec_slotResumeForms hi]
  refine ⟨slotResume_of_interrupt hu hw hk, fun h hp => ?_, fun h p hp => ⟨_, slotResume_of_resume hu hw hk h, State.resumeSlot_slot hp⟩⟩
  rw [slotResume_of_resume hu hw hk h, State.resumeSlot_of_not_parked hp]

end

/-- Settles O47: each instruction by its checks in their order, and by what it does to the entry, the page, the ways, the slot or the
injection that it names. -/
theorem privilegedInstructions : Obligations.PrivilegedInstructions := by
  intro s rd rs1 rs2
  refine ⟨fun i hi h => exec_of_unmanaged h hi, minj_of_untestable, slotControl_of_u, fun hu hm => ⟨
      fun h => ⟨plbFill_of_bad_index hu hm h, plbInv_of_bad_index hu hm h⟩,
      plbFill_of_misaligned hu hm,
      fun h ha bs u hl => ⟨plbFill_of_bad hu hm h ha hl, plbFill_of_good hu hm h ha hl⟩,
      plbInv_of_index hu hm,
      pgFlush_of_wait hu hm,
      fun h => ⟨_, pgFlush_of_ready hu hm h, rfl, fun g hg =>
        ⟨State.pgFlush_l1 hg, State.pgFlush_trans hg, State.pgFlush_l2 hg, State.pgFlush_ic hg⟩⟩,
      waysCfg_of_bad_slice hu hm,
      fun h h' => ⟨waysCfg_of_bad_mask hu hm h h', waysCfg_of_wait hu hm h h',
        fun hb hb' hw => ⟨_, waysCfg_of_ready hu hm h h' hb hb' hw, State.setWays_ways⟩⟩,
      tslice_of_bad_context hu hm,
      tslice_of_misaligned hu hm,
      fun h ha bs u hl => ⟨tslice_of_bad hu hm h ha hl, tslice_of_good hu hm h ha hl⟩⟩,
    fun hu => ⟨
      fun h => ⟨slotResume_of_bad hu (slotWordOk_eq_false h), slotResume_of_bad hu (slotWordOk_eq_false h)⟩,
      fun h => slotKill_of_bad hu (slotWordOk_eq_false h),
      fun h h' hop hk i hi => slotResume_effect hu (slotWordOk_eq_true h h' hop) hk hi,
      fun h h' hop hk => ⟨_, slotKill_of_good hu (slotWordOk_eq_true h h' hop.le) hk, State.killFiring_idle 0 0,
        fun hrun => (State.killFiring_ended hrun).2⟩,
      fun ht h h' hop hk => ⟨minj_of_bad hu ht (slotWordOk_eq_true h h' hop.le) hk, minj_of_good hu ht (slotWordOk_eq_true h h' hop.le) hk⟩⟩,
    fun k i hi => ⟨minjFlip_of_not_ready hi, minjFlip_of_second_mismatch hi, fun h hwait hne hm => ?_⟩⟩
  have hm' : ((State.flip { s with injects := s.injects.eraseIdx k } i).slot i.slot).mismatch ≠ 2 := by
    rw [State.flip_slot_other hne]
    exact hm
  obtain ⟨hnone, hinj, hslot⟩ := State.retire_of_no_fence hm'
  refine ⟨_, minjFlip_of_ready hi h hwait hne, hinj.trans State.flip_injects, hnone, fun hunit hmode hr => ?_⟩
  rw [hslot _ hne.symm, State.flip_xr hunit hmode hr]
  rfl

end Sys2Proof.Machine
end

section
/-!
SUPPORT. The signal instructions (R223, R229): a signal vector by its four words, and what the shared operation of SIGSET and SIGCLR does.
-/

namespace Sys2Proof.Machine

/-! ### The words of a signal vector -/

/-- A change of word `i` of a signal vector shows in word `i` alone. -/
theorem sigWord_setSigWord (v : BitVec 256) {i j : Nat} (w : Word) (hi : i < 4) (hj : j < 4) :
    sigWord (setSigWord v i w) j = if j = i then w else sigWord v j := by
  ext b hb
  simp only [sigWord, setSigWord, BitVec.getElem_extractLsb', BitVec.getLsbD_xor, BitVec.getLsbD_shiftLeft, BitVec.getLsbD_setWidth,
    BitVec.getLsbD_extractLsb']
  have hlt : 64 * j + b < 256 := by omega
  rcases Nat.lt_trichotomy j i with h | rfl | h
  · have hbelow : 64 * j + b < 64 * i := by omega
    simp [hbelow, h.ne]
  · have hlt' : b < 256 := by omega
    simp [hlt, hlt', hb]
  · have habove : 64 ≤ 64 * j + b - 64 * i := by omega
    simp [BitVec.getLsbD_of_ge w _ habove, Nat.not_lt.2 habove, h.ne']

/-! ### SIGSET, SIGCLR and SIGTEST -/

section
variable {s t : State} {rd rs1 rs2 : Reg} {f : Word → Word → Word}

theorem sigOp_of_bad_index (h : 3 < (Claims.xs s rs1).toNat) : runSlot (Act.sigOp rs1 rs2 f) s = Claims.traps s 27 9 :=
  runSlot_of_trap ((act_bind_ok (act_x rs1)).trans ((act_bind_ok (act_x rs2)).trans (act_of_stop h rfl)))

/-- SIGSET and SIGCLR release, and then change one word of the signals of the slot's context. -/
theorem sigOp_of_release (h : (Claims.xs s rs1).toNat ≤ 3) (hr : s.release (Claims.cc s) .package = .ok t) :
    runSlot (Act.sigOp rs1 rs2 f) s =
      let u := t.modCtx (t.ctxOf t.cur) fun c => { c with
        sig := setSigWord c.sig (Claims.xs s rs1).toNat (f (sigWord c.sig (Claims.xs s rs1).toNat) (Claims.xs s rs2)) }
      .next (u.commit u.cur none) :=
  runSlot_of_ok ((act_bind_ok (act_x rs1)).trans ((act_bind_ok (act_x rs2)).trans ((act_of_pass (Nat.not_lt.2 h)).trans
    (act_bind_ok (release_of_ok hr)))))

theorem sigtest_of_bad_index (h : 3 < (Claims.xs s rs1).toNat) : exec (.sigtest rd rs1 rs2) s = Claims.traps s 27 9 :=
  runSlot_of_trap ((act_bind_ok (act_x rs1)).trans ((act_bind_ok (act_x rs2)).trans (act_of_stop h rfl)))

theorem sigtest_of_index (h : (Claims.xs s rs1).toNat ≤ 3) :
    exec (.sigtest rd rs1 rs2) s =
      let u := (s.modSlot s.cur fun sl => sl.setX rd.toNat
        (sigWord (s.ctx (s.ctxOf s.cur)).sig (Claims.xs s rs1).toNat &&& Claims.xs s rs2)).acquire (Claims.cc s) .package
      .next (u.commit u.cur none) :=
  runSlot_of_ok ((act_bind_ok (act_x rs1)).trans ((act_bind_ok (act_x rs2)).trans (act_of_pass (Nat.not_lt.2 h))))

end

/-- Settles O33: SIGSET and SIGCLR are one operation with their own function of the old word, and a signal vector is its four words. -/
theorem signalInstructions : Obligations.SignalInstructions :=
  ⟨fun _ _ _ _ => ⟨fun h => ⟨sigOp_of_bad_index h, sigOp_of_bad_index h, sigtest_of_bad_index h⟩,
    fun h _ hr => ⟨sigOp_of_release h hr, sigOp_of_release h hr⟩, sigtest_of_index⟩,
  fun v _ _ w hi hj => ⟨rfl, sigWord_setSigWord v w hi hj⟩⟩

end Sys2Proof.Machine
end

section
/-!
SUPPORT. LAUNCH and the stash (R223 to R225, R304, R306): the checks of a launch in their order, and the granules that the stash hands out.
-/

namespace Sys2Proof.Machine

/-! ### LAUNCH -/

section
variable {s t u : State} {rd rs1 rs2 : Reg} {a q : Nat} {bs : List Byte} {ws : List Word}

theorem launch_of_bad_queue (h : 7 < (Claims.xs s rs2).toNat) : exec (.launch rd rs1 rs2) s = Claims.traps s 27 8 :=
  runSlot_of_trap ((act_bind_ok (act_x rs1)).trans ((act_bind_ok (act_x rs2)).trans (act_of_stop h rfl)))

theorem launch_of_misaligned (h : (Claims.xs s rs2).toNat ≤ 7) (ha : (Claims.xs s rs1).toNat % 2 ^ 56 % 128 ≠ 0) :
    exec (.launch rd rs1 rs2) s = Claims.traps s 4 (wordOfNat ((Claims.xs s rs1).toNat % 2 ^ 56)) :=
  runSlot_of_trap ((act_bind_ok (act_x rs1)).trans ((act_bind_ok (act_x rs2)).trans ((act_of_pass (Nat.not_lt.2 h)).trans
    (act_of_stop ha rfl))))

/-- What LAUNCH does with the words of its record (R224, R225). -/
def Act.launchWords (rd : Reg) (q : Nat) (ws : List Word) : Act Unit := do
  if recordBad ws then Act.trap 27 6
  let s ← get
  let ctx := s.ctxOf s.cur
  if !s.assigned ctx (placementOf (ws.getD 1 0)) then Act.trap 27 7
  if 64 ≤ (sget [] (s.ctx ctx).queues q).length then Act.wait
  let sl ← Act.slot
  let id ← (fun s => .ok (s.enqueueLaunch ctx q ws sl.ccont (some (coreOf s.cur)) 0 sl.stage) : Act Nat)
  Act.setX rd (wordOfNat id)
  Act.next

theorem launchWords_of_bad (h : recordBad ws = true) : Act.launchWords rd q ws t = .error (.trap 27 6) := act_of_stop h rfl

section
variable (h : recordBad ws = false)
include h

theorem launchWords_of_unassigned (hp : t.assigned (t.ctxOf t.cur) (placementOf (ws.getD 1 0)) = false) :
    Act.launchWords rd q ws t = .error (.trap 27 7) :=
  (act_of_pass (by simp [h])).trans ((act_bind_ok (x := get) rfl).trans (act_of_stop (by rw [hp]; decide) rfl))

/-- The state in which the executing slot's launch has joined its queue, with the launch's id. -/
def State.launched (t : State) (q : Nat) (ws : List Word) : Nat × State :=
  t.enqueueLaunch (t.ctxOf t.cur) q ws (t.slot t.cur).ccont (some (t.cur / 4)) 0 (t.slot t.cur).stage

theorem launchWords_of_assigned (hp : t.assigned (t.ctxOf t.cur) (placementOf (ws.getD 1 0)) = true)
    (hq : (sget [] (t.ctx (t.ctxOf t.cur)).queues q).length < 64) :
    Act.launchWords rd q ws t = .ok ((), (t.launched q ws).2.resulted rd (wordOfNat (t.launched q ws).1)) :=
  (act_of_pass (by simp [h])).trans ((act_bind_ok (x := get) rfl).trans ((act_of_pass (by rw [hp]; decide)).trans
    (act_of_pass (Nat.not_le.2 hq))))

end

/-- LAUNCH once its queue and its record's alignment are checked. -/
theorem exec_launch (h : (Claims.xs s rs2).toNat ≤ 7) (ha : (Claims.xs s rs1).toNat % 2 ^ 56 % 128 = 0) :
    exec (.launch rd rs1 rs2) s = runSlot (Act.released .package do
      let before ← get
      let bs ← Act.loadRecord ((Claims.xs s rs1).toNat % 2 ^ 56) 128
      Act.kept before ((Claims.xs s rs1).toNat % 2 ^ 56) 128
        (Act.launchWords rd (Claims.xs s rs2).toNat (wordsOf 16 bs))) s :=
  runSlot_congr ((act_bind_ok (act_x rs1)).trans ((act_bind_ok (act_x rs2)).trans ((act_of_pass (Nat.not_lt.2 h)).trans
    (act_of_pass (not_not.2 ha)))))

/-- A release, and an instruction that stops after it: the walks of the release stay. -/
theorem released_of_stop {act : Act Unit} {sc : Scope} {e : Stop} (hr : s.release (Claims.cc s) sc = .ok u) (h : act u = .error e) :
    Act.released sc act s = .error (Stop.afterAll ((s.releaseWalks (Claims.cc s) sc).map fun b => (b, true)) e) := by
  unfold Act.released
  rw [release_of_ok hr]
  exact keepAll_of_error h

/-- An instruction that traps after the walks of its release and of its reads. -/
theorem runSlot_of_trapAfterReads {act : Act Unit} {ws ws' : List (Nat × Bool)} {cause : Nat} {tval : Word}
    (h : act s = .error (Stop.afterAll ws (Stop.afterAll ws' (.trap cause tval)))) :
    runSlot act s = Claims.traps (Claims.walks (Claims.walks s ws) ws') cause tval := by
  rw [runSlot_of_error h, Stop.apply_afterAll, Stop.apply_afterAll]
  rfl

variable (h : (Claims.xs s rs2).toNat ≤ 7) (ha : (Claims.xs s rs1).toNat % 2 ^ 56 % 128 = 0)
  (hr : s.release (Claims.cc s) .package = .ok u) (hl : Act.loadRecord ((Claims.xs s rs1).toNat % 2 ^ 56) 128 u = .ok (bs, t))
include h ha hr hl

theorem launch_of_trap {cause : Nat} {tval : Word}
    (hw : Act.launchWords rd (Claims.xs s rs2).toNat (wordsOf 16 bs) t = .error (.trap cause tval)) :
    exec (.launch rd rs1 rs2) s =
      Claims.trapsRead (Claims.relWalks s .package) u ((Claims.xs s rs1).toNat % 2 ^ 56) 128 cause tval :=
  (exec_launch h ha).trans (runSlot_of_trapAfterReads (released_of_stop hr ((act_bind_ok (x := get) rfl).trans
    ((act_bind_ok hl).trans (keepAll_of_error hw)))))

theorem launch_of_ok {v : State} (hw : Act.launchWords rd (Claims.xs s rs2).toNat (wordsOf 16 bs) t = .ok ((), v)) :
    exec (.launch rd rs1 rs2) s = .next v :=
  (exec_launch h ha).trans (runSlot_of_ok ((Act.released_ok _ _ _ _).2 ⟨u, release_of_ok hr, (act_bind_ok (x := get) rfl).trans
    ((act_bind_ok hl).trans ((Act.kept_ok _ _ _ _ _ _).2 hw))⟩))

end

/-! ### The stash -/

section
variable {s : State} {rd rs1 : Reg}

/-- The bytes that STASH.ALLOC needs for `n` bytes: whole granules of 256 (R306). -/
def granules (n : Word) : Nat := (n.toNat + 255) / 256 * 256

theorem stashAlloc_of_refused (h : Claims.xs s rs1 = 0 ∨ stashSize (s.core (Claims.cc s)).stash = 0 ∨
    stashSize (s.core (Claims.cc s)).stash < (s.core (Claims.cc s)).used + granules (Claims.xs s rs1)) :
    exec (.stashAlloc rd rs1) s = Claims.result s rd 0 := by
  refine runSlot_of_ok ((act_bind_ok (act_x rs1)).trans ((act_bind_ok (x := get) rfl).trans ?_))
  refine (congrFun (if_pos ?_) s).trans rfl
  rw [Bool.or_eq_true, Bool.or_eq_true, decide_eq_true_eq, decide_eq_true_eq, decide_eq_true_eq, or_assoc]
  exact h

/-- The stash hands out its next granules. -/
theorem stashAlloc_of_room (h : Claims.xs s rs1 ≠ 0) (hs : stashSize (s.core (Claims.cc s)).stash ≠ 0)
    (hroom : (s.core (Claims.cc s)).used + granules (Claims.xs s rs1) ≤ stashSize (s.core (Claims.cc s)).stash) :
    exec (.stashAlloc rd rs1) s = .next (((s.modCore (Claims.cc s) fun c => { c with used := c.used + granules (Claims.xs s rs1) }).resulted rd
      (wordOfNat (stashBase (s.core (Claims.cc s)).stash + (s.core (Claims.cc s)).used)))) := by
  refine runSlot_of_ok ((act_bind_ok (act_x rs1)).trans ((act_bind_ok (x := get) rfl).trans ?_))
  refine (congrFun (if_neg ?_) s).trans rfl
  rw [Bool.or_eq_true, Bool.or_eq_true, decide_eq_true_eq, decide_eq_true_eq, decide_eq_true_eq, or_assoc]
  exact not_or.2 ⟨h, not_or.2 ⟨hs, Nat.not_lt.2 hroom⟩⟩

theorem exec_stashFree : exec (.stashFree rs1) s = .next ((s.modCore (Claims.cc s) fun c =>
    if stashBase c.stash ≤ va (Claims.xs s rs1) ∧ va (Claims.xs s rs1) < stashBase c.stash + c.used
      then { c with used := (va (Claims.xs s rs1) - stashBase c.stash) / 256 * 256 } else c).commit s.cur none) :=
  rfl

end

/-- Settles O32: a launch by its checks in their order, and the stash by what it has handed out. -/
theorem launchAndStash : Obligations.LaunchAndStash := by
  refine ⟨fun s rd rs1 rs2 => ⟨launch_of_bad_queue, launch_of_misaligned, fun h ha u bs t hr hl => ⟨fun hb => ?_, fun hb hp => ?_,
      fun hb hp hq => ⟨?_, rfl⟩⟩⟩,
    fun s rd rs1 => ⟨stashAlloc_of_refused, fun h hs hroom => ⟨_, stashAlloc_of_room h hs hroom, ?_, ?_⟩, ⟨_, exec_stashFree, ?_⟩⟩⟩
  · exact launch_of_trap h ha hr hl (launchWords_of_bad hb)
  · exact launch_of_trap h ha hr hl (launchWords_of_unassigned hb hp)
  · exact launch_of_ok h ha hr hl (launchWords_of_assigned hb hp hq)
  · rw [State.resulted_core, State.core_modCore_same]
    rfl
  · exact State.SameSlots.resulted_rd (State.modCore_sameSlots _)
  · rw [State.commit_core, State.core_modCore_same]
    exact apply_ite Core.used _ _ _

end Sys2Proof.Machine
end

section
/-!
SUPPORT. The queue instructions, SEND, SEAL and DONE (R203, R204, R209 to R213, R219, R221), and a SEND.C message at its target (R220,
R288).
-/

namespace Sys2Proof.Machine

/-! ### HBIND, QCTL and QSTAT -/

section
variable {s t : State} {rd rs1 rs2 : Reg} {bs : List Byte}

theorem hbind_of_bad_queue (h : 7 < (Claims.xs s rs1).toNat) : exec (.hbind rs1 rs2) s = Claims.traps s 27 1 :=
  runSlot_of_trap ((act_bind_ok (act_x rs1)).trans ((act_bind_ok (act_x rs2)).trans (act_of_stop h rfl)))

theorem hbind_of_misaligned (h : (Claims.xs s rs1).toNat ≤ 7) (ha : (Claims.xs s rs2).toNat % 2 ^ 56 % 32 ≠ 0) :
    exec (.hbind rs1 rs2) s = Claims.traps s 4 (wordOfNat ((Claims.xs s rs2).toNat % 2 ^ 56)) :=
  runSlot_of_trap ((act_bind_ok (act_x rs1)).trans ((act_bind_ok (act_x rs2)).trans ((act_of_pass (Nat.not_lt.2 h)).trans
    (act_of_stop ha rfl))))

/-- What HBIND does with the record that it has read (R209, R210). -/
def Act.bindQueue (before : State) (a q : Nat) (bs : List Byte) : Act Unit :=
  match bindRecord bs with
  | .error c => Act.kept before a 32 (Act.trap 27 (wordOfNat c))
  | .ok r => do
    Act.mod fun s => s.modCore (coreOf s.cur) fun c => { c with qattr := sset c.qattr q r }
    Act.next

section
variable (h : (Claims.xs s rs1).toNat ≤ 7) (ha : (Claims.xs s rs2).toNat % 2 ^ 56 % 32 = 0)
  (hl : s.load (Claims.cc s) ((Claims.xs s rs2).toNat % 2 ^ 56) 32 false = .ok (bs, t))
include h ha hl

theorem exec_hbind : exec (.hbind rs1 rs2) s =
    runSlot (fun _ => Act.bindQueue s ((Claims.xs s rs2).toNat % 2 ^ 56) (Claims.xs s rs1).toNat bs t) s :=
  runSlot_congr ((act_bind_ok (act_x rs1)).trans ((act_bind_ok (act_x rs2)).trans ((act_of_pass (Nat.not_lt.2 h)).trans
    ((act_of_pass (not_not.2 ha)).trans ((act_bind_ok (x := get) rfl).trans (act_bind_ok hl))))))

theorem hbind_of_malformed {code : Nat} (hb : bindRecord bs = .error code) :
    exec (.hbind rs1 rs2) s = Claims.trapsRead s s ((Claims.xs s rs2).toNat % 2 ^ 56) 32 27 (wordOfNat code) := by
  rw [exec_hbind h ha hl]
  unfold Act.bindQueue
  rw [hb]
  exact runSlot_of_releaseFails rfl

theorem hbind_of_record {r : QAttr} (hb : bindRecord bs = .ok r) :
    exec (.hbind rs1 rs2) s = .next ((t.modCore (t.cur / 4) fun k => { k with qattr := sset k.qattr (Claims.xs s rs1).toNat r }).commit
      t.cur none) := by
  rw [exec_hbind h ha hl]
  unfold Act.bindQueue
  rw [hb]
  rfl

end

theorem qstat_of_bad_queue (h : 7 < (Claims.xs s rs1).toNat) : exec (.qstat rd rs1) s = Claims.traps s 27 1 :=
  runSlot_of_trap ((act_bind_ok (act_x rs1)).trans (act_of_stop h rfl))

theorem qstat_of_queue (h : (Claims.xs s rs1).toNat ≤ 7) :
    exec (.qstat rd rs1) s = Claims.result s rd (s.qstat (Claims.cc s) (Claims.xs s rs1).toNat) :=
  runSlot_of_ok ((act_bind_ok (act_x rs1)).trans (act_of_pass (Nat.not_lt.2 h)))

theorem qctl_of_reserved (h : wbits (Claims.xs s rs1) 63 8 ≠ 0 ∨ wbits (Claims.xs s rs2) 63 1 ≠ 0) :
    exec (.qctl rs1 rs2) s = Claims.traps s 27 2 :=
  runSlot_of_trap ((act_bind_ok (act_x rs1)).trans ((act_bind_ok (act_x rs2)).trans (act_of_stop (by simpa using h) rfl)))

/-- The attributes of the queues once those that the mask `p` names are enabled or disabled (R212). -/
def enableQueues (p : Word) (en : Bool) (qa : Sparse QAttr) (n : Nat) : Sparse QAttr :=
  forRange n (fun q m => if wbit p q then sset m q { sget .unbound m q with en } else m) qa

theorem qctl_of_masks (h : wbits (Claims.xs s rs1) 63 8 = 0) (h' : wbits (Claims.xs s rs2) 63 1 = 0) :
    exec (.qctl rs1 rs2) s = .next ((s.modCore (Claims.cc s) fun k =>
      { k with qattr := enableQueues (Claims.xs s rs1) (wbit (Claims.xs s rs2) 0) (s.core (Claims.cc s)).qattr 8 }).commit s.cur none) :=
  runSlot_of_ok ((act_bind_ok (act_x rs1)).trans ((act_bind_ok (act_x rs2)).trans (act_of_pass (by simp [h, h']))))

/-- The first `n` queues are each enabled or disabled where the mask names them, and the others stay. -/
theorem sget_enableQueues (p : Word) (en : Bool) (qa : Sparse QAttr) (n q : Nat) : sget .unbound (enableQueues p en qa n) q =
    if q < n ∧ wbit p q = true then { sget .unbound qa q with en } else sget .unbound qa q := by
  induction n with
  | zero => rfl
  | succ n ih =>
    have hstep : enableQueues p en qa (n + 1) = if wbit p n then
        sset (enableQueues p en qa n) n { sget .unbound (enableQueues p en qa n) n with en } else enableQueues p en qa n :=
      forRange_succ ..
    rw [hstep]
    by_cases hq : q = n
    · subst hq
      cases hp : wbit p q <;> simp [ih, hp]
    · have hlt : q < n + 1 ↔ q < n := by omega
      simp only [hlt, ← ih]
      split
      · exact sget_sset_other _ _ _ hq
      · rfl

end

/-! ### SEND and SEND.C -/

section
variable {s : State} {rs1 : Reg} {cap : Option Reg} {g : BitVec 4}

/-- The registers of group `g`. -/
def groupRegs (g : BitVec 4) : List Nat := (List.range 4).map fun i => 4 * g.toNat + i

/-- The buffer entry that SEND or SEND.C makes of group `g` (R203, R219). -/
def State.sentBy (s : State) (d : Word) (g : BitVec 4) (c : Option Word) : Flight :=
  let o := s.slot s.cur
  { dest := d, cap := c, ccont := o.ccont, ticket := o.rticket, bwin := o.bwin, released := false, event := false, target := destCore d
    msg := { words := groupWords ((groupRegs g).map o.vr), stage := o.stage, src := s.cur, fid := wbits o.firing 63 32,
             ctx := s.ctxOf s.cur, launch := none, replay := false } }

theorem sendOp_of_bad_dest (h : destOk (Claims.xs s rs1) cap.isSome = false) : runSlot (Act.sendOp rs1 g cap) s = Claims.traps s 27 5 :=
  runSlot_of_trap ((act_bind_ok (act_x rs1)).trans (act_of_stop (by rw [h]; decide) rfl))

theorem Slot.popPorts_of_unbound {sl : Slot} {srcs : List Nat} (h : ∀ n ∈ srcs, sl.bound n = false) : sl.popPorts srcs = sl := by
  unfold Slot.popPorts
  generalize hl : srcs.dedup = l
  have hall : ∀ n ∈ l, sl.bound n = false := fun n hn => h n (List.mem_dedup.1 (hl ▸ hn))
  clear hl
  induction l with
  | nil => rfl
  | cons n l ih =>
    rw [List.foldl_cons, if_neg (by simp [hall n (.head _)])]
    exact ih fun m hm => hall m (.tail _ hm)

/-- Registers that are no bound ports yield their values. -/
theorem Slot.mapM_vsrc_of_unbound {sl : Slot} {ns : List Nat} (h : ∀ n ∈ ns, sl.bound n = false) :
    ns.mapM sl.vsrc = some (ns.map sl.vr) := by
  induction ns with
  | nil => rfl
  | cons n ns ih =>
    have hn : sl.vsrc n = some (sl.vr n) := by simp [Slot.vsrc, h n (.head _)]
    rw [List.mapM_cons, hn, ih fun m hm => h m (.tail _ hm)]
    rfl

section
variable (hb : ∀ j, j < 4 → (s.slot s.cur).bound (4 * g.toNat + j) = false) (hd : destOk (Claims.xs s rs1) cap.isSome = true)
include hb

theorem groupRegs_unbound : ∀ n ∈ groupRegs g, (s.slot s.cur).bound n = false := by
  intro n hn
  obtain ⟨j, hj, rfl⟩ := List.mem_map.1 hn
  exact hb j (List.mem_range.1 hj)

include hd

theorem sendOp_of_full (hfull : 64 ≤ (s.slot s.cur).buf.length) (hrel : ∀ f ∈ (s.slot s.cur).buf, f.released = false) :
    runSlot (Act.sendOp rs1 g cap) s = Claims.traps s 27 4 := by
  refine runSlot_of_trap ((act_bind_ok (act_x rs1)).trans ((act_of_pass (by rw [hd]; decide)).trans
    ((act_bind_ok (mapM_v_of_some (Slot.mapM_vsrc_of_unbound (groupRegs_unbound hb)))).trans ((act_bind_ok (x := Act.slot) rfl).trans ?_))))
  have hnone : ¬ (s.slot s.cur).buf.any (·.released) = true := by simpa using hrel
  rw [if_pos hfull, if_neg hnone]
  rfl

/-- The message joins the slot's buffer. -/
theorem sendOp_of_room (hroom : (s.slot s.cur).buf.length < 64) :
    runSlot (Act.sendOp rs1 g cap) s = Claims.done s fun sl =>
      { sl with buf := sl.buf ++ [s.sentBy (Claims.xs s rs1) g (cap.map (Claims.xs s))],
                rticket := if cap.isSome then sl.rticket + 1 else sl.rticket } := by
  have hpop := Slot.popPorts_of_unbound (groupRegs_unbound hb)
  have hsent : Act.sendOp rs1 g cap s = .ok ((), (s.modSlot s.cur fun sl =>
      { sl.popPorts (groupRegs g) with buf := sl.buf ++ [s.sentBy (Claims.xs s rs1) g (cap.map (Claims.xs s))],
                                       rticket := if cap.isSome then sl.rticket + 1 else sl.rticket }).commit s.cur none) := by
    refine (act_bind_ok (act_x rs1)).trans ((act_of_pass (by rw [hd]; decide)).trans
      ((act_bind_ok (mapM_v_of_some (Slot.mapM_vsrc_of_unbound (groupRegs_unbound hb)))).trans ((act_bind_ok (x := Act.slot) rfl).trans
      ((act_of_pass (Nat.not_le.2 hroom)).trans ((act_bind_ok (x := get) rfl).trans ?_)))))
    cases cap with
    | none => rfl
    | some r => rfl
  rw [runSlot_of_ok hsent, State.modSlot_congr]
  · rfl
  · simp only [hpop]

end
end

/-! ### SEAL and DONE -/

section
variable {s t : State} (hr : s.release (Claims.cc s) .package = .ok t)
include hr

/-- Marks every entry of a slot's buffer released (R221). -/
def Slot.releaseAll (sl : Slot) : Slot := { sl with buf := sl.buf.map fun f => { f with released := true } }

theorem releaseBuffer_of_release : Act.releaseBuffer s = .ok ((), t.modSlot t.cur Slot.releaseAll) := act_bind_ok (release_of_ok hr)

theorem sealF_of_release : exec .sealF s = .next (((t.modSlot t.cur Slot.releaseAll).modSlot t.cur fun sl =>
    { sl with firing := setBits sl.firing 4 4 1 }).commit t.cur none) :=
  runSlot_of_ok (act_bind_ok (releaseBuffer_of_release hr))

theorem done_of_release : exec .done s = .next (State.endFiring ((t.modSlot t.cur Slot.releaseAll).modSlot t.cur fun sl =>
    { sl with instret := sl.instret + 1 }) t.cur false) :=
  runSlot_of_ok (act_bind_ok (releaseBuffer_of_release hr))

end

/-- The end of a firing leaves its slot idle, with its buffer as it was. -/
theorem State.endFiring_slot (s : State) (k : Nat) (killed : Bool) : ((s.endFiring k killed).slot k).run = .idle ∧
    ((s.endFiring k killed).slot k).trig = [] ∧ ((s.endFiring k killed).slot k).rep = none ∧
    ((s.endFiring k killed).slot k).buf = (s.slot k).buf := by
  have hslot : ∃ u : State, (s.leave k).SameSlots u ∧ (s.endFiring k killed).slot k =
      { u.slot k with run := .idle, trig := [], rep := none, wait := .none, fresh := false } :=
    ⟨_, State.modLaunches_sameSlots, (((State.unfuse_sameSlots _ _).trans (State.cancelSlice_sameSlots _)).slot k).trans
      (State.slot_modSlot_same _ _ _)⟩
  obtain ⟨u, hu, hs⟩ := hslot
  rw [hs, hu.slot, State.leave_sameButConvoy.slot]
  exact ⟨rfl, rfl, rfl, rfl⟩

/-- Settles O29: each queue instruction by its checks; a message is made of the group's eight words; and what SEAL and DONE do once they
have released. -/
theorem queuesAndMessages : Obligations.QueuesAndMessages := by
  refine ⟨fun s rd rs1 rs2 => ⟨fun h => ⟨hbind_of_bad_queue h, qstat_of_bad_queue h⟩, hbind_of_misaligned,
      fun h ha bs t hl => ⟨fun _ => hbind_of_malformed h ha hl, fun _ => hbind_of_record h ha hl⟩, qstat_of_queue, qctl_of_reserved,
      fun h h' => ⟨_, qctl_of_masks h h', fun q hq => ?_⟩⟩,
    fun s rs1 cap g => ⟨sendOp_of_bad_dest (cap := none), sendOp_of_bad_dest (cap := some cap), fun hb => ⟨
      sendOp_of_room (cap := none) hb, sendOp_of_room (cap := some cap) hb, sendOp_of_full (cap := none) hb⟩⟩,
    fun s t hr => ⟨sealF_of_release hr, _, done_of_release hr, ?_⟩⟩
  · rw [sget_enableQueues]
    simp only [hq, true_and]
  · obtain ⟨hrun, htrig, hrep, hbuf⟩ := State.endFiring_slot ((t.modSlot t.cur Slot.releaseAll).modSlot t.cur fun sl =>
      { sl with instret := sl.instret + 1 }) t.cur false
    refine ⟨hrun, htrig, hrep, hbuf.trans ?_⟩
    rw [State.slot_modSlot_same, State.slot_modSlot_same]
    rfl

/-! ### A SEND.C message at its target -/

section
variable {s : State} {k : Nat} {f : Flight}

/-- What a command message does that neither waits behind another nor for its context (R206, R220, R288). -/
theorem remoteCommandArrive_of_present (hf : s.toDest[k]? = some f) (hm : destMode f.dest = 2) (hb : s.behind k f = false)
    (hc : (s.ctx f.msg.ctx).caravans.contains (f.target / 8) = true) (hp : s.present f.msg.ctx f.target = true) :
    exec (.remoteCommandArrive k) s = .next (
      if !capOk f.msg.ctx (f.cap.getD 0) f.target (tcwOfMessage f.msg.words).engine then
        State.event { s with toDest := s.toDest.eraseIdx k } f.msg.ctx { kind := 0, pos := f.target } 2 28 0 (wordOfNat f.msg.fid)
          (f.cap.getD 0) (s.senderCoord f.msg.src) (f.msg.words.getD 0 0) 0
      else if 4 ≤ ((s.core f.target).remote (tcwOfMessage f.msg.words).engine).length then s
      else State.modCore { s with toDest := s.toDest.eraseIdx k } f.target fun c =>
        { c with remotes := sset c.remotes (tcwOfMessage f.msg.words).engine
                              (c.remote (tcwOfMessage f.msg.words).engine ++ [s.remoteCmd f]) }) := by
  have hfault : s.arriveFault f = none := by
    unfold State.arriveFault
    rw [hc, hm]
    rfl
  change execRemoteCommandArrive k s = _
  unfold execRemoteCommandArrive
  rw [hf]
  dsimp only
  rw [if_neg (by simp [hm, hb]), if_neg (by simp [hp]), hfault]

end

/-- Settles O36: the capability is checked first, and then a remote entry is filled where one is free. -/
theorem remoteCommands : Obligations.RemoteCommands := by
  intro s k f hf hm hb hc hp
  have h := remoteCommandArrive_of_present hf hm hb hc hp
  refine ⟨fun hcap => ?_, fun hcap hroom => ?_, fun hcap hfull => ?_⟩
  · rw [h, hcap]
    rfl
  · refine ⟨_, s.remoteCmd f, h.trans (congrArg _ ((if_neg (by rw [hcap]; decide)).trans (if_neg (Nat.not_le.2 hroom)))), rfl, ?_, rfl, rfl, rfl,
      rfl, rfl⟩
    rw [State.core_modCore_same, Core.remote, sget_sset, if_pos rfl]
    rfl
  · rw [h, hcap, if_neg (by decide), if_pos hfull]

end Sys2Proof.Machine
end

section
/-!
SUPPORT. The way of a message (R205 to R208, R219, R403): from a slot's buffer to the inbox queue or the spill area of a core, or to its
refusal, and the stage map.
-/

namespace Sys2Proof.Machine

/-! ### The sender's side -/

section
variable {s : State} {f : Flight} {core k : Nat}

theorem messageDepart_of_released {slot : Nat} {rest : List Flight} (hb : (s.slot slot).buf = f :: rest) (hr : f.released = true)
    (hq : s.toSeq = []) (hf : s.remoteFull f = false) :
    exec (.messageDepart slot) s = .next ((s.modSlot slot fun sl => { sl with buf := rest }).emit (slot / 4) f) := by
  change execMessageDepart slot s = _
  unfold execMessageDepart
  rw [hb]
  dsimp only
  rw [if_pos (by simp [hr, hq, hf])]
  rfl

theorem State.emit_of_local (hd : s.departFault f.dest = none) (hm : destMode f.dest ≠ 1) (hl : s.isLocal f.dest = true) :
    s.emit core f = { s with toDest := s.toDest ++ [f] } := by
  unfold State.emit
  rw [hd]
  dsimp only
  rw [if_neg hm, if_pos hl]

section
variable (hf : s.toSeq[k]? = some f)
include hf

theorem stageResolve_of_resolved {c : Nat} (hr : s.resolveStage f = some c) : exec (.stageResolve k) s =
    .next { s with toSeq := s.toSeq.eraseIdx k, toDest := s.toDest ++ [{ f with target := c }] } := by
  change Host.Outcome.next (s.resolveAt k) = _
  unfold State.resolveAt
  rw [hf]
  dsimp only
  rw [hr]

theorem stageResolve_of_refused (hr : s.resolveStage f = none) : exec (.stageResolve k) s =
    .next (State.refuse { s with toSeq := s.toSeq.eraseIdx k } f { kind := 3, pos := 0 } 5
      (wordOfInt (f.msg.stage.toNat + sextInt 8 (destDs f.dest)))) := by
  change Host.Outcome.next (s.resolveAt k) = _
  unfold State.resolveAt
  rw [hf]
  dsimp only
  rw [hr]

end

/-- The map of a stage onto itself is the identity for a core inside the placement (R205). -/
theorem State.resolveStage_same_stage {p : Placement} (hp : sfind (s.ctx f.msg.ctx).stageMap f.msg.stage.toNat = some p)
    (hds : destDs f.dest = 0) (hc : coreOf f.msg.src < 8192) (hdie : p.dies.testBit (dieOf (coreOf f.msg.src)) = true)
    (hy : p.ty0 ≤ coreOf f.msg.src / 128 % 16) (hy' : coreOf f.msg.src / 128 % 16 ≤ p.ty0 + p.h)
    (hx : p.tx0 ≤ coreOf f.msg.src / 8 % 16) (hx' : coreOf f.msg.src / 8 % 16 ≤ p.tx0 + p.w)
    (hi : p.cores.testBit (coreOf f.msg.src % 8) = true) : s.resolveStage f = some (coreOf f.msg.src) := by
  have hstage : (f.msg.stage.toNat : Int) + sextInt 8 (destDs f.dest) = f.msg.stage.toNat := by
    rw [hds]
    exact Int.add_zero _
  have hlt : f.msg.stage.toNat < 256 := f.msg.stage.isLt
  unfold State.resolveStage
  generalize coreOf f.msg.src = c at *
  simp only [hstage, Int.toNat_natCast, hp]
  have hd4 : dieOf c < 4 := Nat.mod_lt _ (by decide)
  have hdie' : ((dieOf c : Int) - lowestDie p.dies + lowestDie p.dies) = dieOf c := by omega
  have hy'' : ((c : Int) / 128 % 16 - p.ty0 + p.ty0) = (c / 128 % 16 : Nat) := by omega
  have hx'' : ((c : Int) / 8 % 16 - p.tx0 + p.tx0) = (c / 8 % 16 : Nat) := by omega
  rw [if_neg (by omega), hdie', hy'', hx'']
  simp only [Int.toNat_natCast]
  rw [if_neg]
  · have : dieOf c = c / 2048 % 4 := rfl
    exact congrArg some (by omega)
  · simp only [hdie, hi, not_or]
    refine ⟨by omega, by omega, by simp, by omega, by omega, by omega, by omega, by simp⟩

end

/-! ### The spill area -/

section
variable {s : State} {x c : Nat}

theorem State.spillFull_of_room (h : s.spilled x c < 1024 * sget 0 (s.ctx x).pages c) : s.spillFull x c = false :=
  decide_eq_false (Nat.not_le.2 h)

theorem State.spillFull_of_no_room (h : ¬ s.spilled x c < 1024 * sget 0 (s.ctx x).pages c) : s.spillFull x c = true :=
  decide_eq_true (Nat.not_lt.1 h)

/-- The search for a frame without a parked instruction draws one free value (R403). -/
theorem State.takeFrame_state : (s.takeFrame x none).2 = { s with free := s.free + 1 } := by
  unfold State.takeFrame
  dsimp only
  split
  · rfl
  · rfl

theorem State.growSpill_of_room (h : s.spillFull x c = false) : s.growSpill x c = (true, s) := if_pos (by simp [h])

theorem State.growSpill_of_frame (h : s.spillFull x c = true) (hf : (s.takeFrame x none).1 = true) :
    s.growSpill x c = (true, (s.takeFrame x none).2.modCtx x fun k => { k with pages := sset k.pages c (sget 0 k.pages c + 1) }) := by
  unfold State.growSpill
  rw [if_neg (by simp [h])]
  dsimp only
  rw [if_pos hf]

/-- Where no frame is free a wait is noted from when it began, and nothing else changes but the free value drawn. -/
theorem State.growSpill_of_no_frame (h : s.spillFull x c = true) (hf : (s.takeFrame x none).1 = false) :
    (s.growSpill x c).1 = false ∧ ∃ t, (s.growSpill x c).2 = t ∧ t.toDest = s.toDest ∧ t.cores = s.cores ∧
      (t.ctx x).away = (s.ctx x).away ∧ sfind (t.ctx x).spillWait c = some ((sfind (s.ctx x).spillWait c).getD s.now) := by
  unfold State.growSpill
  rw [if_neg (by simp [h])]
  dsimp only
  rw [if_neg (by simp [hf]), State.takeFrame_state]
  have hhas : shas (State.ctx { s with free := s.free + 1 } x).spillWait c = (sfind (s.ctx x).spillWait c).isSome := shas_eq_isSome _ _
  rw [hhas]
  cases hw : sfind (s.ctx x).spillWait c with
  | some t => exact ⟨rfl, _, rfl, rfl, rfl, rfl, hw⟩
  | none =>
    rw [if_neg (by decide)]
    dsimp only
    refine ⟨rfl, _, rfl, rfl, rfl, ?_, ?_⟩
    · exact (congrArg Ctx.away (State.ctx_modCtx_same _ _ _)).trans rfl
    · refine (congrArg (fun k : Ctx => sfind k.spillWait c) (State.ctx_modCtx_same _ _ _)).trans ?_
      rw [sfind_sset, if_pos rfl]
      rfl

theorem State.endSpillWait_ctxs : s.endSpillWait x c = { s with ctxs := (s.endSpillWait x c).ctxs } := by
  unfold State.endSpillWait
  split
  · rfl
  · rfl

theorem State.spillWait_endSpillWait : sfind ((s.endSpillWait x c).ctx x).spillWait c = none := by
  unfold State.endSpillWait
  rw [shas_eq_isSome]
  split
  · rw [State.ctx_modCtx_same]
    exact sfind_sdel_same _ _
  · next h => simpa using h

end

/-! ### The receiver's side -/

section
variable {s : State} {f : Flight} {k : Nat}

/-- The attributes of the queue that a message goes to (R207, R211). -/
def State.destAttr (s : State) (f : Flight) : QAttr := (s.coreAs f.msg.ctx f.target).queueAttr (destQueue f.dest)

/-- The handler address of a message (R203). -/
def Flight.handler (f : Flight) : Nat := (f.msg.words.getD 0 0).toNat % 2 ^ 56

section
variable (hm : destMode f.dest ≠ 2) (hc : (s.ctx f.msg.ctx).caravans.contains (f.target / 8) = true)
include hm hc

/-- The check of a message at a core of its context (R206). -/
theorem State.arriveFault_eq : s.arriveFault f = if !(s.destAttr f).bound then some 2
    else if f.handler < (s.destAttr f).lo ∨ (s.destAttr f).hi ≤ f.handler then some 3 else none := by
  unfold State.arriveFault
  rw [hc, if_neg (by decide), if_neg hm]
  rfl

theorem State.arriveFault_of_inside (hb : (s.destAttr f).bound = true) (hlo : (s.destAttr f).lo ≤ f.handler)
    (hhi : f.handler < (s.destAttr f).hi) : s.arriveFault f = none := by
  rw [State.arriveFault_eq hm hc, hb, if_neg (by decide), if_neg (by omega)]

theorem State.arriveFault_of_outside (hb : (s.destAttr f).bound = true)
    (h : f.handler < (s.destAttr f).lo ∨ (s.destAttr f).hi ≤ f.handler) : s.arriveFault f = some 3 := by
  rw [State.arriveFault_eq hm hc, hb, if_neg (by decide), if_pos h]

theorem State.arriveFault_of_unbound (hb : (s.destAttr f).bound = false) : s.arriveFault f = some 2 := by
  rw [State.arriveFault_eq hm hc, hb]
  rfl

end

theorem State.spills_of_full (h : s.present f.msg.ctx f.target = false ∨
    16 ≤ (sget [] (s.core f.target).inbox (destQueue f.dest)).length) : s.spills f = true := by
  unfold State.spills
  rcases h with h | h
  · simp [h]
  · simp [h]

theorem State.putMessage_of_present (spill : Bool) (h : s.present f.msg.ctx f.target = true) :
    s.putMessage f spill = s.modCore f.target fun c =>
      if spill then { c with spill := sset c.spill (destQueue f.dest) (sget [] c.spill (destQueue f.dest) ++ [f.msg]) }
      else { c with inbox := sset c.inbox (destQueue f.dest) (sget [] c.inbox (destQueue f.dest) ++ [f.msg]) } := if_pos h

theorem State.putMessage_of_away (spill : Bool) (h : s.present f.msg.ctx f.target = false) :
    s.putMessage f spill = s.modCtx f.msg.ctx fun c =>
      { c with away := sset c.away (8 * f.target + destQueue f.dest) (sget [] c.away (8 * f.target + destQueue f.dest) ++ [f.msg]) } :=
  if_neg (by simp [h])

/-- What the arrival of a message does that waits behind no other (R206, R207). -/
def State.arrival (s : State) (k : Nat) (f : Flight) : State :=
  match s.arriveFault f with
  | some r => ((State.refuse { s with toDest := s.toDest.eraseIdx k } f { kind := 0, pos := f.target } r 0).unfuseAt f).arrived
      f.msg.ctx f.target
  | none =>
    if s.spills f then
      if (s.growSpill f.msg.ctx f.target).1 then
        (State.putMessage { (s.growSpill f.msg.ctx f.target).2 with
          toDest := (s.growSpill f.msg.ctx f.target).2.toDest.eraseIdx k } f true).arrived f.msg.ctx f.target
      else (s.growSpill f.msg.ctx f.target).2
    else (State.putMessage { s with toDest := s.toDest.eraseIdx k } f false).arrived f.msg.ctx f.target

section
variable (hf : s.toDest[k]? = some f) (hm : destMode f.dest ≠ 2) (hb : s.behind k f = false)
include hf hm hb

theorem exec_messageArrive : exec (.messageArrive k) s = .next (s.arrival k f) := by
  change execMessageArrive k s = _
  unfold execMessageArrive
  rw [hf]
  dsimp only
  rw [if_neg (by simp [hm, hb])]
  rfl

theorem messageArrive_of_refused {r : Nat} (h : s.arriveFault f = some r) : exec (.messageArrive k) s =
    .next (((State.refuse { s with toDest := s.toDest.eraseIdx k } f { kind := 0, pos := f.target } r 0).unfuseAt f).arrived
      f.msg.ctx f.target) := by
  rw [exec_messageArrive hf hm hb, State.arrival, h]

section
variable (h : s.arriveFault f = none)
include h

theorem messageArrive_of_inbox (hs : s.spills f = false) : exec (.messageArrive k) s =
    .next ((State.putMessage { s with toDest := s.toDest.eraseIdx k } f false).arrived f.msg.ctx f.target) := by
  rw [exec_messageArrive hf hm hb, State.arrival, h]
  dsimp only
  rw [if_neg (by simp [hs])]

theorem messageArrive_of_spill {t : State} (hs : s.spills f = true) (hg : s.growSpill f.msg.ctx f.target = (true, t)) :
    exec (.messageArrive k) s =
      .next ((State.putMessage { t with toDest := t.toDest.eraseIdx k } f true).arrived f.msg.ctx f.target) := by
  rw [exec_messageArrive hf hm hb, State.arrival, h, hg]
  dsimp only
  rw [if_pos hs, if_pos rfl]

theorem messageArrive_of_wait (hs : s.spills f = true) (hg : (s.growSpill f.msg.ctx f.target).1 = false) :
    exec (.messageArrive k) s = .next (s.growSpill f.msg.ctx f.target).2 := by
  rw [exec_messageArrive hf hm hb, State.arrival, h]
  dsimp only
  rw [if_pos hs, if_neg (by simp [hg])]

end
end

theorem spillReturn_of_room {core q : Nat} {m : Msg} {ms : List Msg} (hs : sget [] (s.core core).spill q = m :: ms)
    (hf : (s.core core).fenced = false) (hr : (sget [] (s.core core).inbox q).length < 16) :
    exec (.spillReturn core q) s = .next (s.modCore core fun c =>
      { c with spill := sset c.spill q ms, inbox := sset c.inbox q (sget [] c.inbox q ++ [m]) }) := by
  change execSpillReturn core q s = _
  unfold execSpillReturn
  dsimp only
  rw [hs]
  dsimp only
  rw [if_neg (by simp [hf, hr])]

end

/-- Settles O30: a message by where it stands on its way, and the stage map on its own stage. -/
theorem messageEvents : Obligations.MessageEvents := by
  refine ⟨fun s slot k core q f rest m ms => ⟨messageDepart_of_released, fun hd hm hl => State.emit_of_local hd (by omega) hl,
      fun hf hm hb hc => ⟨?inbox, ?spill, ?frame, ?away, ?wait, ?outside, ?unbound⟩,
      fun t x c => ⟨State.endSpillWait_ctxs, State.spillWait_endSpillWait, rfl⟩, spillReturn_of_room, fun hf => ⟨?resolved, ?refused⟩⟩,
    fun s f p => State.resolveStage_same_stage⟩
  case inbox =>
    intro ha hlo hhi hp hfence hempty hroom
    have hs : s.spills f = false := by
      unfold State.spills
      simp [show s.present f.msg.ctx f.target = true from hp, hfence, hempty, hroom]
    rw [messageArrive_of_inbox hf hm hb (State.arriveFault_of_inside hm hc ha hlo hhi) hs]
    exact congrArg (fun u : State => Host.Outcome.next (u.arrived _ _)) (State.putMessage_of_present _ hp)
  case spill =>
    intro ha hlo hhi hp hfull hroom
    rw [messageArrive_of_spill hf hm hb (State.arriveFault_of_inside hm hc ha hlo hhi) (State.spills_of_full (.inr hfull))
      (State.growSpill_of_room (State.spillFull_of_room (of_decide_eq_true hroom)))]
    exact congrArg (fun u : State => Host.Outcome.next (u.arrived _ _)) (State.putMessage_of_present _ hp)
  case frame =>
    intro ha hlo hhi hp hfull hroom hframe
    rw [messageArrive_of_spill hf hm hb (State.arriveFault_of_inside hm hc ha hlo hhi) (State.spills_of_full (.inr hfull))
      (State.growSpill_of_frame (State.spillFull_of_no_room (of_decide_eq_false hroom)) hframe)]
    have hp' : State.present { (s.takeFrame f.msg.ctx none).2.modCtx f.msg.ctx fun c =>
        { c with pages := sset c.pages f.target (sget 0 c.pages f.target + 1) } with toDest := s.toDest.eraseIdx k }
        f.msg.ctx f.target = true := by
      rw [State.takeFrame_state]
      exact hp
    rw [show (State.modCtx (s.takeFrame f.msg.ctx none).2 f.msg.ctx fun k =>
      { k with pages := sset k.pages f.target (sget 0 k.pages f.target + 1) }).toDest = s.toDest by rw [State.takeFrame_state]; rfl]
    exact congrArg (fun u : State => Host.Outcome.next (u.arrived _ _)) (State.putMessage_of_present _ hp')
  case away =>
    intro ha hlo hhi hp hroom
    rw [messageArrive_of_spill hf hm hb (State.arriveFault_of_inside hm hc ha hlo hhi) (State.spills_of_full (.inl hp))
      (State.growSpill_of_room (State.spillFull_of_room (of_decide_eq_true hroom)))]
    exact congrArg (fun u : State => Host.Outcome.next (u.arrived _ _)) (State.putMessage_of_away _ hp)
  case wait =>
    intro ha hlo hhi hp hroom hframe
    obtain ⟨hg, t, ht, hkeeps⟩ := State.growSpill_of_no_frame (State.spillFull_of_no_room (of_decide_eq_false hroom)) hframe
    exact ⟨t, (messageArrive_of_wait hf hm hb (State.arriveFault_of_inside hm hc ha hlo hhi) (State.spills_of_full hp) hg).trans
      (congrArg _ ht), hkeeps⟩
  case outside => exact fun ha h => messageArrive_of_refused hf hm hb (State.arriveFault_of_outside hm hc ha h)
  case unbound => exact fun ha => messageArrive_of_refused hf hm hb (State.arriveFault_of_unbound hm hc ha)
  case resolved => exact fun c => stageResolve_of_resolved hf
  case refused => exact fun hr => ⟨_, stageResolve_of_refused hf hr⟩

end Sys2Proof.Machine
end

section
/-!
SUPPORT. What the write-through of dirty data leaves alone (R179, R183, R190, R200, R227, R437): everything but memory, what caches and
translates it, the L1s, and the ERROR events of a CXL port that has lost its link.
-/

namespace Sys2Proof.Machine

section
variable {s t u : State} {c a n ctx : Nat} {tr : TEntry} {bs : List Byte}

/-- What an event changes: its source's number, and one of the ways that it goes. -/
theorem State.event_rest (src : Source) (code cause reason : Nat) (w3 w4 w5 w6 w7 : Word) :
    let t := s.event ctx src code cause reason w3 w4 w5 w6 w7
    t = { s with evSeq := t.evSeq, lanes := t.lanes, toDest := t.toDest, outbox := t.outbox } ∧ ∃ ev, t.toDest = s.toDest ++ ev := by
  unfold State.event
  dsimp only
  split
  · exact ⟨rfl, [], (List.append_nil _).symm⟩
  · split
    · exact ⟨rfl, _, rfl⟩
    · exact ⟨rfl, [], (List.append_nil _).symm⟩

theorem State.event_ctxs (src : Source) (code cause reason : Nat) (w3 w4 w5 w6 w7 : Word) :
    (s.event ctx src code cause reason w3 w4 w5 w6 w7).ctxs = s.ctxs := by
  obtain ⟨hrest, -⟩ := State.event_rest (s := s) (ctx := ctx) src code cause reason w3 w4 w5 w6 w7
  rw [hrest]

/-- `t` is `s` after dirty data has been written through; messages are added only where a CXL port has lost its link. -/
structure State.StoresOut (s t : State) : Prop where
  rest : t = { s with mem := t.mem, poison := t.poison, resv := t.resv, l2 := t.l2, seals := t.seals, trans := t.trans
                      firstTouch := t.firstTouch, cores := t.cores, evSeq := t.evSeq, lanes := t.lanes, toDest := t.toDest
                      outbox := t.outbox }
  sent : ∃ ev, t.toDest = s.toDest ++ ev ∧ (s.cxlDown = [] → ev = [])

theorem State.StoresOut.of_sent_nothing (h : t = { s with
    mem := t.mem, poison := t.poison, resv := t.resv, l2 := t.l2, seals := t.seals, trans := t.trans, firstTouch := t.firstTouch
    cores := t.cores, evSeq := t.evSeq, lanes := t.lanes, toDest := t.toDest, outbox := t.outbox }) (hd : t.toDest = s.toDest) :
    s.StoresOut t := ⟨h, [], by rw [hd, List.append_nil], fun _ => rfl⟩

theorem State.StoresOut.refl : s.StoresOut s := .of_sent_nothing rfl rfl

theorem State.StoresOut.trans (h : s.StoresOut t) (h' : t.StoresOut u) : s.StoresOut u := by
  refine ⟨by rw [h'.rest, h.rest], ?_⟩
  obtain ⟨ev, ht, hev⟩ := h.sent
  obtain ⟨ev', hu, hev'⟩ := h'.sent
  have hc : t.cxlDown = s.cxlDown := by rw [h.rest]
  refine ⟨ev ++ ev', by rw [hu, ht, List.append_assoc], fun hd => ?_⟩
  rw [hev hd, hev' (hc.trans hd), List.append_nil]

theorem State.StoresOut.ctxs (h : s.StoresOut t) : t.ctxs = s.ctxs := by rw [h.rest]

theorem State.StoresOut.cars (h : s.StoresOut t) : t.cars = s.cars := by rw [h.rest]

theorem State.StoresOut.cycle (h : s.StoresOut t) : t.cycle = s.cycle := by rw [h.rest]

theorem State.StoresOut.snaps (h : s.StoresOut t) : t.snaps = s.snaps := by rw [h.rest]

theorem State.StoresOut.cxlDown (h : s.StoresOut t) : t.cxlDown = s.cxlDown := by rw [h.rest]

theorem State.Fetches.storesOut {W : Nat → Prop} (h : s.Fetches W t) : s.StoresOut t :=
  .of_sent_nothing (by rw [h.rest]) (by rw [h.rest])

theorem State.translate_storesOut {tile : Nat} {w : Bool} (h : s.translate tile a w = .ok (tr, t)) : s.StoresOut t :=
  (State.translate_fetches State.backed_all (fun _ _ _ => ⟨fun _ _ _ => trivial, fun _ _ _ => trivial⟩) h).storesOut

theorem State.modCore_storesOut (f : Core → Core) : s.StoresOut (s.modCore c f) := .of_sent_nothing rfl rfl

theorem State.cxlAccess_storesOut : s.StoresOut (s.cxlAccess ctx tr a n) := by
  unfold State.cxlAccess
  split
  · exact .refl
  · next hdown =>
    refine forRange_keeps s.StoresOut _ _ (fun i t ht => ?_) .refl
    dsimp only
    split
    · refine ht.trans ?_
      obtain ⟨hrest, ev, hev⟩ := State.event_rest (s := t) (ctx := ctx) _ _ _ _ _ _ _ _ _
      exact ⟨by rw [hrest], ev, hev, fun h => absurd (ht.cxlDown.symm.trans h) (by simpa using hdown)⟩
    · exact ht

theorem State.writeSector_storesOut (d : Nat) (p : Nat × List Byte) : s.StoresOut (s.writeSector tr d p) := by
  have hinstall (u : State) : u.StoresOut (u.installL2 tr d p.1) := (State.installL2_fetches State.backed_all).storesOut
  have hback (u : State) (b : L2Block) (x : Sector) : u.StoresOut (u.writeBack b (p.1 / 64 * 64) x) :=
    (State.writeBack_fetches (W := fun _ => True) State.backed_all fun _ _ _ _ => trivial).storesOut
  have hpoison (u : State) (ps : Sparse (BitVec 64)) : u.StoresOut { u with poison := ps } := .of_sent_nothing rfl rfl
  unfold State.writeSector
  dsimp only
  split
  · exact .of_sent_nothing rfl rfl
  · generalize hu : (if s.fillBad tr d p.1 = true then _ else s) = u
    have hs : s.StoresOut u := by
      rw [← hu]
      split
      · exact hpoison _ _
      · exact .refl
    refine (hs.trans (hinstall u)).trans (State.StoresOut.trans ?_ (hpoison _ _))
    split
    · exact .of_sent_nothing rfl rfl
    · exact hback ..

theorem State.homeWrite_storesOut : s.StoresOut (s.homeWrite tr a bs) := by
  have hw : s.StoresOut (tr.dies.foldl (fun s d => (sectorParts a bs).foldl (fun s p => s.writeSector tr d p) s) s) :=
    foldl_keeps s.StoresOut _ _ (fun _ d hu =>
      foldl_keeps s.StoresOut _ _ (fun _ p ht => ht.trans (State.writeSector_storesOut d p)) hu) .refl
  exact hw.trans (.of_sent_nothing rfl rfl)

theorem State.writeFor_storesOut : s.StoresOut (s.writeFor ctx tr a bs) := State.cxlAccess_storesOut.trans State.homeWrite_storesOut

theorem State.wtWord_storesOut (h : s.wtWord c a = .ok t) : s.StoresOut t := by
  unfold State.wtWord at h
  split at h
  · split at h
    · split at h
      · cases h
      · next tr u hu =>
        cases h
        refine (State.translate_storesOut hu).trans (State.StoresOut.trans ?_ (State.modCore_storesOut _))
        split
        · exact State.writeFor_storesOut
        · refine forRange_keeps u.StoresOut _ _ (fun i t ht => ?_) .refl
          split
          · exact ht
          · exact ht.trans State.writeFor_storesOut
    · cases h; exact .refl
  · cases h; exact .refl

theorem State.ntMerge_storesOut (e : NtEntry) : s.StoresOut (s.ntMerge c e) := by
  refine forRange_keeps s.StoresOut _ _ (fun i t ht => ?_) .refl
  dsimp only
  split
  · exact ht.trans (State.modCore_storesOut _)
  · exact ht

theorem State.drainNt_storesOut {e : NtEntry} (h : s.drainNt c e = .ok t) : s.StoresOut t := by
  unfold State.drainNt at h
  split at h
  · cases h
  · next tr u hu =>
    rw [← Except.ok.inj h]
    have hw : u.StoresOut (e.bytes.foldl (fun s b => s.writeFor (s.ctxOf (4 * c)) tr (e.line * 64 + b.1) [b.2]) u) :=
      foldl_keeps u.StoresOut _ _ (fun _ _ ht => ht.trans State.writeFor_storesOut) .refl
    exact (State.translate_storesOut hu).trans (hw.trans ((State.ntMerge_storesOut e).trans (State.modCore_storesOut _)))

/-- A part that is left alone where it fails. -/
theorem State.StoresOut.getD {ε : Type} {x : Except ε State} (h : ∀ t, x = .ok t → s.StoresOut t) : s.StoresOut (x.toOption.getD s) := by
  cases x with
  | error => exact .refl
  | ok t => exact h t rfl

theorem State.writeThrough_storesOut {ws : Sparse L1Word} :
    s.StoresOut (ws.foldl (fun s e => (s.wtWord c (4 * e.1)).toOption.getD s) s) :=
  foldl_keeps s.StoresOut _ _ (fun _ _ hu => hu.trans (.getD fun _ => State.wtWord_storesOut)) .refl

theorem State.releaseBest_storesOut : s.StoresOut (s.releaseBest c) :=
  State.writeThrough_storesOut.trans
    (foldl_keeps (State.StoresOut _) _ _ (fun _ _ hu => hu.trans (.getD fun _ => State.drainNt_storesOut)) .refl)

theorem State.flushL1s_storesOut {cs : List Nat} : s.StoresOut (s.flushL1s cs) :=
  foldl_keeps s.StoresOut cs _ (fun _ _ hu => hu.trans (State.writeThrough_storesOut.trans (State.modCore_storesOut _))) .refl

theorem State.StoresOut.setCars (h : s.StoresOut t) (cs : Sparse Caravan) : State.StoresOut { s with cars := cs } { t with cars := cs } :=
  ⟨congrArg (fun u : State => { u with cars := cs }) h.rest, h.sent⟩

theorem State.flushL1s_car (cs : List Nat) (v : Nat) : (s.flushL1s cs).car v = s.car v := by
  unfold State.car
  rw [State.StoresOut.cars (State.flushL1s_storesOut (s := s) (cs := cs))]

/-- The end of the fusing of a caravan: besides what is written through, only the caravans change. -/
theorem State.unfuse_storesOut (c : Nat) : ∃ cs, State.StoresOut { s with cars := cs } (s.unfuse ctx c) := by
  unfold State.unfuse
  split
  · exact ⟨_, State.flushL1s_storesOut.setCars _⟩
  · exact ⟨s.cars, .refl⟩

theorem State.unfuse_ctxs (c : Nat) : (s.unfuse ctx c).ctxs = s.ctxs := by
  obtain ⟨cs, h⟩ := State.unfuse_storesOut (s := s) (ctx := ctx) c
  exact h.ctxs

/-! ### The L1s that are flushed -/

/-- No clean word is in the L1 of core `n`. -/
def State.L1Dirty (s : State) (n : Nat) : Prop := ∀ e ∈ (s.core n).l1, e.2.dirty = true

theorem State.L1Dirty.of_core (h : s.L1Dirty n) (hc : t.core n = s.core n) : t.L1Dirty n := by
  unfold State.L1Dirty
  rw [hc]
  exact h

theorem State.core_of_cores (h : t.cores = s.cores) (n : Nat) : t.core n = s.core n := by
  unfold State.core
  rw [h]

/-- The write-through of a word of core `c` concerns no other core. -/
theorem State.wtWord_core_other (hn : n ≠ c) (h : s.wtWord c a = .ok t) : t.core n = s.core n := by
  unfold State.wtWord at h
  split at h
  · split at h
    · split at h
      · cases h
      · next tr u hu =>
        cases h
        rw [State.core_modCore, if_neg hn, ← State.core_of_cores (State.translate_cores hu)]
        refine State.core_of_cores ?_ n
        split
        · exact State.writeFor_cores _
        · refine forRange_keeps (fun v : State => v.cores = u.cores) _ _ (fun i v hv => ?_) rfl
          split
          · exact hv
          · exact (State.writeFor_cores _).trans hv
    · cases h; rfl
  · cases h; rfl

/-- The L1 of one core is flushed. -/
def State.flushL1 (s : State) (c : Nat) : State :=
  ((s.core c).l1.foldl (fun s e => (s.wtWord c (4 * e.1)).toOption.getD s) s).modCore c fun k => { k with l1 := k.l1.filter fun e => e.2.dirty }

theorem State.flushL1s_eq (cs : List Nat) : s.flushL1s cs = cs.foldl State.flushL1 s := rfl

theorem State.flushL1_dirty : (s.flushL1 c).L1Dirty c := by
  unfold State.L1Dirty State.flushL1
  rw [State.core_modCore, if_pos rfl]
  exact fun e he => (List.mem_filter.1 he).2

theorem State.flushL1_core_other (hn : n ≠ c) : (s.flushL1 c).core n = s.core n := by
  unfold State.flushL1
  rw [State.core_modCore, if_neg hn]
  refine foldl_keeps (fun t : State => t.core n = s.core n) _ _ (fun t e ht => ?_) rfl
  cases hw : t.wtWord c (4 * e.1) with
  | error => exact ht
  | ok u => exact (State.wtWord_core_other hn hw).trans ht

/-- A flush leaves no clean word where there was none. -/
theorem State.L1Dirty.flushL1 (h : s.L1Dirty n) : (s.flushL1 c).L1Dirty n := by
  by_cases hn : n = c
  · subst hn
    exact State.flushL1_dirty
  · exact h.of_core (State.flushL1_core_other hn)

theorem State.L1Dirty.flushL1s {cs : List Nat} (h : s.L1Dirty n) : (s.flushL1s cs).L1Dirty n :=
  foldl_keeps (fun t : State => t.L1Dirty n) cs State.flushL1 (fun _ _ ht => ht.flushL1) h

theorem State.flushL1s_dirty {cs : List Nat} (h : n ∈ cs) : (s.flushL1s cs).L1Dirty n := by
  rw [State.flushL1s_eq]
  induction cs generalizing s with
  | nil => cases h
  | cons c cs ih =>
    rcases List.mem_cons.1 h with rfl | h
    · exact State.flushL1_dirty.flushL1s
    · exact ih h

end

end Sys2Proof.Machine
end

section
/-!
SUPPORT. The sequencer (R226 to R228, R463): the launch that it dispatches, the fusing of caravans, and the end of a launch.
-/

namespace Sys2Proof.Machine

/-! ### The caravans of a launch -/

section
variable {s t u : State} {x : Nat}

/-- The state is that after `StoresOut`, but for the caravans. -/
def State.StoresOutCars (s t : State) : Prop := ∃ cs, State.StoresOut { s with cars := cs } t

theorem State.StoresOut.withCars (h : s.StoresOut t) : s.StoresOutCars t := ⟨s.cars, h⟩

theorem State.StoresOutCars.trans (h : s.StoresOutCars t) (h' : t.StoresOutCars u) : s.StoresOutCars u := by
  obtain ⟨cs, h⟩ := h
  obtain ⟨cs', h'⟩ := h'
  exact ⟨cs', (h.setCars cs').trans h'⟩

theorem State.modCar_storesOutCars (v : Nat) (f : Caravan → Caravan) : s.StoresOutCars (s.modCar v f) := ⟨_, .refl⟩

theorem State.StoresOutCars.ctxs (h : s.StoresOutCars t) : t.ctxs = s.ctxs := by
  obtain ⟨cs, h⟩ := h
  exact h.ctxs

theorem State.StoresOutCars.cycle (h : s.StoresOutCars t) : t.cycle = s.cycle := by
  obtain ⟨cs, h⟩ := h
  exact h.cycle

theorem State.StoresOutCars.sent (h : s.StoresOutCars t) : ∃ ev, t.toDest = s.toDest ++ ev ∧ (s.cxlDown = [] → ev = []) := by
  obtain ⟨cs, h⟩ := h
  exact h.sent

theorem State.unfuseAll_storesOutCars (vs : List Nat) : s.StoresOutCars (vs.foldl (fun s v => s.unfuse x v) s) :=
  foldl_keeps s.StoresOutCars _ _ (fun _ v h => h.trans (State.unfuse_storesOut v)) (State.StoresOut.refl.withCars)

/-- Caravan `v` is fused, after its L1s have been flushed (R227). -/
def State.fuseCar (s : State) (v : Nat) : State :=
  (s.flushL1s ((List.range 8).map fun i => 8 * v + i)).modCar v fun c => { c with fused := true }

theorem State.fuseCar_storesOutCars (v : Nat) : s.StoresOutCars (s.fuseCar v) :=
  State.flushL1s_storesOut.withCars.trans (State.modCar_storesOutCars v _)

theorem State.fuseCars_storesOutCars (vs : List Nat) : s.StoresOutCars (vs.foldl State.fuseCar s) :=
  foldl_keeps s.StoresOutCars _ _ (fun _ v h => h.trans (State.fuseCar_storesOutCars v)) (State.StoresOut.refl.withCars)

/-- Caravan `v` is fused, and its L1s hold nothing clean. -/
def State.FusedDirty (s : State) (v : Nat) : Prop := (s.car v).fused = true ∧ ∀ i, i < 8 → s.L1Dirty (8 * v + i)

theorem State.L1Dirty.modCar {n v : Nat} {f : Caravan → Caravan} (h : s.L1Dirty n) : (s.modCar v f).L1Dirty n := h

theorem State.fuseCar_fused (v : Nat) : (s.fuseCar v).FusedDirty v := by
  unfold State.fuseCar
  refine ⟨?_, fun i hi => State.L1Dirty.modCar ?_⟩
  · rw [State.car_modCar_same]
  · exact State.flushL1s_dirty (List.mem_map.2 ⟨i, List.mem_range.2 hi, rfl⟩)

theorem State.FusedDirty.fuseCar {v : Nat} (w : Nat) (h : s.FusedDirty v) : (s.fuseCar w).FusedDirty v := by
  obtain ⟨hf, hd⟩ := h
  unfold State.fuseCar
  refine ⟨?_, fun i hi => (hd i hi).flushL1s.modCar⟩
  rw [State.car_modCar]
  by_cases hv : v = w
  · rw [if_pos hv]
  · rw [if_neg hv, State.flushL1s_car, hf]

theorem State.fuseCars_fused {vs : List Nat} {v : Nat} (h : v ∈ vs) : (vs.foldl State.fuseCar s).FusedDirty v := by
  induction vs generalizing s with
  | nil => cases h
  | cons w vs ih =>
    rw [List.foldl_cons]
    rcases List.mem_cons.1 h with rfl | h
    · exact foldl_keeps (fun t : State => t.FusedDirty v) vs State.fuseCar (fun _ w h => h.fuseCar w) (State.fuseCar_fused v)
    · exact ih h

end

/-! ### The dispatch instant -/

section
variable {s u : State} {x q : Nat} {r : LRec} {ended : Option Nat}

/-- What a dispatch changes of its context (R227). -/
def LRec.dispatched (r : LRec) (q now pending : Nat) (ended : Option Nat) (c : Ctx) : Ctx :=
  let sig := if wbit (r.words.getD 1 0) 37 then c.sig &&& ~~~maskOf r.words 8 else c.sig
  { c with
    sig := if ended.isSome then sig ||| maskOf r.words 12 else sig
    delayed := none
    queues := sset c.queues q (match (sget [] c.queues q).drop 1 with
      | h :: t => { h with headAt := now } :: t
      | [] => [])
    stageMap := sset c.stageMap (wbits (r.words.getD 1 0) 35 28) (placementOf (r.words.getD 1 0))
    launches := c.launches ++ [{ record := r, pending, running := 0, refused := 0, killed := 0, ended }] }

/-- The messages of a dispatch. -/
def LRec.messages (x : Nat) (r : LRec) (ended : Option Nat) : List Flight := if ended.isSome then [] else startMessages x r

/-- The package after the context of a dispatch has changed, and the caravans of its launch have been fused. -/
def State.dispatchFused (s : State) (x q : Nat) (r : LRec) (ended : Option Nat) : State :=
  let t := s.modCtx x (r.dispatched q s.cycle (r.messages x ended).length ended)
  if ended.isNone && r.fuse then (placementOf (r.words.getD 1 0)).caravans.foldl State.fuseCar t else t

theorem State.dispatchAs_eq : s.dispatchAs x q r ended =
    let t := s.dispatchFused x q r ended
    { t with toDest := t.toDest ++ r.messages x ended, lastDisp := x, dispAt := t.cycle + 4 } := rfl

theorem State.dispatchFused_storesOutCars : State.StoresOutCars (s.modCtx x (r.dispatched q s.cycle (r.messages x ended).length ended))
    (s.dispatchFused x q r ended) := by
  unfold State.dispatchFused
  dsimp only
  split
  · exact State.fuseCars_storesOutCars _
  · exact State.StoresOut.refl.withCars

theorem State.dispatchFused_of_unfused (h : (ended.isNone && r.fuse) = false) :
    s.dispatchFused x q r ended = s.modCtx x (r.dispatched q s.cycle (r.messages x ended).length ended) :=
  if_neg (by simp [h])

/-- What a dispatch leaves (R226, R227). -/
theorem State.dispatchAs_dispatched : Claims.Dispatched s (s.dispatchAs x q r ended) x q r (r.messages x ended)
    (if ended.isSome then (if wbit (r.words.getD 1 0) 37 then (s.ctx x).sig &&& ~~~maskOf r.words 8 else (s.ctx x).sig)
        ||| maskOf r.words 12
      else if wbit (r.words.getD 1 0) 37 then (s.ctx x).sig &&& ~~~maskOf r.words 8 else (s.ctx x).sig) ended := by
  have hstores := State.dispatchFused_storesOutCars (s := s) (x := x) (q := q) (r := r) (ended := ended)
  have hctx : (s.dispatchAs x q r ended).ctx x = r.dispatched q s.cycle (r.messages x ended).length ended (s.ctx x) := by
    refine Eq.trans ?_ (State.ctx_modCtx_same s x _)
    exact congrArg (fun cs => sget Ctx.none cs x) hstores.ctxs
  unfold Claims.Dispatched
  dsimp only
  rw [hctx, State.dispatchAs_eq]
  refine ⟨rfl, congrArg (· + 4) hstores.cycle, rfl, rfl, ?_, fun p hp => sget_sset_other _ _ _ hp, fun g => sfind_sset .., rfl, ?_⟩
  · refine (congrArg (List.map _) (sget_sset_same ..)).trans ?_
    cases (sget [] (s.ctx x).queues q).drop 1 with
    | nil => rfl
    | cons h rest => rfl
  · by_cases hf : (ended.isNone && r.fuse) = true
    · obtain ⟨ev, hsent, hev⟩ := hstores.sent
      refine ⟨ev, congrArg (· ++ _) hsent, fun h => hev ?_⟩
      cases ended with
      | some e => simp at hf
      | none => simpa [show r.fuse = true by simpa using hf] using h
    · refine ⟨[], ?_, fun _ => rfl⟩
      rw [State.dispatchFused_of_unfused (by simpa using hf), List.append_nil]
      rfl

/-- The caravans of a launch that has started are fused where it says so (R227). -/
theorem State.dispatchAs_fused : Claims.Fused s (s.dispatchAs x q r none) r := by
  refine ⟨fun h => ?_, fun h v hv => ?_⟩
  · rw [State.dispatchAs_eq, State.dispatchFused_of_unfused (by simp [h])]
    exact ⟨rfl, rfl⟩
  · have hf : s.dispatchFused x q r none = _ := if_pos (by simp [h])
    obtain ⟨hcar, hdirty⟩ := State.fuseCars_fused (s := s.modCtx x (r.dispatched q s.cycle (r.messages x none).length none)) hv
    rw [State.dispatchAs_eq, hf]
    exact ⟨hcar, hdirty⟩

/-- A launch that ends at its dispatch fuses nothing. -/
theorem State.dispatchAs_of_ended (e : Nat) :
    (s.dispatchAs x q r (some e)).cars = s.cars ∧ (s.dispatchAs x q r (some e)).cores = s.cores := by
  rw [State.dispatchAs_eq, State.dispatchFused_of_unfused rfl]
  exact ⟨rfl, rfl⟩

theorem take_drop_of_length {l : List Word} (h : l.length = 16) :
    (l.drop 2).take 6 = [l.getD 2 0, l.getD 3 0, l.getD 4 0, l.getD 5 0, l.getD 6 0, l.getD 7 0] := by
  have hcons (i : Nat) (hi : i < 16) : l.drop i = l.getD i 0 :: l.drop (i + 1) := by
    rw [List.drop_eq_getElem_cons (by omega), List.getD_eq_getElem _ _ (by omega)]
  rw [hcons 2 (by omega), hcons 3 (by omega), hcons 4 (by omega), hcons 5 (by omega), hcons 6 (by omega), hcons 7 (by omega)]
  rfl

/-! ### The head that is dispatched -/

/-- The first context of a list that has a head to dispatch is served, where that head does not wait (R226). -/
theorem dispatchFirst_of_head {cs : List Nat}
    (h : firstOf (fun c => (s.chosenHead c).map fun h => (c, h)) cs = some (x, q, r)) (hd : (s.dispatchHead x q r).1 = true) :
    s.dispatchFirst cs = (s.dispatchHead x q r).2 := by
  induction cs with
  | nil => cases h
  | cons c cs ih =>
    unfold firstOf at h
    unfold State.dispatchFirst
    cases hc : s.chosenHead c with
    | none => exact ih (by simpa [hc] using h)
    | some g =>
      obtain ⟨rfl, rfl⟩ : c = x ∧ g = (q, r) := by simpa [hc] using h
      exact if_pos hd

theorem firstOf_map {α β γ : Type} (f : β → Option γ) (g : α → β) (l : List α) : firstOf f (l.map g) = firstOf (fun a => f (g a)) l := by
  induction l with
  | nil => rfl
  | cons a l ih =>
    unfold firstOf
    rw [List.map_cons]
    dsimp only
    rw [ih]

theorem launchDispatch_of_head (hat : s.dispAt ≤ s.cycle)
    (h : firstOf (fun i => let c := (s.lastDisp + 1 + i) % 64; (s.chosenHead c).map fun h => (c, h)) (List.range 64) = some (x, q, r))
    (hd : (s.dispatchHead x q r).1 = true) : exec .launchDispatch s = .next (s.dispatchHead x q r).2 := by
  change Host.Outcome.next (if s.cycle < s.dispAt then s else _) = _
  rw [if_neg (by omega), dispatchFirst_of_head ((firstOf_map _ _ _).trans h) hd]

theorem State.dispatchHead_of_plain (h : wbit (r.words.getD 1 0) 36 = false) :
    s.dispatchHead x q r = (true, s.dispatchAs x q r none) := if_neg (by rw [h]; decide)

section
variable (h : wbit (r.words.getD 1 0) 36 = true)
include h

theorem State.dispatchHead_of_value {v : Word} (hp : s.predicate x r = .value v u) :
    s.dispatchHead x q r = (true, u.dispatchAs x q r (if v = 0 then some 1 else none)) := by
  unfold State.dispatchHead
  rw [if_pos h, hp]

theorem State.dispatchHead_of_failed {c : Nat} (hp : s.predicate x r = .failed c u) : s.dispatchHead x q r =
    (true, (u.dispatchAs x q r (some 5)).event x { kind := 3, pos := 0 } 7 0 6 (wordOfNat r.id) (r.words.getD 7 0) 0 (wordOfNat c) 0) := by
  unfold State.dispatchHead
  rw [if_pos h, hp]

end

/-- A predicate that the launching core may read, or the host, in a page of class 0 whose translation is held (R463). -/
theorem State.predicate_of_held {a : Nat} {tr : TEntry} (ha : (r.words.getD 7 0).toNat % 2 ^ 56 = a)
    (hplb : ∀ c, r.core = some c → ∃ e, (s.core c).plbFind a = some e ∧ wbit e 0 = true) (hw : inWindow a = false)
    (hheld : s.held 0 a = some tr) (hcls : leafClass tr.leaf = 0) (hbad : s.badAt tr 0 a 8 = false) :
    s.predicate x r = .value (BitVec.ofNat 64 (natOfBytes (s.homeRead tr 0 a 8))) (s.fillRange tr 0 a 8) := by
  have hread (b : Bool) : s.predicateRead x b tr a =
      .value (BitVec.ofNat 64 (natOfBytes (s.homeRead tr 0 a 8))) (s.fillRange tr 0 a 8) := by
    have hr : s.predicateRefused b tr = none := by
      unfold State.predicateRefused
      rw [hcls, if_neg (by simp)]
      rfl
    unfold State.predicateRead
    rw [hr]
    dsimp only
    rw [hbad]
    rfl
  have htr : s.translate 0 a false = .ok (tr, s) := by
    unfold State.translate
    rw [hheld]
  unfold State.predicate
  rw [show va (r.words.getD 7 0) = a from ha]
  dsimp only
  rw [htr, hw]
  cases hc : r.core with
  | none => exact hread true
  | some c =>
    obtain ⟨e, he, hright⟩ := hplb c hc
    dsimp only
    rw [State.plbCheck_of_right (k := .load) he hright]
    exact hread false

end

/-! ### The end of a launch -/

section
variable {s : State} {f : Flight} {c q x id : Nat} {run : Running}

theorem ownDest_bits (hc : c ≤ stewardCore) (hq : q < 8) : destOwn (ownDest c q) = true ∧ destMode (ownDest c q) = 0 := by
  unfold stewardCore at hc
  refine ⟨?_, ?_⟩
  · have h : wbits (ownDest c q) 61 61 = 1 := by
      unfold ownDest
      rw [wbits_wordOfNat (by omega)]
      omega
    unfold destOwn
    rw [← wbit_wbits, h]
    rfl
  · unfold destMode ownDest
    rw [wbits_wordOfNat (by omega)]
    omega

/-- A message to a core of this package is on its way there at once. -/
theorem State.emit_of_own {core : Nat} (hc : c ≤ stewardCore) (hq : q < 8) (hf : f.dest = ownDest c q) :
    s.emit core f = { s with toDest := s.toDest ++ [f] } := by
  obtain ⟨hown, hmode⟩ := ownDest_bits hc hq
  rw [← hf] at hown hmode
  unfold State.emit State.departFault
  rw [if_pos hown]
  dsimp only
  rw [if_neg (by omega), if_pos (by simp [State.isLocal, hown])]

/-- A message of no launch concerns no context. -/
theorem State.emit_ctxs {core : Nat} (he : f.event = false) (hl : f.msg.launch = none) : (s.emit core f).ctxs = s.ctxs := by
  unfold State.emit
  split
  · unfold State.refuse
    rw [he, if_neg (by decide), hl]
    exact State.event_ctxs ..
  · split
    · rfl
    · split
      · rfl
      · rfl

/-- What the end of a launch leaves of its context (R228). -/
def Running.leftCtx (run : Running) (id : Nat) (c : Ctx) : Ctx :=
  { c with sig := if run.ended.isSome then c.sig else c.sig ||| maskOf run.record.words 12
           launches := c.launches.filter fun y => y.record.id ≠ id }

/-- The package after a launch has left its context and its caravans. -/
def State.launchLeft (s : State) (x id : Nat) (run : Running) : State :=
  (placementOf (run.record.words.getD 1 0)).caravans.foldl (fun s v => s.unfuse x v) (s.modCtx x (run.leftCtx id))

/-- The completion message of a launch (R228). -/
def Running.completion (run : Running) (x id c : Nat) : Flight :=
  { Flight.plain (ownDest c (wbits (run.record.words.getD 1 0) 45 43))
      { Msg.plain [run.record.ccont, wordOfNat id, wordOfNat run.status, wordOfNat run.refused, wordOfNat run.killed, 0, 0, 0]
          run.record.stage x with src := 4 * c } false with target := c }

theorem launchEnd_of_found
    (h : (s.ctx x).launches.find? (fun r => r.record.id == id && r.pending == 0 && r.running == 0) = some run) :
    exec (.launchEnd x id) s = .next (match run.record.core with
      | some c => if wbit (run.record.words.getD 1 0) 42 then (s.launchLeft x id run).emit c (run.completion x id c)
          else s.launchLeft x id run
      | none => (s.launchLeft x id run).hostOnly x { kind := 3, pos := 0 } 9 (wordOfNat id) (wordOfNat run.status) 0 0) := by
  change execLaunchEnd x id s = _
  unfold execLaunchEnd
  rw [h]
  rfl

theorem State.launchLeft_storesOutCars : (s.modCtx x (run.leftCtx id)).StoresOutCars (s.launchLeft x id run) :=
  State.unfuseAll_storesOutCars _

theorem State.ctx_of_launchLeft {t : State} (h : t.ctxs = (s.launchLeft x id run).ctxs) : t.ctx x = run.leftCtx id (s.ctx x) := by
  refine Eq.trans ?_ (State.ctx_modCtx_same s x _)
  unfold State.ctx
  rw [h, State.launchLeft_storesOutCars.ctxs]

end

/-- Settles O34: the sequencer waits, dispatches a head by its predicate, and ends a launch. -/
theorem launchEvents : Obligations.LaunchEvents := by
  refine ⟨fun s h => congrArg Host.Outcome.next (if_pos h), fun s x q r => ?_, fun s x id run hfind => ?_⟩
  · intro w start msgs left hat hlen hhead
    have hmsgs : startMessages x r = msgs := by
      unfold startMessages
      rw [take_drop_of_length hlen]
      rfl
    refine ⟨fun hcond => ?plain, fun hcond => ⟨fun v u hp => ?value, fun c u hp => ?failed⟩, ?predicate⟩
    case plain =>
      have hd := State.dispatchHead_of_plain (s := s) (x := x) (q := q) hcond
      refine ⟨_, launchDispatch_of_head hat hhead (by rw [hd]), ?_⟩
      rw [hd, ← hmsgs]
      exact ⟨State.dispatchAs_dispatched, State.dispatchAs_fused⟩
    case value =>
      have hd := State.dispatchHead_of_value (q := q) hcond hp
      refine ⟨_, launchDispatch_of_head hat hhead (by rw [hd]), fun hv => ?_, fun hv => ?_⟩
      · rw [hd, if_neg hv, ← hmsgs]
        exact ⟨State.dispatchAs_dispatched, State.dispatchAs_fused⟩
      · rw [hd, if_pos hv]
        exact ⟨State.dispatchAs_dispatched, State.dispatchAs_of_ended 1⟩
    case failed =>
      have hd := State.dispatchHead_of_failed (q := q) hcond hp
      refine ⟨u.dispatchAs x q r (some 5), ?_, State.dispatchAs_dispatched, State.dispatchAs_of_ended 5⟩
      rw [launchDispatch_of_head hat hhead (by rw [hd]), hd]
    case predicate => exact fun hplb hw tr => State.predicate_of_held rfl hplb hw
  · intro w status
    obtain ⟨ev, hsent, hev⟩ := State.StoresOutCars.sent (State.launchLeft_storesOutCars (s := s) (x := x) (id := id) (run := run))
    refine ⟨_, launchEnd_of_found hfind, ?_⟩
    cases hcore : run.record.core with
    | none =>
      dsimp only
      rw [State.ctx_of_launchLeft (t := (s.launchLeft x id run).hostOnly x _ _ _ _ _ _) rfl]
      exact ⟨rfl, rfl, fun c hc => (nomatch hc), fun _ => ⟨_, rfl⟩⟩
    | some c =>
      dsimp only
      by_cases hm : wbit (run.record.words.getD 1 0) 42 = true
      · rw [if_pos hm, State.ctx_of_launchLeft (State.emit_ctxs rfl rfl)]
        refine ⟨rfl, rfl, fun d hd hle => ⟨ev, ?_, hev⟩, fun h => (nomatch h)⟩
        cases hd
        rw [State.emit_of_own hle (wbits_lt _ 45 43) rfl, if_pos hm]
        exact congrArg (· ++ _) hsent
      · rw [if_neg hm, State.ctx_of_launchLeft rfl]
        refine ⟨rfl, rfl, fun d hd hle => ⟨ev, ?_, hev⟩, fun h => (nomatch h)⟩
        rw [if_neg hm, List.append_nil]
        exact hsent

end Sys2Proof.Machine
end

section
/-!
SUPPORT. The start of a firing (R197, R203, R214 to R216): the messages that it consumes, the slot as it finds it, and its place among the
convoys once the waiting JOINs have been served (R146, R159).
-/

namespace Sys2Proof.Machine

/-! ### Words and registers of the messages -/

theorem sget_forRange_sput {α : Type} [DecidableEq α] (d : α) (n : Nat) (g : Nat → α) (m : Sparse α) (j : Nat) :
    sget d (forRange n (fun i v => sput d v i (g i)) m) j = if j < n then g j else sget d m j := by
  induction n with
  | zero => rfl
  | succ n ih =>
    rw [forRange_succ, sget_sput, ih]
    by_cases hj : j = n
    · subst hj
      rw [if_pos rfl, if_pos (Nat.lt_succ_self _)]
    · rw [if_neg hj, if_congr (show j < n ↔ j < n + 1 by omega) rfl rfl]

/-- Word `b` of message `a` among the words of messages of eight words each. -/
theorem getD_flatMap_words {ms : List Msg} {a b : Nat} {d : Msg} (h : ∀ x ∈ ms, x.words.length = 8) (ha : a < ms.length) (hb : b < 8) :
    (ms.flatMap fun m => m.words).getD (8 * a + b) 0 = (ms.getD a d).words.getD b 0 := by
  induction ms generalizing a with
  | nil => cases ha
  | cons m ms ih =>
    have hm : m.words.length = 8 := h m (.head _)
    rw [List.flatMap_cons]
    cases a with
    | zero =>
      rw [Nat.mul_zero, Nat.zero_add]
      exact List.getD_append _ _ _ _ (by omega)
    | succ a =>
      rw [List.getD_append_right _ _ _ _ (by omega), hm, show 8 * (a + 1) + b - 8 = 8 * a + b by omega, List.getD_cons_succ]
      exact ih (fun x hx => h x (.tail _ hx)) (Nat.lt_of_succ_lt_succ ha)

theorem sget_messageRegs {ms : List Msg} {d : Msg} (h : ∀ x ∈ ms, x.words.length = 8) (j : Nat) : sget 0 (messageRegs ms) j =
    if j < 4 * ms.length then
      (ms.getD (j / 4) d).words.getD (2 * (j % 4) + 1) 0 ++ (ms.getD (j / 4) d).words.getD (2 * (j % 4)) 0
    else 0 := by
  unfold messageRegs
  rw [sget_forRange_sput 0 _ (fun i => (ms.flatMap fun m => m.words).getD (2 * i + 1) 0 ++ (ms.flatMap fun m => m.words).getD (2 * i) 0)]
  by_cases hj : j < 4 * ms.length
  · rw [if_pos hj, if_pos hj, ← getD_flatMap_words h (by omega) (by omega), ← getD_flatMap_words h (by omega) (by omega),
      show 8 * (j / 4) + (2 * (j % 4) + 1) = 2 * j + 1 by omega, show 8 * (j / 4) + 2 * (j % 4) = 2 * j by omega]
  · rw [if_neg hj, if_neg hj]
    rfl

/-- The fields of CSR firing (R216), of a firing that is not sealed. -/
theorem firing_fields {fid q n : Nat} {replay : Bool} (hq : q < 8) (hn : n < 8) :
    let v := wordOfNat (fid % 2 ^ 32 * 2 ^ 32 + q * 2 ^ 8 + (if replay then 8 else 0) + n)
    wbits v 63 32 = fid % 2 ^ 32 ∧ wbits v 31 11 = 0 ∧ wbits v 10 8 = q ∧ wbits v 7 4 = 0 ∧ wbit v 3 = replay ∧ wbits v 2 0 = n := by
  dsimp only
  have hbit : ∀ m, wbit (wordOfNat m) 3 = (m / 8 % 2).testBit 0 := fun m => by
    rw [← wbit_wbits, wbits_wordOfNat (by omega)]
    rfl
  rw [hbit]
  simp only [wbits_wordOfNat (show 63 < 64 by decide), wbits_wordOfNat (show 31 < 64 by decide), wbits_wordOfNat (show 10 < 64 by decide),
    wbits_wordOfNat (show 7 < 64 by decide), wbits_wordOfNat (show 2 < 64 by decide)]
  cases replay with
  | false =>
    rw [if_neg (by decide)]
    refine ⟨by omega, by omega, by omega, by omega, ?_, by omega⟩
    rw [show (fid % 2 ^ 32 * 2 ^ 32 + q * 2 ^ 8 + 0 + n) / 8 % 2 = 0 by omega]
    rfl
  | true =>
    rw [if_pos rfl]
    refine ⟨by omega, by omega, by omega, by omega, ?_, by omega⟩
    rw [show (fid % 2 ^ 32 * 2 ^ 32 + q * 2 ^ 8 + 8 + n) / 8 % 2 = 1 by omega]
    rfl

/-! ### The acquire of several L1s -/

section
variable {s t : State} {c n : Nat}

/-- The entries of a list changed, once or several times alike. -/
theorem get_foldl_modify {σ α : Type} {get : σ → Nat → α} {modify : σ → Nat → σ} {f : α → α}
    (hget : ∀ s c n, get (modify s c) n = if n = c then f (get s c) else get s n) (hf : ∀ a, f (f a) = f a) (cs : List Nat) (s : σ) (n : Nat) :
    get (cs.foldl modify s) n = if n ∈ cs then f (get s n) else get s n := by
  induction cs generalizing s with
  | nil => rfl
  | cons c cs ih =>
    rw [List.foldl_cons, ih, hget]
    by_cases hc : n = c
    · subst hc
      simp only [if_true, List.mem_cons_self, hf, ite_self]
    · simp only [hc, if_false, List.mem_cons, false_or]

theorem Core.invalidate_invalidate (k : Core) : k.invalidate.invalidate = k.invalidate := by
  unfold Core.invalidate
  simp only [List.filter_filter, Bool.and_self]

theorem State.mem_l1Group : c ∈ s.l1Group c := by
  unfold State.l1Group
  split
  · exact List.mem_map.2 ⟨c % 8, List.mem_range.2 (Nat.mod_lt _ (by decide)), by omega⟩
  · exact List.mem_singleton_self _

theorem State.acquire_package_core : (s.acquire c .package).core c = (s.core c).invalidate :=
  (get_foldl_modify (get := State.core) (fun _ c n => State.core_modCore c n Core.invalidate) Core.invalidate_invalidate
    (s.l1Group c) s c).trans (if_pos State.mem_l1Group)

/-- An acquire at package scope changes nothing but cores. -/
theorem State.acquire_package_rest : ∃ cores, s.acquire c .package = { s with cores } := by
  refine foldl_keeps (fun t : State => ∃ cores, t = { s with cores }) _ _ (fun t n ht => ?_) ⟨s.cores, rfl⟩
  obtain ⟨cores, rfl⟩ := ht
  exact ⟨_, rfl⟩

end

/-! ### The waiting JOINs are served -/

section
variable {s t u : State} {car k j tgt n q : Nat} {l : Lane}

/-- Waiting JOINs of caravan `car` have been served: cores stay, and so does slot `k`; no second mismatch strikes. -/
structure State.Joins (car k : Nat) (s t : State) : Prop where
  cores : t.cores = s.cores
  slot : t.slot k = s.slot k
  mismatch : ∀ j, carOf j = car → (t.slot j).mismatch ≠ 2

theorem State.attach_cores : (s.attach k n l q).cores = s.cores := by
  unfold State.attach State.setLane
  split
  · rfl
  · rfl

/-- Slot `k` is idle, so that no JOIN of its own waits. -/
theorem State.joinNow_joins (hk : (s.slot k).run = .idle) (h : s.Joins car k t) (hj : carOf j = car) :
    s.Joins car k (t.joinNow j tgt n l q) := by
  have hm := h.mismatch j hj
  by_cases hw : (t.slot j).run = .joinWait tgt
  · have hjk : k ≠ j := by
      intro e
      rw [← e, h.slot, hk] at hw
      cases hw
    have hnow := State.joinNow_of_waits (n := n) (l := l) (q := q) hw hm
    refine ⟨?_, (State.joinNow_other hw hm hjk).trans h.slot, fun i hi => ?_⟩
    · rw [hnow]
      exact State.attach_cores.trans h.cores
    · by_cases hij : i = j
      · subst hij
        rw [hnow, State.slot_modSlot_same]
        exact show (0 : Nat) ≠ 2 by decide
      · rw [State.joinNow_other hw hm hij]
        exact h.mismatch i hi
  · rwa [show t.joinNow j tgt n l q = t from if_pos hw]

/-- A fold over slots of the caravan keeps what serving a JOIN keeps. -/
theorem State.Joins.foldl {es : List (Nat × Nat)} {f : State → Nat × Nat → State} (h : s.Joins car k t)
    (hes : ∀ e ∈ es, carOf e.1 = car) (hf : ∀ u e, carOf e.1 = car → s.Joins car k u → s.Joins car k (f u e)) :
    s.Joins car k (es.foldl f t) := by
  induction es generalizing t with
  | nil => exact h
  | cons e es ih => exact ih (hf t e (hes e (.head _)) h) fun e he => hes e (.tail _ he)

theorem State.carOf_of_mem_joiners {e : Nat × Nat} (h : e ∈ s.joiners car) : carOf e.1 = car := (State.mem_joiners.1 h).1

theorem State.joinExisting_joins (hk : (s.slot k).run = .idle) (h : s.Joins car k t) : s.Joins car k (t.joinExisting car) := by
  refine h.foldl (fun e => State.carOf_of_mem_joiners) fun u e he hu => ?_
  split
  · exact State.joinNow_joins hk hu he
  · exact hu

theorem State.joinOpen_joins (hk : (s.slot k).run = .idle) (h : s.Joins car k t) : s.Joins car k (t.joinOpen car) := by
  unfold State.joinOpen
  split
  · next n e es hn hes =>
    refine h.foldl (fun x hx => ?_) fun u x hx hu => ?_
    · exact State.carOf_of_mem_joiners (s := t) (hes ▸ List.mem_of_mem_filter hx)
    · split
      · exact State.joinNow_joins hk hu hx
      · exact State.joinNow_joins hk hu hx
  · exact h

theorem State.serveJoins_joins (hk : (s.slot k).run = .idle) (hm : ∀ j, carOf j = car → (s.slot j).mismatch ≠ 2) :
    s.Joins car k (s.serveJoins car) := by
  have h : s.Joins car k s := ⟨rfl, rfl, hm⟩
  unfold State.serveJoins
  split
  · exact h
  · exact foldl_keeps (s.Joins car k) _ _ (fun _ _ => State.joinOpen_joins hk) (State.joinExisting_joins hk h)

/-- A slot that starts a firing is placed: it is a member of a convoy or a stray, and no core changes (R146, R215). -/
theorem State.placeFiring_slot {a : Nat} (hk : (s.slot k).run = .idle) (hm : ∀ j, carOf j = carOf k → (s.slot j).mismatch ≠ 2) :
    (s.placeFiring k a).cores = s.cores ∧
      ∃ r, (s.placeFiring k a).slot k = { s.slot k with run := r } ∧ ((∃ i, r = .attached i) ∨ r = .stray) := by
  have hs := State.serveJoins_joins hk hm
  unfold State.placeFiring
  generalize s.serveJoins (carOf k) = t at hs
  have hattach (n : Nat) (l : Lane) (q : Nat) : (t.attach k n l q).cores = s.cores ∧
      ∃ r, (t.attach k n l q).slot k = { s.slot k with run := r } ∧ ((∃ i, r = .attached i) ∨ r = .stray) := by
    refine ⟨State.attach_cores.trans hs.cores, .attached n, ?_, .inl ⟨n, rfl⟩⟩
    rw [State.slot, State.attach_slots, ← hs.slot]
    exact State.slot_modSlot_same ..
  dsimp only
  split
  · exact hattach ..
  · split
    · exact hattach ..
    · refine ⟨hs.cores, .stray, ?_, .inr rfl⟩
      rw [State.slot_modSlot_same, hs.slot]

end

/-! ### The slot and the core of a firing that starts -/

section
variable {s : State} {core k q : Nat}

theorem State.lt_of_nextQueue (h : s.nextQueue core = some q) : q < 8 := by
  have hmem := List.mem_of_find?_eq_some h
  exact List.mem_range.1 (List.mem_of_mem_filter hmem)

theorem State.idleSlot_spec (h : s.idleSlot core = some k) : k / 4 = core ∧ (s.slot k).run = .idle := by
  obtain ⟨i, hi, rfl⟩ := List.mem_map.1 (List.mem_of_find?_eq_some h)
  have hi := List.mem_range.1 hi
  exact ⟨by omega, by simpa [Slot.running] using List.find?_some h⟩

/-- A core whose queue `q` has given `n` messages to a firing (R214). -/
def Core.consume (q n : Nat) (d : Core) : Core :=
  { d with inbox := sset d.inbox q ((sget [] d.inbox q).drop n), fid := (d.fid + 1) % 2 ^ 32 }

/-- The messages that a firing of queue `q` consumes. -/
def Core.heads (d : Core) (q : Nat) : List Msg := (sget [] d.inbox q).take (d.queueAttr q).count

/-- The package before a firing that starts is placed: what the firing consumes is gone, and the slot is set (R214, R215). -/
def State.consumed (s : State) (c k q : Nat) : State :=
  (s.modCore c (Core.consume q ((s.core c).queueAttr q).count)).modSlot k fun sl => sl.start (s.core c).fid q ((s.core c).heads q)

/-- A launch has start messages among those that a firing consumes (R228). -/
def State.launchStarted (c : Nat) (ms : List Msg) (t : State) (id : Nat) : State :=
  t.modLaunch ((t.core c).ctx.getD 0) id fun r =>
    { r with pending := r.pending - (ms.filter fun m => m.launch == some id).length, running := r.running + 1 }

/-- Its launches are told, its core acquires, and a cancelled slice starts again (R197, R228, R412). -/
def State.acquired (s : State) (c k : Nat) (ms : List Msg) : State :=
  let t := ((s.slot k).launchIds.foldl (State.launchStarted c ms) s).acquire c .package
  t.restartSlice ((t.core c).ctx.getD 0)

theorem State.acquired_core {c : Nat} {ms : List Msg} : (s.acquired c k ms).core c = (s.core c).invalidate := by
  refine State.acquire_package_core.trans (congrArg Core.invalidate ?_)
  exact foldl_keeps (fun t : State => t.core c = s.core c) _ (State.launchStarted c ms) (fun _ _ h => h) rfl

theorem State.acquired_slot {c : Nat} {ms : List Msg} (j : Nat) : (s.acquired c k ms).slot j = s.slot j := by
  unfold State.acquired
  obtain ⟨cores, hacq⟩ := State.acquire_package_rest (s := (s.slot k).launchIds.foldl (State.launchStarted c ms) s) (c := c)
  rw [hacq]
  exact foldl_keeps (fun t : State => t.slot j = s.slot j) _ (State.launchStarted c ms) (fun _ _ h => h) rfl

theorem State.startFiring_eq : s.startFiring core k q =
    let u := (s.consumed core k q).acquired core k ((s.core core).heads q)
    u.placeFiring k (u.slot k).pc.toNat := rfl

theorem firingStart_of_qualified (hf : (s.core core).fenced = false) (hc : (s.core core).ctx.isSome = true)
    (hstop : s.stopped core = false) (hq : s.nextQueue core = some q) (hk : s.idleSlot core = some k) :
    exec (.firingStart core) s = .next (s.startFiring core k q) := by
  change execFiringStart core s = _
  unfold execFiringStart
  have hnone : (s.core core).ctx.isNone = false := by rw [← Option.not_isSome, hc]; rfl
  rw [if_neg (by simp only [hf, hnone, hstop, Bool.or_false]; decide), hq, hk]

theorem State.consumed_slot_same : (s.consumed core k q).slot k = (s.slot k).start (s.core core).fid q
    ((s.core core).heads q) := State.slot_modSlot_same ..

theorem State.consumed_core : (s.consumed core k q).core core = (s.core core).consume q ((s.core core).queueAttr q).count :=
  State.core_modCore_same s core (Core.consume q ((s.core core).queueAttr q).count)

theorem State.consumed_mismatch (j : Nat) : ((s.consumed core k q).slot j).mismatch = (s.slot j).mismatch := by
  by_cases hj : j = k
  · subst hj
    rw [State.consumed_slot_same]
    rfl
  · exact congrArg Slot.mismatch (State.slot_modSlot_other _ _ hj)

/-- What the start of a firing leaves of its core and its slot. -/
theorem State.startFiring_spec (hk : (s.slot k).run = .idle) (hm : ∀ j, carOf j = carOf k → (s.slot j).mismatch ≠ 2) :
    (s.startFiring core k q).core core = ((s.core core).consume q ((s.core core).queueAttr q).count).invalidate ∧
      ∃ r, (s.startFiring core k q).slot k = { (s.slot k).start (s.core core).fid q ((s.core core).heads q) with run := r } ∧
        ((∃ i, r = .attached i) ∨ r = .stray) := by
  rw [State.startFiring_eq]
  dsimp only
  have hslot := State.acquired_slot (s := s.consumed core k q) (k := k) (c := core) (ms := (s.core core).heads q)
  have hrun : (((s.consumed core k q).acquired core k ((s.core core).heads q)).slot k).run = .idle := by
    rw [hslot, State.consumed_slot_same]
    exact hk
  obtain ⟨hcores, r, hr, hor⟩ := State.placeFiring_slot
    (a := (((s.consumed core k q).acquired core k ((s.core core).heads q)).slot k).pc.toNat) hrun fun j hj => by
      rw [hslot, State.consumed_mismatch]
      exact hm j hj
  refine ⟨(State.core_of_cores hcores core).trans (State.acquired_core.trans (congrArg _ State.consumed_core)), r, hr.trans ?_, hor⟩
  rw [hslot, State.consumed_slot_same]

end

/-- Settles O31: the messages are consumed, the core acquires, and the slot is set and placed. -/
theorem firingStart : Obligations.FiringStart := by
  intro s core q k m ms c a hfence hctx hstop hmis hq hk hcount htake hlen
  obtain ⟨hcore, hidle⟩ := State.idleSlot_spec hk
  have hcar : ∀ j, carOf j = carOf k → j / 32 = core / 8 := fun j hj => by
    unfold carOf at hj
    omega
  obtain ⟨hcoreEq, r, hslot, hrun⟩ := State.startFiring_spec (core := core) (q := q) hidle fun j hj => hmis j (hcar j hj)
  have hms : (s.core core).heads q = m :: ms := htake
  have hn : (m :: ms).length ≤ 4 := by
    rw [← htake, List.length_take]
    omega
  refine ⟨_, firingStart_of_qualified hfence hctx hstop hq hk, ?_⟩
  rw [hcoreEq, hslot, hms]
  exact ⟨rfl, rfl, rfl, sget_messageRegs hlen, firing_fields (State.lt_of_nextQueue hq) (by omega), hrun, rfl⟩

end Sys2Proof.Machine
end

section
/-!
SUPPORT. The save of a context (R407 to R409): the save counters that its stop leaves, the caravans that it gives free, and what the end
of the save leaves.
-/

namespace Sys2Proof.Machine

/-! ### The save counters -/

section
variable {s t u : State} {k c x : Nat}

/-- Every context has the save counter that it had. -/
def State.SameCounters (s t : State) : Prop := ∀ y, (t.ctx y).counter = (s.ctx y).counter

theorem State.SameCounters.refl : s.SameCounters s := fun _ => rfl

theorem State.SameCounters.trans (h : s.SameCounters t) (h' : t.SameCounters u) : s.SameCounters u := fun y => (h' y).trans (h y)

theorem State.SameCounters.of_ctxs (h : t.ctxs = s.ctxs) : s.SameCounters t := by
  intro y
  unfold State.ctx
  rw [h]

theorem State.modCtx_sameCounters {f : Ctx → Ctx} (hf : ∀ d, (f d).counter = d.counter) : s.SameCounters (s.modCtx x f) := by
  intro y
  by_cases hy : y = x
  · subst hy
    rw [State.ctx_modCtx_same, hf]
  · unfold State.ctx State.modCtx
    rw [sget_sset_other _ _ _ hy]

theorem State.modLaunches_sameCounters {ids : List Nat} {f : Nat → Running → Running} :
    s.SameCounters (ids.foldl (fun s id => s.modLaunch x id (f id)) s) :=
  foldl_keeps s.SameCounters ids (fun s id => s.modLaunch x id (f id)) (fun _ _ h => h.trans (State.modCtx_sameCounters fun _ => rfl)) .refl

theorem State.leave_ctxs : (s.leave k).ctxs = s.ctxs := by rw [State.leave_sameButConvoy.rest]

theorem State.commit_ctxs {target : Option Word} : (s.commit k target).ctxs = s.ctxs := by rw [State.commit_sameButConvoy.rest]; rfl

theorem State.cancelSlice_sameCounters : s.SameCounters (s.cancelSlice x) := by
  unfold State.cancelSlice
  dsimp only
  split
  · exact .refl
  · exact State.modCtx_sameCounters fun _ => rfl

theorem State.endFiring_sameCounters (killed : Bool) : s.SameCounters (s.endFiring k killed) := by
  refine State.SameCounters.trans ?_ State.cancelSlice_sameCounters
  refine State.SameCounters.trans ?_ (.of_ctxs (State.unfuse_ctxs _))
  exact (State.SameCounters.of_ctxs State.leave_ctxs).trans State.modLaunches_sameCounters

theorem State.killFiring_sameCounters (cause : Nat) (addr : Word) : s.SameCounters (s.killFiring k cause addr) := by
  unfold State.killFiring
  dsimp only
  split
  · exact .refl
  · split
    · refine State.SameCounters.trans ?_ (.of_ctxs (State.unfuse_ctxs _))
      refine State.SameCounters.trans (.of_ctxs ?_) State.modLaunches_sameCounters
      rw [State.modSlot_ctxs, State.leave_ctxs]
      rfl
    · refine State.SameCounters.trans ?_ (.of_ctxs (State.event_ctxs ..))
      refine State.SameCounters.trans ?_ (State.endFiring_sameCounters true)
      exact .of_ctxs rfl

theorem State.fenceCore_sameCounters : s.SameCounters (s.fenceCore k) := by
  refine State.SameCounters.trans ?_ (.of_ctxs (State.event_ctxs ..))
  refine foldl_keeps s.SameCounters _ _ (fun t j h => h.trans (State.killFiring_sameCounters _ _)) ?_
  exact .refl

theorem State.retire_sameCounters : s.SameCounters (s.retire k) := by
  unfold State.retire
  split
  · exact State.fenceCore_sameCounters
  · split
    · exact .of_ctxs State.commit_ctxs
    · exact .of_ctxs State.commit_ctxs

theorem State.stepBack_ctxs (n : Nat) : (s.stepBack k n).ctxs = s.ctxs := by
  unfold State.stepBack
  split
  · rfl
  · rfl

theorem State.beforeSync_ctxs : (s.beforeSync k).ctxs = s.ctxs := by
  unfold State.beforeSync
  split
  · split
    · rfl
    · rfl
    · exact State.stepBack_ctxs 1
    · exact State.stepBack_ctxs 2
  · rfl

/-- A GXCH of slot `k` past its commit point completes (R407). -/
def State.retireEscrow (s : State) (k : Nat) : State :=
  match (s.slot k).wait with
  | .escrow _ _ => s.retire k
  | _ => s

theorem State.stopSlot_eq : s.stopSlot k =
    let t := (s.retireEscrow k).beforeSync k
    if (t.slot k).rep.isSome then (t.stepBack k 1).modSlot k fun sl => { sl.stopRep with wait := .none, fresh := true }
    else t.modSlot k fun sl => { sl with wait := .none } := rfl

theorem State.retireEscrow_sameCounters : s.SameCounters (s.retireEscrow k) := by
  unfold State.retireEscrow
  split
  · exact State.retire_sameCounters
  · exact .refl

theorem State.stopSlot_sameCounters : s.SameCounters (s.stopSlot k) := by
  rw [State.stopSlot_eq]
  refine (State.retireEscrow_sameCounters (k := k)).trans ?_
  dsimp only
  split
  · exact .of_ctxs ((State.stepBack_ctxs 1).trans State.beforeSync_ctxs)
  · exact .of_ctxs State.beforeSync_ctxs

/-- A context that stops has its counter one up, and is being saved (R407, R409). -/
theorem State.stopCtx_ctx (sv : Saving) : ((s.stopCtx x sv).ctx x).counter = (s.ctx x).counter + 1 ∧
    ((s.stopCtx x sv).ctx x).saving = some sv := by
  unfold State.stopCtx
  rw [State.ctx_modCtx_same]
  refine ⟨congrArg (· + 1) ?_, rfl⟩
  refine foldl_keeps s.SameCounters _ _ (fun t c ht => ht.trans (.of_ctxs State.releaseBest_storesOut.ctxs)) ?_ x
  refine foldl_keeps s.SameCounters _ _ (fun t j ht => ?_) .refl
  split
  · exact ht.trans State.stopSlot_sameCounters
  · exact ht

end

/-! ### The caravans that are given free -/

section
variable {s t : State} {n v i x : Nat} {cars : List Nat}

theorem mem_coresOf (hv : v ∈ cars) (hi : i < 8) : 8 * v + i ∈ coresOf cars :=
  List.mem_flatMap.2 ⟨v, hv, List.mem_map.2 ⟨i, List.mem_range.2 hi, rfl⟩⟩

theorem mem_slotsOf (hv : v ∈ cars) (hi : i < 32) : 32 * v + i ∈ slotsOf cars :=
  List.mem_flatMap.2 ⟨v, hv, List.mem_map.2 ⟨i, List.mem_range.2 hi, rfl⟩⟩

/-- The contexts and the images that have been written stay. -/
def State.SameCtxs (s t : State) : Prop := t.ctxs = s.ctxs ∧ t.snaps = s.snaps

theorem State.flushCars_sameCtxs : s.SameCtxs (s.flushCars cars) := ⟨State.flushL1s_storesOut.ctxs, State.flushL1s_storesOut.snaps⟩

/-- Caravans, cores and slots that a list names, when changed, keep the contexts and the images. -/
theorem State.SameCtxs.modCars {α : Type} (h : s.SameCtxs t) (es : List α) (key : α → Nat) (f : α → Caravan → Caravan) :
    s.SameCtxs (es.foldl (fun s e => s.modCar (key e) (f e)) t) :=
  foldl_keeps s.SameCtxs es (fun s e => s.modCar (key e) (f e)) (fun _ _ h => h) h

theorem State.SameCtxs.modCores {α : Type} (h : s.SameCtxs t) (es : List α) (key : α → Nat) (f : α → Core → Core) :
    s.SameCtxs (es.foldl (fun s e => s.modCore (key e) (f e)) t) :=
  foldl_keeps s.SameCtxs es (fun s e => s.modCore (key e) (f e)) (fun _ _ h => h) h

theorem State.SameCtxs.modSlots {α : Type} (h : s.SameCtxs t) (es : List α) (key : α → Nat) (f : α → Slot → Slot) :
    s.SameCtxs (es.foldl (fun s e => s.modSlot (key e) (f e)) t) :=
  foldl_keeps s.SameCtxs es (fun s e => s.modSlot (key e) (f e)) (fun _ _ h => h) h

theorem State.vacate_sameCtxs : s.SameCtxs (s.vacate cars) :=
  ((State.flushCars_sameCtxs.modSlots (slotsOf cars) id fun _ => Slot.vacate).modCores (coresOf cars) id fun _ => Core.vacate).modCars
    cars id fun _ _ => Caravan.reset

theorem State.core_modCars {f : Nat → Caravan → Caravan} : (cars.foldl (fun s v => s.modCar v (f v)) s).core n = s.core n :=
  foldl_keeps (fun t : State => t.core n = s.core n) cars (fun s v => s.modCar v (f v)) (fun _ _ h => h) rfl

theorem State.slot_modCars {f : Nat → Caravan → Caravan} : (cars.foldl (fun s v => s.modCar v (f v)) s).slot n = s.slot n :=
  foldl_keeps (fun t : State => t.slot n = s.slot n) cars (fun s v => s.modCar v (f v)) (fun _ _ h => h) rfl

theorem State.slot_modCores {f : Nat → Core → Core} : (cars.foldl (fun s c => s.modCore c (f c)) s).slot n = s.slot n :=
  foldl_keeps (fun t : State => t.slot n = s.slot n) cars (fun s c => s.modCore c (f c)) (fun _ _ h => h) rfl

theorem State.car_modCores {f : Nat → Core → Core} : (cars.foldl (fun s c => s.modCore c (f c)) s).car n = s.car n :=
  foldl_keeps (fun t : State => t.car n = s.car n) cars (fun s c => s.modCore c (f c)) (fun _ _ h => h) rfl

theorem State.car_modCars {f : Caravan → Caravan} (hf : ∀ d, f (f d) = f d) (hv : v ∈ cars) :
    (cars.foldl (fun s v => s.modCar v f) s).car v = f (s.car v) :=
  (get_foldl_modify (get := State.car) (fun s c n => State.car_modCar s c n f) hf cars s v).trans (if_pos hv)

theorem State.core_modCores {f : Core → Core} (hf : ∀ d, f (f d) = f d) (hn : n ∈ cars) :
    (cars.foldl (fun s c => s.modCore c f) s).core n = f (s.core n) :=
  (get_foldl_modify (get := State.core) (fun _ c n => State.core_modCore c n f) hf cars s n).trans (if_pos hn)

theorem State.slot_modSlot (c : Nat) (f : Slot → Slot) : (s.modSlot c f).slot n = if n = c then f (s.slot c) else s.slot n := by
  split
  · next h => rw [h, State.slot_modSlot_same]
  · next h => exact State.slot_modSlot_other _ _ h

theorem State.slot_modSlots {f : Slot → Slot} (hf : ∀ d, f (f d) = f d) (hn : n ∈ cars) :
    (cars.foldl (fun s c => s.modSlot c f) s).slot n = f (s.slot n) :=
  (get_foldl_modify (get := State.slot) (fun _ c _ => State.slot_modSlot c f) hf cars s n).trans (if_pos hn)

/-- The slots, cores and caravans that a context has left. -/
theorem State.vacate_car (hv : v ∈ cars) : (s.vacate cars).car v = Caravan.reset := State.car_modCars (fun _ => rfl) hv

theorem State.vacate_core (hn : n ∈ coresOf cars) : ∃ d, (s.vacate cars).core n = Core.vacate d :=
  ⟨State.core _ n, (State.core_modCars (f := fun _ _ => Caravan.reset)).trans (State.core_modCores (fun _ => rfl) hn)⟩

theorem State.vacate_slot (hn : n ∈ slotsOf cars) : ∃ d, (s.vacate cars).slot n = Slot.vacate d :=
  ⟨State.slot _ n, (State.slot_modCars (f := fun _ _ => Caravan.reset)).trans
    ((State.slot_modCores (f := fun _ => Core.vacate)).trans (State.slot_modSlots (fun _ => rfl) hn))⟩

/-! ### The end of a save -/

theorem State.deadline_sameCtxs {sv : Saving} : s.SameCtxs (s.deadline x sv) := by
  unfold State.deadline
  split
  · obtain ⟨hrest, -⟩ := State.event_rest (s := s) (ctx := sv.exec) { kind := 3, pos := 0 } 8 0 0 (wordOfNat x) sv.image 0
      (wordOfNat (micros sv.start s.now)) (wordOfNat sv.deadline)
    exact ⟨by rw [hrest], by rw [hrest]⟩
  · exact ⟨rfl, rfl⟩

/-- A save that is complete leaves its context not resident, and an image (R407, R409). -/
theorem State.completeSave_ctx {core : Nat} {sv : Saving} (h : s.completeSave core x sv = .ok t) :
    (t.ctx x).resident = false ∧ (t.ctx x).saving = none ∧ ∃ n ∈ t.snaps, n.ctx = x := by
  obtain ⟨u, -, h⟩ := ok_of_bind_ok h
  obtain ⟨w, -, h⟩ := ok_of_bind_ok h
  cases h
  obtain ⟨hctxs, hsnaps⟩ := State.deadline_sameCtxs (s := (State.vacate _ _).modCtx x _) (x := x) (sv := sv)
  have hctx := congrArg (fun cs => sget Ctx.none cs x) hctxs
  refine ⟨(congrArg Ctx.resident hctx).trans ?_, (congrArg Ctx.saving hctx).trans ?_, (s.settle x).snapshot x, ?_, rfl⟩
  · exact congrArg Ctx.resident (State.ctx_modCtx_same ..)
  · exact congrArg Ctx.saving (State.ctx_modCtx_same ..)
  · rw [hsnaps, State.modCtx_snaps, State.vacate_sameCtxs.2]
    exact List.mem_append_right _ (List.mem_singleton_self _)

end

end Sys2Proof.Machine
end

section
/-!
SUPPORT. An image that is installed, and the steps of CTX.SAVE and CTX.REST (R401, R407 to R410).
-/

namespace Sys2Proof.Machine

/-! ### An image that is installed -/

section
variable {s t : State} {n : Snap}

theorem State.ctx_of_ctxs (h : t.ctxs = s.ctxs) (y : Nat) : t.ctx y = s.ctx y := by
  unfold State.ctx
  rw [h]

/-- What a restore changes of its context (R410). -/
def Ctx.installed (c : Ctx) (cars : List Nat) (now : Nat) : Ctx :=
  { c with resident := true, caravans := cars, counter := c.counter + 1
           slice := c.slice.map fun t => { t with start := now, waits := false } }

theorem State.SameCtxs.acquire (h : s.SameCtxs t) (cs : List Nat) :
    s.SameCtxs (cs.foldl (fun s c => s.acquire c .package) t) := by
  refine foldl_keeps s.SameCtxs cs _ (fun u c hu => ?_) h
  obtain ⟨cores, hacq⟩ := State.acquire_package_rest (s := u) (c := c)
  rw [hacq]
  exact hu

theorem State.SameCtxs.setBulks (h : s.SameCtxs t) (es : List (Nat × List Cmd)) (f : State → Nat × List Cmd → Sparse (List Cmd)) :
    s.SameCtxs (es.foldl (fun s e => { s with bulks := f s e }) t) :=
  foldl_keeps s.SameCtxs es (fun s e => { s with bulks := f s e }) (fun _ _ h => h) h

theorem State.SameCtxs.setSlots {α : Type} (h : s.SameCtxs t) (es : List α) (key : α → Nat) (f : α → Slot) :
    s.SameCtxs (es.foldl (fun s e => s.setSlot (key e) (f e)) t) :=
  foldl_keeps s.SameCtxs es (fun s e => s.setSlot (key e) (f e)) (fun _ _ h => h) h

/-- The context that is restored is what its installation makes of it, whatever its caravans do then. -/
theorem State.install_eq : ∃ u : State, u.ctxs = s.ctxs ∧ u.snaps = (s.snaps.filter fun x => x.ctx ≠ n.ctx) ∧
    s.install n = n.caravans.foldl (fun s v => s.unfuse n.ctx v)
      ((u.modCtx n.ctx fun c => c.installed n.caravans u.now).bringBack n.ctx) := by
  refine ⟨_, ?ctxs, ?snaps, rfl⟩
  case ctxs =>
    dsimp only
    exact (((((State.flushCars_sameCtxs.setSlots _ _ _).modCores _ _ _).modCars _ _ _).acquire _).setBulks _ _).1
  case snaps =>
    dsimp only
    refine congrArg (List.filter _) ?_
    exact (((((State.flushCars_sameCtxs.setSlots _ _ _).modCores _ _ _).modCars _ _ _).acquire _).setBulks _ _).2

theorem State.bringBack_ctx {y : Nat} : (s.bringBack y).ctx y = { s.ctx y with away := [] } := by
  unfold State.bringBack
  rw [State.ctx_modCtx_same]
  refine congrArg (fun c : Ctx => { c with away := [] }) (State.ctx_of_ctxs ?_ y)
  exact foldl_keeps (fun t : State => t.ctxs = s.ctxs) (s.ctx y).away (fun s e => s.modCore (e.1 / 8) fun k =>
    { k with spill := sset k.spill (e.1 % 8) (sget [] k.spill (e.1 % 8) ++ e.2) }) (fun _ _ h => h) rfl

theorem State.bringBack_snaps {y : Nat} : (s.bringBack y).snaps = s.snaps :=
  foldl_keeps (fun t : State => t.snaps = s.snaps) (s.ctx y).away (fun s e => s.modCore (e.1 / 8) fun k =>
    { k with spill := sset k.spill (e.1 % 8) (sget [] k.spill (e.1 % 8) ++ e.2) }) (fun _ _ h => h) rfl

theorem State.StoresOutCars.sameCtxs (h : s.StoresOutCars t) : s.SameCtxs t := by
  obtain ⟨cs, h⟩ := h
  exact ⟨h.ctxs, h.snaps⟩

/-- What an installed image leaves of its context, and of the images (R410). -/
theorem State.install_ctx : (∃ now, (s.install n).ctx n.ctx = { (s.ctx n.ctx).installed n.caravans now with away := [] }) ∧
    (s.install n).snaps = s.snaps.filter fun x => x.ctx ≠ n.ctx := by
  obtain ⟨u, hctxs, hsnaps, heq⟩ := State.install_eq (s := s) (n := n)
  obtain ⟨hctxs', hsnaps'⟩ := (State.unfuseAll_storesOutCars (x := n.ctx)
    (s := (u.modCtx n.ctx fun c => c.installed n.caravans u.now).bringBack n.ctx) n.caravans).sameCtxs
  rw [heq, hsnaps', State.bringBack_snaps]
  refine ⟨⟨u.now, (State.ctx_of_ctxs hctxs' n.ctx).trans ?_⟩, hsnaps⟩
  rw [State.bringBack_ctx, State.ctx_modCtx_same, State.ctx_of_ctxs hctxs]

end

/-! ### CTX.SAVE and CTX.REST -/

section
variable {s t : State} {rd rs1 rs2 : Reg}

/-- An instruction that reads two registers and the state. -/
theorem act_x_x_get {g : Word → Word → State → Act Unit} :
    (Act.x rs1 >>= fun a => Act.x rs2 >>= fun p => get >>= fun u => g a p u) s = g (Claims.xs s rs1) (Claims.xs s rs2) s s := rfl

/-- The save that a CTX.SAVE goes on with, or begins. -/
def State.savingOf (s : State) (x : Nat) (p : Word) : Saving :=
  (s.ctx x).saving.getD { start := s.now, deadline := 0, exec := s.ctxOf s.cur, image := p, slice := false }

theorem State.savingOf_of_some {x : Nat} {p : Word} {sv : Saving} (hs : (s.ctx x).saving = some sv) : s.savingOf x p = sv := by
  unfold State.savingOf
  rw [hs]
  rfl

section
variable (hu : (s.slot s.cur).priv ≠ .u) (hm : (s.core (Claims.cc s)).mgr = true)
include hu hm

theorem ctxSave_of_refused (h : 63 < (Claims.xs s rs1).toNat ∨ (s.ctx (Claims.xs s rs1).toNat).resident = false ∨
    (Claims.xs s rs1).toNat = s.ctxOf s.cur ∨ (Claims.xs s rs2).toNat % 2 ^ 56 % 4096 ≠ 0) :
    exec (.ctxSave rs1 rs2) s = Claims.traps s 2 (s.wordOf (.ctxSave rs1 rs2)) :=
  (runSlot_managed hu hm).trans (runSlot_of_trap (act_x_x_get.trans (act_of_stop (by simpa [va, or_assoc] using h) rfl)))

section
variable (hx : (Claims.xs s rs1).toNat ≤ 63) (hr : (s.ctx (Claims.xs s rs1).toNat).resident = true)
  (hme : (Claims.xs s rs1).toNat ≠ s.ctxOf s.cur) (ha : (Claims.xs s rs2).toNat % 2 ^ 56 % 4096 = 0)
include hx hr hme ha

omit hu hm in
theorem saveRefuses_false : ¬ (decide (63 < (Claims.xs s rs1).toNat) || !(s.ctx (Claims.xs s rs1).toNat).resident ||
    decide ((Claims.xs s rs1).toNat = s.ctxOf s.cur) || decide (va (Claims.xs s rs2) % 4096 ≠ 0)) = true := by
  simp only [hr, hme, show va (Claims.xs s rs2) % 4096 = 0 from ha, Nat.not_lt.2 hx]
  decide

theorem ctxSave_of_slice (hsl : (s.savingOf (Claims.xs s rs1).toNat (Claims.xs s rs2)).slice = true) :
    exec (.ctxSave rs1 rs2) s = .next s :=
  (runSlot_managed hu hm).trans (runSlot_of_wait (ws := []) (act_x_x_get.trans ((act_of_pass (saveRefuses_false hx hr hme ha)).trans
    (act_of_stop (by simpa [State.savingOf] using .inl hsl) rfl))))

variable (hmid : s.midInstruction (Claims.xs s rs1).toNat = false)
  (hsl : (s.savingOf (Claims.xs s rs1).toNat (Claims.xs s rs2)).slice = false)
include hmid hsl

omit hu hm hx hr hme ha in
theorem saveWaits_false : ¬ ((s.savingOf (Claims.xs s rs1).toNat (Claims.xs s rs2)).slice || s.midInstruction (Claims.xs s rs1).toNat) =
    true := by
  rw [hsl, hmid]
  decide

theorem ctxSave_of_begun {sv : Saving} (hn : (s.ctx (Claims.xs s rs1).toNat).saving = none)
    (hsv : s.savingOf (Claims.xs s rs1).toNat (Claims.xs s rs2) = sv)
    (hc : (s.stopCtx (Claims.xs s rs1).toNat sv).checkImage (coreOf s.cur) (va sv.image)
      ((s.stopCtx (Claims.xs s rs1).toNat sv).snapshot (Claims.xs s rs1).toNat).chunks = .ok t) :
    exec (.ctxSave rs1 rs2) s = .next (s.stopCtx (Claims.xs s rs1).toNat sv) := by
  refine (runSlot_managed hu hm).trans (runSlot_of_ok (act_x_x_get.trans ((act_of_pass (saveRefuses_false hx hr hme ha)).trans
    ((act_of_pass (saveWaits_false hmid hsl)).trans ?_))))
  refine (congrFun (if_pos (by rw [hn]; rfl)) s).trans ?_
  refine Eq.trans (b := Act.beginSave (Claims.xs s rs1).toNat sv s) (by rw [← hsv]; rfl) ?_
  unfold Act.beginSave
  refine (act_bind_ok (x := get) rfl).trans ?_
  rw [hc]
  rfl

variable {sv : Saving} (hs : (s.ctx (Claims.xs s rs1).toNat).saving = some sv)
include hs

theorem ctxSave_of_waiting (h : s.enginesStopped (Claims.xs s rs1).toNat = false ∨ s.savePauses (Claims.xs s rs1).toNat sv = true) :
    exec (.ctxSave rs1 rs2) s = .next s := by
  refine (runSlot_managed hu hm).trans (runSlot_of_wait (ws := []) (act_x_x_get.trans ((act_of_pass (saveRefuses_false hx hr hme ha)).trans
    ((act_of_pass (saveWaits_false hmid hsl)).trans ?_))))
  rw [hs]
  refine (congrFun (if_neg (by simp)) s).trans ?_
  refine (congrFun (if_pos (by simpa using h)) s).trans ?_
  rfl

theorem ctxSave_of_complete (he : s.enginesStopped (Claims.xs s rs1).toNat = true)
    (hp : s.savePauses (Claims.xs s rs1).toNat sv = false)
    (hc : s.completeSave (coreOf s.cur) (Claims.xs s rs1).toNat { sv with image := Claims.xs s rs2 } = .ok t) :
    exec (.ctxSave rs1 rs2) s = .next (t.commit t.cur none) := by
  refine (runSlot_managed hu hm).trans (runSlot_of_ok (act_x_x_get.trans ((act_of_pass (saveRefuses_false hx hr hme ha)).trans
    ((act_of_pass (saveWaits_false hmid hsl)).trans ?_))))
  rw [hs]
  refine (congrFun (if_neg (by simp)) s).trans ?_
  refine (congrFun (if_neg (by simp [he, hp])) s).trans ?_
  simp only [Option.getD_some]
  rw [hc]
  rfl

end

theorem ctxRest_of_bad_index (h : 63 < (Claims.xs s rs1).toNat) :
    exec (.ctxRest rd rs1 rs2) s = Claims.traps s 2 (s.wordOf (.ctxRest rd rs1 rs2)) :=
  (runSlot_managed hu hm).trans (runSlot_of_trap ((act_bind_ok (act_x rs1)).trans ((act_bind_ok (act_x rs2)).trans (act_of_stop h rfl))))

theorem ctxRest_of_status {st : Nat} (h : (Claims.xs s rs1).toNat ≤ 63)
    (hst : s.restoreImage (Claims.cc s) (Claims.xs s rs1).toNat ((Claims.xs s rs2).toNat % 2 ^ 56) = .ok (st, t)) :
    exec (.ctxRest rd rs1 rs2) s = Claims.result t rd (wordOfNat st) := by
  refine (runSlot_managed hu hm).trans ?_
  refine (runSlot_congr ((act_bind_ok (act_x rs1)).trans ((act_bind_ok (act_x rs2)).trans ((act_of_pass (Nat.not_lt.2 h)).trans
    (act_bind_ok (x := get) rfl))))).trans ?_
  refine runSlot_of_ok ?_
  rw [show s.restoreImage (coreOf s.cur) (Claims.xs s rs1).toNat (va (Claims.xs s rs2)) = _ from hst]
  rfl

end

/-- The statuses of a restore that reads nothing (R410). -/
theorem State.restoreImage_of_failed {core x a : Nat} (h : (s.ctx x).failed = true) : s.restoreImage core x a = .ok (5, s) := by
  unfold State.restoreImage
  rw [if_pos h]
  rfl

theorem State.restoreImage_of_misaligned {core x a : Nat} (h : (s.ctx x).failed = false) (ha : a % 4096 ≠ 0) :
    s.restoreImage core x a = .ok (4, s) := by
  unfold State.restoreImage
  rw [if_neg (by rw [h]; decide), if_pos ha]
  rfl

end

end Sys2Proof.Machine
end

section
/-!
SUPPORT. Time slices, retrainings of HBM and the creation of a context (R223, R254, R394, R395, R411 to R413, R461).
-/

namespace Sys2Proof.Machine

/-! ### Time slices -/

section
variable {s : State} {y : Nat} {t : Slice} {sv : Saving}

/-- A time falls into the present cycle of a context where it has come, but not yet by a cycle of the context's clock (R461). -/
theorem State.fallsNow_iff {due : Nat} :
    s.fallsNow y due = true ↔ due ≤ s.now ∧ ¬ (due ≤ s.now ∧ 16 ≤ (s.now - due) * s.ctxClock y) := by
  unfold State.fallsNow
  rw [Bool.and_eq_true, decide_eq_true_eq, decide_eq_true_eq]
  omega

theorem State.sliceOver_iff : s.sliceOver y t = true ↔
    t.waits = false ∧ t.expiry ≤ s.now ∧ 16 ≤ (s.now - t.expiry) * s.ctxClock y := by
  unfold State.sliceOver State.fallsNow
  simp only [Bool.and_eq_true, Bool.not_eq_true', Bool.and_eq_false_imp, decide_eq_true_eq, decide_eq_false_iff_not]
  constructor
  · exact fun ⟨⟨hw, hd⟩, hn⟩ => ⟨hw, hd, Nat.not_lt.1 (hn hd)⟩
  · exact fun ⟨hw, hd, hn⟩ => ⟨⟨hw, hd⟩, fun _ => Nat.not_lt.2 hn⟩

section
variable (hs : (s.ctx y).slice = some t)
include hs

theorem tsliceExpiry_of_early (hn : (s.ctx y).saving = none) (h : s.sliceOver y t = false) : exec (.tsliceExpiry y) s = .next s := by
  change execTsliceExpiry y s = _
  unfold execTsliceExpiry
  dsimp only
  rw [hs, hn]
  dsimp only
  rw [if_pos (by simp [h])]

theorem tsliceExpiry_of_over (hn : (s.ctx y).saving = none) (hr : (s.ctx y).resident = true) (h : s.sliceOver y t = true)
    (hm : s.midInstruction y = false) (ha : va t.image % 4096 = 0) : exec (.tsliceExpiry y) s =
      .next (s.stopCtx y { start := t.expiry, deadline := t.deadline, exec := t.exec, image := t.image, slice := true }) := by
  change execTsliceExpiry y s = _
  unfold execTsliceExpiry
  dsimp only
  rw [hs, hn]
  dsimp only
  rw [if_neg (by simp [h, hm, hr]), if_neg (by omega)]

section
variable (hsv : (s.ctx y).saving = some sv) (hsl : sv.slice = true)
include hsv hsl

theorem tsliceExpiry_of_saving : exec (.tsliceExpiry y) s = .next (s.finishSlice y t sv) := by
  change execTsliceExpiry y s = _
  unfold execTsliceExpiry
  dsimp only
  rw [hs, hsv]
  dsimp only
  rw [if_pos hsl]

theorem saveDeadlineExpiry_of_saving : exec (.saveDeadlineExpiry y) s = .next (if s.late sv then s.finishSlice y t sv else s) := by
  change execSaveDeadlineExpiry y s = _
  unfold execSaveDeadlineExpiry
  dsimp only
  rw [hs, hsv]
  dsimp only
  rw [hsl, Bool.true_and]

end

/-- A slice that falls due in the cycle in which the context's last firing retires is cancelled (R231, R412). -/
theorem State.cancelSlice_slice (hidle : ∀ v ∈ (s.ctx y).caravans, ∀ i, i < 32 → (s.slot (32 * v + i)).running = false) :
    ((s.cancelSlice y).ctx y).slice = some (if s.fallsNow y t.expiry then { t with waits := true } else t) := by
  unfold State.cancelSlice
  dsimp only
  rw [if_neg, State.ctx_modCtx_same]
  · exact (congrArg (Option.map _) hs).trans rfl
  · simp only [List.any_eq_true, List.mem_range, not_exists, not_and]
    exact fun v hv i hi => ne_true_of_eq_false (hidle v hv i hi)

theorem State.restartSlice_slice :
    ((s.restartSlice y).ctx y).slice = some (if t.waits then { t with waits := false, start := s.now } else t) := by
  unfold State.restartSlice
  rw [State.ctx_modCtx_same]
  exact (congrArg (Option.map _) hs).trans rfl

end

theorem State.late_iff : s.late sv = true ↔ sv.deadline ≠ 0 ∧ sv.deadline * Config.cyclesPerMicro < s.now - sv.start := by
  unfold State.late
  rw [Bool.and_eq_true, decide_eq_true_eq, decide_eq_true_eq]

end

/-! ### Retrainings -/

section
variable {s : State} {n at_ : Nat}

theorem State.mem_train : n ∈ (s.train n).training := by
  unfold State.train
  dsimp only
  split
  · next h => exact List.contains_iff_mem.1 h
  · exact List.mem_append_right _ (List.mem_singleton_self _)

theorem hbmRetrainRequest_of_saving (h : s.savesTo n = true) (hn : shas s.retrain n = false) :
    exec (.hbmRetrainRequest n) s = .next { s with retrain := sset s.retrain n s.now } :=
  congrArg Host.Outcome.next ((if_pos h).trans (if_neg (by rw [hn]; decide)))

theorem hbmRetrainRequest_of_free (h : s.savesTo n = false) : exec (.hbmRetrainRequest n) s = .next (s.train n) :=
  congrArg Host.Outcome.next (if_neg (by rw [h]; decide))

theorem hbmRetrainRun_of_deferred (h : sfind s.retrain n = some at_) : exec (.hbmRetrainRun n) s = .next
    (if !s.savesTo n || decide (500 * Config.cyclesPerMicro ≤ s.now - at_) then s.train n else s) := by
  change execHbmRetrainRun n s = _
  unfold execHbmRetrainRun
  rw [h]

end

/-! ### The creation of a context -/

/-- The first `n` entries of a PLB filled. -/
def plbFirst (es : List Word) (n : Nat) : Sparse Word :=
  forRange n (fun i m => let e := es.getD i 0; if plbBad e then m else sput 0 m i e) []

theorem sget_plbFirst (es : List Word) (n j : Nat) :
    sget 0 (plbFirst es n) j = if j < n ∧ plbBad (es.getD j 0) = false then es.getD j 0 else 0 := by
  unfold plbFirst
  induction n with
  | zero => rfl
  | succ n ih =>
    rw [forRange_succ]
    dsimp only at ih ⊢
    by_cases hj : j = n
    · subst hj
      rw [if_neg fun h => Nat.lt_irrefl j h.1] at ih
      by_cases hb : plbBad (es.getD j 0) = true
      · rw [if_pos hb, if_neg fun h => Bool.false_ne_true (h.2.symm.trans hb)]
        exact ih
      · rw [if_neg hb, if_pos ⟨Nat.lt_succ_self j, Bool.eq_false_iff.2 hb⟩]
        exact sget_sput_same ..
    · rw [if_congr (and_congr_left fun _ => show j < n + 1 ↔ j < n by omega) rfl rfl, ← ih]
      split
      · rfl
      · rw [sget_sput, if_neg hj]

/-- The binding of a queue by a record, which is none where HBIND would refuse it (R209). -/
def recordAttr (bs : List Byte) : QAttr :=
  match bindRecord bs with
  | .ok r => r
  | .error _ => .unbound

/-- The first `n` queues bound. -/
def bindFirst (rs : List (List Byte)) (n : Nat) : Sparse QAttr :=
  forRange n (fun q m => match bindRecord (rs.getD q []) with
    | .ok r => sset m q r
    | .error _ => m) []

theorem sget_bindFirst (rs : List (List Byte)) (n j : Nat) :
    sget .unbound (bindFirst rs n) j = if j < n then recordAttr (rs.getD j []) else .unbound := by
  unfold bindFirst
  induction n with
  | zero => rfl
  | succ n ih =>
    rw [forRange_succ]
    by_cases hj : j = n
    · subst hj
      rw [if_neg (Nat.lt_irrefl j)] at ih
      rw [if_pos (Nat.lt_succ_self j), recordAttr]
      cases bindRecord (rs.getD j []) with
      | ok r => exact sget_sset_same ..
      | error e => exact ih
    · rw [if_congr (show j < n + 1 ↔ j < n by omega) rfl rfl, ← ih]
      cases bindRecord (rs.getD n []) with
      | ok r => exact sget_sset_other _ _ _ hj
      | error e => rfl

section
variable {s : State} {q : CtxSpec}

theorem State.canCreate_iff : s.canCreate q = true ↔ s.boot.stage = 3 ∧ (s.ctx q.ctx).live = false ∧ q.caravans ≠ [] ∧ q.caravans.Nodup ∧
    ∀ v ∈ q.caravans, (s.car v).ctx = none := by
  unfold State.canCreate
  simp [and_assoc]

/-- A core of a new context (R170, R209, R395). -/
def newCore (q : CtxSpec) (d : Core) : Core :=
  { d with ctx := some q.ctx, mgr := q.mgr, test := q.test, plb := firstPlb q.plb, qattr := firstBinds q.binds }

/-- A caravan of a new context. -/
def newCar (q : CtxSpec) (d : Caravan) : Caravan := { d with ctx := some q.ctx }

/-- A new context, in place of what was there (R223, R254, R394). -/
def newCtx (q : CtxSpec) (old : Ctx) : Ctx :=
  { Ctx.none with live := true, resident := true, caravans := q.caravans, counter := old.counter
                  sevd := if sevdOk q.sevd then q.sevd else 0, sevh := wordOfNat (va q.sevh) }

/-- The package with a context more. -/
def State.created (s : State) (q : CtxSpec) : State :=
  (q.caravans.foldl (fun s v => s.modCar v (newCar q))
    ((coresOf q.caravans).foldl (fun s k => s.modCore k (newCore q)) (s.vacate q.caravans))).modCtx q.ctx (newCtx q)

theorem contextCreate_of_free (h : s.canCreate q = true) : exec (.contextCreate q) s = .next (s.created q) :=
  congrArg Host.Outcome.next (if_neg (by rw [h]; decide))

theorem contextCreate_of_refused (h : s.canCreate q = false) : exec (.contextCreate q) s = .next s :=
  congrArg Host.Outcome.next (if_pos (by rw [h]; decide))

theorem State.created_sameCtxs : s.SameCtxs (q.caravans.foldl (fun s v => s.modCar v (newCar q))
    ((coresOf q.caravans).foldl (fun s k => s.modCore k (newCore q)) (s.vacate q.caravans))) :=
  (State.vacate_sameCtxs.modCores (coresOf q.caravans) id fun _ => newCore q).modCars q.caravans id fun _ => newCar q

theorem State.created_ctx_same : (s.created q).ctx q.ctx = newCtx q (s.ctx q.ctx) :=
  (State.ctx_modCtx_same ..).trans (congrArg (newCtx q) (State.ctx_of_ctxs State.created_sameCtxs.1 q.ctx))

theorem State.created_ctx_other {y : Nat} (hy : y ≠ q.ctx) : (s.created q).ctx y = s.ctx y :=
  (sget_sset_other _ _ _ hy).trans (State.ctx_of_ctxs State.created_sameCtxs.1 y)

section
variable {v i : Nat} (hv : v ∈ q.caravans)
include hv

theorem State.created_car : (s.created q).car v = newCar q Caravan.reset := by
  refine (State.car_modCars (f := newCar q) (fun _ => rfl) hv).trans (congrArg (newCar q) ?_)
  exact (State.car_modCores (f := fun _ => newCore q)).trans (State.vacate_car hv)

theorem State.created_slot (hi : i < 32) : ((s.created q).slot (32 * v + i)).run = .idle := by
  obtain ⟨d, hd⟩ := State.vacate_slot (s := s) (mem_slotsOf hv hi)
  refine (congrArg Slot.run ((State.slot_modCars (f := fun _ => newCar q)).trans
    ((State.slot_modCores (f := fun _ => newCore q)).trans hd))).trans rfl

theorem State.created_core (hi : i < 8) : ∃ d, (s.created q).core (8 * v + i) = newCore q (Core.vacate d) := by
  obtain ⟨d, hd⟩ := State.vacate_core (s := s) (mem_coresOf hv hi)
  exact ⟨d, (State.core_modCars (f := fun _ => newCar q)).trans
    ((State.core_modCores (f := newCore q) (fun _ => rfl) (mem_coresOf hv hi)).trans (congrArg (newCore q) hd))⟩

end
end

/-- Settles O49: CTX.SAVE and CTX.REST, what an installed image leaves, time slices, retrainings, and the creation of a context. -/
theorem contexts : Obligations.Contexts := by
  intro s rd rs1 rs2 core x p a c fin
  refine ⟨fun hu hm => ⟨?refused, ?save, ctxRest_of_bad_index hu hm, fun hx => ⟨?failed, ?misaligned, fun st t => ctxRest_of_status hu hm hx⟩⟩,
    fun n => ?install, fun y t hs => ?slice, fun n => ?retrain, fun q => ?create⟩
  case refused => exact ctxSave_of_refused hu hm
  case failed => exact fun h => ctxRest_of_status hu hm hx (State.restoreImage_of_failed h)
  case misaligned => exact fun h ha => ctxRest_of_status hu hm hx (State.restoreImage_of_misaligned h ha)
  case save =>
    intro hx hr hme ha hmid
    refine ⟨fun hn => ?begins, fun sv hs h => ?waits, fun sv v hs hsl he hp hc => ?completes⟩
    case begins =>
      intro sv t u hc
      have hsv : s.savingOf x p = sv := congrArg (Option.getD · _) hn
      exact ⟨ctxSave_of_begun hu hm hx hr hme ha hmid (by rw [hsv]) hn hsv hc, State.stopCtx_ctx sv⟩
    case waits =>
      cases hsl : sv.slice with
      | true => exact ctxSave_of_slice hu hm hx hr hme ha ((congrArg Saving.slice (State.savingOf_of_some hs)).trans hsl)
      | false => exact ctxSave_of_waiting hu hm hx hr hme ha hmid ((congrArg Saving.slice (State.savingOf_of_some hs)).trans hsl) hs h
    case completes =>
      exact ⟨ctxSave_of_complete hu hm hx hr hme ha hmid ((congrArg Saving.slice (State.savingOf_of_some hs)).trans hsl) hs he hp hc,
        State.completeSave_ctx hc⟩
  case install =>
    obtain ⟨⟨now, hctx⟩, hsnaps⟩ := State.install_ctx (s := s) (n := n)
    dsimp only
    rw [hctx, hsnaps]
    exact ⟨rfl, rfl, rfl, fun y hy => of_decide_eq_true (List.mem_filter.1 hy).2⟩
  case slice =>
    intro due clock past expires
    refine ⟨fun hn h => ?early, fun hidle => ?cancel, State.restartSlice_slice hs, fun hn hr hw hp hm ha => ?expired,
      fun sv hsv hsl => ⟨tsliceExpiry_of_saving hs hsv hsl, fun hd hlate => ?late, fun h => ?intime⟩⟩
    case early =>
      refine tsliceExpiry_of_early hs hn (Bool.eq_false_iff.2 fun hover => ?_)
      obtain ⟨hw, hpast⟩ := State.sliceOver_iff.1 hover
      exact h.elim (fun h => absurd h (by rw [hw]; decide)) fun h => h hpast
    case cancel => exact (State.cancelSlice_slice hs hidle).trans (congrArg some (if_congr State.fallsNow_iff rfl rfl))
    case expired => exact tsliceExpiry_of_over hs hn hr (State.sliceOver_iff.2 ⟨hw, hp⟩) hm ha
    case late => rw [saveDeadlineExpiry_of_saving hs hsv hsl, if_pos (State.late_iff.2 ⟨hd, hlate⟩)]
    case intime => rw [saveDeadlineExpiry_of_saving hs hsv hsl, if_neg (fun hl => by have := State.late_iff.1 hl; omega)]
  case retrain =>
    refine ⟨hbmRetrainRequest_of_saving, hbmRetrainRequest_of_free, State.mem_train, sfind_sdel_same _ _, fun t ht h => ?_, fun t ht h hlt => ?_⟩
    · rw [hbmRetrainRun_of_deferred ht, if_pos (by simpa using h)]
    · rw [hbmRetrainRun_of_deferred ht, if_neg (by simp [h]; omega)]
  case create =>
    intro free
    refine ⟨fun h => contextCreate_of_refused (Bool.eq_false_iff.2 fun hc => h (State.canCreate_iff.1 hc)), fun h =>
      ⟨_, contextCreate_of_free (State.canCreate_iff.2 h), ?_⟩⟩
    rw [State.created_ctx_same]
    refine ⟨rfl, rfl, rfl, rfl, fun y => State.created_ctx_other, fun v hv => ?_⟩
    rw [State.created_car hv]
    refine ⟨rfl, rfl, fun i => State.created_slot hv, fun i hi => ?_⟩
    obtain ⟨d, hd⟩ := State.created_core (s := s) hv hi
    dsimp only
    rw [hd]
    exact ⟨rfl, rfl, rfl, rfl, sget_plbFirst q.plb 64, fun j => (sget_bindFirst q.binds 8 j).trans rfl⟩

end Sys2Proof.Machine
end
